-- ==== Sys2Proof/Word.lean ====
section
/-! DEFINITION. The plainest types: bytes, words of the register files, and the sparse maps in which the
state holds register files, memories and tables. -/
namespace Sys2Proof

abbrev Byte := BitVec 8
abbrev Word32 := BitVec 32
abbrev Word64 := BitVec 64

/-- A sparse map: pairs of key and value, keys strictly rising, no pair holding the map's default. -/
abbrev Map (α : Type) := List (Nat × α)

/-- One bit of a vector, by number; a number at or beyond the width reads false. -/
abbrev bit {n : Nat} (x : BitVec n) (i : Nat) : Bool := x.getLsbD i

/-- The 64-bit sign extension of a 32-bit value. -/
abbrev sext64 (x : Word32) : Word64 := x.signExtend 64

/-- The low 32 bits. -/
abbrev lo32 (x : Word64) : Word32 := x.setWidth 32

/-- The high 32 bits. -/
abbrev hi32 (x : Word64) : Word32 := (x >>> 32).setWidth 32

/-- A 64-bit value from its halves. -/
abbrev pair64 (hi lo : Word32) : Word64 := hi ++ lo

end Sys2Proof
end

