-- ==== Sys2Proof/Machine/Maps.lean ====
section
/-! DEFINITION. Sparse maps, lane lists and the byte operations on lists of memory cells. A map lists its
keys in rising order and no value equal to its default, so that equal contents are equal data. -/
namespace Sys2Proof.Machine

/-- The value at key `k`; `d` where nothing is listed. -/
def mget {α : Type} (d : α) : Map α → Nat → α
  | [], _ => d
  | (j, v) :: r, k => if j = k then v else mget d r k

/-- Insert before the first larger key. -/
def mins {α : Type} (k : Nat) (v : α) : Map α → Map α
  | [] => [(k, v)]
  | (j, w) :: r => if k < j then (k, v) :: (j, w) :: r else (j, w) :: mins k v r

/-- The map without key `k`. -/
def mdel {α : Type} (m : Map α) (k : Nat) : Map α := m.filter fun p => p.1 != k

/-- Set key `k` to `v`; a default value removes the entry. -/
def mset {α : Type} [DecidableEq α] (d : α) (m : Map α) (k : Nat) (v : α) : Map α :=
  if v = d then mdel m k else mins k v (mdel m k)

/-- Keys strictly rising. -/
def keysRise {α : Type} : Map α → Bool
  | [] => true
  | [_] => true
  | (j, _) :: (k, w) :: r => decide (j < k) && keysRise ((k, w) :: r)

/-- The canonical form of a map: keys strictly rising, no default listed. -/
def Map.wf {α : Type} [DecidableEq α] (d : α) (m : Map α) : Bool :=
  keysRise m && m.all fun p => decide (p.2 ≠ d)

/-- The keys in use. -/
def mkeys {α : Type} (m : Map α) : List Nat := m.map Prod.fst

/-- What a byte of memory that nothing has written reads as (log entry 8). -/
def unlistedByte : Byte := 0

/-- One byte of a memory. -/
def byteAt (m : List Host.Cell) (a : Nat) : Byte := mget unlistedByte m a

/-- Write one byte. -/
def setByte (m : List Host.Cell) (a : Nat) (b : Byte) : List Host.Cell := mset unlistedByte m a b

/-- The canonical form of a memory (R42 leaves unwritten memory open; log entry 8). -/
def Memory.wf (m : List Host.Cell) : Bool := Map.wf unlistedByte m

/-- `n` bytes at `a`, little-endian (R174). -/
def leRead (m : List Host.Cell) (a : Nat) : Nat → Nat
  | 0 => 0
  | n + 1 => (byteAt m a).toNat + 256 * leRead m (a + 1) n

/-- Write the low `n` bytes of `v` at `a`, little-endian (R175). -/
def leWrite (m : List Host.Cell) (a : Nat) : Nat → Nat → List Host.Cell
  | 0, _ => m
  | n + 1, v => leWrite (setByte m a (BitVec.ofNat 8 v)) (a + 1) n (v / 256)

/-- Write the bytes of `v` that `keep` selects by offset. -/
def leMerge (m : List Host.Cell) (a : Nat) (keep : Nat → Bool) : Nat → Nat → Nat → List Host.Cell
  | 0, _, _ => m
  | n + 1, i, v =>
    let m' := if keep i then setByte m (a + i) (BitVec.ofNat 8 (v / 256 ^ i)) else m
    leMerge m' a keep n (i + 1) v

/-- The lanes of a group, lowest first. -/
def lanes : List Nat := List.range 32

/-- The lanes of a mask, lowest first. -/
def lanesOf (m : BitVec 32) : List Nat := lanes.filter fun l => bit m l

/-- The mask of a list of lanes. -/
def maskOf (ls : List Nat) : BitVec 32 := ls.foldl (fun m l => m ||| ((1 : BitVec 32) <<< l)) 0

/-- The lowest lane of a mask, 0 when there is none. -/
def lowLane (m : BitVec 32) : Nat := (lanesOf m).headD 0

/-- Number of one bits. -/
def popc {n : Nat} (x : BitVec n) : Nat := ((List.range n).filter fun i => bit x i).length

/-- A vector whose bits are a predicate of their number. -/
def ofBits (n : Nat) (f : Nat → Bool) : BitVec n :=
  BitVec.ofNat n ((List.range n).foldl (fun acc i => if f i then acc + 2 ^ i else acc) 0)

/-- Bits hi:lo of a 64-bit word as a number. -/
def field (x : Word64) (hi lo : Nat) : Nat := (x.toNat >>> lo) % 2 ^ (hi + 1 - lo)


/-- Replace the elements that satisfy `p`. -/
def updWhere {α : Type} (l : List α) (p : α → Bool) (f : α → α) : List α := l.map fun x => if p x then f x else x

end Sys2Proof.Machine
end

