-- ==== Sys2Proof/Machine/Float.lean ====
section
/-! DEFINITION. Number formats and the arithmetic on them (R140-R169): every finite value is exact, as a
natural number of 2^-149ths with a sign, and one function rounds. -/
namespace Sys2Proof.Machine

/-- The six float formats (R140). -/
inductive Fmt where
  | fp32 | fp16 | bf16 | f8a | f8b | f4
  deriving DecidableEq, Repr

/-- Exponent bits (R140). -/
def Fmt.eb : Fmt → Nat
  | .fp32 => 8 | .fp16 => 5 | .bf16 => 8 | .f8a => 4 | .f8b => 5 | .f4 => 2

/-- Mantissa bits (R140). -/
def Fmt.mb : Fmt → Nat
  | .fp32 => 23 | .fp16 => 10 | .bf16 => 7 | .f8a => 3 | .f8b => 2 | .f4 => 1

/-- Width in bits. -/
def Fmt.width (f : Fmt) : Nat := f.eb + f.mb + 1

/-- Exponent bias (R140). -/
def Fmt.bias : Fmt → Nat
  | .fp32 => 127 | .fp16 => 15 | .bf16 => 127 | .f8a => 7 | .f8b => 15 | .f4 => 1

/-- The largest finite magnitude (R140). -/
def Fmt.maxFin : Fmt → Nat
  | .fp32 => 0x7F7FFFFF | .fp16 => 0x7BFF | .bf16 => 0x7F7F | .f8a => 0x7E | .f8b => 0x7B | .f4 => 0x7

/-- Formats with infinities (R141). -/
def Fmt.hasInf : Fmt → Bool
  | .f8a | .f4 => false
  | _ => true

/-- The magnitude of infinity, in a format that has one. -/
def Fmt.infMag (f : Fmt) : Nat := f.maxFin + 1

/-- The canonical NaN (R140); F4 has none and gives +0 (R147). -/
def Fmt.canon : Fmt → Nat
  | .fp32 => 0x7FC00000 | .fp16 => 0x7E00 | .bf16 => 0x7FC0 | .f8a => 0x7F | .f8b => 0x7E | .f4 => 0

/-- The magnitude bits of an encoding. -/
def Fmt.mag (f : Fmt) (x : Nat) : Nat := x % 2 ^ (f.width - 1)

/-- The sign of an encoding. -/
def Fmt.neg (f : Fmt) (x : Nat) : Bool := x.testBit (f.width - 1)

/-- An encoding from sign and magnitude. -/
def Fmt.put (f : Fmt) (neg : Bool) (m : Nat) : Nat := m + if neg then 2 ^ (f.width - 1) else 0

/-- NaNs (R141). -/
def Fmt.isNan (f : Fmt) (x : Nat) : Bool :=
  match f with
  | .f4 => false
  | .f8a => f.mag x == 0x7F
  | _ => decide (f.mag x > f.infMag)

/-- Infinities (R141). -/
def Fmt.isInf (f : Fmt) (x : Nat) : Bool := f.hasInf && f.mag x == f.infMag

/-- Signalling NaNs (R143). -/
def Fmt.isSnan (f : Fmt) (x : Nat) : Bool :=
  f.isNan x && f.hasInf && !x.testBit (f.mb - 1)

/-- Subnormals (R141). -/
def Fmt.isSub (f : Fmt) (x : Nat) : Bool := decide (0 < f.mag x ∧ f.mag x < 2 ^ f.mb)

/-- Quietening sets the top mantissa bit (R143). -/
def Fmt.quiet (f : Fmt) (x : Nat) : Nat := if f.isSnan x then x + 2 ^ (f.mb - 1) else x

/-- The exact magnitude in 2^-149ths of a finite encoding (R141). -/
def Fmt.exact (f : Fmt) (x : Nat) : Nat :=
  let e := f.mag x / 2 ^ f.mb
  let m := f.mag x % 2 ^ f.mb
  let m' := if e = 0 then m else m + 2 ^ f.mb
  m' * 2 ^ ((if e = 0 then 1 else e) + 149 - f.bias - f.mb)

/-- The exact signed value in 2^-149ths. -/
def Fmt.signed (f : Fmt) (x : Nat) : Int :=
  if f.neg x then - (f.exact x : Int) else (f.exact x : Int)

/-- Sticky flags (R49). -/
abbrev Flags := BitVec 5
def flNV : Flags := 1
def flDZ : Flags := 2
def flOF : Flags := 4
def flUF : Flags := 8
def flNX : Flags := 16

/-- A result: its encoding and its flags. -/
abbrev FRes := Nat × Flags

/-- Rounding modes (R64): 0 rne, 1 rtz, 2 rup, 3 rdn, 4 rna. Whether the greater magnitude is taken, from
the remainder r of a quotient k by d. -/
def roundsUp (mode : Nat) (neg : Bool) (k r d : Nat) : Bool :=
  if r = 0 then false
  else match mode with
    | 0 => decide (2 * r > d) || (decide (2 * r = d) && k % 2 == 1)
    | 2 => !neg
    | 3 => neg
    | 4 => decide (2 * r ≥ d)
    | _ => false

/-- n / d / 2^u rounded to an integer, and whether that is inexact. -/
def roundQ (mode : Nat) (neg : Bool) (n d : Nat) (u : Int) : Nat × Bool :=
  let n' := if u < 0 then n * 2 ^ u.natAbs else n
  let d' := if u < 0 then d else d * 2 ^ u.natAbs
  let k := n' / d'
  let r := n' % d'
  (if roundsUp mode neg k r d' then k + 1 else k, decide (r ≠ 0))

/-- The exponent e with 2^e ≤ n/d < 2^(e+1), for n and d not zero. -/
def expOf (n d : Nat) : Int :=
  let e : Int := (Nat.log2 n : Int) - (Nat.log2 d : Int)
  let ge : Bool := if e < 0 then decide (n * 2 ^ e.natAbs ≥ d) else decide (n ≥ d * 2 ^ e.natAbs)
  if ge then e else e - 1

/-- What an overflow gives (R146, R147): `sat` is GMODE.SAT where the form heeds it. -/
def overflow (f : Fmt) (mode : Nat) (sat neg : Bool) : FRes :=
  let toInf : Bool := f.hasInf && !sat &&
    (match mode with | 1 => false | 2 => !neg | 3 => neg | _ => true)
  (f.put neg (if toInf then f.infMag else f.maxFin), flOF ||| flNX)

/-- Round the magnitude n/d with a sign into a format (R145-R149). -/
def roundTo (f : Fmt) (mode : Nat) (sat ftz neg : Bool) (n d : Nat) : FRes :=
  if n = 0 then (f.put neg 0, 0)
  else
    let e := expOf n d
    let emin : Int := 1 - (f.bias : Int)
    let free := roundQ mode neg n d (e - f.mb)
    -- the value rounded with an unbounded exponent is free.1 * 2^(e - mb)
    let tiny : Bool := decide (e < emin) && !(decide (e = emin - 1) && decide (free.1 = 2 ^ (f.mb + 1)))
    let eb := if e < emin then emin else e
    let q := roundQ mode neg n d (eb - f.mb)
    let mag : Nat := ((eb + f.bias - 1).toNat) * 2 ^ f.mb + q.1
    if mag > f.maxFin then overflow f mode sat neg
    else if ftz && decide (mag < 2 ^ f.mb) then (f.put neg 0, flUF ||| flNX)
    else (f.put neg mag, (if q.2 then flNX else 0) ||| (if tiny && q.2 then flUF else 0))

/-- A float context: format, rounding mode, SAT where it acts, FTZ. -/
structure FCtx where
  f : Fmt
  mode : Nat
  sat : Bool
  ftz : Bool
  deriving DecidableEq, Repr

/-- Round a signed integer of 2^-k-ths; an exact zero takes the sign given (R145). -/
def FCtx.roundZ (c : FCtx) (zneg : Bool) (v : Int) (k : Nat) : FRes :=
  if v = 0 then (c.f.put zneg 0, 0) else roundTo c.f c.mode c.sat c.ftz (decide (v < 0)) v.natAbs (2 ^ k)

/-- FTZ on an input (R149). -/
def FCtx.input (c : FCtx) (x : Nat) : Nat := if c.ftz && c.f.isSub x then c.f.put (c.f.neg x) 0 else x

/-- The NaN rule (R151) over the inputs in the order a, b, d; none when no input is a NaN. -/
def nanRule (f : Fmt) (xs : List Nat) : Option FRes :=
  match xs.filter f.isNan with
  | [] => none
  | x :: _ => some (f.quiet x, if xs.any f.isSnan then flNV else 0)

/-- The invalid result (R151). -/
def invalid (f : Fmt) : FRes := (f.canon, flNV)

/-- The sign of an exact zero sum of operands with these signs (R145). -/
def zeroSign (mode : Nat) (na nb : Bool) : Bool := if na = nb then na else mode == 3

/-- a + b (R154). -/
def FCtx.add (c : FCtx) (a0 b0 : Nat) : FRes :=
  let a := c.input a0; let b := c.input b0
  match nanRule c.f [a, b] with
  | some r => r
  | none =>
    if c.f.isInf a then
      if c.f.isInf b && c.f.neg a != c.f.neg b then invalid c.f else (a, 0)
    else if c.f.isInf b then (b, 0)
    else c.roundZ (zeroSign c.mode (c.f.neg a) (c.f.neg b)) (c.f.signed a + c.f.signed b) 149

/-- The encoding with its sign inverted. -/
def Fmt.flip (f : Fmt) (x : Nat) : Nat := f.put (!f.neg x) (f.mag x)

/-- a - b (R154): NaNs keep their own sign. -/
def FCtx.sub (c : FCtx) (a b : Nat) : FRes := c.add a (if c.f.isNan b then b else c.f.flip b)

/-- a × b (R154). -/
def FCtx.mul (c : FCtx) (a0 b0 : Nat) : FRes :=
  let a := c.input a0; let b := c.input b0
  let n := c.f.neg a != c.f.neg b
  match nanRule c.f [a, b] with
  | some r => r
  | none =>
    if c.f.isInf a || c.f.isInf b then
      if c.f.mag a = 0 ∨ c.f.mag b = 0 then invalid c.f else (c.f.put n c.f.infMag, 0)
    else c.roundZ n (c.f.signed a * c.f.signed b) 298

/-- a / b (R154). -/
def FCtx.div (c : FCtx) (a0 b0 : Nat) : FRes :=
  let a := c.input a0; let b := c.input b0
  let n := c.f.neg a != c.f.neg b
  match nanRule c.f [a, b] with
  | some r => r
  | none =>
    if c.f.isInf a then if c.f.isInf b then invalid c.f else (c.f.put n c.f.infMag, 0)
    else if c.f.isInf b then (c.f.put n 0, 0)
    else if c.f.mag b = 0 then
      if c.f.mag a = 0 then invalid c.f else (c.f.put n c.f.infMag, flDZ)
    else roundTo c.f c.mode c.sat c.ftz n (c.f.exact a) (c.f.exact b)

/-- FMIN and FMAX (R155). -/
def FCtx.minmax (c : FCtx) (max : Bool) (a0 b0 : Nat) : FRes :=
  let a := c.input a0; let b := c.input b0
  let fl : Flags := if c.f.isSnan a || c.f.isSnan b then flNV else 0
  if c.f.isNan a then (if c.f.isNan b then c.f.quiet a else b, fl)
  else if c.f.isNan b then (a, fl)
  else
    let key (x : Nat) : Int := if c.f.neg x then -1 - (c.f.mag x : Int) else (c.f.mag x : Int)
    let lt := decide (key a < key b)
    (if max then (if lt then b else a) else (if lt then a else b), 0)

/-- Clamp an exponent: beyond these bounds every result of R157 rounds alike. -/
def clampExp (b : Int) : Int := if b > 2000 then 2000 else if b < -2000 then -2000 else b

/-- FSCALE (R157): a × 2^b. -/
def FCtx.scale (c : FCtx) (a0 : Nat) (b : Int) : FRes :=
  let a := c.input a0
  match nanRule c.f [a] with
  | some r => r
  | none =>
    if c.f.isInf a || c.f.mag a == 0 then (a, 0)
    else
      let e := clampExp b
      let n := c.f.exact a * (if e < 0 then 1 else 2 ^ e.natAbs)
      let d := 2 ^ 149 * (if e < 0 then 2 ^ e.natAbs else 1)
      roundTo c.f c.mode c.sat c.ftz (c.f.neg a) n d

/-- a × b + d (R159), with `np` and `nd` inverting the product's and the addend's sign. -/
def FCtx.fma (c : FCtx) (np nd : Bool) (a0 b0 d0 : Nat) : FRes :=
  let a := c.input a0; let b := c.input b0; let d := c.input d0
  let bad := (c.f.isInf a && c.f.mag b == 0) || (c.f.isInf b && c.f.mag a == 0)
  let pn := (c.f.neg a != c.f.neg b) != np
  let dn := c.f.neg d != nd
  match nanRule c.f [a, b, d] with
  | some r => (r.1, r.2 ||| (if bad then flNV else 0))
  | none =>
    if bad then invalid c.f
    else if c.f.isInf a || c.f.isInf b then
      if c.f.isInf d && pn != dn then invalid c.f else (c.f.put pn c.f.infMag, 0)
    else if c.f.isInf d then (c.f.put dn c.f.infMag, 0)
    else
      let p : Int := c.f.exact a * c.f.exact b
      let q : Int := c.f.exact d * 2 ^ 149
      c.roundZ (zeroSign c.mode pn dn) ((if pn then -p else p) + (if dn then -q else q)) 298

/-- The integer square root, bit by bit from bit i - 1. -/
def isqrtFrom (n : Nat) : Nat → Nat → Nat
  | 0, r => r
  | i + 1, r => isqrtFrom n i (if (r + 2 ^ i) * (r + 2 ^ i) ≤ n then r + 2 ^ i else r)

/-- The integer square root. -/
def isqrt (n : Nat) : Nat := isqrtFrom n (Nat.log2 n / 2 + 1) 0

/-- Round √(p/q): between two neighbours of a grid finer than every rounding boundary, the midpoint stands
for the value. -/
def FCtx.roundSqrt (c : FCtx) (p q : Nat) : FRes :=
  let n := p * q * 4 ^ 500
  let k := isqrt n
  if k * k = n then roundTo c.f c.mode c.sat c.ftz false k (q * 2 ^ 500)
  else roundTo c.f c.mode c.sat c.ftz false (2 * k + 1) (q * 2 ^ 501)

/-- Working precision of the transcendental forms in bits (log entry 11). -/
def prec : Nat := 420

/-- Round the value of a fixed-point approximation from below, which is never exact. -/
def FCtx.roundFix (c : FCtx) (neg : Bool) (k : Nat) (e : Int) : FRes :=
  let n := 2 * k + 1
  let p : Int := e - (prec : Int) - 1
  roundTo c.f c.mode c.sat c.ftz neg (if p < 0 then n else n * 2 ^ p.natAbs) (if p < 0 then 2 ^ p.natAbs else 1)

/-- Σ 2^prec / (k 2^k), the natural logarithm of 2. -/
def ln2Fix : Nat := (List.range 440).foldl (fun acc k => acc + 2 ^ prec / ((k + 1) * 2 ^ (k + 1))) 0

/-- arctan(1/x) in fixed point. -/
def atanInv (x : Nat) : Int :=
  ((List.range 320).foldl (fun (acc : Int × Nat) k =>
    let t : Int := (acc.2 / (2 * k + 1) : Nat)
    (if k % 2 = 0 then acc.1 + t else acc.1 - t, acc.2 / (x * x))) (0, 2 ^ prec / x)).1

/-- π in fixed point, by Machin's formula. -/
def piFix : Nat := (4 * (4 * atanInv 5 - atanInv 239)).toNat

/-- e^y for fixed-point y below 1. -/
def expFix (y : Nat) : Nat :=
  ((List.range 110).foldl (fun (acc : Nat × Nat) k =>
    (acc.1 + acc.2, acc.2 * y / 2 ^ prec / (k + 1))) (0, 2 ^ prec)).1

/-- sin y or cos y for fixed-point y up to 2. -/
def sincosFix (cosine : Bool) (y : Nat) : Nat :=
  let y2 := y * y / 2 ^ prec
  let start := if cosine then 2 ^ prec else y
  (((List.range 60).foldl (fun (acc : Int × Nat) k =>
    let i := if cosine then 2 * k + 1 else 2 * k + 2
    (if k % 2 = 0 then acc.1 + (acc.2 : Int) else acc.1 - (acc.2 : Int),
     acc.2 * y2 / 2 ^ prec / (i * (i + 1)))) (0, start)).1).toNat

/-- FEXP2 of a finite nonzero value v / 2^149 (R158). -/
def FCtx.exp2 (c : FCtx) (v : Int) : FRes :=
  let fl : Int := clampExp (v / 2 ^ 149)
  let fr : Nat := (v % 2 ^ 149).toNat
  if fr = 0 ∨ fl ≥ 2000 ∨ fl ≤ -2000 then
    roundTo c.f c.mode c.sat c.ftz false (if fl < 0 then 1 else 2 ^ fl.natAbs) (if fl < 0 then 2 ^ fl.natAbs else 1)
  else c.roundFix false (expFix (fr * 2 ^ (prec - 149) * ln2Fix / 2 ^ prec)) fl

/-- The fraction bits of log₂ of a fixed-point m in [1, 2). -/
def log2Bits : Nat → Nat → Nat → Nat
  | 0, _, acc => acc
  | n + 1, m, acc =>
    let m2 := m * m / 2 ^ prec
    if m2 ≥ 2 ^ (prec + 1) then log2Bits n (m2 / 2) (2 * acc + 1) else log2Bits n m2 (2 * acc)

/-- FLOG2 of a positive finite value n / 2^149 (R158). -/
def FCtx.log2 (c : FCtx) (n : Nat) : FRes :=
  let e := Nat.log2 n
  let ei : Int := (e : Int) - 149
  if n = 2 ^ e then c.roundZ false ei 0
  else
    let m := n * 2 ^ prec / 2 ^ e
    let b : Int := log2Bits 200 m 0
    -- the logarithm lies strictly between (ei·2^200 + b) and the next 2^-200th
    c.roundZ false ((ei * 2 ^ 200 + b) * 2 + 1) 201

/-- FSINP and FCOSP of a finite value v / 2^149 (R158): sin(π·x) or cos(π·x). `xneg` is the input's sign. -/
def FCtx.sinPi (c : FCtx) (cosine xneg : Bool) (v : Int) : FRes :=
  -- cos(πx) = sin(π(x + 1/2)); reduce to [0, 2)
  let one : Int := 2 ^ 149
  let w : Nat := ((v + if cosine then one / 2 else 0) % (2 * one)).toNat
  let h : Nat := 2 ^ 148
  let neg := decide (w ≥ 4 * h / 2)
  let u := if neg then w - 2 * h else w       -- in [0, 1)
  let t := if u > h then 2 * h - u else u     -- in [0, 1/2]
  if t = 0 then (c.f.put (if cosine then false else xneg) 0, 0)
  else if t = h then c.roundZ false (if neg then -1 else 1) 0
  else
    let y := t * 2 ^ (prec - 149) * piFix / 2 ^ prec
    c.roundFix neg (sincosFix false y) 0

/-- The one-operand forms of major 0x13 (R158), by minor. -/
def FCtx.unary (c : FCtx) (op a0 : Nat) : FRes :=
  let a := c.input a0
  let zero := c.f.mag a == 0
  let inf := c.f.isInf a
  let neg := c.f.neg a
  match nanRule c.f [a] with
  | some r => r
  | none =>
    match op with
    | 0 => if zero then (c.f.put neg c.f.infMag, flDZ) else if inf then (c.f.put neg 0, 0)
           else roundTo c.f c.mode c.sat c.ftz neg (2 ^ 149) (c.f.exact a)
    | 1 => if zero then (c.f.put neg c.f.infMag, flDZ) else if neg then invalid c.f
           else if inf then (0, 0) else c.roundSqrt (2 ^ 149) (c.f.exact a)
    | 2 => if zero then (a, 0) else if neg then invalid c.f
           else if inf then (a, 0) else c.roundSqrt (c.f.exact a) (2 ^ 149)
    | 3 => if zero then c.roundZ false 1 0
           else if inf then (if neg then 0 else a, 0) else c.exp2 (c.f.signed a)
    | 4 => if zero then (c.f.put true c.f.infMag, flDZ) else if neg then invalid c.f
           else if inf then (a, 0) else c.log2 (c.f.exact a)
    | 5 => if inf then invalid c.f else if zero then (a, 0) else c.sinPi false neg (c.f.signed a)
    | _ => if inf then invalid c.f else if zero then c.roundZ false 1 0 else c.sinPi true neg (c.f.signed a)

/-- FCVT (R165) from format g into the context's format. -/
def FCtx.cvt (c : FCtx) (g : Fmt) (x0 : Nat) : FRes :=
  let x := if c.ftz && g.isSub x0 then g.put (g.neg x0) 0 else x0
  if g.isNan x then
    match c.f with
    | .f4 => (0, flNV)
    | .f8a => (c.f.put (g.neg x) 0x7F, if g.isSnan x then flNV else 0)
    | _ => (c.f.canon, if g.isSnan x then flNV else 0)
  else if g.isInf x then
    if c.f.hasInf then (c.f.put (g.neg x) c.f.infMag, 0)
    else (c.f.put (g.neg x) c.f.maxFin, flOF ||| flNX)
  else roundTo c.f c.mode c.sat c.ftz (g.neg x) (g.exact x) (2 ^ 149)

/-- FRND (R166). -/
def FCtx.rnd (c : FCtx) (a0 : Nat) : FRes :=
  let a := c.input a0
  match nanRule c.f [a] with
  | some r => r
  | none =>
    if c.f.isInf a || c.f.mag a == 0 then (a, 0)
    else
      let k := (roundQ c.mode (c.f.neg a) (c.f.exact a) (2 ^ 149) 0).1
      ((roundTo c.f 1 false false (c.f.neg a) k 1).1, 0)

/-- FCLASS (R167). -/
def fclass (f : Fmt) (x : Nat) : Nat :=
  if f.isNan x then if f.isSnan x then 9 else 8
  else
    let m := if f.isInf x then 0 else if f.mag x = 0 then 3 else if f.isSub x then 2 else 1
    if f.neg x then m else 7 - m

/-- F2I (R168) of a value of format g into the range lo..hi. -/
def f2i (g : Fmt) (mode : Nat) (ftz : Bool) (lo hi : Int) (x0 : Nat) : Int × Flags :=
  let x := if ftz && g.isSub x0 then 0 else x0
  if g.isNan x then (0, flNV)
  else if g.isInf x then (if g.neg x then lo else hi, flNV)
  else
    let q := roundQ mode (g.neg x) (g.exact x) (2 ^ 149) 0
    let v : Int := if g.neg x then - (q.1 : Int) else q.1
    if v < lo then (lo, flNV) else if v > hi then (hi, flNV)
    else (v, if q.2 then flNX else 0)

/-- I2F (R169). -/
def FCtx.ofInt (c : FCtx) (v : Int) : FRes := c.roundZ false v 0

/-- The order of two non-NaN encodings, -0 equal to +0 (R135). -/
def Fmt.cmp (f : Fmt) (a b : Nat) : Ordering :=
  let va : Int := if f.isInf a then (if f.neg a then -(2 ^ 400) else 2 ^ 400) else f.signed a
  let vb : Int := if f.isInf b then (if f.neg b then -(2 ^ 400) else 2 ^ 400) else f.signed b
  compare va vb

/-- A sum of exact products with an FP32 addend, one rounding (R161): pairs of encodings of format g. -/
def FCtx.dot (c : FCtx) (g : Fmt) (ps : List (Nat × Nat)) (d0 : Nat) : FRes :=
  let inp (x : Nat) : Nat := if c.ftz && g.isSub x then g.put (g.neg x) 0 else x
  let qs := ps.map fun p => (inp p.1, inp p.2)
  let d := c.input d0
  let badP (p : Nat × Nat) : Bool := (g.isInf p.1 && g.mag p.2 == 0) || (g.isInf p.2 && g.mag p.1 == 0)
  let infP (p : Nat × Nat) : Bool := g.isInf p.1 || g.isInf p.2
  let nP (p : Nat × Nat) : Bool := g.neg p.1 != g.neg p.2
  let nan := c.f.isNan d || qs.any fun p => g.isNan p.1 || g.isNan p.2
  let good := qs.filter fun p => !(g.isNan p.1 || g.isNan p.2)
  let pos := good.any (fun p => infP p && !badP p && !nP p) || (c.f.isInf d && !c.f.neg d)
  let min := good.any (fun p => infP p && !badP p && nP p) || (c.f.isInf d && c.f.neg d)
  let inv := good.any badP || (pos && min)
  let snan := c.f.isSnan d || qs.any fun p => g.isSnan p.1 || g.isSnan p.2
  if nan || inv then (c.f.canon, if inv || snan then flNV else 0)
  else if pos || min then (c.f.put min c.f.infMag, 0)
  else
    let v := qs.foldl (fun acc p => acc + g.signed p.1 * g.signed p.2) (c.f.signed d * 2 ^ 149)
    let allNeg := c.f.neg d && qs.all nP
    let allPos := !c.f.neg d && qs.all fun p => !nP p
    c.roundZ (if allNeg then true else if allPos then false else c.mode == 3) v 298

end Sys2Proof.Machine
end

