-- ==== Sys2Proof/Config.lean ====
section
/-! DEFINITION. What an implementation fixes, and the free values: constants without a body, of which
nothing can be proved, for what the spec leaves open. -/
namespace Sys2Proof.Config

/-- Cycles of a die's own clock, by its die-table index, that pass in the n-th step of the machine. The spec gives no cycle count
per instruction or event, and no time base that the dies share (R11, R41, R422); log entry 3. -/
opaque cyclesPassed : Nat → Nat → Nat

/-- Whether a link trains, by the n-th open value: the port of a site, or the side link of two sites (R400); log entry 88. -/
opaque linkTrains : Nat → Nat × Nat → Bool

/-- The set, of 1 024, in which an L2 TLB holds the entry of a context, a level and a page (R382); log entry 14. -/
opaque tlbSet : Nat → Nat → Nat → Nat

/-- Which entry of a full set of an L2 TLB, or of a full walk cache, gives way, by the n-th open value (R382); log entry 14. -/
opaque tlbVictim : Nat → Nat

/-- Which line of a full set an M-die's LLC evicts, by the n-th open value: its replacement is not given (R340); log entry 77. -/
opaque llcVictim : Nat → Nat

/-- The channel, of the 12 of an M-die, that holds a sector: not given (R5, R411); log entry 90. -/
opaque memChannel : Nat → Nat

/-- Byte a of the part of memory that the n-th save or spill wrote: its layout is not given (R266, R370); log entry 10. -/
opaque saveByte : Nat → Nat → Byte

/-- The set, of 262 144, in which an M-die's directory holds the entry of a line (R334); log entry 78. -/
opaque directorySet : Nat → Nat

/-- Which of the 16 entries of a full set the directory evicts, by the n-th open value (R334); log entry 78. -/
opaque directoryVictim : Nat → Nat

/-- The level of detail after the clamp of R276 where its bounds are a NaN or in the wrong order, or its sum is a NaN: a function
of λ, LODBIAS, MINLOD and MAXLOD, in 2^-149ths; log entry 44. -/
opaque lodOpen : Nat → Nat → Nat → Nat → Int

/-- What a pass reads at an address of WBUF whose metadata word holds an uncorrectable error (R226, R234); log entry 47. -/
opaque metadataOpen : Nat → Nat → Nat

/-- LANE and SCAL of the n-th open value, for a serialised time-out (R219, R220); log entry 43. -/
opaque timeoutSlot : Nat → Nat × Bool

/-- The bytes of an attestation report's signatures (R407); log entry 9. -/
opaque attestationByte : Nat → Byte

/-- The serial number, IDENT1 (R403). -/
opaque serialNumber : Word64

/-- The ROM revision, IDENT2 bits 31:0 (R403). -/
opaque romRevision : Word32

/-- Words of the system overlay 0xFF00 in slot 60, from offset 0: the window handler of R112. The spill
entry stands at offset 0 and the fill entry at offset 2 (DESIGN CHOICE, log entry 12). -/
def windowHandler : List Word32 :=
  [0x00000007, 0x00000005, 0x00000008, 0x00000005]

end Sys2Proof.Config
end

