-- ==== Sys2Proof/Messages.lean ====
section
/-! DEFINITION. What comes from outside as data: firmware images (R404), atomic operations of the host (R416), and the messages
that Vreldo links carry (R345, R420). -/
namespace Sys2Proof

/-- A firmware image in a flash slot (R404): its header's fields, and what the cryptography says of it. Of a signature stands here the
SHA-384 of the public key under which it verifies over bytes 0-63, 0 if under none; `digest` is the SHA-384 of the body as it stands in
the flash (log entry 9). -/
structure FwImage where
  magic : BitVec 64
  svn : Nat
  len : Nat
  hash : BitVec 384
  edKey : BitVec 384
  mlKey : BitVec 384
  /-- bytes 3 437 to 4 095 are zero -/
  zeros : Bool
  digest : BitVec 384
  deriving DecidableEq, Repr

/-- A PCIe AtomicOp (R416): FetchAdd, Swap, or CAS with its compare value. -/
inductive HostAtomic where
  | fetchAdd | swap | cas (compare : BitVec 64)
  deriving DecidableEq, Repr

/-- What a host read asks for: bytes (R418), or the answer of an AtomicOp of n bytes with its operand (R416). -/
inductive HostAsk where
  | bytes (len : Nat)
  | atomic (n : Nat) (op : HostAtomic) (value : BitVec 64)
  deriving DecidableEq, Repr

/-- What a flit carries (R244, R320, R345, R420). -/
inductive LinkMsg where
  /-- a coherence request of the peer's devices for a sector: RDS 0, RDX 1, UPG 2 -/
  | request (kind sector : Nat)
  /-- WRB of a sector that the peer holds in M -/
  | writeBack (sector : Nat) (data : BitVec 512) (dirty : BitVec 64)
  /-- the switch's filter evicts the entry of a sector -/
  | evict (sector : Nat)
  /-- the answer to a recall, with the data of an M sector -/
  | answer (sector : Nat) (data : Option (BitVec 512)) (dirty : BitVec 64)
  /-- a posted write to local memory -/
  | write (addr : Nat) (bytes : List (BitVec 8))
  /-- a reduction of 4 or 8 bytes of local memory, by operation and type of R180 -/
  | reduce (addr op ty : Nat) (value : BitVec 64)
  /-- the peer joins, or returns after it was lost -/
  | join
  /-- what a request of this package is answered, with data or without, and the rest of management -/
  | other (payload : List (BitVec 8))
  deriving DecidableEq, Repr

/-- A flit's payload: its sender's number and incarnation (R347), and the message. -/
structure Flit where
  peer : Nat
  inc : Nat
  msg : LinkMsg
  deriving DecidableEq, Repr

/-- What this package sends the switch about its own memory (R345). -/
inductive LinkOut where
  | reply (sector : Nat) (data : Option (BitVec 512))
  | recall (sector : Nat) (inval : Bool)
  | error (sector : Nat)
  deriving DecidableEq, Repr

end Sys2Proof
end

