-- ==== Sys2Proof/Syntax.lean ====
section
/-! DEFINITION. The instruction set: one constructor per row of spec/opcode_table.json. The first 201
constructors are the encoded words (R51-R73); the last 90 are the steps of the engines, the command
processors, the host and the dies, which the table lists without an encoding (spec/95): first those that the part
brings forth by itself (but for one without arguments), then those that only come from outside. In an encoded
constructor `e` is the S bit (R51, R53); the other fields stand as the table names them. -/
namespace Sys2Proof

inductive Instr where
  /-- R96. -/
  | nop (e : Bool)
  /-- R97. -/
  | exit (e : Bool)
  /-- R111. -/
  | ret (e : Bool)
  /-- R99. -/
  | yield (e : Bool)
  /-- R101. -/
  | tret (e : Bool) (n : BitVec 1)
  /-- R100. -/
  | brk (e : Bool)
  /-- R113. -/
  | wspill (e : Bool)
  /-- R113. -/
  | wfill (e : Bool)
  /-- R293. -/
  | emret (e : Bool) (n : BitVec 2) (a : BitVec 5)
  /-- R294. -/
  | probe (e : Bool) (n : BitVec 1)
  /-- R102. -/
  | splq (e : Bool) (d : BitVec 5)
  /-- R58. -/
  | mode (e : Bool) (g : BitVec 3) (t : BitVec 4) (r : BitVec 3) (s f : BitVec 1)
  /-- R59. -/
  | rep (c : BitVec 6) (d a b : BitVec 3)
  /-- R103. -/
  | bra (e : Bool) (p : BitVec 3) (c : BitVec 2) (i : BitVec 20)
  /-- R109. -/
  | call (e : Bool) (i : BitVec 25)
  /-- R108. -/
  | callx (e : Bool) (a : BitVec 5)
  /-- R108. -/
  | brx (e : Bool) (a : BitVec 5)
  /-- R108. -/
  | callo (e : Bool) (a : BitVec 5)
  /-- R108. -/
  | jmpo (e : Bool) (a : BitVec 5)
  /-- R40. -/
  | srd (e : Bool) (r : BitVec 5) (n : BitVec 10)
  /-- R40. -/
  | swr (e : Bool) (r : BitVec 5) (n : BitVec 10)
  /-- R100. -/
  | trap (e : Bool) (c : BitVec 10)
  /-- R40. -/
  | vsrd (e : Bool) (r : BitVec 6) (n : BitVec 10)
  /-- R60. -/
  | wait (e : Bool) (l s c t : BitVec 6)
  /-- R122. -/
  | sadd (e : Bool) (d a b : BitVec 5)
  /-- R122. -/
  | ssub (e : Bool) (d a b : BitVec 5)
  /-- R122. -/
  | smul (e : Bool) (d a b : BitVec 5)
  /-- R122. -/
  | smulh (e : Bool) (d a b : BitVec 5)
  /-- R123. -/
  | sdiv (e : Bool) (d a b : BitVec 5)
  /-- R123. -/
  | srem (e : Bool) (d a b : BitVec 5)
  /-- R122. -/
  | sand (e : Bool) (d a b : BitVec 5)
  /-- R122. -/
  | sor (e : Bool) (d a b : BitVec 5)
  /-- R122. -/
  | sxor (e : Bool) (d a b : BitVec 5)
  /-- R122. -/
  | snot (e : Bool) (d a : BitVec 5)
  /-- R122. -/
  | sshl (e : Bool) (d a b : BitVec 5)
  /-- R122. -/
  | sshr (e : Bool) (d a b : BitVec 5)
  /-- R122. -/
  | ssra (e : Bool) (d a b : BitVec 5)
  /-- R122. -/
  | smin (e : Bool) (d a b : BitVec 5)
  /-- R122. -/
  | smax (e : Bool) (d a b : BitVec 5)
  /-- R122. -/
  | sminn (e : Bool) (d a b : BitVec 5)
  /-- R122. -/
  | smaxn (e : Bool) (d a b : BitVec 5)
  /-- R122. -/
  | scmpEq (e : Bool) (d a b : BitVec 5)
  /-- R122. -/
  | scmpNe (e : Bool) (d a b : BitVec 5)
  /-- R122. -/
  | scmpLt (e : Bool) (d a b : BitVec 5)
  /-- R122. -/
  | scmpLe (e : Bool) (d a b : BitVec 5)
  /-- R122. -/
  | scmpLtn (e : Bool) (d a b : BitVec 5)
  /-- R122. -/
  | scmpLen (e : Bool) (d a b : BitVec 5)
  /-- R122. -/
  | smov (e : Bool) (d a : BitVec 5)
  /-- R122. -/
  | spopc (e : Bool) (d a : BitVec 5)
  /-- R122. -/
  | sclz (e : Bool) (d a : BitVec 5)
  /-- R122. -/
  | sbrev (e : Bool) (d a : BitVec 5)
  /-- R70. -/
  | saddi (e : Bool) (d a : BitVec 5) (i : BitVec 15)
  /-- R70. -/
  | sli (e : Bool) (d : BitVec 5) (i : BitVec 15)
  /-- R70. -/
  | slih (e : Bool) (d a : BitVec 5) (i : BitVec 15)
  /-- R127. -/
  | vadd (e : Bool) (d a b : BitVec 6)
  /-- R127. -/
  | vsub (e : Bool) (d a b : BitVec 6)
  /-- R127. -/
  | vmul (e : Bool) (d a b : BitVec 6)
  /-- R127. -/
  | vmulh (e : Bool) (d a b : BitVec 6)
  /-- R127. -/
  | vmad (e : Bool) (d a b : BitVec 6)
  /-- R127. -/
  | vand (e : Bool) (d a b : BitVec 6)
  /-- R127. -/
  | vor (e : Bool) (d a b : BitVec 6)
  /-- R127. -/
  | vxor (e : Bool) (d a b : BitVec 6)
  /-- R127. -/
  | vnot (e : Bool) (d a : BitVec 6)
  /-- R127. -/
  | vshl (e : Bool) (d a b : BitVec 6)
  /-- R127. -/
  | vshr (e : Bool) (d a b : BitVec 6)
  /-- R127. -/
  | vsra (e : Bool) (d a b : BitVec 6)
  /-- R127. -/
  | vmin (e : Bool) (d a b : BitVec 6)
  /-- R127. -/
  | vmax (e : Bool) (d a b : BitVec 6)
  /-- R127. -/
  | vabs (e : Bool) (d a : BitVec 6)
  /-- R127. -/
  | vneg (e : Bool) (d a : BitVec 6)
  /-- R127. -/
  | vmov (e : Bool) (d a : BitVec 6)
  /-- R127. -/
  | vbsel (e : Bool) (d a b : BitVec 6)
  /-- R127. -/
  | vpopc (e : Bool) (d a : BitVec 6)
  /-- R127. -/
  | vclz (e : Bool) (d a : BitVec 6)
  /-- R127. -/
  | vavg (e : Bool) (d a b : BitVec 6)
  /-- R127. -/
  | vdiv (e : Bool) (d a b : BitVec 6)
  /-- R127. -/
  | vrem (e : Bool) (d a b : BitVec 6)
  /-- R128. -/
  | vaddi (e : Bool) (d a : BitVec 6) (i : BitVec 13)
  /-- R128. -/
  | vli (e : Bool) (d : BitVec 6) (i : BitVec 13)
  /-- R130. -/
  | vbfe (e : Bool) (d a b : BitVec 6)
  /-- R130. -/
  | vbfi (e : Bool) (d a b : BitVec 6)
  /-- R131. -/
  | vprmt (e : Bool) (d a b : BitVec 6)
  /-- R132. -/
  | vshuf (e : Bool) (d a b : BitVec 6)
  /-- R132. -/
  | vpackb (e : Bool) (d : BitVec 5) (a : BitVec 6)
  /-- R132. -/
  | vbcast (e : Bool) (d : BitVec 6) (a : BitVec 5)
  /-- R132. -/
  | vext (e : Bool) (d : BitVec 5) (a : BitVec 6) (b : BitVec 5)
  /-- R133. -/
  | vscan (e : Bool) (d a : BitVec 6) (o : BitVec 3)
  /-- R133. -/
  | vreduce (e : Bool) (d a : BitVec 6) (o : BitVec 3)
  /-- R136. -/
  | pand (e : Bool) (d a b : BitVec 3)
  /-- R136. -/
  | por (e : Bool) (d a b : BitVec 3)
  /-- R136. -/
  | pxor (e : Bool) (d a b : BitVec 3)
  /-- R136. -/
  | pnot (e : Bool) (d a : BitVec 3)
  /-- R136. -/
  | pmov (e : Bool) (d a : BitVec 3)
  /-- R136. -/
  | pfrom (e : Bool) (d : BitVec 3) (s : BitVec 5)
  /-- R136. -/
  | pto (e : Bool) (a : BitVec 3) (s : BitVec 5)
  /-- R136. -/
  | ppopc (e : Bool) (a : BitVec 3) (s : BitVec 5)
  /-- R136. -/
  | pfirst (e : Bool) (d a : BitVec 3)
  /-- R134. -/
  | vcmpEq (e : Bool) (d : BitVec 3) (a b : BitVec 6)
  /-- R134. -/
  | vcmpNe (e : Bool) (d : BitVec 3) (a b : BitVec 6)
  /-- R134. -/
  | vcmpLt (e : Bool) (d : BitVec 3) (a b : BitVec 6)
  /-- R134. -/
  | vcmpLe (e : Bool) (d : BitVec 3) (a b : BitVec 6)
  /-- R134. -/
  | vcmpGt (e : Bool) (d : BitVec 3) (a b : BitVec 6)
  /-- R134. -/
  | vcmpGe (e : Bool) (d : BitVec 3) (a b : BitVec 6)
  /-- R135. -/
  | vcmpUn (e : Bool) (d : BitVec 3) (a b : BitVec 6)
  /-- R134. -/
  | vcmpvEq (e : Bool) (d a b : BitVec 6)
  /-- R134. -/
  | vcmpvNe (e : Bool) (d a b : BitVec 6)
  /-- R134. -/
  | vcmpvLt (e : Bool) (d a b : BitVec 6)
  /-- R134. -/
  | vcmpvLe (e : Bool) (d a b : BitVec 6)
  /-- R134. -/
  | vcmpvGt (e : Bool) (d a b : BitVec 6)
  /-- R134. -/
  | vcmpvGe (e : Bool) (d a b : BitVec 6)
  /-- R135. -/
  | vcmpvUn (e : Bool) (d a b : BitVec 6)
  /-- R154. -/
  | fadd (e : Bool) (d a b : BitVec 6)
  /-- R154. -/
  | fsub (e : Bool) (d a b : BitVec 6)
  /-- R154. -/
  | fmul (e : Bool) (d a b : BitVec 6)
  /-- R155. -/
  | fmin (e : Bool) (d a b : BitVec 6)
  /-- R155. -/
  | fmax (e : Bool) (d a b : BitVec 6)
  /-- R156. -/
  | fabs (e : Bool) (d a : BitVec 6)
  /-- R156. -/
  | fneg (e : Bool) (d a : BitVec 6)
  /-- R154. -/
  | fdiv (e : Bool) (d a b : BitVec 6)
  /-- R157. -/
  | fscale (e : Bool) (d a b : BitVec 6)
  /-- R158. -/
  | frcp (e : Bool) (d a : BitVec 6)
  /-- R158. -/
  | frsq (e : Bool) (d a : BitVec 6)
  /-- R158. -/
  | fsqrt (e : Bool) (d a : BitVec 6)
  /-- R158. -/
  | fexp2 (e : Bool) (d a : BitVec 6)
  /-- R158. -/
  | flog2 (e : Bool) (d a : BitVec 6)
  /-- R158. -/
  | fsinp (e : Bool) (d a : BitVec 6)
  /-- R158. -/
  | fcosp (e : Bool) (d a : BitVec 6)
  /-- R159. -/
  | fma (e : Bool) (d a b : BitVec 6)
  /-- R159. -/
  | fms (e : Bool) (d a b : BitVec 6)
  /-- R159. -/
  | fnma (e : Bool) (d a b : BitVec 6)
  /-- R160. -/
  | idot (e : Bool) (d a b : BitVec 6)
  /-- R161. -/
  | fdot (e : Bool) (d a b : BitVec 6)
  /-- R165. -/
  | fcvt (e : Bool) (d a : BitVec 6) (t : BitVec 4)
  /-- R166. -/
  | frnd (e : Bool) (d a : BitVec 6) (t : BitVec 4)
  /-- R167. -/
  | fclass (e : Bool) (d a : BitVec 6) (t : BitVec 4)
  /-- R168. -/
  | f2i (e : Bool) (d a : BitVec 6) (t : BitVec 4)
  /-- R169. -/
  | i2f (e : Bool) (d a : BitVec 6) (t : BitVec 4)
  /-- R174. -/
  | ld (e : Bool) (v : BitVec 6) (s : BitVec 5) (o : BitVec 6) (z c : BitVec 3) (r : BitVec 2)
  /-- R175. -/
  | st (e : Bool) (v : BitVec 6) (s : BitVec 5) (o : BitVec 6) (z c : BitVec 3) (r : BitVec 2)
  /-- R176. -/
  | ldn (e : Bool) (v : BitVec 6) (s : BitVec 5) (o : BitVec 6) (z c : BitVec 3) (r : BitVec 2)
  /-- R179. -/
  | sldB32 (e : Bool) (d a b : BitVec 5)
  /-- R179. -/
  | sldB64 (e : Bool) (d a b : BitVec 5)
  /-- R179. -/
  | sstB32 (e : Bool) (d a b : BitVec 5)
  /-- R179. -/
  | sstB64 (e : Bool) (d a b : BitVec 5)
  /-- R179. -/
  | sldB32Acq (e : Bool) (d a b : BitVec 5)
  /-- R179. -/
  | sldB64Acq (e : Bool) (d a b : BitVec 5)
  /-- R179. -/
  | sstB32Rel (e : Bool) (d a b : BitVec 5)
  /-- R179. -/
  | sstB64Rel (e : Bool) (d a b : BitVec 5)
  /-- R181. -/
  | atom (e : Bool) (v : BitVec 6) (s : BitVec 5) (o : BitVec 6) (p : BitVec 4) (c : BitVec 3) (l : BitVec 1)
  /-- R181. -/
  | red (e : Bool) (v : BitVec 6) (s : BitVec 5) (o : BitVec 6) (p : BitVec 4) (c : BitVec 3) (l : BitVec 1)
  /-- R186. -/
  | fence (e : Bool) (c : BitVec 3) (r : BitVec 2)
  /-- R187. -/
  | cctl (e : Bool) (n : BitVec 2) (a b : BitVec 5)
  /-- R188. -/
  | pref (e : Bool) (n : BitVec 2) (a b : BitVec 5)
  /-- R189. -/
  | pageq (e : Bool) (d a : BitVec 5) (k : BitVec 2)
  /-- R190. -/
  | waitv (e : Bool) (d a b : BitVec 5)
  /-- R191. -/
  | carve (e : Bool) (d a : BitVec 5)
  /-- R193. -/
  | sync (e : Bool) (a : BitVec 5)
  /-- R194. -/
  | bar (e : Bool) (i : BitVec 4) (a : BitVec 5)
  /-- R194. -/
  | cbar (e : Bool) (i : BitVec 2)
  /-- R194. -/
  | bara (e : Bool) (i : BitVec 4) (a : BitVec 5)
  /-- R198. -/
  | accLd (e : Bool) (k : BitVec 3) (a : BitVec 5)
  /-- R198. -/
  | accSt (e : Bool) (k : BitVec 3) (a : BitVec 5)
  /-- R198. -/
  | accZero (e : Bool) (a : BitVec 5)
  /-- R199. -/
  | accCvt (e : Bool) (d a b : BitVec 5)
  /-- R204. -/
  | rgbeg (e : Bool) (s : BitVec 5) (d : BitVec 18)
  /-- R205. -/
  | rgend (e : Bool)
  /-- R206. -/
  | rgabt (e : Bool) (c : BitVec 8)
  /-- R207. -/
  | rgst (e : Bool) (s : BitVec 5)
  /-- R225. -/
  | mma (e : Bool) (d a b : BitVec 6)
  /-- R226. -/
  | mmas (e : Bool) (d a b : BitVec 6)
  /-- R233. -/
  | mfence (e : Bool) (d : BitVec 5)
  /-- R230. -/
  | omap (e : Bool) (n : BitVec 3) (a : BitVec 5)
  /-- R235. -/
  | merrq (e : Bool) (d : BitVec 5)
  /-- R238. -/
  | cpy (e : Bool) (d a : BitVec 5)
  /-- R238. -/
  | cpyt (e : Bool) (d a : BitVec 5)
  /-- R244. -/
  | cpyr (e : Bool) (d a : BitVec 5)
  /-- R238. -/
  | cpyg (e : Bool) (d a : BitVec 5)
  /-- R245. -/
  | cpyb (e : Bool) (d a : BitVec 5)
  /-- R246. -/
  | cpyq (e : Bool) (d a : BitVec 5)
  /-- R250. -/
  | ovlLd (e : Bool) (d a : BitVec 5)
  /-- R250. -/
  | ovlHint (e : Bool) (a : BitVec 5)
  /-- R251. -/
  | ovlEv (e : Bool) (a : BitVec 5)
  /-- R251. -/
  | ovlPin (e : Bool) (d a : BitVec 5)
  /-- R251. -/
  | ovlUnpin (e : Bool) (a : BitVec 5)
  /-- R252. -/
  | ovlQ (e : Bool) (d a : BitVec 5)
  /-- R259. -/
  | mshEmit (e : Bool) (d a b : BitVec 6)
  /-- R260. -/
  | mshClose (e : Bool) (d a b : BitVec 6)
  /-- R269. -/
  | pixAttr (e : Bool) (d a b : BitVec 6)
  /-- R270. -/
  | pixOut (e : Bool) (t : BitVec 2) (a : BitVec 6)
  /-- R271. -/
  | pixKill (e : Bool)
  /-- R271. -/
  | pixOrd (e : Bool)
  /-- R277. -/
  | tex (e : Bool) (d a b : BitVec 6)
  /-- R277. -/
  | texl (e : Bool) (d a b : BitVec 6)
  /-- R277. -/
  | texg (e : Bool) (d a b : BitVec 6)
  /-- R278. -/
  | imgLd (e : Bool) (d a b : BitVec 6)
  /-- R278. -/
  | imgSt (e : Bool) (d a b : BitVec 6)
  /-- R282. -/
  | ray (e : Bool) (d a b : BitVec 5)
  /-- R282. -/
  | rayh (e : Bool) (d a b : BitVec 5)
  /-- R291. -/
  | owrd (e : Bool) (d : BitVec 5) (n : BitVec 3)
  /-- R292. -/
  | xregRd (e : Bool) (d a : BitVec 5) (p : BitVec 2)
  /-- R292. -/
  | xregWr (e : Bool) (d a : BitVec 5) (p : BitVec 2)
  /-- R285: A word that is not native is issued and the split enters the emulation handler with its operand window filled. -/
  | emulationEntry (cause : BitVec 2) (word : BitVec 32) (live : BitVec 32)
  /-- R285: A split waiting for another split's emulation level resumes after that EMRET and classifies its word again. -/
  | emulationLevelWaitEnd (split : Nat)
  /-- R394: A split waiting for another split's TRET issues its trapping instruction again. -/
  | trapBankWaitEnd (split : Nat)
  /-- R174: A load's data arrives and is written to its rows or scalar, lowering LDC and releasing stalled readers. -/
  | loadDataReturn (op : Nat) (unit : Nat)
  /-- R36: A store is performed at its scope and STC falls. -/
  | storePerformed (op : Nat) (unit : Nat)
  /-- R242: The streamer writes a destination granule, releasing waiters on its claim and advancing the committed position. -/
  | copyGranuleWrite (copy : Nat)
  /-- R240: A copy ends, its committed bytes are performed at the completion scope and its token is written. -/
  | copyComplete (copy : Nat)
  /-- R228: The matrix engine executes a pass of up to four quarter-ops on their tiles, chunk by chunk. -/
  | matrixPass (core : Nat) (pass : Nat)
  /-- R250: A Chuck fill ends, making the overlay resident or failing, writing tokens and releasing stalled splits. -/
  | overlayFillComplete (fill : Nat)
  /-- R283: Every lane of a ray query has finished, and its result rows and token are written. -/
  | rayQueryComplete (query : Nat)
  /-- R190: A watched word read differs from the compare value and the split resumes. -/
  | waitvWake (split : Nat)
  /-- R190: 65 536 cycles pass since issue and the WAITV split resumes. -/
  | waitvTimeout (split : Nat)
  /-- R214: Once every sector of a region is held, its inputs are re-read, constraints evaluated, and the region commits or aborts. -/
  | regionCommit (split : Nat)
  /-- R191: The teams holding requested banks have retired and the pending carve-out takes effect. -/
  | carveComplete (core : Nat)
  /-- R353: The NOP command starts and ends. -/
  | nopCommand (ctx : Nat) (queue : Nat)
  /-- R354: The LAUNCH command starts, checking the launch packet and handing it to the work distributor. -/
  | launch (ctx : Nat) (queue : Nat)
  /-- R256: The DRAW command starts, numbering the draw and running its mesh teams. -/
  | draw (ctx : Nat) (queue : Nat)
  /-- R354: The WAIT command starts once every named word is at least its value. -/
  | waitCommand (ctx : Nat) (queue : Nat)
  /-- R354: The command processor reads the WAIT words again after a signal write or every 4 096 cycles. -/
  | waitCommandPoll (ctx : Nat) (queue : Nat)
  /-- R354: The SIGNAL command writes its value as a release after every earlier command of the queue has ended. -/
  | signal (ctx : Nat) (queue : Nat)
  /-- R359: The work distributor places the next team or cluster on the first core or rectangle that fits, or reserves one. -/
  | teamPlacement (launchId : Nat)
  /-- R363: After the last team retires and the flush is acknowledged, the signal word is written and the LAUNCH ends. -/
  | endOfLaunch (launchId : Nat)
  /-- R364: All meshlets, packets, pixel groups and blends of a draw are done, the flush runs and the signal word is written. -/
  | drawEnd (drawId : Nat)
  /-- R370: Every access of the saved groups is performed or parked and the context becomes SAVED. -/
  | saveComplete (ctx : Nat)
  /-- R372: A SAVED context's commands are chosen again and its teams are placed and restored. -/
  | contextResume (ctx : Nat)
  /-- R384: Every access that used a removed translation is performed and INVSTAT.BUSY clears. -/
  | invalidationComplete (ctx : Nat)
  /-- R388: An engine parked on a full page-request queue reads RPTR again after 4 096 cycles and posts when room appears. -/
  | prqRptrPoll (ctx : Nat)
  /-- R336: A shared read request for a sector is served by the home directory. -/
  | rds (die : Nat) (sector : Nat)
  /-- R336: An exclusive read or copy claim request for a sector is served by the home directory. -/
  | rdx (die : Nat) (sector : Nat)
  /-- R336: An upgrade request from a sharer is served by the home directory. -/
  | upg (die : Nat) (sector : Nat)
  /-- R329: An uncached read of an untracked sector is served from the home. -/
  | rdu (die : Nat) (sector : Nat)
  /-- R336: A write-back of an M sector returns data to the LLC and leaves the sector I. -/
  | wrb (die : Nat) (sector : Nat)
  /-- R336: A clean-keeping write-back sends data to the LLC while the die keeps the sector. -/
  | wrc (die : Nat) (sector : Nat)
  /-- R321: A masked write-back of an untracked dirty sector merges into the LLC byte by byte. -/
  | wrm (die : Nat) (sector : Nat)
  /-- R338: A write-through of an OWN sector by a non-owner die merges into the LLC. -/
  | wrt (die : Nat) (sector : Nat)
  /-- R336: A die receives an invalidation or recall from a directory, returns M data if held and acknowledges. -/
  | invalidation (die : Nat) (sector : Nat)
  /-- R336: A die receives a downgrade, returns M data and keeps the sector shared. -/
  | downgrade (die : Nat) (sector : Nat)
  /-- R336: A directory receives an acknowledgement or data answer that completes a sector transaction. -/
  | coherenceAck (die : Nat) (sector : Nat)
  /-- R261: The compressor has formed and sent every packet of a meshlet, raising the frontier and sending beacons. -/
  | meshletCompressDone (team : Nat)
  /-- R264: An S-die receives a beacon and updates that G-die's frontier, releasing held packets. -/
  | frontierBeacon (gdie : Nat) (sdie : Nat)
  /-- R265: A visibility packet arrives at its region's owner and is held or released. -/
  | visibilityPacket (gdie : Nat) (sdie : Nat)
  /-- R267: A released packet is rasterised with depth tests and its pixel groups are launched. -/
  | rasterisePacket (sdie : Nat)
  /-- R270: A group's queued PIX.OUTs are blended into a pixel once every earlier covering group has retired. -/
  | blendApply (group : Nat)
  /-- R407: The Tailstock writes the signed report and sets the done bit. -/
  | attestationReportDone
  /-- R361: A split that has been ready for 224 cycles is served ahead of younger splits by its scheduler. -/
  | schedulerAgeThreshold (split : Nat)
  /-- R190: The 4 096-cycle bound passes and the watched words are read again. -/
  | waitvReread (split : Nat)
  /-- R220: A serialised region waits over 16 384 cycles for a sector and ends with CONSTRAINT. -/
  | regionSerialTimeout (split : Nat)
  /-- R365: A save request reaches every resident team of a context, which moves to SAVING. -/
  | saveRequest (ctx : Nat)
  /-- R368: 20 us after the request, every split not yet stopped is stopped at its next boundary and saved in full. -/
  | forcedSave (ctx : Nat)
  /-- R376: A context has run SLICE us while an equal or higher class context waits, and receives a save request. -/
  | timeSliceExpiry (ctx : Nat)
  /-- R352: A write to a queue doorbell updates WPTR, rereads the queue descriptor and makes commands ready. -/
  | doorbell (fn : Nat) (ctx : Nat) (queue : Nat) (wptr : BitVec 32)
  /-- R350: CTXCMD load reads a context descriptor and makes the context IDLE or refuses it. -/
  | contextLoad (ctx : Nat)
  /-- R350: CTXCMD release moves a halted, idle or saved context to FREE, discarding its save. -/
  | contextRelease (ctx : Nat)
  /-- R350: A write to CTXTAB sets the context table base only while every context is FREE. -/
  | ctxtabWrite (value : BitVec 64)
  /-- R375: A write of EN = 1 to a partition register enables it or is refused. -/
  | partitionEnable (n : Nat) (w0 : BitVec 64)
  /-- R377: A write of EN = 0 or a mask change saves the partition's contexts, warm-resets its dies and applies the new setting. -/
  | partitionReconfigure (n : Nat) (w0 : BitVec 64)
  /-- R384: INVCTL with bit 0 = 0 removes the translations of one page of the context. -/
  | invalidatePage (ctx : Nat)
  /-- R384: INVCTL with bit 0 = 1 removes every translation of the context. -/
  | invalidateContext (ctx : Nat)
  /-- R389: PRQRESP with FAIL = 0 makes every requester on the entry translate again and continue. -/
  | pageRequestGrant (ctx : Nat) (tag : BitVec 16)
  /-- R389: PRQRESP with FAIL = 1 ends waiting copies and ray queries with XLATE and halts blends with PAGEFAIL. -/
  | pageRequestFail (ctx : Nat) (tag : BitVec 16)
  /-- R417: Writing 1 to an IRQCAUSE bit clears it. -/
  | irqcauseClear (fn : Nat) (bits : BitVec 64)
  /-- R399: A host write to a register that has no row of its own stores its value. -/
  | registerWrite (fn : Nat) (bar : Nat) (offset : Nat) (value : BitVec 64)
  /-- R386: An ATS Translation Completion arrives and its permissions are cached for the 4 KiB unit. -/
  | atsTranslationCompletion (fn : Nat) (unit : Nat) (r : Bool) (w : Bool)
  /-- R386: An ATS Invalidate Request is handled as an invalidation and answered when complete. -/
  | atsInvalidateRequest (fn : Nat) (unit : Nat)
  /-- R387: A PRI Page Request Group Response arrives and decides the outcome of the page request. -/
  | prgResponse (fn : Nat) (unit : Nat) (code : BitVec 2)
  /-- R418: A posted host write through BAR 4 is performed in device memory at dev scope. -/
  | hostMemoryWrite (fn : Nat) (offset : Nat) (bytes : List (BitVec 8))
  /-- R418: A host read through BAR 4 returns the coherent value at dev scope; a PCIe AtomicOp is one that updates it too (R416). -/
  | hostMemoryRead (fn : Nat) (offset : Nat) (ask : HostAsk)
  /-- R419: A VF Function Level Reset stops the function's contexts, abandons its requests and frees its contexts. -/
  | functionLevelReset (vf : Nat)
  /-- R419: Clearing VF Enable applies the VF reset steps to the VF. -/
  | vfEnableClear (vf : Nat)
  /-- R419: A PF Function Level Reset resets every VF and the PF's contexts, disables partitions and clears CTXTAB and WIN4. -/
  | pfFunctionLevelReset
  /-- R408: RESETCTL requests a warm reset of one die, clearing engines and state but keeping caches and memory. -/
  | warmDieReset (die : Nat)
  /-- R410: RESETCTL requests a cold reset of one die, ending in a bring-up self-test. -/
  | coldDieReset (die : Nat)
  /-- R408: RESETCTL requests a warm reset of every die but the B-die and clears the command processors. -/
  | warmPackageReset
  /-- R400: RESETCTL requests a cold reset of the whole package, after which the Tailstock runs bring-up. -/
  | coldPackageReset
  /-- R421: Module power comes on and the part starts with a cold package reset. -/
  | powerOn
  /-- R400: A die receives an EXPLORE message, records its parent on the first one, answers and forwards it. The answer: its kind, and the port
  it came by. -/
  | explore (site : Nat) (answer : Nat × Nat)
  /-- R400: 2^20 B-die cycles pass after the last new answer and bring-up goes on to verify, load and ready. -/
  | exploreEnd
  /-- R410: A die's bring-up self-test ends and the die rejoins in service or becomes out of service. -/
  | bringUpSelfTestDone (die : Nat) (pass : Bool)
  /-- R407: A write of 1 to the attestation mailbox starts the signing of a report over the nonce. -/
  | attestationRequest (value : BitVec 64)
  /-- R411: A unit's self-test ends, classing the error soft or lasting and mapping out the unit on failure. Of a unit that is not under
  test it is the detection of an error, which starts the test. -/
  | selfTestComplete (die : Nat) (kind : Nat) (number : Nat) (pass : Bool)
  /-- R415: An abnormal static drop held for 10 ms is logged, caps the die clock and raises the error interrupt. -/
  | droopEvent (die : Nat) (excess : BitVec 16)
  /-- R414: The Tailstock sets each die's clock divider to hold package power within the TDP. -/
  | powerLimitAdjust (die : Nat) (n : Nat)
  /-- R346: A die or link reports loss of service and its agent is contained. -/
  | lossOfService (die : Nat)
  /-- R346: A coherence message stays unanswered for 2^20 cycles and its agent is contained. -/
  | coherenceTimeout (die : Nat)
  /-- R341: A write of EN = 1 to a format-region register enables the region or is refused with ERR. -/
  | formatRegionEnable (die : Nat) (n : Nat)
  /-- R341: A write of EN = 0 re-encodes dirty view sectors and drops every view sector. -/
  | formatRegionDisable (die : Nat) (n : Nat)
  /-- R420: A Vreldo flit arrives, is checked by CRC and sequence number, and is applied, dropped or replayed. -/
  | linkFlit (port : Nat) (channel : Nat) (seq : BitVec 16) (crcOk : Bool) (payload : Flit)
  /-- R421: Module power goes off and no part of the device runs until the next power-up. -/
  | powerOff
  /-- R387: The host clears and re-enables PRI, ending the state in which the function sends no Page Request and PAGEQ on HOST pages returns 2. -/
  | priReenable (fn : Nat)
  /-- R417: The host unmasks an MSI-X vector whose pending bit is set, and the held message is sent. -/
  | msiXVectorUnmask (fn : Nat) (vector : Nat)
  deriving DecidableEq, Repr

end Sys2Proof
end

