-- ==== Sys2Proof/Machine/State.lean ====
section
/-! DEFINITION. The machine's state as plain data, the reasons a step can stop, and the state after
reset. Keys: a core is die * 64 + core index, a group is core * 32 + slot, a split is group * 4 + SPLITID.
Every map is sparse (Sys2Proof.Map): what is not listed reads as the map's default. -/
namespace Sys2Proof.Machine

/-- Why the machine stops. -/
inductive Fault where
  /-- Raised by the meaning of an encoded instruction when no valid split issues it (a state that `step`
  never runs an instruction in). Safe: the hardware issues nothing there. -/
  | noSplit
  deriving DecidableEq, Repr

/-- Why an instruction has no meaning. -/
inductive Refusal where
  /-- Raised by an arm of `exec` whose instruction has no meaning yet. Safe. -/
  | notModelled (mnemonic : String)
  deriving DecidableEq, Repr

/-- What a split is in: STATE 0-2 are `normal` with its wait, 3 `region`, 4 `emu`, 5 `trap` (R16). -/
inductive Mode where
  | normal | region | emu | trap
  deriving DecidableEq, Repr

/-- What a split waits for, if anything (STATE 1 and 2 of R16, and stalls inside STATE 3-5). -/
inductive Wait where
  | none
  /-- a pending row, token, counter, claim or engine queue: the instruction is issued again (R36, R37) -/
  | operand
  /-- another split's emulation level (R285) -/
  | emuLevel
  /-- another split's trap handler (R394) -/
  | trapBank
  /-- a demand fill of this overlay id (R115) -/
  | fill (id : Nat)
  /-- SYNC over these lanes (R193) -/
  | sync (members : BitVec 32)
  /-- BAR on this id with this expected count (R194) -/
  | bar (id expected : Nat)
  /-- held at a BAR or BARA of this id until the phase that its lanes have left by BARA completes (R194) -/
  | phase (id : Nat)
  /-- CBAR on this id (R194) -/
  | cbar (id : Nat)
  /-- WAITV: lanes with their addresses, the compare value (R190) -/
  | waitv (watched : List (Nat × Nat)) (value : BitVec 32)
  /-- RGEND: the commit (R205) -/
  | commit
  /-- MSH.CLOSE: the compressor (R260) -/
  | close
  /-- a copy's claims, which its issue waits for (R242); the PC of the copy form -/
  | claim (copy : Nat) (pc : BitVec 32)
  /-- stopped at a safe point or by a forced save (R366, R368) -/
  | stopped
  deriving DecidableEq, Repr

/-- The position in a REP (R59): iteration, count - 1 and the three steps. -/
structure Rep where
  i : Nat
  last : Nat
  sd : BitVec 3
  sa : BitVec 3
  sb : BitVec 3
  deriving DecidableEq, Repr

/-- An open emulation level (R285, R289). -/
structure EmuLevel where
  ow : List (BitVec 64)
  mode : Mode
  gmode : BitVec 12
  probe : Bool
  bank : Nat
  entryCwp : Nat
  rep : Option Rep
  deriving DecidableEq, Repr

/-- What trap entry saves for TRET (R394, R395). -/
structure TrapSave where
  cause : BitVec 8
  pc : BitVec 32
  mode : Mode
  gmode : BitVec 12
  probe : Bool
  bank : Nat
  rep : Option Rep
  /-- PMASK, for the forms that TRET 0 reissues by lane; otherwise none -/
  replay : Option (BitVec 32)
  /-- words from the trapping instruction to its fall-through (R93, R449) -/
  fall : Nat
  deriving DecidableEq, Repr

/-- A split-table entry (R16), with the state of its handlers and its scheduling marks. -/
structure Split where
  valid : Bool := false
  pc : BitVec 32 := 0
  mask : BitVec 32 := 0
  parent : BitVec 3 := 7
  saved : BitVec 3 := 7
  gmode : BitVec 12 := 0
  cwp : Nat := 0
  resident : Nat := 1
  mode : Mode := .normal
  wait : Wait := .none
  rep : Option Rep := none
  levels : List EmuLevel := []
  traps : List TrapSave := []
  /-- which s24-s31, p6-p7 the split names: 0 ordinary, 1 and 2 the emulation banks, 3 the trap bank -/
  bank : Nat := 0
  /-- the probe bit of the split's handler level (R294) -/
  ownProbe : Bool := false
  /-- the lanes a reissued instruction acts on (R395), if fewer than G -/
  replay : Option (BitVec 32) := none
  /-- RUN and the RGBEG PC it counts for (R220) -/
  run : Nat := 0
  runPc : BitVec 32 := 0
  /-- the status word of the most recent region, less the live fields (R207) -/
  rgst : BitVec 64 := 0
  /-- ECCU to be taken before the next issue: the load's PC, and the lanes that failed, none for a scalar load (R396) -/
  eccu : Option (BitVec 32 × Option (BitVec 32)) := none
  /-- the live-mask word of the safe point the split stopped at (R366) -/
  stopLive : Option (BitVec 32) := none
  readySince : Nat := 0
  aged : Bool := false
  yielded : Bool := false
  deriving DecidableEq, Repr

/-- A parked path (R17). -/
structure Parked where
  /-- the number its earlier accesses are held under while it has no entry (R305) -/
  key : Nat
  pc : BitVec 32
  mask : BitVec 32
  parent : BitVec 3
  saved : BitVec 3
  gmode : BitVec 12
  cwp : Nat
  resident : Nat
  /-- it comes of a division at a safe point of a save: it stops once it has an entry; the live-mask word (R366) -/
  stop : Option (BitVec 32) := none
  deriving DecidableEq, Repr

/-- A batch that MFENCE closed (R233): its number, its quarter-ops still to come, the tiles it names and the
flags its quarter-ops gathered; the batch that the end of a group closes (R98) counts in no TBC. -/
structure Batch where
  num : Nat
  counted : Bool := true
  ops : List Nat
  tiles : List Nat := []
  flags : List (BitVec 32 × BitVec 5)
  deriving DecidableEq, Repr

/-- A resident group (R12, R36, R50). -/
structure Group where
  live : Bool := false
  ctx : Nat := 0
  team : Nat := 0
  index : Nat := 0
  cls : Nat := 0
  depth : Nat := 1
  exited : BitVec 32 := 0
  park : List Parked := []
  ldc : Nat := 0
  stc : Nat := 0
  cpc : Nat := 0
  tbc : Nat := 0
  probe : Bool := false
  probef : BitVec 18 := 0
  batchCount : Nat := 0
  unclosed : List Nat := []
  unclosedTiles : List Nat := []
  unclosedFlags : List (BitVec 32 × BitVec 5) := []
  batches : List Batch := []
  stackBase : BitVec 64 := 0
  retired : Bool := false
  /-- restored from a save; its claims and overlays are still to be taken (R372) -/
  restoring : Bool := false
  deriving DecidableEq, Repr

/-- A phase of a barrier: the expected count and the groups or teams that arrived (R194). -/
structure Barrier where
  expected : Nat := 0
  /-- the groups that arrived, each with the id of the next access at that moment -/
  arrived : List (Nat × Nat) := []
  /-- lanes of each group that have issued the barrier in this phase -/
  lanes : List (Nat × BitVec 32) := []
  deriving DecidableEq, Repr

/-- A mesh team's meshlet record (R258). -/
structure MeshRec where
  vtx : Map (BitVec 32) := []
  prims : List (Nat × Nat × Nat) := []
  ovf : Bool := false
  closed : Bool := false
  nattr : Nat := 0
  attr : BitVec 64 := 0
  /-- of MSH.CLOSE in progress: its group's number in the team, the lanes of its guard set and the row of its status (R260) -/
  closer : Option (Nat × BitVec 32 × Nat) := none
  deriving DecidableEq, Repr

/-- A placed team (R39, R358, R360). -/
structure Team where
  live : Bool := false
  launch : Nat := 0
  ctx : Nat := 0
  core : Nat := 0
  x : Nat := 0
  y : Nat := 0
  z : Nat := 0
  index : Nat := 0
  cluster : Nat := 0
  cx : Nat := 0
  cy : Nat := 0
  groups : List Nat := []
  producer : Nat := 0
  abufOff : Nat := 0
  abufSize : Nat := 0
  wbufOff : Nat := 0
  wbufSize : Nat := 0
  accFirst : Nat := 0
  accCount : Nat := 0
  slots : Nat := 0
  rows : Nat := 0
  abufReady : Bool := true
  me : Bool := false
  /-- its shadow accumulator block, on a G-core (R299) -/
  shadow : Option (BitVec 64) := none
  /-- where the stack block of each of its groups begins in the context's stack pool (R358) -/
  stackOffs : List Nat := []
  barriers : Map Barrier := []
  mesh : Option MeshRec := none
  draw : Option (Nat × Nat) := none
  pix : Option Nat := none
  retired : Bool := false
  /-- a saved batch team that keeps its buffers (R369) -/
  inPlace : Bool := false
  deriving DecidableEq, Repr

/-- A launch packet (R356). -/
structure Packet where
  entry : BitVec 32 := 0
  gridX : Nat := 1
  gridY : Nat := 1
  gridZ : Nat := 1
  team : Nat := 1
  producer : Nat := 0
  clw : Nat := 1
  clh : Nat := 1
  depth : Nat := 1
  azero : Bool := false
  cls : Nat := 0
  inter : Bool := false
  abuf : Nat := 0
  wbuf : Nat := 0
  acc : Nat := 0
  slots : Nat := 1
  cores : Nat := 0
  args : BitVec 64 := 0
  sigAddr : BitVec 64 := 0
  sigVal : BitVec 64 := 0
  deriving DecidableEq, Repr

/-- A running launch (R354, R359, R363). -/
structure Launch where
  live : Bool := false
  ctx : Nat := 0
  queue : Nat := 0
  packet : Packet := {}
  next : Nat := 0
  retired : Nat := 0
  /-- the draw whose mesh teams or pixel groups these are, or none for a LAUNCH command -/
  draw : Option Nat := none
  pixel : Bool := false
  /-- the effective class of its command when it started (R355, R365) -/
  cls : Nat := 0
  /-- the OWN blocks that its cores have written, which its end releases (R363) -/
  wrote : List Nat := []
  deriving DecidableEq, Repr

/-- A pass descriptor (R255). -/
structure Pass where
  pixlp : BitVec 64 := 0
  depth : BitVec 64 := 0
  zmode : Nat := 0
  nrt : Nat := 0
  width : Nat := 1
  height : Nat := 1
  targets : List (Nat × Nat × BitVec 64) := []
  deriving DecidableEq, Repr

/-- A draw in progress (R256, R364). -/
structure Draw where
  live : Bool := false
  ctx : Nat := 0
  queue : Nat := 0
  number : Nat := 0
  pass : Pass := {}
  mesh : Packet := {}
  pix : Packet := {}
  n : Nat := 1
  /-- meshlets that have finished sending (R264) -/
  finished : List Nat := []
  /-- the in-service G-dies of the partition when it started (R256) -/
  gdies : List Nat := []
  sigAddr : BitVec 64 := 0
  sigVal : BitVec 64 := 0
  deriving DecidableEq, Repr

/-- One primitive of a visibility packet: three vertices (X, Y in 16.8, Z, q), COVER, PRIMIDX, BACK and
its vertex indices (R262). -/
structure Prim where
  verts : List (Int × Int × Nat × BitVec 32)
  idx : List Nat
  cover : BitVec 16
  primIdx : Nat
  back : Bool
  deriving DecidableEq, Repr

/-- A visibility packet (R262). -/
structure VPacket where
  token : Nat
  draw : Nat
  rx : Nat
  ry : Nat
  prims : List Prim
  last : Bool
  nattr : Nat
  attr : BitVec 64
  /-- the raster engine of its region is parked on a page (R267) -/
  parked : Bool := false
  deriving DecidableEq, Repr

/-- What the Faceplate carries on one channel, in order (R264); the sender's incarnation goes with it (R347). -/
inductive FpMsg where
  | packet (p : VPacket)
  | beacon (ctx frontier : Nat)
  /-- a message of an earlier incarnation of its sender, which the receiver drops (R347) -/
  | stale
  deriving DecidableEq, Repr

/-- A pixel group in region order (R268): its packet, lanes with their pixels (x, y) and primitives, and its
queued PIX.OUTs: instruction, target, lane, value. -/
structure PixGroup where
  id : Nat
  gid : Option Nat
  sdie : Nat
  packet : VPacket
  draw : Nat
  pixels : List (Nat × Nat × Nat × Prim)
  covered : BitVec 32
  killed : BitVec 32 := 0
  outs : List (Nat × Nat × Nat × BitVec 32) := []
  parked : Bool := false
  retired : Bool := false
  deriving DecidableEq, Repr

/-- A queue of a context (R352). -/
structure Queue where
  base : BitVec 64 := 0
  size : Nat := 4
  en : Bool := false
  cls : Nat := 0
  cvec : Nat := 0
  rptr : Nat := 0
  wptr : Nat := 0
  /-- the words of the WAIT at the head were at least their values when last read (R354) -/
  waitOk : Bool := false
  /-- the step in which the head became ready (R355) -/
  readyAt : Option Nat := none
  deriving DecidableEq, Repr

/-- Who waits for a page request's answer (R388, R389). -/
inductive Requester where
  | pageq | copy (id : Nat) | ray (id : Nat)
  /-- a blend of a pixel group: the core that ran it, and the address -/
  | blend (pix core va : Nat)
  /-- the depth test of an S-die, at an address -/
  | depth (sdie va : Nat)
  deriving DecidableEq, Repr

/-- An outstanding page request (R388). -/
structure PageReq where
  tag : BitVec 16
  page : Nat
  kind : Nat
  host : Bool
  waiters : List Requester
  deriving DecidableEq, Repr

/-- A context's state (R351). -/
inductive CtxState where
  | free | idle | ready | running | saving | saved | halted
  deriving DecidableEq, Repr

/-- A hardware context (R348, R349, R351). -/
structure Ctx where
  state : CtxState := .free
  carve : Bool := false
  inter : Bool := false
  fn : Nat := 0
  partition : Nat := 0
  root : BitVec 64 := 0
  vt : BitVec 64 := 0
  prq : BitVec 64 := 0
  ovt : BitVec 64 := 0
  stackSz : Nat := 4096
  stackPool : BitVec 64 := 0
  stackPoolSz : Nat := 0
  saveBase : BitVec 64 := 0
  shadowBase : BitVec 64 := 0
  shadowSz : Nat := 0
  queuesAt : BitVec 64 := 0
  ranges : List (BitVec 64 × BitVec 64) := []
  queues : Map Queue := []
  requests : List PageReq := []
  nextTag : BitVec 16 := 0
  prqPoll : List (Nat × Nat × Nat × Requester) := []
  invAddr : BitVec 64 := 0
  invBusy : Bool := false
  invErr : Bool := false
  /-- the invalidation waits for the accesses before this id (R384) -/
  invUpto : Nat := 0
  drawNext : Nat := 0
  /-- the cores whose batch teams a save takes whole, or none for every core (R369) -/
  saveWhole : Option (List Nat) := some []
  /-- the step in which the context began to run, or was asked to save (R368, R376) -/
  since : Nat := 0
  /-- 20 µs have passed since the save request: no split of the context issues (R368) -/
  forced : Bool := false
  haltCause : BitVec 8 := 0
  deriving DecidableEq, Repr

/-- A resident overlay of a core's Chuck (R248, R251). -/
structure Overlay where
  core : Nat
  ctx : Nat
  id : Nat
  slots : List Nat
  pins : Nat := 0
  evp : Bool := false
  order : Nat := 0
  deriving DecidableEq, Repr

/-- A Chuck fill in progress (R250): the scalar keys of its tokens, and the slots and words it will take. -/
structure Fill where
  id : Nat
  core : Nat
  ctx : Nat
  ovl : Nat
  len : Nat
  image : Nat
  slots : List Nat
  tokens : List Nat
  /-- the image's words that are not zero, as the fill read them when it started (R318) -/
  words : Map (BitVec 32) := []
  /-- the cause it fails with, 0 if none -/
  failed : Nat := 0
  /-- the fill waits until the evict-pending overlay of the id is gone -/
  waitsEvict : Bool
  deriving DecidableEq, Repr

/-- Where an access goes after its checks (R42-R45, R321). -/
inductive Place where
  | abuf (core off : Nat)
  | wbuf (core off : Nat)
  /-- local or peer memory: physical address, class (0 PRIV 1 RSH 2 COH 3 OWN) after the range registers,
  and the die-table index of the home M-die (R330) -/
  | mem (pa cls home : Nat)
  | host (addr fn : Nat)
  deriving DecidableEq, Repr

/-- A single-copy atomic unit of a lane's access before it is issued: place, size and offset in the access. -/
abbrev Piece := Place × Nat × Nat

/-- One single-copy atomic unit of an access (R306). -/
structure MUnit where
  lane : Nat
  place : Place
  size : Nat
  /-- byte offset of the unit in the lane's access -/
  off : Nat
  /-- its virtual address -/
  va : Nat := 0
  value : BitVec 64 := 0
  /-- compare value of a CAS -/
  cmp : BitVec 64 := 0
  done : Bool := false
  /-- the upper four bytes of a 64-bit atomic in the STACK aperture (R45, R184) -/
  hi : Option Place := none
  /-- an uncorrectable error came with the data (R396) -/
  bad : Bool := false
  deriving DecidableEq, Repr

/-- What an access in flight is. -/
inductive MKind where
  /-- LD, LDN: destination rows by register, extension signed; SLD: destination scalar -/
  | load | sload | store
  /-- ATOM and RED with op and type -/
  | atom (op ty : Nat) (returns : Bool)
  /-- texture and image loads: the form, with its rows (R279) -/
  | tex (form : Nat)
  deriving DecidableEq, Repr

/-- What one lane of a texture load samples (R277): its texel format (3 raw, 4 nothing) and its taps, each a
unit of the access, the half of it, and a weight in 2^-24. -/
structure TexLane where
  lane : Nat
  fmt : Nat
  taps : List (Nat × Bool × Nat)
  deriving DecidableEq, Repr

/-- An access in flight (R304-R311). -/
structure MemOp where
  id : Nat
  /-- the splits in whose program order the access stands (R305) -/
  splits : List Nat
  gid : Nat
  ctx : Nat
  core : Nat
  kind : MKind
  units : List MUnit
  /-- destination: physical rows of the group, or the scalar -/
  rows : List Nat := []
  lanes : BitVec 32 := 0
  sreg : Nat := 0
  size : Nat := 4
  signed : Bool := false
  scope : Nat := 0
  acq : Bool := false
  rel : Bool := false
  pc : BitVec 32 := 0
  /-- issued inside an atomic region; the inputs its data observes, as (record, input) -/
  inRegion : Bool := false
  /-- issued in a trap handler (R398) -/
  inTrap : Bool := false
  inputs : List (Nat × Nat) := []
  /-- its region has aborted: nothing takes what it loads -/
  dropped : Bool := false
  /-- texture operands: what each lane samples -/
  tex : List TexLane := []
  deriving DecidableEq, Repr

/-- A fence, fusion or barrier phase that orders the accesses of `src` before it and those of `dst`
after it (R186, R196, R311): those before `upto` and those after `id` in issue order. -/
structure FenceMark where
  id : Nat
  upto : Nat
  src : List Nat
  dst : List Nat
  acq : Bool
  rel : Bool
  both : Bool
  /-- what completes with it in the L1s of these cores: dirty lines are written back; clean COH (1), and PRIV
  too (2), sectors are dropped (R316, R324) -/
  cores : List Nat := []
  /-- it orders ray queries too: a FENCE does not (R186) -/
  rays : Bool := true
  wb : Bool := false
  drop : Nat := 0
  deriving DecidableEq, Repr

/-- A copy in flight (R236-R246). -/
structure Copy where
  id : Nat
  form : Nat
  gid : Nat
  team : Nat
  ctx : Nat
  core : Nat
  token : Nat
  desc : List (BitVec 64)
  /-- stores of the issuing split from before the copy, which it reads (R318) -/
  after : List Nat := []
  /-- the splits in whose program order the copy stands (R305, R318) -/
  splits : List Nat := []
  /-- the source ranges still to be read: virtual address and length; of a gather also all that its indices name -/
  reads : List (Nat × Nat) := []
  committed : Nat := 0
  parked : Bool := false
  failed : Nat := 0
  targets : List Nat := []
  /-- claimed granules not yet written: space and granule number (R242) -/
  claims : List (Nat × Nat) := []
  /-- sectors whose claim the directory has granted -/
  granted : List Nat := []
  /-- the aligned 8-byte units of the source that have been read, by number, with their values: the copy reads each once
  (R240, R306); of a gather the indices among them -/
  got : List (Nat × Nat) := []
  /-- the speculative position: up to which source data has been read (R243) -/
  spec : Nat := 0
  deriving DecidableEq, Repr

/-- A quarter-op (R224): captured operands. -/
structure QOp where
  id : Nat
  gid : Nat
  team : Nat
  tile : Nat
  ovw : Bool
  map : BitVec 256
  row0 : Nat
  k0 : Nat
  rows : BitVec 16
  lanes : BitVec 32
  /-- stores of the issuing split that are to be performed first (R318) -/
  after : List Nat
  /-- the claimed bytes of A in ABUF: rows of `alen` bytes, `apitch` apart, and of B in WBUF: first and past the
  last (R229) -/
  alo : Nat
  arows : Nat
  apitch : Nat
  alen : Nat
  blo : Nat
  bhi : Nat
  deriving DecidableEq, Repr

/-- An operand element that a quarter-op read as +0 for its error (R234): SRC, OFFS, high nibble, KPOS, IDX of R235. -/
structure BadElem where
  src : Nat
  off : Nat
  hi : Bool
  kpos : Nat
  idx : Nat
  deriving DecidableEq, Repr

/-- A pass of the matrix queue (R228). -/
structure MPass where
  id : Nat
  core : Nat
  sparse : Bool
  boff : Nat
  nch : Nat
  ty : Nat
  ops : List QOp
  /-- the step that opened it, and whether it has started (R228) -/
  opened : Nat := 0
  started : Bool := false
  /-- the elements with errors that its quarter-ops have read so far, each use with the tile and the team (R234) -/
  used : List (BadElem × Nat × Nat) := []
  deriving DecidableEq, Repr

/-- An entry of a core's matrix error log (R234, R235). -/
structure MErr where
  ctx : Nat
  word : BitVec 64
  deriving DecidableEq, Repr

/-- A ray query in flight (R280-R283): its lanes with their eight ray words; the lanes that have finished with the
words they receive; the box nodes visited; whether a lane stopped at a limit. -/
structure Ray where
  id : Nat
  gid : Nat
  splits : List Nat
  team : Nat
  ctx : Nat
  core : Nat
  token : Nat
  base : BitVec 64
  first : Bool
  rows : List Nat
  rays : List (Nat × List (BitVec 32))
  results : List (Nat × List (BitVec 32)) := []
  nodes : Nat := 0
  overrun : Bool := false
  parked : Bool := false
  cause : Nat := 0
  deriving DecidableEq, Repr

/-- A tag x_k + c (R211). part: 0 a b32 row or a scalar, 1 and 2 the low and high row of a b64 pair. -/
structure Tag where
  k : Nat
  c : BitVec 64
  part : Nat
  deriving DecidableEq, Repr

/-- A symbolic input of a record (R210): slot 0-31 is a lane's record, 32 the scalar work's. -/
structure Input where
  slot : Nat
  k : Nat
  pieces : List Piece
  size : Nat
  observed : BitVec 256 := 0
  deriving DecidableEq, Repr

/-- A constraint (R212): relation 0 eq 1 ne 2 lt 3 le 4 gt 5 ge on x_k + c against a bound; 6 is the
equality of all bytes of x_k with the observed value (concretised). -/
structure Constraint where
  slot : Nat
  k : Nat
  rel : Nat
  signed : Bool
  w : Nat
  c : BitVec 64
  bound : BitVec 64
  outcome : Bool
  deriving DecidableEq, Repr

/-- A buffered store of a region (R213). -/
structure RStore where
  slot : Nat
  pieces : List Piece
  size : Nat
  value : BitVec 256
  tag : Option Tag
  /-- in the STACK aperture: written without ownership (R209) -/
  plain : Bool := false
  deriving DecidableEq, Repr

/-- An open region (R204, R208). -/
structure Region where
  target : BitVec 32
  s : Nat
  gmode : BitVec 12
  cwp : Nat
  resident : Nat
  depth : Nat
  ser : Bool
  /-- the next id when it opened: an invalidation that comes later waits for it (R384) -/
  since : Nat := 0
  issued : Nat := 0
  inputs : List Input := []
  cons : List Constraint := []
  stores : List RStore := []
  storeCount : List (Nat × Nat) := []
  tagS : List (Nat × Tag) := []
  tagV : List (Nat × Tag) := []
  /-- values before the region of the registers it wrote, under the keys of sreg, preg and vreg -/
  savedS : List (Nat × BitVec 64) := []
  savedP : List (Nat × BitVec 32) := []
  savedV : List (Nat × BitVec 32) := []
  wroteV : List Nat := []
  /-- return links before the region of those it wrote, under the keys of `link` (R107, R217) -/
  savedL : List (Nat × BitVec 32) := []
  /-- the protected sectors read or written, with their homes -/
  sectors : List (Nat × Nat) := []
  held : List Nat := []
  deriving DecidableEq, Repr

/-- A sector in a die's L2 (R327): its state, whether the directory tracks it, and its bytes. -/
structure L2Sector where
  state : Nat := 0
  home : Nat := 0
  tracked : Bool := false
  data : BitVec 512 := 0
  dirty : BitVec 64 := 0
  deriving DecidableEq, Repr

/-- A set of a die's L2 (R326, R328): its lines by way, and the bits of the pseudo-LRU tree over 16 ways, root first. -/
structure L2Set where
  lines : List (Nat × Nat) := []
  plru : BitVec 15 := 0
  deriving DecidableEq, Repr

/-- A sector in a core's L1 carve-out (R323). -/
structure L1Sector where
  cls : Nat
  home : Nat
  data : BitVec 512
  dirty : BitVec 64
  deriving DecidableEq, Repr

/-- A request on its way to a home (R329): kind 0 RDS 1 RDX 2 UPG 3 RDU 4 WRB 5 WRC 6 WRM 7 WRT; 8 is the home's own
transaction when it evicts a directory entry (R334). -/
structure Req where
  kind : Nat
  die : Nat
  sector : Nat
  home : Nat := 0
  cls : Nat := 2
  data : BitVec 512 := 0
  dirty : BitVec 64 := 0
  /-- 0 thread, 1 a copy claim, whose `dirty` names the bytes it reaches, 2 a commit, 3 a store unit written through (WRT), 4 a
  prefetch to the L1 (R188) -/
  who : Nat := 0
  /-- the copy or the split that claims, the operation of a store, or the core of a prefetch -/
  holder : Nat := 0
  /-- the unit of a store -/
  unit : Nat := 0
  /-- the sender's incarnation (R347) -/
  inc : Nat := 0
  deriving DecidableEq, Repr

/-- A home's recall of a sector from a die (R336): an invalidation or a downgrade, and its answer. -/
structure Recall where
  die : Nat
  sector : Nat
  home : Nat := 0
  inval : Bool
  answered : Bool := false
  data : Option (BitVec 512) := none
  dirty : BitVec 64 := 0
  /-- the incarnation of the sender: of the home, once answered of the die (R347) -/
  inc : Nat := 0
  deriving DecidableEq, Repr

/-- A directory sector (R334, R335): STATE 0 I 1 S 2 X 3 C 4 H 6 P, OWNER, the home that holds the entry, and the request a
transaction serves. STATE 5, O, is `own` in the entry of the block's first sector: the owner of the 4 KiB block, beside that
sector's own state, which may be P (R338, R346). SHARERS is held per line. -/
structure Dir where
  state : Nat := 0
  owner : Nat := 0
  holder : Nat := 0
  home : Nat := 0
  own : Option Nat := none
  busy : Option Req := none
  deriving DecidableEq, Repr

/-- An access from outside to device memory, or what the host sends behind one (R317, R416, R418). -/
inductive HostReq where
  | write (addr : Nat) (bytes : List (BitVec 8))
  | read (addr len : Nat)
  /-- an AtomicOp of n bytes, answered like a read -/
  | atomic (addr n : Nat) (op : HostAtomic) (value : BitVec 64)
  /-- a peer's reduction of n bytes, by operation and type of R180 -/
  | reduce (addr op ty : Nat) (value : BitVec 64)
  | doorbell (fn ctx queue : Nat) (wptr : BitVec 32)
  deriving DecidableEq, Repr

/-- An entry of a TLB (R382): the context, the number of the page at its level, and the leaf. -/
structure TlbEntry where
  ctx : Nat
  page : Nat
  leaf : BitVec 64
  level : Nat
  deriving DecidableEq, Repr

/-- A die (R333, R401, R412, R415). -/
structure Die where
  kind : Nat := 0
  /-- 0 absent, 1 in service, 2 out of service, 3 contained -/
  state : Nat := 0
  incarn : Nat := 0
  site : Nat := 0
  ord : Nat := 0
  unitsOut : Nat := 0
  coresIn : Nat := 0
  cycleBase : Nat := 0
  clock : Nat := 16
  droop : BitVec 64 := 0
  cntctl : BitVec 64 := 1
  lreq : BitVec 48 := 0
  xreq : BitVec 48 := 0
  staleDrop : BitVec 32 := 0
  errLast : BitVec 64 := 0
  errSoft : BitVec 32 := 0
  errHard : BitVec 32 := 0
  tests : List (Nat × Nat) := []
  mappedOut : List (Nat × Nat) := []
  coldPending : Bool := false
  /-- the droop monitor still finds the abnormal drop (R415) -/
  dropping : Bool := false
  deriving DecidableEq, Repr

/-- A core's own small state (R191, R234). -/
structure Core where
  carved : Nat := 0
  target : Nat := 0
  pending : Bool := false
  errlog : List MErr := []
  marks : List Nat := []
  deriving DecidableEq, Repr

/-- A partition's registers (R375). -/
structure Partition where
  w0 : BitVec 64 := 0
  w1 : BitVec 64 := 0
  w2 : BitVec 64 := 0
  w3 : BitVec 64 := 0
  w4 : BitVec 64 := 0
  w5 : BitVec 64 := 0
  w6 : BitVec 64 := 0
  w7 : BitVec 64 := 0
  /-- the queue that started a command last, context * 16 + queue (R355) -/
  rr : Nat := 0
  /-- a setting of W0 that waits for the partition's contexts to be saved (R377) -/
  want : Option (BitVec 64) := none
  deriving DecidableEq, Repr

/-- A PCIe function's registers and host interfaces (R384-R389, R417-R419). -/
structure Func where
  irq : BitVec 8 := 0
  /-- MSI-X mask bits: PCIe resets them to 1 -/
  mask : BitVec 8 := 0xFF
  pending : BitVec 8 := 0
  /-- messages sent, latest first -/
  sent : List Nat := []
  window : BitVec 64 := 0
  priStopped : Bool := false
  /-- PRI requests on their way: the 4 KiB unit, and whether write access was asked for (R387) -/
  priOutstanding : List (Nat × Bool) := []
  /-- Outstanding Page Request Allocation, which the host sets (R385) -/
  priAlloc : Nat := 2 ^ 32 - 1
  /-- ATS requests on their way: die * 64 + context, and the 4 KiB unit (R386) -/
  atsAsked : List (Nat × Nat) := []
  /-- ATS invalidations to be answered, each with the first id that came after it (R386) -/
  atsInvalid : List Nat := []
  /-- of a VF: VF Enable is set for it (R403, R419) -/
  vfEn : Bool := false
  deriving DecidableEq, Repr

/-- A Vreldo peer in the die table (R345, R347). -/
structure Peer where
  up : Bool := true
  incarn : Nat := 1
  deriving DecidableEq, Repr

/-- A Vreldo port (R420): expected sequence number per channel, bad receptions in a row of the flit at the head of each channel,
retrainings, its lanes in service, the peer at its other end once known, and the messages filed. -/
structure Port where
  next : List Nat := [0, 0, 0, 0, 0, 0]
  replays : List Nat := [0, 0, 0, 0, 0, 0]
  retrains : Nat := 0
  lanes : Nat := 2
  peer : Nat := 0
  received : List (Nat × List (BitVec 8)) := []
  deriving DecidableEq, Repr

/-- The image in both slots of a part as delivered: its magic, signatures and hash are good, its SVN is 0 (log entry 9). -/
def firstImage : FwImage :=
  { magic := 0x56574F464D524444, svn := 0, len := 0, hash := 0, edKey := 1, mlKey := 1, zeros := true, digest := 0 }

/-- The Tailstock and the PF's registers (R350, R399-R409). -/
structure Tail where
  power : Bool := true
  /-- 0 reset, 1 links, 2 explore, 3 verify, 4 load, 5 ready, 15 failed (R403) -/
  phase : Nat := 0
  failCode : Nat := 0
  /-- dies that answered EXPLORE: site, kind and arrival port, 0 the Faceplate's, n + 1 the side link to site n -/
  found : List (Nat × Nat × Nat) := []
  /-- hybrid-bond ports of the Faceplate that have trained, by site, and side links, by their two sites (R400) -/
  ports : List Nat := []
  sides : List (Nat × Nat) := []
  /-- die-table indices whose bring-up self-test failed -/
  badDies : List Nat := []
  ctxTab : BitVec 64 := 0
  ctxRefused : Bool := false
  ctxErr : Bool := false
  resetRefused : Bool := false
  resetErr : Bool := false
  /-- the nonce in the mailbox, and the one being signed (R407) -/
  nonce : BitVec 256 := 0
  signNonce : BitVec 256 := 0
  signing : Bool := false
  reportDone : Bool := false
  report : List (BitVec 8) := []
  /-- one-time storage: SHA-384 of the two public keys (R404) -/
  edKey : BitVec 384 := 1
  mlKey : BitVec 384 := 1
  /-- firmware slots A, B (R404-R406; log entry 9) -/
  fwA : FwImage := firstImage
  fwB : FwImage := firstImage
  /-- the running slot, 0 A or 1 B (R406, R407) -/
  slot : Option Nat := none
  rollback : Nat := 0
  fwSvn : Nat := 0
  hostRead : List (BitVec 8) := []
  deriving DecidableEq, Repr

/-- The manufacturing record's configuration number (R1, R402). -/
structure Part where
  g : Nat
  s : Nat
  m : Nat
  deriving DecidableEq, Repr

/-- A saved team (R366-R370): its record, its splits, groups and registers under keys relative to its
core, and its buffers when they are saved. -/
structure SavedTeam where
  team : Nat
  info : Team
  inPlace : Bool
  /-- its tiles are kept (R53, R254) -/
  acct : Bool := true
  groups : List (Nat × Group)
  splits : List (Nat × Split)
  regs : List (Nat × Nat × BitVec 64)
  bytes : List (Nat × Nat × BitVec 64)
  links : List (Nat × BitVec 32)
  maps : List (Nat × BitVec 256)
  copies : List Copy
  rays : List Ray
  deriving DecidableEq, Repr

/-- The whole machine. -/
structure State where
  /-- events still to happen, head first: which agent moves next (log entry 2) -/
  agenda : List Instr
  /-- splits the schedulers serve next, head first (log entry 2) -/
  turn : List Nat
  stepNo : Nat
  freeCtr : Nat
  /-- the next id of an operation, overlay fill, copy, pass, query or team -/
  nextId : Nat
  /-- the split that issues -/
  cur : Nat
  part : Part
  tail : Tail
  /-- Vreldo peers in the die table (R345, R347), by the numbers that stand in PA[55:48] -/
  peers : Map (Option Peer)
  /-- the switch's record of the peers that hold a sector of this package (R345): sector and peer -/
  filter : List (Nat × Nat)
  /-- what this package has sent the switch, latest first (R345) -/
  linkOut : List LinkOut
  dies : Map Die
  cores : Map Core
  splits : Map Split
  groups : Map Group
  teams : Map Team
  launches : Map Launch
  draws : Map Draw
  ctxs : Map Ctx
  partitions : Map Partition
  funcs : Map Func
  ports : Map Port
  /-- vector rows: key (group * 512 + row) * 32 + lane -/
  vreg : Map (BitVec 32)
  /-- scalars: key (group * 4 + bank) * 32 + number, bank 0 but for s24-s31 in a handler -/
  sreg : Map (BitVec 64)
  /-- predicates: key (group * 4 + bank) * 8 + number, bank 0 but for p6-p7 in a handler -/
  preg : Map (BitVec 32)
  omap : Map (BitVec 256)
  /-- return links: key (group * 32 + lane) * 8 + frame mod 8 -/
  link : Map (BitVec 32)
  /-- sticky flags: key group * 32 + lane -/
  flags : Map (BitVec 5)
  /-- pending rows and scalars: the id + 1 of the operation that will write them -/
  pendV : Map Nat
  pendS : Map Nat
  abuf : Map (BitVec 8)
  wbuf : Map (BitVec 8)
  /-- accumulator words: key (core * 2048 + tile) * 256 + element -/
  tiles : Map (BitVec 32)
  /-- 4-byte words with an uncorrectable error: key (core * 4 + space) * 2^22 + word (R322) -/
  poison : List Nat
  /-- 4-byte words with a correctable error, under the same keys (R322) -/
  soft : List Nat
  /-- sectors that stand with an uncorrectable error in an L2 or an LLC, and that nothing has read since (R340) -/
  badSecs : List Nat
  /-- Chuck words: key (core * 64 + slot) * 1024 + offset -/
  chuck : Map (BitVec 32)
  overlays : List Overlay
  fills : List Fill
  /-- local memory, LLC included, by physical address; peers under PA[55:48] (R345) -/
  mem : List Host.Cell
  /-- the home + 1 of 4 KiB frames written through a home that PLC 0 would not choose (R330, R332) -/
  homes : Map Nat
  /-- accesses from outside to device memory that wait for a sector, and what the host sent after them, in their order of arrival
  (R317, R336) -/
  hostQueue : List HostReq
  /-- host memory by untranslated host address -/
  hostMem : List Host.Cell
  l1 : Map (Option L1Sector)
  /-- the lines of an L1 set with their ways, most recently used first (R323): key core * 192 + set -/
  l1Ways : Map (List (Nat × Nat))
  l2 : Map L2Sector
  /-- key (die * 256 + slice) * 64 + set (R326) -/
  l2Ways : Map L2Set
  dir : Map Dir
  sharers : Map (BitVec 32)
  reqs : List Req
  recalls : List Recall
  /-- the lines of each LLC set (R340): key (home * 64 + slice) * 1024 + set -/
  llcWays : Map (List Nat)
  /-- presented bytes of view sectors not yet re-encoded, by home * 2^52 + sector (R343) -/
  views : Map (Option (BitVec 512))
  /-- format-region words: key (die * 8 + n) * 4 + word (R341) -/
  formats : Map (BitVec 64)
  /-- the L0 TLB of each core, most recently used first (R382) -/
  l0 : Map (List TlbEntry)
  /-- the L2 TLBs (R382): the entries of each set, by die * 1024 + set -/
  tlb : Map (List TlbEntry)
  /-- the walk caches, by die (R382): table entries of levels 3 to 1 by context, level and the part of the address that chooses
  them -/
  walks : Map (List (Nat × BitVec 64))
  /-- ATS answers held in the L2 TLBs: R and W, by die, context and 4 KiB unit (R386) -/
  ats : Map (Option (Bool × Bool))
  ops : List MemOp
  fences : List FenceMark
  copies : List Copy
  passes : List MPass
  rays : List Ray
  regions : Map (Option Region)
  faceplate : List (Nat × Nat × FpMsg)
  held : List (Nat × VPacket)
  released : List (Nat × VPacket)
  /-- frontiers received (R264): key (ctx * 32 + S-die) * 32 + G-die -/
  frontier : Map Nat
  /-- frontiers sent (R264): key ctx * 32 + G-die -/
  sentF : Map Nat
  pix : List PixGroup
  saves : List SavedTeam
  /-- the last save of every restored team that is still resident (R377) -/
  lastSaves : List SavedTeam
  deriving DecidableEq, Repr

/-- The machine right after a cold package reset (R400, R408): the Tailstock's ROM is about to run, no
die has been found, no context is loaded. What the spec gives no value is named in log entries 2 to 9. -/
def State.reset : State where
  agenda := []
  turn := []
  stepNo := 0
  freeCtr := 0
  nextId := 0
  cur := 0
  part := { g := 1, s := 4, m := 4 }
  tail := {}
  peers := []
  filter := []
  linkOut := []
  dies := []
  cores := []
  splits := []
  groups := []
  teams := []
  launches := []
  draws := []
  ctxs := []
  partitions := []
  funcs := []
  ports := []
  vreg := []
  sreg := []
  preg := []
  omap := []
  link := []
  flags := []
  pendV := []
  pendS := []
  abuf := []
  wbuf := []
  tiles := []
  poison := []
  soft := []
  badSecs := []
  chuck := []
  overlays := []
  fills := []
  mem := []
  homes := []
  hostQueue := []
  hostMem := []
  l1 := []
  l1Ways := []
  l2 := []
  l2Ways := []
  dir := []
  sharers := []
  reqs := []
  recalls := []
  llcWays := []
  views := []
  formats := []
  l0 := []
  tlb := []
  walks := []
  ats := []
  ops := []
  fences := []
  copies := []
  passes := []
  rays := []
  regions := []
  faceplate := []
  held := []
  released := []
  frontier := []
  sentF := []
  pix := []
  saves := []
  lastSaves := []

end Sys2Proof.Machine
end

