-- ==== Sys2Proof/Machine/Regs.lean ====
section
/-! DEFINITION. Access to the tables and register files of the state, the program counter, GMODE's fields
and the fetch of a word from the Chuck. -/
namespace Sys2Proof.Machine

abbrev Out := Host.Outcome State Fault Refusal

/-! ## Tables -/

def State.sp (s : State) (k : Nat) : Split := mget {} s.splits k
def State.setSp (s : State) (k : Nat) (v : Split) : State := { s with splits := mset {} s.splits k v }
def State.modSp (s : State) (k : Nat) (f : Split → Split) : State := s.setSp k (f (s.sp k))

def State.gr (s : State) (g : Nat) : Group := mget {} s.groups g
def State.setGr (s : State) (g : Nat) (v : Group) : State := { s with groups := mset {} s.groups g v }
def State.modGr (s : State) (g : Nat) (f : Group → Group) : State := s.setGr g (f (s.gr g))

def State.tm (s : State) (t : Nat) : Team := mget {} s.teams t
def State.setTm (s : State) (t : Nat) (v : Team) : State := { s with teams := mset {} s.teams t v }
def State.modTm (s : State) (t : Nat) (f : Team → Team) : State := s.setTm t (f (s.tm t))

def State.la (s : State) (n : Nat) : Launch := mget {} s.launches n
def State.modLa (s : State) (n : Nat) (f : Launch → Launch) : State :=
  { s with launches := mset {} s.launches n (f (s.la n)) }

def State.dr (s : State) (n : Nat) : Draw := mget {} s.draws n
def State.modDr (s : State) (n : Nat) (f : Draw → Draw) : State :=
  { s with draws := mset {} s.draws n (f (s.dr n)) }

def State.cx (s : State) (c : Nat) : Ctx := mget {} s.ctxs c
def State.modCx (s : State) (c : Nat) (f : Ctx → Ctx) : State :=
  { s with ctxs := mset {} s.ctxs c (f (s.cx c)) }

def State.di (s : State) (d : Nat) : Die := mget {} s.dies d
def State.modDi (s : State) (d : Nat) (f : Die → Die) : State :=
  { s with dies := mset {} s.dies d (f (s.di d)) }

def State.co (s : State) (c : Nat) : Core := mget {} s.cores c
def State.modCo (s : State) (c : Nat) (f : Core → Core) : State :=
  { s with cores := mset {} s.cores c (f (s.co c)) }

def State.fn (s : State) (n : Nat) : Func := mget {} s.funcs n
def State.modFn (s : State) (n : Nat) (f : Func → Func) : State :=
  { s with funcs := mset {} s.funcs n (f (s.fn n)) }

def State.pa (s : State) (n : Nat) : Partition := mget {} s.partitions n
def State.modPa (s : State) (n : Nat) (f : Partition → Partition) : State :=
  { s with partitions := mset {} s.partitions n (f (s.pa n)) }

def State.region (s : State) (k : Nat) : Option Region := mget none s.regions k
def State.setRegion (s : State) (k : Nat) (r : Option Region) : State :=
  { s with regions := mset none s.regions k r }

/-! ## Keys -/

def gidOf (k : Nat) : Nat := k / 4
def coreOf (g : Nat) : Nat := g / 32
def dieOf (core : Nat) : Nat := core / 64

/-- The group, core and die of the issuing split. -/
def State.cg (s : State) : Nat := gidOf s.cur
def State.cc (s : State) : Nat := coreOf s.cg
def State.me (s : State) : Split := s.sp s.cur
def State.grp (s : State) : Group := s.gr s.cg
def State.team (s : State) : Team := s.tm s.grp.team
def State.ctx (s : State) : Ctx := s.cx s.grp.ctx

/-- A G-core (R46, R75): the core's die is of kind 1. -/
def State.isG (s : State) (core : Nat) : Bool := (s.di (dieOf core)).kind == 1

/-- A fresh id. -/
def State.fresh (s : State) : State := { s with nextId := s.nextId + 1 }

/-! ## GMODE (R23) and the program counter (R16) -/

def gGuard (g : BitVec 12) : Nat := (g >>> 9).toNat
def gType (g : BitVec 12) : Nat := (g >>> 5).toNat % 16
def gRnd (g : BitVec 12) : Nat := (g >>> 2).toNat % 8
def gSat (g : BitVec 12) : Bool := g.getLsbD 1
def gFtz (g : BitVec 12) : Bool := g.getLsbD 0

def pcId (pc : BitVec 32) : Nat := pc.toNat / 65536
def pcOff (pc : BitVec 32) : Nat := pc.toNat % 65536
def mkPc (id off : Nat) : BitVec 32 := BitVec.ofNat 32 (id * 65536 + off)
def pcAdd (pc : BitVec 32) (n : Nat) : BitVec 32 := mkPc (pcId pc) (pcOff pc + n)

/-- The fall-through displacement: 1, or 2 over a live-mask word (R93). -/
def fallBy (e : Bool) : Nat := if e then 2 else 1

/-! ## Registers -/

/-- The bank in which a split finds scalar n (R287, R394). -/
def Split.bankS (sp : Split) (n : Nat) : Nat := if 24 ≤ n then sp.bank else 0
/-- The bank in which a split finds predicate n. -/
def Split.bankP (sp : Split) (n : Nat) : Nat := if 6 ≤ n then sp.bank else 0

def sKey (k : Nat) (bank n : Nat) : Nat := (gidOf k * 4 + bank) * 32 + n
def pKey (k : Nat) (bank n : Nat) : Nat := (gidOf k * 4 + bank) * 8 + n

/-- Scalar n as split k names it (R33): s0 reads zero. -/
def State.sget (s : State) (k n : Nat) : Word64 :=
  if n = 0 then 0 else mget 0 s.sreg (sKey k ((s.sp k).bankS n) n)

/-- Write scalar n; a write of s0 is discarded (R33). -/
def State.sset (s : State) (k n : Nat) (v : Word64) : State :=
  if n = 0 then s else { s with sreg := mset 0 s.sreg (sKey k ((s.sp k).bankS n) n) v }

/-- Predicate n (R34): p0 reads all ones. -/
def State.pget (s : State) (k n : Nat) : BitVec 32 :=
  if n = 0 then BitVec.allOnes 32 else mget 0 s.preg (pKey k ((s.sp k).bankP n) n)

/-- Write predicate n; a write of p0 is discarded (R34). -/
def State.pset (s : State) (k n : Nat) (v : BitVec 32) : State :=
  if n = 0 then s else { s with preg := mset 0 s.preg (pKey k ((s.sp k).bankP n) n) v }

/-- The physical row of visible register n at window pointer cwp and depth d, from the group's first row
(R27). -/
def rowOf (d cwp n : Nat) : Nat := if n < 8 then n else 8 + (40 * cwp + n - 8) % (40 * d + 16)

def vKey (g row l : Nat) : Nat := (g * 512 + row) * 32 + l

/-- The row that split k names n. -/
def State.row (s : State) (k n : Nat) : Nat := rowOf (s.gr (gidOf k)).depth (s.sp k).cwp n

def State.rowGet (s : State) (g row l : Nat) : Word32 := mget 0 s.vreg (vKey g row l)
def State.rowSet (s : State) (g row l : Nat) (v : Word32) : State :=
  { s with vreg := mset 0 s.vreg (vKey g row l) v }

/-- Register n of split k in lane l. -/
def State.vget (s : State) (k n l : Nat) : Word32 := s.rowGet (gidOf k) (s.row k n) l

/-- Write register n of split k in lane l. -/
def State.vset (s : State) (k n l : Nat) (v : Word32) : State := s.rowSet (gidOf k) (s.row k n) l v

/-- Write register n of split k in the lanes of a list, each lane its own value. -/
def State.vsets (s : State) (k n : Nat) (ls : List Nat) (f : Nat → Word32) : State :=
  ls.foldl (fun t l => t.vset k n l (f l)) s

/-- A 64-bit pair n, n+1 (R65). -/
def State.vget64 (s : State) (k n l : Nat) : Word64 := pair64 (s.vget k (n + 1) l) (s.vget k n l)

/-- The guard set (R24); on a replay only the lanes that TRET 0 reissues (R395). -/
def State.guard (s : State) (k : Nat) : BitVec 32 :=
  (s.sp k).mask &&& s.pget k (gGuard (s.sp k).gmode) &&& (s.sp k).replay.getD (BitVec.allOnes 32)

/-- The lanes of the guard set. -/
def State.glanes (s : State) (k : Nat) : List Nat := lanesOf (s.guard k)

/-- Sticky flags of lane l (R49). -/
def State.flag (s : State) (g l : Nat) : BitVec 5 := mget 0 s.flags (g * 32 + l)
def State.orFlag (s : State) (g l : Nat) (f : BitVec 5) : State :=
  { s with flags := mset 0 s.flags (g * 32 + l) (s.flag g l ||| f) }

/-- The return link of frame c in lane l (R107). -/
def linkKey (g l c : Nat) : Nat := (g * 32 + l) * 8 + c % 8
def State.linkOf (s : State) (g l c : Nat) : BitVec 32 := mget 0 s.link (linkKey g l c)
def State.setLink (s : State) (g l c : Nat) (v : BitVec 32) : State :=
  { s with link := mset 0 s.link (linkKey g l c) v }

/-! ## Code -/

/-- The first id of the system overlays (R248). -/
def sysId : Nat := 0xFF00

/-- The context number under which system overlays are listed: no context has it. -/
def sysCtx : Nat := 64

/-- The resident overlay of an id on a core (R248): a system overlay serves every context. -/
def State.overlayOf (s : State) (core ctx id : Nat) : Option Overlay :=
  s.overlays.find? fun o => o.core == core && o.id == id && (o.ctx == (if sysId ≤ id then sysCtx else ctx))

/-- The word of an overlay at an offset, none beyond its slots. -/
def State.wordAt (s : State) (o : Overlay) (off : Nat) : Option Word32 :=
  match o.slots[off / 1024]? with
  | some slot => some (mget 0 s.chuck ((o.core * 64 + slot) * 1024 + off % 1024))
  | none => none

/-- The word at a PC as a split of group g fetches it. -/
def State.fetch (s : State) (g : Nat) (pc : BitVec 32) : Option Word32 :=
  match s.overlayOf (coreOf g) (s.gr g).ctx (pcId pc) with
  | some o => s.wordAt o (pcOff pc)
  | none => none

/-- Length in words of the resident overlay of a PC, 0 if none. -/
def State.codeLen (s : State) (g : Nat) (pc : BitVec 32) : Nat :=
  match s.overlayOf (coreOf g) (s.gr g).ctx (pcId pc) with
  | some o => 1024 * o.slots.length
  | none => 0

/-- Words from a PC to its fall-through: past its live-mask word; none past the last word of an overlay (R93, R449). -/
def State.fallAt (s : State) (g : Nat) (pc : BitVec 32) : Nat :=
  match s.fetch g pc with
  | some w => fallBy (bit w 25)
  | none => if s.codeLen g pc = 0 then 1 else 0

/-! ## Cycles (R41) -/

/-- Cycles of a die's clock passed in steps a to a + n - 1; every die counts its own (R422). -/
def cyclesIn (die a : Nat) : Nat → Nat
  | 0 => 0
  | n + 1 => cyclesIn die a n + Config.cyclesPassed die (a + n)

/-- CYCLES of a die (R41). -/
def State.cycles (s : State) (d : Nat) : Nat := cyclesIn d (s.di d).cycleBase (s.stepNo - (s.di d).cycleBase)

/-! ## Waiting and waking -/

/-- Let split k wait; it keeps everything else. -/
def State.waitFor (s : State) (k : Nat) (w : Wait) : State := s.modSp k fun p => { p with wait := w }

/-- A split that waited for a resource becomes ready (R36, R37). -/
def wakeSplit (now : Nat) (p : Split) : Split :=
  if p.valid && p.wait = Wait.operand then { p with wait := .none, readySince := now, aged := false } else p

/-- Wake every split that waits for a register, counter, claim or queue: it issues again and looks. -/
def State.wake (s : State) : State :=
  { s with splits := s.splits.map fun p => (p.1, wakeSplit s.stepNo p.2) }

/-- Make one split ready. -/
def State.ready (s : State) (k : Nat) : State :=
  s.modSp k fun p => { p with wait := .none, readySince := s.stepNo, aged := false }

end Sys2Proof.Machine
end

