-- ==== Sys2Proof/Machine/Home.lean ====
section
/-! DEFINITION. What stands behind the die L2s: the choice of the home M-die (R330), the memory of a home
with its format regions (R341-R343), and accesses performed at once at dev scope, which recall what a die
L2 holds first (R307, R336). -/
namespace Sys2Proof.Machine

/-! ## The home of an address -/

/-- log₂ of the configured M-die count (R330). -/
def State.mBits (s : State) : Nat := Nat.log2 s.part.m

/-- XOR of the m-bit chunks of PA[47:from] (R330). -/
def hashHome (m base pa : Nat) : Nat :=
  if m = 0 then 0
  else (List.range 48).foldl (fun acc k => acc ^^^ ((pa % 2 ^ 48) >>> (base + m * k)) % 2 ^ m) 0

/-- The M-die index of a physical address under PLC, none where translation refuses it (R330). -/
def State.homeIndex (s : State) (plc pa : Nat) : Option Nat :=
  if plc = 0 then some (hashHome s.mBits 12 pa)
  else if plc = 1 then some (hashHome s.mBits 16 pa)
  else if 8 ≤ plc ∧ plc - 8 < s.part.m then some (plc - 8)
  else none

/-- The die-table index of the i-th die of a kind, 0 if none (R401). -/
def State.dieOfOrd (s : State) (kind i : Nat) : Nat :=
  match s.dies.find? fun p => p.2.kind == kind && p.2.ord == i && p.2.state != 0 with
  | some p => p.1
  | none => 0

/-- Home of an address the device reaches by physical address alone: PLC 0 (log entry 16). -/
def State.physHome (s : State) (pa : Nat) : Nat := s.dieOfOrd 3 (hashHome s.mBits 12 pa)

/-- A home in service (R332). -/
def State.inService (s : State) (d : Nat) : Bool := (s.di d).state == 1

/-! ## Format regions (R341-R343) -/

/-- A number on its way between formats. -/
inductive Num where
  | nan (neg : Bool)
  | inf (neg : Bool)
  /-- v / d -/
  | q (v : Int) (d : Nat)
  deriving DecidableEq, Repr

def Num.ofFmt (f : Fmt) (x : Nat) : Num :=
  if f.isNan x then .nan (f.neg x) else if f.isInf x then .inf (f.neg x) else .q (f.signed x) (2 ^ 149)

/-- An n-bit two's complement code. -/
def sOf (n x : Nat) : Int := if x.testBit (n - 1) then (x : Int) - 2 ^ n else x

/-- The n-bit code of an integer. -/
def codeOf (n : Nat) (v : Int) : Nat := (v % 2 ^ n).toNat

/-- Round to an integer, to nearest even, and clamp to n-bit two's complement (R342). -/
def clampRne (n : Nat) (v : Int) (d : Nat) : Int :=
  let k := (roundQ 0 (decide (v < 0)) v.natAbs d 0).1
  let w : Int := if v < 0 then -(k : Int) else k
  max (-(2 ^ (n - 1))) (min (2 ^ (n - 1) - 1) w)

/-- A format region's registers, decoded. -/
structure Region341 where
  sfmt : Nat
  pfmt : Nat
  view : Nat
  nblk : Nat
  store : Nat
  scale : Nat
  deriving DecidableEq, Repr

def Region341.sw (r : Region341) : Nat := if r.sfmt = 0 ∨ r.sfmt = 3 then 4 else 8
def Region341.pw (r : Region341) : Nat := if r.pfmt = 2 then 8 else 16
def Region341.viewLen (r : Region341) : Nat := r.nblk * 64 * r.pw / 8
def Region341.storeLen (r : Region341) : Nat := r.nblk * 64 * r.sw / 8
def Region341.scaleLen (r : Region341) : Nat := r.nblk * 2

def State.fmtWord (s : State) (d n w : Nat) : Word64 := mget 0 s.formats ((d * 8 + n) * 4 + w)

def State.fmtRegion (s : State) (d n : Nat) : Region341 :=
  let w0 := s.fmtWord d n 0
  { sfmt := field w0 3 1, pfmt := field w0 5 4, view := field w0 63 16 * 65536,
    nblk := field (s.fmtWord d n 1) 31 0, store := field (s.fmtWord d n 2) 63 8 * 256,
    scale := field (s.fmtWord d n 3) 63 8 * 256 }

/-- The enabled regions of a die. -/
def State.fmtOn (s : State) (d : Nat) : List Region341 :=
  ((List.range 8).filter fun n => bit (s.fmtWord d n 0) 0).map (s.fmtRegion d)

/-- The region whose view holds an address. -/
def State.viewOf (s : State) (home pa : Nat) : Option Region341 :=
  (s.fmtOn home).find? fun r => decide (r.view ≤ pa ∧ pa < r.view + r.viewLen)

/-- The stored code of element i (R341). -/
def storedCode (m : List Host.Cell) (r : Region341) (i : Nat) : Nat :=
  let b := (byteAt m (r.store + i * r.sw / 8)).toNat
  if r.sw = 8 then b else if i % 2 = 0 then b % 16 else b / 16

def storedNum (r : Region341) (c : Nat) : Num :=
  match r.sfmt with
  | 0 => .ofFmt .f4 c
  | 1 => .ofFmt .f8a c
  | 2 => .ofFmt .f8b c
  | 3 => .q (sOf 4 c) 1
  | _ => .q (sOf 8 c) 1

/-- The scale of element i's block. -/
def scaleBits (m : List Host.Cell) (r : Region341) (i : Nat) : Nat := leRead m (r.scale + 2 * (i / 64)) 2

/-- The exact product of a stored element and its scale. -/
def Num.mul (a b : Num) : Num :=
  match a, b with
  | .nan n, _ => .nan n
  | _, .nan n => .nan n
  | .inf n, .inf m => .inf (n != m)
  | .inf n, .q v _ => if v = 0 then .nan false else .inf (n != decide (v < 0))
  | .q v _, .inf n => if v = 0 then .nan false else .inf (n != decide (v < 0))
  | .q v d, .q w e => .q (v * w) (d * e)

/-- Decode element i as presented (R342). -/
def decodeElem (m : List Host.Cell) (r : Region341) (i : Nat) : Nat :=
  let c := storedCode m r i
  let sc := scaleBits m r i
  let v := (storedNum r c).mul (.ofFmt .bf16 sc)
  let neg := (match r.sfmt with | 0 => Fmt.f4.neg c | 1 => Fmt.f8a.neg c | 2 => Fmt.f8b.neg c | _ => false) != Fmt.bf16.neg sc
  let toF (f : Fmt) : Nat :=
    match v with
    | .nan _ => f.canon
    | .inf n => f.put n f.infMag
    | .q w d => (roundTo f 0 false false (if w = 0 then neg else decide (w < 0)) w.natAbs d).1
  match r.pfmt with
  | 0 => toF .bf16
  | 1 => toF .fp16
  | _ =>
    match v with
    | .nan _ => 0
    | .inf n => if n then 0x80 else 0x7F
    | .q w d => codeOf 8 (clampRne 8 w d)

/-- Encode a presented element into the stored format (R342). -/
def encodeElem (r : Region341) (sc x : Nat) : Nat :=
  let v : Num := match r.pfmt with
    | 0 => .ofFmt .bf16 x
    | 1 => .ofFmt .fp16 x
    | _ => .q (sOf 8 x) 1
  let xneg := match r.pfmt with | 0 => Fmt.bf16.neg x | 1 => Fmt.fp16.neg x | _ => false
  match Num.ofFmt .bf16 sc with
  | .nan _ => 0
  | .inf _ => 0
  | .q w d =>
    if w = 0 then 0
    else
      let sn := decide (w < 0)
      let toF (f : Fmt) : Nat :=
        match v with
        | .nan n => (match f with | .f8a => f.put n 0x7F | .f4 => 0 | _ => f.canon)
        | .inf n => f.put (n != sn) f.maxFin
        | .q a b => (roundTo f 0 true false (xneg != sn) (a.natAbs * d) (b * w.natAbs)).1
      let toS (n : Nat) : Nat :=
        match v with
        | .nan _ => 0
        | .inf m => codeOf n (if m != sn then -(2 ^ (n - 1)) else 2 ^ (n - 1) - 1)
        | .q a b => codeOf n (clampRne n ((if sn then -a else a) * d) (b * w.natAbs))
      match r.sfmt with
      | 0 => toF .f4
      | 1 => toF .f8a
      | 2 => toF .f8b
      | 3 => toS 4
      | _ => toS 8

/-! ## Sectors -/

abbrev Sector := BitVec 512

def memSector (m : List Host.Cell) (sec : Nat) : Sector := BitVec.ofNat 512 (leRead m (64 * sec) 64)

/-- The bytes of `new` where `keep` has a bit, else those of `old`. -/
def mergeBytes (keep : BitVec 64) (old new : Sector) : Sector :=
  BitVec.ofNat 512 ((List.range 64).foldl (fun acc i =>
    acc + ((((if bit keep i then new else old).toNat) >>> (8 * i)) % 256) * 256 ^ i) 0)

def memMerge (m : List Host.Cell) (sec : Nat) (keep : BitVec 64) (data : Sector) : List Host.Cell :=
  leMerge m (64 * sec) (fun i => bit keep i) 64 0 data.toNat

def viewKey (home sec : Nat) : Nat := home * 2 ^ 52 + sec

/-- First element index and count of a view sector. -/
def viewElems (r : Region341) (sec : Nat) : Nat × Nat := ((64 * sec - r.view) * 8 / r.pw, 512 / r.pw)

/-- Decode a whole view sector. -/
def decodeSector (m : List Host.Cell) (r : Region341) (sec : Nat) : Sector :=
  let (i0, n) := viewElems r sec
  BitVec.ofNat 512 ((List.range n).foldl (fun acc j => acc + decodeElem m r (i0 + j) * 2 ^ (r.pw * j)) 0)

/-- Write the stored code of element i. -/
def putStored (m : List Host.Cell) (r : Region341) (i c : Nat) : List Host.Cell :=
  let a := r.store + i * r.sw / 8
  if r.sw = 8 then setByte m a (BitVec.ofNat 8 c)
  else
    let b := (byteAt m a).toNat
    setByte m a (BitVec.ofNat 8 (if i % 2 = 0 then b / 16 * 16 + c % 16 else c % 16 * 16 + b % 16))

/-- The key of a sector in a die's L2. -/
def l2Key (die sec : Nat) : Nat := die * 2 ^ 52 + sec

def State.l2At (s : State) (die sec : Nat) : L2Sector := mget {} s.l2 (l2Key die sec)
def State.setL2 (s : State) (die sec : Nat) (v : L2Sector) : State :=
  { s with l2 := mset {} s.l2 (l2Key die sec) v }

/-- The dies whose L2 holds a sector in a state other than I. -/
def State.holders (s : State) (sec : Nat) : List Nat :=
  (List.range 32).filter fun d => (s.l2At d sec).state != 0

/-! ## The directory's tables -/

def State.dirAt (s : State) (sec : Nat) : Dir := mget {} s.dir sec
def State.setDir (s : State) (sec : Nat) (v : Dir) : State := { s with dir := mset {} s.dir sec v }
/-- SHARERS of a sector's 256-byte line (R334). -/
def State.sharersOf (s : State) (sec : Nat) : BitVec 32 := mget 0 s.sharers (sec / 4)
def State.setSharers (s : State) (sec : Nat) (v : BitVec 32) : State :=
  { s with sharers := mset 0 s.sharers (sec / 4) v }

/-- The first sector of a 4 KiB OWN block (R338). -/
def blockOf (sec : Nat) : Nat := sec / 64 * 64

/-- The owner of an OWN block, if it is owned (R335, R338). -/
def State.ownerOf (s : State) (sec : Nat) : Option Nat :=
  (s.dirAt (blockOf sec)).own

/-- The directory and the requests in flight leave a sector to an access that is performed at once: no copy claims it, no commit
holds it, no transaction is under way (R336). -/
def State.secFree (s : State) (sec : Nat) : Bool :=
  let d := s.dirAt sec
  d.state != 3 && d.state != 4 && d.busy.isNone

/-- Nothing keeps a sector from an access that is performed at once: neither its directory, nor a peer that holds it (R345). -/
def State.secNow (s : State) (sec : Nat) : Bool := s.secFree sec && !s.filter.any fun p => p.1 == sec

/-- The first reader of an uncorrectable sector of an L2 or an LLC: the sector is lost (R340, R346). -/
def State.loseSector (s : State) (sec : Nat) : State :=
  { s with badSecs := s.badSecs.filter fun x => x != sec, dir := mset {} s.dir sec { s.dirAt sec with state := 6, holder := 0 } }

/-! ## Request counters (R333) -/

/-- The affinity M-die of a die (R333). -/
def State.affinity (s : State) (die : Nat) : Nat := s.dieOfOrd 3 ((s.di die).ord % max 1 s.part.m)

/-- CNTCTL's selection of a request kind (R333). -/
def counted (ctl : Word64) (kind : Nat) : Bool :=
  !bit ctl 3 && (if kind = 0 ∨ kind = 3 then bit ctl 0 else if kind = 1 ∨ kind = 2 then bit ctl 1 else bit ctl 2)

/-- Count a request of a G- or S-die to an M-die of the package (R333). -/
def State.countReq (s : State) (q : Req) : State :=
  if 31 ≤ q.die ∨ 32 ≤ q.home ∨ ¬ counted (s.di q.die).cntctl q.kind then s
  else s.modDi q.die fun d =>
    if q.home = s.affinity q.die then { d with lreq := d.lreq + 1 } else { d with xreq := d.xreq + 1 }

/-- A G- or S-die counts a message that it drops (R333, R347); an M-die has no such counter. -/
def State.countStale (s : State) (die : Nat) : State :=
  if (s.di die).kind = 1 ∨ (s.di die).kind = 2 then
    s.modDi die fun d => { d with staleDrop := if d.staleDrop = BitVec.allOnes 32 then d.staleDrop else d.staleDrop + 1 }
  else s

/-! ## Views at work (R340, R343) -/

/-- A unit of a die is mapped out (R411). -/
def State.unitOut (s : State) (die kind number : Nat) : Bool := (s.di die).mappedOut.contains (kind, number)

/-- Slice and set of the LLC of a home that hold a sector's line (R340); the lines of a slice that is mapped out go to the slice 32 on
(R411). -/
def State.llcPlace (s : State) (home sec : Nat) : Nat × Nat :=
  let pa := 64 * sec % 2 ^ 48
  let n := (List.range 7).foldl (fun x k => x ^^^ (pa >>> (8 + 6 * k)) % 64) 0
  (if s.unitOut home 2 n then (n + 32) % 64 else n, (pa >>> 16) % 1024)

/-- The key of the LLC set of a home that holds a sector's line (R340). -/
def State.llcSet (s : State) (home sec : Nat) : Nat :=
  let p := s.llcPlace home sec
  (home * 64 + p.1) * 1024 + p.2

/-! ## Interrupts (R417) -/

/-- Set IRQCAUSE bit v of a function; the message goes when the bit rises and is not masked (R417). -/
def State.raiseIrq (s : State) (fn v : Nat) : State :=
  s.modFn fn fun f =>
    if bit f.irq v then f
    else
      let b : BitVec 8 := (1 : BitVec 8) <<< v
      if bit f.mask v then { f with irq := f.irq ||| b, pending := f.pending ||| b }
      else { f with irq := f.irq ||| b, sent := v :: f.sent }

/-- The PF's error interrupt (R417). -/
def State.errorIrq (s : State) : State := s.raiseIrq 0 1

/-! ## Units under test (R411) -/

/-- The word at offset 0x0800: unit kind, unit number, class (R412). -/
def errWord0 (kind number cls : Nat) : Word64 := BitVec.ofNat 64 (kind % 256 + 256 * (number % 65536) + 2 ^ 24 * cls)

/-- A test of a unit runs. -/
def State.testing (s : State) (die kind number : Nat) : Bool := (s.di die).tests.contains (kind, number)

/-- A detected error starts the test of a unit, or joins the running one; the log notes it and the error interrupt is raised
(R411, R412, R417). -/
def State.startTest (s : State) (die kind number : Nat) : State :=
  if s.testing die kind number then s
  else (s.modDi die fun x => { x with tests := x.tests ++ [(kind, number)], errLast := errWord0 kind number 0 }).errorIrq

/-- A request for a sector waits at its home: its LLC slice is under test, or the channel that holds it, unless the LLC has the line
(R411). Which channel holds it is open (log entry 90). -/
def State.homeTested (s : State) (home sec : Nat) : Bool :=
  decide (home < 32) && (s.testing home 2 (s.llcPlace home sec).1
    || (s.testing home 5 (Config.memChannel sec % 12) && !(mget [] s.llcWays (s.llcSet home sec)).contains (sec / 4)))

/-- The set of a die's L2 that holds a sector's line, by its key (R326); the lines of a slice that is mapped out go to the slice 128 on
(R411). -/
def State.l2SetOf (s : State) (die sec : Nat) : Nat :=
  let pa := 64 * sec % 2 ^ 48
  let n := (List.range 5).foldl (fun x k => x ^^^ (pa >>> (8 + 8 * k)) % 256) 0
  (die * 256 + (if s.unitOut die 1 n then (n + 128) % 256 else n)) * 64 + (pa >>> 16) % 64

/-- The slice of a die's L2 that holds a sector's line. -/
def State.l2Slice (s : State) (die sec : Nat) : Nat := s.l2SetOf die sec / 64 % 256

/-- A die's access to a sector waits for a test: of its L2 slice, or of what it needs at the home. -/
def State.memTested (s : State) (die sec home : Nat) : Bool :=
  s.testing die 1 (s.l2Slice die sec) || ((s.l2At die sec).state == 0 && s.homeTested home sec)

/-- A die reads an uncorrectable sector of an L2 or an LLC: it is lost, and the slice that holds it is tested (R340, R411). -/
def State.meetBad (s : State) (die sec home : Nat) : State :=
  if (s.l2At die sec).state ≠ 0 then (s.loseSector sec).startTest die 1 (s.l2Slice die sec)
  else if home < 32 then (s.loseSector sec).startTest home 2 (s.llcPlace home sec).1
  else s.loseSector sec

/-- The homes of frames, with that of a sector written through `home`. -/
def State.noteHome (s : State) (home sec : Nat) : Map Nat :=
  if home = s.physHome (64 * sec) ∨ 32 ≤ home then s.homes else mset 0 s.homes (64 * sec / 4096) (home + 1)

/-- Re-encode one dirty view sector (R343): dies holding it give it up first, as for a write by the M-die. -/
def State.reencode (s : State) (home sec : Nat) (r : Region341) : State :=
  let s := (s.holders sec).foldl (fun t d =>
    let e := t.l2At d sec
    let v := (mget none t.views (viewKey home sec)).getD (decodeSector t.mem r sec)
    let t := if e.state = 3 then
        { t.countReq { kind := if e.tracked then 4 else 6, die := d, sector := sec, home := home } with
          views := mset none t.views (viewKey home sec) (some (mergeBytes e.dirty v e.data)) }
      else t
    t.setL2 d sec {}) s
  let x := s.dirAt sec
  let s := if (x.state = 1 ∨ x.state = 2) ∧ x.busy.isNone then s.setDir sec { x with state := 0 } else s
  match mget none s.views (viewKey home sec) with
  | none => s
  | some data =>
    let (i0, n) := viewElems r sec
    let m := (List.range n).foldl (fun m j =>
      putStored m r (i0 + j) (encodeElem r (scaleBits m r (i0 + j)) ((data.toNat >>> (r.pw * j)) % 2 ^ r.pw))) s.mem
    { s with mem := m, views := mset none s.views (viewKey home sec) none, homes := s.noteHome home ((r.store + i0 * r.sw / 8) / 64) }

/-- The sectors of a region's view that are dirty, in the LLC or in a die's L2. -/
def State.dirtyViews (s : State) (home : Nat) (r : Region341) : List Nat :=
  let llc := (s.views.filter fun p => decide (p.1 / 2 ^ 52 = home)).map fun p => p.1 % 2 ^ 52
  let l2 := (s.l2.filter fun p => p.2.state == 3 && p.2.home == home).map fun p => p.1 % 2 ^ 52
  (llc ++ l2).dedup.filter fun sec => decide (r.view ≤ 64 * sec ∧ 64 * sec < r.view + r.viewLen)

/-- Re-encode what an access to bytes lo..hi-1 of a home forces (R343). -/
def State.forceViews (s : State) (home lo hi : Nat) : State :=
  (s.fmtOn home).foldl (fun t r =>
    (t.dirtyViews home r).foldl (fun t sec =>
      let (i0, n) := viewElems r sec
      let slo := r.store + i0 * r.sw / 8
      let shi := r.store + (i0 + n) * r.sw / 8
      let clo := r.scale + 2 * (i0 / 64)
      if (lo < shi ∧ slo < hi) ∨ (lo < clo + 2 ∧ clo < hi) then t.reencode home sec r else t) t) s

/-- The dirty view sectors of a line are re-encoded as it leaves the LLC (R343). -/
def State.llcEvict (s : State) (home line : Nat) : State :=
  (List.range 4).foldl (fun t i =>
    let sec := 4 * line + i
    match mget none t.views (viewKey home sec), t.viewOf home (64 * sec) with
    | some _, some r => t.reencode home sec r
    | _, _ => t) s

/-- A sector's line takes its place in the LLC of its home: 16 ways, of which one gives its line up when all are taken; which one is
open (R340; log entry 77). -/
def State.llcUse (s : State) (home sec : Nat) : State :=
  let key := s.llcSet home sec
  let ws := mget [] s.llcWays key
  let line := sec / 4
  if 32 ≤ home ∨ ws.contains line then s
  else if ws.length < 16 then { s with llcWays := mset [] s.llcWays key (line :: ws) }
  else
    let v := (ws[Config.llcVictim s.freeCtr % ws.length]?).getD 0
    State.llcEvict { s with freeCtr := s.freeCtr + 1, llcWays := mset [] s.llcWays key (line :: ws.erase v) } home v

/-- The lines of a set of keys of the LLC take their places anew, when a slice is mapped out (R411). -/
def State.llcMove (s : State) (home slice : Nat) : State :=
  let mine (k : Nat) : Bool := k / 1024 == home * 64 + slice
  let lines := (s.llcWays.filter fun p => mine p.1).flatMap fun p => p.2
  lines.foldl (fun t l => t.llcUse home (4 * l)) { s with llcWays := s.llcWays.filter fun p => !mine p.1 }

/-- Read a sector at its home (R340, R342). -/
def State.homeRead (s : State) (home sec : Nat) : State × Sector :=
  let s := s.llcUse home sec
  match s.viewOf home (64 * sec) with
  | some r =>
    (s, (mget none s.views (viewKey home sec)).getD (decodeSector s.mem r sec))
  | none =>
    let t := s.forceViews home (64 * sec) (64 * sec + 64)
    (t, memSector t.mem sec)

/-- Merge bytes into a sector at its home (R321, R343). -/
def State.homeMerge (s : State) (home sec : Nat) (keep : BitVec 64) (data : Sector) : State :=
  if keep = 0 then s
  else
    let s := s.llcUse home sec
    match s.viewOf home (64 * sec) with
    | some r =>
      let old := (mget none s.views (viewKey home sec)).getD (decodeSector s.mem r sec)
      { s with views := mset none s.views (viewKey home sec) (some (mergeBytes keep old data)) }
    | none =>
      let t := s.forceViews home (64 * sec) (64 * sec + 64)
      { t with mem := memMerge t.mem sec keep data, homes := t.noteHome home sec }

/-! ## Recalls performed at once -/

/-- A die gives up a sector at once: dirty data goes home (R336). -/
def State.dropL2 (s : State) (die sec : Nat) : State :=
  let e := s.l2At die sec
  if e.state = 3 then (s.homeMerge e.home sec e.dirty e.data).setL2 die sec {} else s.setL2 die sec {}

/-- A die answers a recall at once: its dirty data goes home as a WRB (R329, R336). -/
def State.recallL2 (s : State) (die sec : Nat) : State :=
  let e := s.l2At die sec
  (if e.state = 3 then s.countReq { kind := 4, die := die, sector := sec, home := e.home } else s).dropL2 die sec

/-- A die writes a tracked dirty sector back, as a WRB, and keeps it shared (R329, R336). -/
def State.downL2 (s : State) (die sec : Nat) : State :=
  let e := s.l2At die sec
  if e.state = 3 then
    ((s.countReq { kind := 4, die := die, sector := sec, home := e.home }).homeMerge e.home sec e.dirty e.data).setL2 die sec
      { e with state := 1, dirty := 0 }
  else if e.state = 2 then s.setL2 die sec { e with state := 1 }
  else s

/-- Tracked holders of a sector. -/
def State.tracked (s : State) (sec : Nat) : List Nat :=
  (s.holders sec).filter fun d => (s.l2At d sec).tracked

/-- Make the home's bytes of a tracked sector current: its one dirty holder is downgraded. -/
def State.settleSector (s : State) (sec : Nat) : State :=
  let t := (s.tracked sec).foldl (fun t d => t.downL2 d sec) s
  let d := t.dirAt sec
  if d.state = 2 then
    (t.setDir sec { d with state := 1 }).setSharers sec (t.sharersOf sec ||| maskOf [d.owner])
  else t

/-- Recall a tracked sector from every die: all that was dirty is home. -/
def State.recallSector (s : State) (sec : Nat) : State :=
  let t := (s.tracked sec).foldl (fun t d => t.recallL2 d sec) s
  let d := t.dirAt sec
  if d.state = 1 ∨ d.state = 2 then t.setDir sec { d with state := 0 } else t

/-! ## Accesses performed at once at dev scope -/

/-- The bytes a..a+n-1 of a sector as a number, as far as they lie in it. -/
def sectorPart (x : Sector) (sec a n : Nat) : Nat :=
  (List.range 64).foldl (fun v i =>
    let b := 64 * sec + i
    if a ≤ b ∧ b < a + n then v + ((x.toNat >>> (8 * i)) % 256) * 256 ^ (b - a) else v) 0

/-- The mask and the sector image of a write of n bytes at a. -/
def sectorMask (sec a n : Nat) : BitVec 64 := ofBits 64 fun i => decide (a ≤ 64 * sec + i ∧ 64 * sec + i < a + n)
def sectorImage (sec a n v : Nat) : Sector :=
  BitVec.ofNat 512 ((List.range 64).foldl (fun acc i =>
    let b := 64 * sec + i
    if a ≤ b ∧ b < a + n then acc + ((v / 256 ^ (b - a)) % 256) * 256 ^ i else acc) 0)

/-- A 64-bit word as a table walk reads it: in the LLC of its home, bypassing every L2 (R343, R382). -/
def State.walkWord (s : State) (a : Nat) : State × Word64 :=
  let (t, x) := s.homeRead (s.physHome a) (a / 64)
  (t, BitVec.ofNat 64 (sectorPart x (a / 64) a 8))

/-- The sectors of a byte range. -/
def sectorsOf (a n : Nat) : List Nat :=
  if n = 0 then [] else (List.range ((a + n - 1) / 64 - a / 64 + 1)).map fun i => a / 64 + i

/-- Read n bytes at a physical address, as an agent at dev scope sees them. -/
def State.devRead (s : State) (home a n : Nat) : State × Nat :=
  (sectorsOf a n).foldl (fun (acc : State × Nat) sec =>
    let t := acc.1.settleSector sec
    let (t, x) := t.homeRead home sec
    (t, acc.2 + sectorPart x sec a n)) (s, 0)

/-- Write the low n bytes of v at a physical address, performed at dev scope. -/
def State.devWrite (s : State) (home a n v : Nat) : State :=
  (sectorsOf a n).foldl (fun t sec =>
    (t.recallSector sec).homeMerge home sec (sectorMask sec a n) (sectorImage sec a n v)) s

/-- A 64-bit word of device memory by physical address, as the device's own tables are read; the error answer of a home out of
service brings no data, and it reads as zero (R332; log entry 79). -/
def State.physWord (s : State) (a : Nat) : Word64 :=
  if s.inService (s.physHome a) then BitVec.ofNat 64 ((s.devRead (s.physHome a) a 8).2) else 0

/-- Write a 64-bit word of device memory by physical address; a home out of service takes nothing (R332; log entry 79). -/
def State.physPut (s : State) (a : Nat) (v : Word64) : State :=
  if s.inService (s.physHome a) then s.devWrite (s.physHome a) a 8 v.toNat else s

/-- n bytes of memory from an address on take values that the spec leaves open, those of the i-th such write. -/
def openBytes (i : Nat) (m : List Host.Cell) (a : Nat) : Nat → List Host.Cell
  | 0 => m
  | n + 1 => openBytes i (setByte m a (Config.saveByte i a)) (a + 1) n

/-- The device writes what programs do not interpret, in a layout that is its own, to n bytes of device memory (R266, R370; log entry
10); no cache keeps an older copy. -/
def State.writeOpen (s : State) (a n : Nat) : State :=
  let out (sec : Nat) : Bool := !decide (a / 64 ≤ sec ∧ 64 * sec < a + n)
  { s with mem := openBytes s.freeCtr s.mem a n, freeCtr := s.freeCtr + 1,
           l1 := s.l1.filter fun p => out (p.1 % 2 ^ 52), l2 := s.l2.filter fun p => out (p.1 % 2 ^ 52),
           views := s.views.filter fun p => out (p.1 % 2 ^ 52) }

end Sys2Proof.Machine
end

