-- ==== Sys2Proof/Machine/Translate.lean ====
section
/-! DEFINITION. Apertures (R42-R45), the page walk (R378-R381), TLBs (R382), host pages (R386), range
registers (R344), and the trap cause codes (R390). -/
namespace Sys2Proof.Machine

/-! ## Cause codes (R390) -/

def cPriv : Nat := 0x01
def cAlign : Nat := 0x02
def cXlate : Nat := 0x03
def cPerm : Nat := 0x04
def cApert : Nat := 0x05
def cWspill : Nat := 0x06
def cWfill : Nat := 0x07
def cOvmiss : Nat := 0x08
def cOvfault : Nat := 0x09
def cOvquota : Nat := 0x0A
def cStream : Nat := 0x0B
def cSyncmask : Nat := 0x0C
def cSplitovf : Nat := 0x0D
def cEmudepth : Nat := 0x0E
def cEccu : Nat := 0x0F
def cContain : Nat := 0x10
def cTrapi : Nat := 0x11
def cBrkpt : Nat := 0x12
def cAccrange : Nat := 0x13
def cBufrange : Nat := 0x14
def cRestore : Nat := 0x20
def cCmderr : Nat := 0x21
def cSpillfull : Nat := 0x22
def cPagefail : Nat := 0x23

/-- The order of causes where no chapter fixes one (R391). -/
def causeOrder : List Nat :=
  [cPriv, cStream, cSyncmask, cAlign, cApert, cAccrange, cBufrange, cXlate, cPerm, cEccu, cSplitovf,
   cWspill, cWfill, cOvmiss, cOvfault, cOvquota, cTrapi, cBrkpt]

/-! ## The walk -/

/-- Table index at a level (R378). -/
def walkIndex (level va : Nat) : Nat :=
  match level with
  | 3 => va / 2 ^ 43 % 8192
  | 2 => va / 2 ^ 30 % 8192
  | 1 => va / 2 ^ 21 % 512
  | _ => va / 2 ^ 16 % 32

/-- What a walk ends with (R381): the entry read last, and the level of a leaf; or the error answer of a home (R332). -/
inductive Walk where
  | leaf (e : Word64) (level : Nat)
  | absent (e : Word64)
  | malformed (e : Word64)
  | contained
  deriving DecidableEq, Repr

/-- Malformed entries with V = 1 (R379). -/
def State.badEntry (s : State) (level : Nat) (e : Word64) : Bool :=
  let pa := field e 55 16 * 65536
  if bit e 1 then
    level == 3 || field e 15 12 != 0 || field e 63 56 != 0
    || (level == 1 && field e 20 16 != 0) || (level == 2 && field e 29 16 != 0)
    || (bit e 5 && (field e 7 6 != 0 || field e 11 8 != 0))
    || (!bit e 5 && (s.homeIndex (field e 11 8) pa).isNone)
    || (!bit e 5 && field e 55 48 != 0 && (mget none s.peers (field e 55 48)).isNone)
  else
    level == 0 || field e 7 2 != 0 || field e 63 56 != 0 || field e 55 48 != 0
    || (level == 3 && field e 15 8 != 0) || (level == 2 && field e 11 8 != 0)

/-- The entry of a table for an address, as a walk reads it at the home; none where the home is out of service (R332). -/
def State.walkRead (s : State) (level table va : Nat) : State × Option Word64 :=
  let a := table + 8 * walkIndex level va
  if s.inService (s.physHome a) then (let (t, e) := s.walkWord a; (t, some e)) else (s, none)

/-- Walk from a table at a level; the first argument is the level + 1 (R378-R381). -/
def State.walk (s : State) : Nat → Nat → Nat → Walk
  | 0, _, _ => .absent 0
  | level + 1, table, va =>
    match (s.walkRead level table va).2 with
    | none => .contained
    | some e =>
      if !bit e 0 then .absent e
      else if s.badEntry level e then .malformed e
      else if bit e 1 then .leaf e level
      else s.walk level (field e 55 8 * 256) va

/-- Bytes of a page at a level. -/
def pageBytes (level : Nat) : Nat := if level = 2 then 2 ^ 30 else if level = 1 then 2 ^ 21 else 2 ^ 16

/-! ## The walk cache and the TLBs (R382): an L0 per core, an L2 and a walk cache per die, tagged with the context -/

/-- Bytes of address space that one entry of a level's table covers. -/
def levelSpan (level : Nat) : Nat := match level with | 3 => 2 ^ 43 | 2 => 2 ^ 30 | 1 => 2 ^ 21 | _ => 2 ^ 16

/-- What chooses an entry of a walk cache: context, level, and the part of the address. -/
def walkKey (ctx level va : Nat) : Nat := (ctx * 4 + level) * 2 ^ 40 + va / levelSpan level % 2 ^ 40

/-- What a die's walk cache holds. -/
def State.walkLook (s : State) (die ctx level va : Nat) : Option Word64 :=
  ((mget [] s.walks die).find? fun e => e.1 == walkKey ctx level va).map fun e => e.2

/-- A list takes an entry; of `n` that it holds one gives way, which one is open (R382; log entry 14). -/
def takeEntry {α : Type} [DecidableEq α] (ctr n : Nat) (x : α) (xs : List α) : List α :=
  if xs.length < n then x :: xs else x :: xs.eraseIdx (Config.tlbVictim ctr % xs.length)

/-- An entry of a table enters the walk cache: 512 entries. -/
def State.fillWalk (s : State) (die ctx level va : Nat) (e : Word64) : State :=
  { s with walks := mset [] s.walks die (takeEntry s.freeCtr 512 (walkKey ctx level va, e) (mget [] s.walks die)), freeCtr := s.freeCtr + 1 }

/-- A walk by a die's walkers: a table entry that the walk cache holds is not read, one that is read enters it (R382). -/
def State.walkFrom (s : State) (die ctx : Nat) : Nat → Nat → Nat → State × Walk
  | 0, _, _ => (s, .absent 0)
  | level + 1, table, va =>
    match s.walkLook die ctx level va with
    | some e => s.walkFrom die ctx level (field e 55 8 * 256) va
    | none =>
      match s.walkRead level table va with
      | (s, none) => (s, .contained)
      | (s, some e) =>
        if !bit e 0 then (s, .absent e)
        else if s.badEntry level e then (s, .malformed e)
        else if bit e 1 then (s, .leaf e level)
        else (s.fillWalk die ctx level va e).walkFrom die ctx level (field e 55 8 * 256) va

/-- An entry maps an address of a context. -/
def TlbEntry.maps (e : TlbEntry) (ctx va : Nat) : Bool := e.ctx == ctx && e.page == va / pageBytes e.level

/-- The key of the set of a die's L2 TLB for a page of a level: 1 024 sets of 8 ways; which set a page takes is open (R382; log entry
14). -/
def tlbSetKey (die ctx level va : Nat) : Nat := die * 1024 + Config.tlbSet ctx level (va / pageBytes level) % 1024

/-- The L2 TLB is probed for all three sizes of page (R382). -/
def State.tlbLook (s : State) (die ctx va : Nat) : Option TlbEntry :=
  [0, 1, 2].findSome? fun level =>
    (mget [] s.tlb (tlbSetKey die ctx level va)).find? fun e => e.maps ctx va && e.level == level

/-- The L2 TLB takes an entry. -/
def State.fillTlb (s : State) (die va : Nat) (e : TlbEntry) : State :=
  let key := tlbSetKey die e.ctx e.level va
  { s with tlb := mset [] s.tlb key (takeEntry s.freeCtr 8 e (mget [] s.tlb key)), freeCtr := s.freeCtr + 1 }

/-- The L0 takes an entry as its most recently used: 64 entries, of which the least recently used goes (R382). -/
def State.fillL0 (s : State) (core : Nat) (e : TlbEntry) : State :=
  { s with l0 := mset [] s.l0 core ((e :: (mget [] s.l0 core).erase e).take 64) }

/-- The translation of a page: L0, then L2, then a walk, which fills both (R382). -/
def State.lookup (s : State) (core ctx va : Nat) : State × Walk :=
  match (mget [] s.l0 core).find? fun e => e.maps ctx va with
  | some e => (s.fillL0 core e, .leaf e.leaf e.level)
  | none =>
    match s.tlbLook (dieOf core) ctx va with
    | some e => (s.fillL0 core e, .leaf e.leaf e.level)
    | none =>
      match s.walkFrom (dieOf core) ctx 4 (s.cx ctx).root.toNat va with
      | (s, .leaf e level) =>
        let x : TlbEntry := { ctx := ctx, page := va / pageBytes level, leaf := e, level := level }
        ((s.fillTlb (dieOf core) va x).fillL0 core x, .leaf e level)
      | (s, w) => (s, w)

/-! ## Translated accesses -/

/-- What an access needs of its page (R380). -/
structure Need where
  r : Bool := false
  w : Bool := false
  o : Bool := false
  /-- a copy's destination: a copy may write the whole of a lost sector (R346) -/
  copy : Bool := false
  deriving DecidableEq, Repr

def needLoad : Need := { r := true }
def needStore : Need := { w := true }
def needAtomic : Need := { r := true, w := true }
def needFill : Need := { r := true, o := true }

/-- The outcome of a translation. -/
inductive Xl where
  /-- the place; `stack` when the 4-byte words of the access lie 128 bytes apart (R45) -/
  | ok (p : Place) (stack : Bool)
  | fault (cause : Nat) (entry : Word64)
  /-- not present: XLATE, or a non-resident lane of LDN (R176, R381) -/
  | absent (entry : Word64)
  /-- an ATS request is on its way (R386) -/
  | wait
  /-- the home or peer is out of service, or the sector is lost (R332, R346) -/
  | contained
  deriving DecidableEq, Repr

/-- An address lies in an enabled non-coherent range of the context (R344). -/
def Ctx.inRange (c : Ctx) (va : Nat) : Bool :=
  c.ranges.any fun r => bit r.1 0 && decide (field r.1 63 16 ≤ va / 65536 ∧ va / 65536 ≤ field r.2 63 16)

/-- The home of local memory under a page entry, or of a peer (R330, R345): 32 + peer for a peer. -/
def State.homeOf (s : State) (plc pa : Nat) : Nat :=
  if pa / 2 ^ 48 ≠ 0 then 32 + pa / 2 ^ 48
  else s.dieOfOrd 3 ((s.homeIndex plc pa).getD 0)

/-- A Vreldo peer that is not lost (R345, R346). -/
def State.peerUp (s : State) (peer : Nat) : Bool := match mget none s.peers peer with | some p => p.up | none => false

/-- The incarnation of a peer (R347). -/
def State.peerInc (s : State) (peer : Nat) : Nat := match mget none s.peers peer with | some p => p.incarn | none => 0
def State.setPeer (s : State) (peer : Nat) (p : Peer) : State := { s with peers := mset none s.peers peer (some p) }

/-- A home that answers: an M-die in service, or a peer that is not lost. -/
def State.homeUp (s : State) (home : Nat) : Bool :=
  if home < 32 then s.inService home else s.peerUp (home - 32)

/-- The part of an ATS answer's key that names the L2 TLB and the context. -/
def atsUnit (die ctx : Nat) : Nat := die * 64 + ctx
def atsKey (die ctx unit : Nat) : Nat := atsUnit die ctx * 2 ^ 52 + unit

/-- The second step of a HOST page, by the L2 TLB of a die (R386). -/
def State.hostPlace (s : State) (die ctx : Nat) (need : Need) (addr : Nat) : State × Xl :=
  let fn := (s.cx ctx).fn
  let u := addr / 4096
  match mget none s.ats (atsKey die ctx u) with
  | none =>
    if (s.fn fn).atsAsked.contains (atsUnit die ctx, u) then (s, .wait)
    else (s.modFn fn fun f => { f with atsAsked := f.atsAsked ++ [(atsUnit die ctx, u)] }, .wait)
  | some (r, w) =>
    let w4 : Word64 := BitVec.ofNat 64 ((if r then 1 else 0) + if w then 2 else 0)
    if !r && !w then (s, .absent w4)
    else if (need.r && !r) || (need.w && !w) then (s, .fault cXlate w4)
    else (s, .ok (.host addr fn) false)

/-- Translate a global address for an access of a context from a core (R378-R386, R344). Of a local frame every PA[47:0] is
memory of its home, also beyond the 96 GB x M that the part holds: R5 and R379 refuse no such frame (log entry 80). -/
def State.translate (s : State) (core ctx va : Nat) (need : Need) : State × Xl :=
  let (s, w) := s.lookup core ctx va
  match w with
  | .absent e => (s, .absent e)
  | .malformed e => (s, .fault cXlate e)
  | .contained => (s, .contained)
  | .leaf e level =>
    let pa := field e 55 16 * 65536 / pageBytes level * pageBytes level + va % pageBytes level
    let cls := field e 7 6
    if (need.r && !bit e 2) || (need.w && !bit e 3) || (need.o && !bit e 4) || (need.w && cls == 1) then
      (s, .fault (if need.o then cOvfault else cPerm) e)
    else if bit e 5 then s.hostPlace (dieOf core) ctx need (field e 55 16 * 65536 + va % pageBytes level)
    else
      let home := s.homeOf (field e 11 8) pa
      let cls' := if (s.cx ctx).inRange va && decide (cls ≥ 2 ∧ pa / 2 ^ 48 = 0) then 0 else cls
      if s.homeUp home && (need.copy || (s.dirAt (pa / 64)).state != 6) then (s, .ok (.mem pa cls' home) false) else (s, .contained)

/-! ## Apertures (R42-R45) -/

def wbufBase : Nat := 0xFFFF800000000000
def abufBase : Nat := 0xFFFF810000000000
def stackBase0 : Nat := 0xFFFF900000000000
def wbufSize : Nat := 0xC0000

/-- An address in the STACK aperture. -/
def inStack (va : Nat) : Bool := decide (stackBase0 ≤ va ∧ va < stackBase0 + 0x100000)

/-- Bytes of ABUF (R46). -/
def State.abufSize (s : State) (core : Nat) : Nat := if s.isG core then 0x300000 else 0x240000
/-- Bytes of ABUF left by the carve-out (R47). -/
def State.abufLeft (s : State) (core : Nat) : Nat := s.abufSize core - 49152 * (s.co core).carved

/-- The checks and steering of one lane's access of `size` bytes (R42-R45, R173). -/
def State.resolve (s : State) (k lane va size : Nat) (need : Need) : State × Xl :=
  let g := gidOf k
  let core := coreOf g
  let gr := s.gr g
  let tm := s.tm gr.team
  if va < 2 ^ 56 then s.translate core gr.ctx va need
  else if wbufBase ≤ va ∧ va < wbufBase + wbufSize then
    let o := va - wbufBase
    if s.isG core || decide (o < tm.wbufOff ∨ o + size > tm.wbufOff + tm.wbufSize) then (s, .fault cBufrange 0)
    else if need.w then (s, .fault cPerm 0)
    else (s, .ok (.wbuf core o) false)
  else if abufBase ≤ va ∧ va < abufBase + s.abufSize core then
    let o := va - abufBase
    if o < tm.abufOff ∨ o + size > tm.abufOff + tm.abufSize ∨ o + size > s.abufLeft core then
      (s, .fault cBufrange 0)
    else (s, .ok (.abuf core o) false)
  else if stackBase0 ≤ va ∧ va < stackBase0 + 0x100000 then
    let o := va - stackBase0
    if o + size > (s.cx gr.ctx).stackSz then (s, .fault cApert 0)
    else
      let (t, x) := s.translate core gr.ctx (gr.stackBase.toNat + o / 4 * 128 + 4 * lane + o % 4) need
      (t, match x with | .ok p _ => .ok p true | y => y)
  else (s, .fault cApert 0)

/-! ## Accesses of the device's own agents through a context's tables, performed at dev or sys scope -/

/-- The bytes of host memory (R317). -/
def State.hostRead (s : State) (addr n : Nat) : Nat := leRead s.hostMem addr n
def State.hostWrite (s : State) (addr n v : Nat) : State := { s with hostMem := leWrite s.hostMem addr n v }

/-- Read at a resolved place of local, peer or host memory. -/
def State.placeRead (s : State) (p : Place) (n : Nat) : State × Nat :=
  match p with
  | .mem pa _ home => s.devRead home pa n
  | .host a _ => (s, s.hostRead a n)
  | .abuf core o => (s, (List.range n).foldl (fun v i => v + (mget 0 s.abuf (core * 2 ^ 22 + o + i)).toNat * 256 ^ i) 0)
  | .wbuf core o => (s, (List.range n).foldl (fun v i => v + (mget 0 s.wbuf (core * 2 ^ 22 + o + i)).toNat * 256 ^ i) 0)

/-- Write at a resolved place. -/
def State.placeWrite (s : State) (p : Place) (n v : Nat) : State :=
  match p with
  | .mem pa _ home => s.devWrite home pa n v
  | .host a _ => s.hostWrite a n v
  | .abuf core o => { s with abuf := (List.range n).foldl (fun m i =>
      mset 0 m (core * 2 ^ 22 + o + i) (BitVec.ofNat 8 (v / 256 ^ i))) s.abuf }
  | .wbuf core o => { s with wbuf := (List.range n).foldl (fun m i =>
      mset 0 m (core * 2 ^ 22 + o + i) (BitVec.ofNat 8 (v / 256 ^ i))) s.wbuf }

def l1Key (core sec : Nat) : Nat := core * 2 ^ 52 + sec
def State.l1At (s : State) (core sec : Nat) : Option L1Sector := mget none s.l1 (l1Key core sec)
def State.setL1 (s : State) (core sec : Nat) (v : Option L1Sector) : State :=
  { s with l1 := mset none s.l1 (l1Key core sec) v }

/-- A read that misses in the die's L2 sends its request, which counts; the sector is not kept (R329, R333). -/
def State.countMiss (s : State) (core cls sec home : Nat) : State :=
  if (s.l2At (dieOf core) sec).state = 0 then
    s.countReq { kind := if 2 ≤ cls then 0 else 3, die := dieOf core, sector := sec, home := home }
  else s

/-- The sector that a read of a core at dev scope finds: of a PRIV sector, bytes that the core has written stand in its L1, the others
in the die's L2 or at the home; a copy in the L1 is refreshed (R318, R321, R324). -/
def State.nowSector (s : State) (core sec cls home : Nat) : State × Sector :=
  let e := s.l2At (dieOf core) sec
  let under : State × Sector :=
    if e.state ≠ 0 ∧ cls ≠ 2 then (s, e.data)
    else (s.settleSector sec).homeRead home sec
  match s.l1At core sec with
  | none => under
  | some x =>
    if cls = 1 then (s, x.data)
    else
      let data := mergeBytes x.dirty under.2 x.data
      (under.1.setL1 core sec (some { x with data := data }), data)

/-- An access of a core performed at once: it meets the copies its own core and die hold of untracked sectors (R321, R324). -/
def State.nowRead (s : State) (core : Nat) (p : Place) (n : Nat) : State × Nat :=
  match p with
  | .mem pa cls home =>
    if pa / 64 = (pa + n - 1) / 64 then
      let s := if cls = 1 ∧ (s.l1At core (pa / 64)).isSome then s else s.countMiss core cls (pa / 64) home
      let (t, x) := s.nowSector core (pa / 64) cls home
      (t, sectorPart x (pa / 64) pa n)
    else s.devRead home pa n
  | _ => s.placeRead p n

def State.nowWrite (s : State) (core : Nat) (p : Place) (n v : Nat) : State :=
  match p with
  | .mem pa cls home =>
    let sec := pa / 64
    let k := sectorMask sec pa n
    let d := sectorImage sec pa n v
    let e := s.l2At (dieOf core) sec
    match s.l1At core sec with
    | some x =>
      let t := s.setL1 core sec (some { x with data := mergeBytes k x.data d, dirty := if cls = 2 then 0 else x.dirty ||| k })
      if cls = 2 then t.devWrite home pa n v else t
    | none =>
      if e.state ≠ 0 ∧ cls ≠ 2 then
        s.setL2 (dieOf core) sec { e with state := 3, data := mergeBytes k e.data d, dirty := e.dirty ||| k }
      else s.devWrite home pa n v
  | _ => s.placeWrite p n v

/-- The place n bytes on. -/
def Place.plus (p : Place) (n : Nat) : Place :=
  match p with
  | .mem pa c h => .mem (pa + n) c h
  | .host a f => .host (a + n) f
  | .abuf c o => .abuf c (o + n)
  | .wbuf c o => .wbuf c (o + n)

/-- Read n bytes at a virtual address of a context, none where translation fails. -/
def State.vaRead (s : State) (core ctx va n : Nat) : State × Option Nat :=
  match s.translate core ctx va needLoad with
  | (s, .ok p _) => let (t, v) := s.nowRead core p n; (t, some v)
  | (s, _) => (s, none)

/-- A directory keeps the sector of a place for a copy, a commit or a transaction, or what holds it is under test (R336, R411). -/
def State.placeHeld (s : State) (core : Nat) (p : Place) : Bool :=
  match p with
  | .mem pa _ home => !s.secNow (pa / 64) || s.memTested (dieOf core) (pa / 64) home
  | _ => false

/-- An access at an address has to wait: for the host's answer (R386), or for its sector (R336). -/
def State.vaWaits (s : State) (core ctx va : Nat) (need : Need) : State × Bool :=
  match s.translate core ctx va need with
  | (t, .wait) => (t, true)
  | (t, .ok p _) => (t, t.placeHeld core p)
  | (t, _) => (t, false)

/-- Write n bytes at a virtual address of a context, none where translation fails. -/
def State.vaWrite (s : State) (core ctx va n v : Nat) : Option State :=
  match s.translate core ctx va needStore with
  | (s, .ok p _) => some (s.nowWrite core p n v)
  | _ => none

/-! ## Ranges -/

/-- The aperture that holds a range: 0 global, 1 WBUF, 2 ABUF. -/
def State.aperture (s : State) (core a n : Nat) : Option Nat :=
  if a + n ≤ 2 ^ 56 then some 0
  else if wbufBase ≤ a ∧ a + n ≤ wbufBase + wbufSize then some 1
  else if abufBase ≤ a ∧ a + n ≤ abufBase + s.abufSize core then some 2
  else none

/-- The pages a global range touches, by their first address in the range. -/
def pagesOf (a n : Nat) : List Nat :=
  if n = 0 then [] else (List.range ((a + n - 1) / 65536 - a / 65536 + 1)).map fun i => max a ((a / 65536 + i) * 65536)

/-- The aligned 8 bytes that hold a place. -/
def Place.unit8 (p : Place) : Place :=
  match p with
  | .mem pa c h => .mem (pa / 8 * 8) c h
  | .host a f => .host (a / 8 * 8) f
  | .abuf c o => .abuf c (o / 8 * 8)
  | .wbuf c o => .wbuf c (o / 8 * 8)

end Sys2Proof.Machine
end

