-- ==== Sys2Proof/Machine/Chuck.lean ====
section
/-! DEFINITION. Overlays in the Chuck: the overlay table (R247), quotas and slots (R248), pins (R114), the
start of a fill (R250), eviction (R251). -/
namespace Sys2Proof.Machine

/-- The overlay table's header (R247): OVDEMAND, QUOTA, NIDS. -/
structure OvHeader where
  demand : Bool := false
  quota : Nat := 0
  nids : Nat := 0
  deriving DecidableEq, Repr

def State.ovHeader (s : State) (core c : Nat) : State × OvHeader :=
  let (s, v) := s.vaRead core c (s.cx c).ovt.toNat 8
  match v with
  | none => (s, {})
  | some v =>
    let w := BitVec.ofNat 64 v
    (s, { demand := bit w 0, quota := field w 15 8, nids := field w 31 16 })

/-- A read of the table for an id has to wait for the host's answer on a HOST page (R386). -/
def State.ovWaits (s : State) (core c id : Nat) : State × Bool :=
  let at' := (s.cx c).ovt.toNat
  match s.vaWaits core c at' needLoad with
  | (s, true) => (s, true)
  | (s, false) =>
    let (s, h) := s.ovHeader core c
    if sysId ≤ id ∨ h.nids ≤ id then (s, false) else s.vaWaits core c (at' + 64 + 16 * id) needLoad

/-- Some id of a list has to wait so. -/
def State.ovAnyWaits (s : State) (core c : Nat) (ids : List Nat) : State × Bool :=
  ids.foldl (fun (r : State × Bool) id => if r.2 then r else r.1.ovWaits core c id) (s, false)

/-- A valid table entry: length in slots and image address (R247). -/
def State.ovEntry (s : State) (core c id : Nat) : State × Option (Nat × Nat) :=
  let (s, h) := s.ovHeader core c
  if h.nids ≤ id then (s, none)
  else
    let at' := (s.cx c).ovt.toNat + 64 + 16 * id
    let (s, a) := s.vaRead core c at' 8
    let (s, b) := s.vaRead core c (at' + 8) 8
    match a, b with
    | some a, some b =>
      let w := BitVec.ofNat 64 a
      if bit w 0 && field w 11 5 == 0 && b == 0 then (s, some (field w 4 1 + 1, field w 63 12 * 4096))
      else (s, none)
    | _, _ => (s, none)

/-- The length in slots of the target of a PC (R110): what a system overlay occupies, else the table's. -/
def State.targetLen (s : State) (core c id : Nat) : State × Option Nat :=
  if sysId ≤ id then (s, some (match s.overlayOf core c id with | some o => o.slots.length | none => 0))
  else
    let (s, e) := s.ovEntry core c id
    (s, e.map fun p => p.1)

/-- The bytes lo..hi-1 of a memory as words from word offset `at'` on. -/
def wordsOf (m : List Host.Cell) (lo hi at' : Nat) (acc : Map (BitVec 32)) : Map (BitVec 32) :=
  (m.filter fun c => decide (lo ≤ c.1 ∧ c.1 < hi)).foldl (fun w c =>
    let o := at' + (c.1 - lo) / 4
    mset 0 w o (mget 0 w o ||| ((c.2.setWidth 32 : BitVec 32) <<< (8 * ((c.1 - lo) % 4))))) acc

/-- The core or its die holds a copy of an untracked sector, or a view covers it: it is read on its own (R321, R324, R342). -/
def State.copied (s : State) (core cls sec : Nat) : Bool :=
  cls != 2 && ((s.l1At core sec).isSome || (s.l2At (dieOf core) sec).state != 0)

/-- Read a 4 KiB page of an image as plain loads of the core at dev scope do (R318). -/
def State.pageWords (s : State) (core : Nat) (p : Place) (at' : Nat) (acc : Map (BitVec 32)) : State × Map (BitVec 32) :=
  match p with
  | .mem pa cls home =>
    let secs := sectorsOf pa 4096
    let s := secs.foldl (fun t sec => (t.settleSector sec).countMiss core cls sec home) s
    let s := (List.range 16).foldl (fun t i => t.llcUse home (pa / 64 + 4 * i)) s
    let s := s.forceViews home pa (pa + 4096)
    let own := secs.filter fun sec => s.copied core cls sec || (s.viewOf home (64 * sec)).isSome
    own.foldl (fun r sec =>
      let (t, x) := r.1.nowSector core sec cls home
      (t, (List.range 16).foldl (fun m i =>
        mset 0 m (at' + (64 * sec - pa) / 4 + i) (BitVec.ofNat 32 (sectorPart x sec (64 * sec + 4 * i) 4))) r.2))
      (s, wordsOf s.mem pa (pa + 4096) at' acc)
  | .host a _ => (s, wordsOf s.hostMem a (a + 4096) at' acc)
  | _ => (s, acc)

/-- The sectors of a 4 KiB page of memory. -/
def Place.secs (p : Place) : List Nat := match p with | .mem pa _ _ => sectorsOf pa 4096 | _ => []

/-- What the image's pages come to: the words, or the cause the fill fails with (R247, R380, R346), or a wait for
a host translation or a sector (R336). -/
inductive ImageRead where
  | words (w : Map (BitVec 32))
  | failed (cause : Nat)
  | wait

/-- Translate and read every page of an image. -/
def State.readImage (s : State) (core c image : Nat) : Nat → Nat → Map (BitVec 32) → State × ImageRead
  | _, 0, acc => (s, .words acc)
  | i, n + 1, acc =>
    match s.translate core c (image + 4096 * i) needFill with
    | (s, .ok p _) =>
      if p.secs.any fun sec => (s.dirAt sec).state == 6 then (s, .failed cContain)
      else if let some sec := p.secs.find? s.badSecs.contains then (s.loseSector sec, .failed cEccu)
      else if p.secs.any fun sec => !s.secNow sec then (s, .wait)
      else
        let (s, acc) := s.pageWords core p (1024 * i) acc
        s.readImage core c image (i + 1) n acc
    | (s, .wait) => (s, .wait)
    | (s, .contained) => (s, .failed cContain)
    | (s, _) => (s, .failed cOvfault)

/-! ## Pins (R114) -/

/-- The overlay ids a position of a split points into: its PC, resident links, TRAPPCs, trapped words. -/
def State.splitIds (s : State) (g : Nat) (pc mask : BitVec 32) (cwp resident : Nat) : List Nat :=
  pcId pc :: ((lanesOf mask).flatMap fun l =>
    ((List.range resident).filter fun i => decide (i < cwp)).map fun i => pcId (s.linkOf g l (cwp - i)))

def State.pinsOf (s : State) (g : Nat) : List Nat :=
  ((List.range 4).flatMap fun j =>
    let p := s.sp (4 * g + j)
    if p.valid then
      s.splitIds g p.pc p.mask p.cwp p.resident
        ++ (p.traps.map fun t => pcId t.pc)
        ++ (p.levels.map fun v => pcId ((v.ow.headD 0).setWidth 32))
        ++ (match s.region (4 * g + j) with | some r => [pcId r.target] | none => [])
    else [])
  ++ ((s.gr g).park.flatMap fun q => s.splitIds g q.pc q.mask q.cwp q.resident)

/-- The resident groups of a core. -/
def State.groupsOn (s : State) (core : Nat) : List Nat :=
  ((List.range 32).map fun i => 32 * core + i).filter fun g => (s.gr g).live

/-- An overlay is pinned (R114). -/
def State.pinned (s : State) (o : Overlay) : Bool :=
  decide (o.pins > 0) || (s.groupsOn o.core).any fun g => (s.gr g).ctx == o.ctx && (s.pinsOf g).contains o.id

/-! ## Slots and fills -/

/-- Slots 0-59 of a core in no overlay and no fill. -/
def State.freeSlots (s : State) (core : Nat) : List Nat :=
  (List.range 60).filter fun i =>
    !((s.overlays.any fun o => o.core == core && o.slots.contains i)
      || (s.fills.any fun f => f.core == core && f.slots.contains i))

/-- Slots a context uses on a core. -/
def State.slotsUsed (s : State) (core c : Nat) : Nat :=
  ((s.overlays.filter fun o => o.core == core && o.ctx == c).foldl (fun n o => n + o.slots.length) 0)
  + ((s.fills.filter fun f => f.core == core && f.ctx == c).foldl (fun n f => n + f.slots.length) 0)

/-- The context's oldest unpinned overlay that is not evict-pending. -/
def State.victim (s : State) (core c : Nat) : Option Overlay :=
  (s.overlays.filter fun o => o.core == core && o.ctx == c && !o.evp && !s.pinned o).foldl
    (fun best o => match best with
      | none => some o
      | some b => if o.order < b.order then some o else some b) none

/-- Evict until `len` slots can be had within the quota (R248); where they cannot, nothing is evicted (R441). The first argument bounds
the evictions. -/
def State.makeRoom (s : State) (core c quota len : Nat) : Nat → Option State
  | 0 => none
  | n + 1 =>
    if s.slotsUsed core c + len ≤ quota ∧ len ≤ (s.freeSlots core).length then some s
    else match s.victim core c with
      | none => none
      | some o =>
        State.makeRoom { s with overlays := s.overlays.filter fun x => !(x.core == core && x.ctx == c && x.id == o.id) }
          core c quota len n

/-- What starting a fill gives. -/
inductive FillStart where
  | resident
  | filling (id : Nat)
  | failed (cause : Nat)
  | wait
  deriving DecidableEq, Repr

/-- Start or join a fill of overlay `ovl` for a context on a core; `tok` are the scalar keys of the tokens written
at its end (R248, R250, R441). An evict-pending overlay does not count as resident; every system id does (R248). -/
def State.startFill (s : State) (core c ovl : Nat) (tok : List Nat) : State × FillStart :=
  match s.fills.find? fun f => f.core == core && f.ctx == c && f.ovl == ovl with
  | some f =>
    ({ s with fills := updWhere s.fills (fun x => x.id == f.id) fun x => { x with tokens := x.tokens ++ tok } }, .filling f.id)
  | none =>
    if sysId ≤ ovl then (s, .resident)
    else
      match s.ovWaits core c ovl, s.overlayOf core c ovl with
      | (s, wait), some o =>
        if !o.evp then (s, .resident)
        else if wait then (s, .wait)
        else
          let (s, e) := s.ovEntry core c ovl
          match e with
          | none => (s, .failed cOvfault)
          | some (len, image) =>
            let f : Fill := { id := s.nextId, core := core, ctx := c, ovl := ovl, len := len, image := image,
                              slots := [], tokens := tok, waitsEvict := true }
            ({ s.fresh with fills := s.fills ++ [f] }, .filling f.id)
      | (s, true), none => (s, .wait)
      | (s, false), none =>
        let (s, e) := s.ovEntry core c ovl
        match e with
        | none => (s, .failed cOvfault)
        | some (len, image) =>
          match s.readImage core c image 0 len [] with
          | (s, .wait) => (s, .wait)
          | (s, .failed cause) => (s, .failed cause)
          | (s, .words w) =>
            let (s, h) := s.ovHeader core c
            match s.makeRoom core c h.quota len 61 with
            | none => (s, .failed cOvquota)
            | some s =>
              let f : Fill := { id := s.nextId, core := core, ctx := c, ovl := ovl, len := len, image := image,
                                slots := (s.freeSlots core).take len, tokens := tok, words := w, waitsEvict := false }
              ({ s.fresh with fills := s.fills ++ [f] }, .filling f.id)

/-- A fill whose evict-pending overlay is gone reads the table and its image and takes its slots, or fails (R115, R247, R248, R250,
R441); it goes on waiting only for the host's answer on a HOST page. -/
def State.restartFill (s : State) (f : Fill) : State :=
  let put (t : State) (g : Fill) : State := { t with fills := updWhere t.fills (fun x => x.id == f.id) fun _ => g }
  match s.ovWaits f.core f.ctx f.ovl with
  | (s, true) => s
  | (s, false) =>
    match s.ovEntry f.core f.ctx f.ovl with
    | (s, none) => put s { f with waitsEvict := false, failed := cOvfault }
    | (s, some (len, image)) =>
      let f := { f with len := len, image := image }
      match s.readImage f.core f.ctx image 0 len [] with
      | (s, .wait) => s
      | (s, .failed cause) => put s { f with waitsEvict := false, failed := cause }
      | (s, .words w) =>
        let (s, h) := s.ovHeader f.core f.ctx
        match s.makeRoom f.core f.ctx h.quota len 61 with
        | some t => put t { f with waitsEvict := false, words := w, slots := (t.freeSlots f.core).take len }
        | none => put s { f with waitsEvict := false, failed := cOvquota }

/-- Evict-pending overlays whose pins are gone leave the Chuck (R114); fills that waited for them start. -/
def State.settleChuck (s : State) : State :=
  let s := if s.overlays.any fun o => o.evp then { s with overlays := s.overlays.filter fun o => !(o.evp && !s.pinned o) } else s
  if s.fills.any fun f => f.waitsEvict then
    s.fills.foldl (fun t f => if f.waitsEvict && (t.overlayOf f.core f.ctx f.ovl).isNone then t.restartFill f else t) s
  else s

end Sys2Proof.Machine
end

