-- ==== Sys2Proof/Machine/Split.lean ====
section
/-! DEFINITION. The split table and the park stack: division (R18, R104), fusion (R19), restore rules (R20),
parking (R17), and the program order that divisions and fusions hand on (R305). -/
namespace Sys2Proof.Machine

/-- The four entry keys of a group. -/
def entries (g : Nat) : List Nat := [4 * g, 4 * g + 1, 4 * g + 2, 4 * g + 3]

def State.valids (s : State) (g : Nat) : List Nat := (entries g).filter fun k => (s.sp k).valid
def State.freeEntries (s : State) (g : Nat) : List Nat := (entries g).filter fun k => !(s.sp k).valid

/-- The park stack holds eight entries (R17). -/
def parkDepth : Nat := 8

/-- Room for n new paths (R104). -/
def State.roomFor (s : State) (g n : Nat) : Bool :=
  decide (n ≤ (s.freeEntries g).length + (parkDepth - (s.gr g).park.length))

/-! ## Program order (R305) -/

def addKey (k new : Nat) (l : List Nat) : List Nat := if l.contains k then l ++ [new] else l
def renameKey (old new : Nat) (l : List Nat) : List Nat := (l.map fun x => if x = old then new else x).dedup

def State.mapOrder (s : State) (f : List Nat → List Nat) : State :=
  { s with ops := s.ops.map fun o => { o with splits := f o.splits },
           rays := s.rays.map fun r => { r with splits := f r.splits },
           copies := s.copies.map fun c => { c with splits := f c.splits },
           fences := s.fences.map fun m => { m with src := f m.src, dst := f m.dst } }

/-- A number for a parked path, and for the accesses of a path that has ended: above every split key. -/
def parkKey (id : Nat) : Nat := 2 ^ 20 + id

/-! ## Division (R104) -/

/-- The live-mask word of the safe point that split k completes with the word at its PC: while its context is being saved, of a word
with S = 1 (R366). -/
def State.safePoint (s : State) (k : Nat) : Option (BitVec 32) :=
  let g := gidOf k
  let pc := (s.sp k).pc
  if (s.cx (s.gr g).ctx).state = .saving ∧ (s.fetch g pc).any (fun w => bit w 25) then some ((s.fetch g (pcAdd pc 1)).getD 0) else none

/-- The wait of a path that a safe point stops. -/
def stopWait (stop : Option (BitVec 32)) : Wait := if stop.isSome then .stopped else .none

/-- One new path: the lowest free entry, else the park stack; `stop` if the division is a safe point, at which each path stops. -/
def State.newPath (s : State) (k : Nat) (stop : Option (BitVec 32)) (pc mask : BitVec 32) : State :=
  let g := gidOf k
  let p := s.sp k
  let parent : BitVec 3 := BitVec.ofNat 3 (k % 4)
  match (s.freeEntries g).head? with
  | some j =>
    let n : Split := { valid := true, pc := pc, mask := mask, parent := parent, saved := 7, gmode := p.gmode,
                       cwp := p.cwp, resident := p.resident, readySince := s.stepNo, wait := stopWait stop, stopLive := stop }
    (s.mapOrder (addKey k j)).setSp j n
  | none =>
    let q : Parked := { key := parkKey s.nextId, pc := pc, mask := mask, parent := parent, saved := 7,
                        gmode := p.gmode, cwp := p.cwp, resident := p.resident, stop := stop }
    ((s.mapOrder (addKey k q.key)).modGr g fun r => { r with park := q :: r.park }).fresh

/-- Divide split k: `stay` at `pc` keeps the entry, the paths take new ones, lowest lane first (R18, R104). -/
def State.divide (s : State) (k : Nat) (pc stay : BitVec 32) (paths : List (BitVec 32 × BitVec 32)) : State :=
  let me : BitVec 3 := BitVec.ofNat 3 (k % 4)
  let stop := s.safePoint k
  let s := s.modSp k fun p =>
    { p with pc := pc, mask := stay, saved := if p.parent = me then p.saved else p.parent, parent := me }
  paths.foldl (fun t q => t.newPath k stop q.1 q.2) s

/-! ## Freeing an entry (R17, R20) -/

/-- Entries and park entries of the group with PARENT = j, other than entry x. -/
def State.hasChild (s : State) (g j x : Nat) : Bool :=
  ((s.valids g).any fun k => k != x && (s.sp k).parent.toNat == j)
  || ((s.gr g).park.any fun q => q.parent.toNat == j)

/-- Heads whose family is gone and that do not hold their own number in SAVED. -/
def State.dueHeads (s : State) (g : Nat) : List Nat :=
  (s.valids g).filter fun k =>
    (s.sp k).parent.toNat == k % 4 && (s.sp k).saved.toNat != k % 4 && !s.hasChild g (k % 4) k

/-- First restore rule: a head whose family is gone takes its SAVED (R20). Of two heads due at once the inner one goes
first, whose PARENT then holds the outer one back, as in the rule's worked example. The argument bounds the steps. -/
def State.restoreHeads (s : State) (g : Nat) : Nat → State
  | 0 => s
  | n + 1 =>
    let due := s.dueHeads g
    let inner := due.filter fun k => !(due.any fun j => (s.sp j).saved.toNat == k % 4)
    match (inner ++ due).head? with
    | none => s
    | some k => (s.modSp k fun p => { p with parent := p.saved }).restoreHeads g n

/-- Pop the top park entry into a free entry (R17). -/
def State.popPark (s : State) (g k : Nat) : State :=
  match (s.gr g).park with
  | [] => s
  | q :: rest =>
    let n : Split := { valid := true, pc := q.pc, mask := q.mask, parent := q.parent, saved := q.saved,
                       gmode := q.gmode, cwp := q.cwp, resident := q.resident, readySince := s.stepNo, wait := stopWait q.stop,
                       stopLive := q.stop }
    ((s.mapOrder (renameKey q.key k)).modGr g fun r => { r with park := rest }).setSp k n

/-- Free entry k: its accesses still outstanding keep their order under a number of their own, its children inherit its
SAVED, the heads are looked at, the park stack pops (R305, R20, R17). -/
def State.freeEntry (s : State) (k : Nat) : State :=
  let g := gidOf k
  let saved := (s.sp k).saved
  let s := ((s.mapOrder (renameKey k (parkKey s.nextId))).fresh).setSp k {}
  let inherit (b : BitVec 3) : BitVec 3 := if b.toNat = k % 4 then saved else b
  let s := (s.valids g).foldl (fun t j => t.modSp j fun p => { p with parent := inherit p.parent }) s
  let s := s.modGr g fun r => { r with park := r.park.map fun q => { q with parent := inherit q.parent } }
  (s.restoreHeads g 4).popPark g k

/-! ## Order across splits (R311) -/

/-- Put a mark into the table. What an earlier mark orders before a split whose accesses this one orders is ordered by it too: order
passes along a chain of phases and fusions (R311, R313). -/
def State.addMark (s : State) (m : FenceMark) : State :=
  let before := s.fences.filter fun f => decide (f.id < m.upto) && (f.dst.any fun k => m.src.contains k) && m.dst.any fun k => !f.dst.contains k
  { s with fences := s.fences ++ m :: before.map fun f =>
      { m with src := f.src, upto := f.upto, acq := m.acq && f.acq, rel := m.rel && f.rel, both := m.both && f.both, rays := m.rays && f.rays } }

/-! ## Fusion (R19) -/

/-- STATE 0, 1 or 2, no unfinished REP, no level and no trap. -/
def Split.mayFuse (p : Split) : Bool :=
  p.valid && p.mode == .normal && p.rep.isNone && p.levels.isEmpty && p.traps.isEmpty

/-- The condition of R19 for two splits. -/
def fusable (p q : Split) : Bool :=
  p.mayFuse && q.mayFuse && p.pc == q.pc && p.parent == q.parent && p.gmode == q.gmode && p.cwp == q.cwp
    && p.resident == q.resident

/-- Pairs i < j of entries of a group. -/
def entryPairs (g : Nat) : List (Nat × Nat) :=
  [(4*g, 4*g+1), (4*g, 4*g+2), (4*g, 4*g+3), (4*g+1, 4*g+2), (4*g+1, 4*g+3), (4*g+2, 4*g+3)]

/-- The lanes that a path has yet to issue its instruction for: those a replay left, none while the compressor has its MSH.CLOSE
(R21, R395). -/
def Split.toIssue (p : Split) : BitVec 32 := if p.wait = .close then 0 else p.replay.getD p.mask

/-- What the fused split still has to issue, if not all its lanes. -/
def fusedReplay (p q : Split) : Option (BitVec 32) :=
  if p.toIssue = p.mask ∧ q.toIssue = q.mask then none else some (p.toIssue ||| q.toIssue)

/-- The instruction in flight of a path that fuses away holds the survivor back as it held the path (R21). -/
def fusedWait : Wait → Wait → Wait
  | .none, .close | .operand, .close => .close
  | .none, .claim c pc | .operand, .claim c pc => .claim c pc
  | w, _ => w

/-- Two marks of failed loads become one: the earlier mark's PC, the lanes of both (R396; log entry 71). -/
def joinEccu : Option (BitVec 32 × Option (BitVec 32)) → Option (BitVec 32 × Option (BitVec 32)) →
    Option (BitVec 32 × Option (BitVec 32))
  | none, y => y
  | x, none => x
  | some (pc, m), some (_, m') =>
    some (pc, match m, m' with | some x, some y => some (x ||| y) | some x, none => some x | none, y => y)

/-- Fuse j into i, or i into j when j is the family head: the survivor keeps its STATE, and what the other has in flight passes to
it; a WAITV it waits in watches the lanes it watched (log entry 25). A fusion orders the accesses of both paths before those after it (R311). -/
def State.fuse (s : State) (i j : Nat) : State :=
  let head := (s.sp i).parent.toNat
  let (a, b) := if j % 4 = head then (j, i) else (i, j)
  let f : FenceMark := { id := s.nextId, upto := s.nextId, src := [a, b], dst := [a], acq := true, rel := true, both := true }
  let s := s.fresh.addMark f
  let q := s.sp b
  let s := s.modSp a fun p =>
    { p with mask := p.mask ||| q.mask, replay := fusedReplay p q, eccu := joinEccu p.eccu q.eccu, wait := fusedWait p.wait q.wait }
  (s.mapOrder (renameKey b a)).freeEntry b

/-- Fuse until no pair is left; the first argument bounds the fusions. -/
def State.fuseAll (s : State) (g : Nat) : Nat → State
  | 0 => s
  | n + 1 =>
    match (entryPairs g).find? fun p => fusable (s.sp p.1) (s.sp p.2) with
    | some p => State.fuseAll (s.fuse p.1 p.2) g n
    | none => s

/-- Every fusion uses up a valid entry or a parked path. -/
def State.fuseFuel (s : State) (g : Nat) : Nat := 4 + (s.gr g).park.length

end Sys2Proof.Machine
end

