-- ==== Sys2Proof/Machine/Halt.lean ====
section
/-! DEFINITION. The end of a context's work, and the halt of a context (R351, R398). -/
namespace Sys2Proof.Machine

/-- Sectors in C (3) or H (4) for a holder become X with the same owner (R336, R339). -/
def State.releaseHeld (s : State) (st holder : Nat) : State :=
  { s with dir := s.dir.map fun p =>
      if p.2.state = st ∧ p.2.holder = holder then (p.1, { p.2 with state := 2, holder := 0 }) else p }

/-- Groups of a context. -/
def State.groupsOf (s : State) (c : Nat) : List Nat :=
  (s.groups.filter fun p => p.2.live && p.2.ctx == c).map fun p => p.1

/-- Remove group g with its splits, pending marks and regions. -/
def State.dropGroup (s : State) (g : Nat) : State :=
  let s := (entries g).foldl (fun t k => ((t.releaseHeld 4 k).setRegion k none).setSp k {}) s
  let s := s.setGr g {}
  { s with pendV := s.pendV.filter fun p => p.1 / 512 != g
           pendS := s.pendS.filter fun p => p.1 / 128 != g }

/-- Stop all work of a context at once: groups, teams, launches, draws, engine operations, overlays, fills,
saves; every allocation goes (R351). -/
def State.dropWork (s : State) (c : Nat) : State :=
  let gs := s.groupsOf c
  let s := gs.foldl State.dropGroup s
  let cids := (s.copies.filter fun x => x.ctx == c).map fun x => x.id
  let s := cids.foldl (fun t i => t.releaseHeld 3 i) s
  let dead := (s.draws.filter fun p => p.2.ctx == c).map fun p => p.1
  { s with
    teams := s.teams.filter fun p => p.2.ctx != c
    launches := s.launches.filter fun p => p.2.ctx != c
    draws := s.draws.filter fun p => p.2.ctx != c
    ops := s.ops.filter fun o => o.ctx != c
    copies := s.copies.filter fun x => x.ctx != c
    rays := s.rays.filter fun x => x.ctx != c
    passes := s.passes.map fun p => { p with ops := p.ops.filter fun q => !gs.contains q.gid }
    overlays := s.overlays.filter fun o => o.ctx != c
    fills := s.fills.filter fun f => f.ctx != c
    pix := s.pix.filter fun p => !dead.contains p.draw
    held := s.held.filter fun p => !dead.contains p.2.draw
    released := s.released.filter fun p => !dead.contains p.2.draw
    faceplate := s.faceplate.filter fun p => match p.2.2 with
      | .packet q => !dead.contains q.draw
      | .beacon x _ => x != c
      | .stale => true
    frontier := s.frontier.filter fun p => p.1 / 1024 != c
    sentF := s.sentF.filter fun p => p.1 / 32 != c
    saves := s.saves.filter fun x => x.info.ctx != c
    lastSaves := s.lastSaves.filter fun x => x.info.ctx != c
    reqs := s.reqs.filter fun q =>
      !((q.who == 1 && cids.contains q.holder) || (q.who == 2 && gs.contains (gidOf q.holder))) }

/-- What a halt record says beside its cause (R398). -/
structure HaltInfo where
  cause : Nat
  dbl : Bool := false
  pc : BitVec 32 := 0
  core : Nat := 0
  addr : Nat := 0
  deriving DecidableEq, Repr

/-- Word 0 of a halt record (R398). -/
def haltWord0 (h : HaltInfo) : Word64 :=
  BitVec.ofNat 64 (h.cause + 256 + (if h.dbl then 512 else 0) + h.pc.toNat * 2 ^ 32)

/-- Halt a context (R351, R398): its work stops; unless an earlier record is still valid the record is written, and the function's
halt interrupt raised (R417). -/
def State.haltCtx (s : State) (c : Nat) (h : HaltInfo) : State :=
  if (s.cx c).state = .free ∨ (s.cx c).state = .halted then s
  else
    let fn := (s.cx c).fn
    let at' := (s.cx c).vt.toNat + 0x180
    let s := s.dropWork c
    let s := s.modCx c fun x => { x with state := .halted, haltCause := BitVec.ofNat 8 h.cause, prqPoll := [] }
    if bit (s.physWord at') 8 then s.wake
    else
      let s := s.physPut at' (haltWord0 h)
      let s := s.physPut (at' + 8) (BitVec.ofNat 64 (dieOf h.core + 256 * (h.core % 64)))
      let s := s.physPut (at' + 16) (BitVec.ofNat 64 h.addr)
      let s := (List.range 5).foldl (fun t i => t.physPut (at' + 24 + 8 * i) 0) s
      (s.raiseIrq fn 0).wake

/-- Halt the context of split k with a cause and the split's PC; DOUBLE where `dbl` says so, and of every cause that arises in a trap
handler (R398). -/
def State.haltSplit (s : State) (k cause : Nat) (dbl : Bool) (addr : Nat) : State :=
  let g := gidOf k
  s.haltCtx (s.gr g).ctx { cause := cause, dbl := dbl || !(s.sp k).traps.isEmpty, pc := (s.sp k).pc, core := coreOf g, addr := addr }

end Sys2Proof.Machine
end

