-- ==== Sys2Proof/Machine/Ops.lean ====
section
/-! DEFINITION. The shared operations of issue: regions' records and aborts (R208-R219), traps and the return
from them (R391-R395), emulation entry (R285-R289), stalls (R36-R38, R174, R222), and the prelude every
encoded instruction runs in. -/
namespace Sys2Proof.Machine

/-! ## Moving on -/

/-- Past the instruction, or to the next iteration of its REP (R59); a replay is over (R395). -/
def Split.pastBy (p : Split) (n : Nat) : Split :=
  match p.rep with
  | some r =>
    if r.i < r.last then { p with rep := some { r with i := r.i + 1 }, replay := none }
    else { p with rep := none, replay := none, pc := pcAdd p.pc n }
  | none => { p with replay := none, pc := pcAdd p.pc n }

/-- Complete the issuing split's instruction (R93): `e` is its S bit. -/
def State.advance (s : State) (e : Bool) : State := s.modSp s.cur fun p => p.pastBy (fallBy e)

/-- While its context is being saved, a split that has completed the instruction at `pc` with S = 1 stops, outside
regions and handlers, also where that instruction branched to itself (R53, R366). -/
def State.stopHere (s : State) (k : Nat) (pc : BitVec 32) : State :=
  let p := s.sp k
  let g := gidOf k
  if (s.cx (s.gr g).ctx).state ≠ .saving then s
  else match s.fetch g pc with
    | some w =>
      if bit w 25 && p.valid && p.mode == .normal && p.rep.isNone && p.wait == .none then
        s.setSp k { p with wait := .stopped, stopLive := some ((s.fetch g (pcAdd pc 1)).getD 0) }
      else s
    | none => s

/-- Move the whole issuing split. -/
def State.goto (s : State) (pc : BitVec 32) : State :=
  s.modSp s.cur fun p => { p with pc := pc, rep := none, replay := none }

/-! ## Association lists of a region's record -/

def afind {α : Type} (l : List (Nat × α)) (k : Nat) : Option α := (l.find? fun p => p.1 == k).map fun p => p.2
def adel {α : Type} (l : List (Nat × α)) (k : Nat) : List (Nat × α) := l.filter fun p => p.1 != k
def aput {α : Type} (l : List (Nat × α)) (k : Nat) (v : α) : List (Nat × α) := (k, v) :: adel l k
def akeep {α : Type} (l : List (Nat × α)) (k : Nat) (v : α) : List (Nat × α) :=
  if (afind l k).isSome then l else (k, v) :: l

/-! ## Abort of a region (R217-R219) -/

/-- What an abort reports (R207, R219). -/
structure AbortInfo where
  code : Nat
  detail : Nat := 0
  lane : Nat := 0
  scal : Bool := false
  changed : Nat := 0
  deriving DecidableEq, Repr

def abConstraint : Nat := 1
def abCap : Nat := 2
def abFault : Nat := 3
def abPreempt : Nat := 4
def abExplicit : Nat := 5
def abNest : Nat := 6
def abEngine : Nat := 7

/-- The status word a region leaves, less RUN (R207). -/
def statusWord (status : Nat) (a : AbortInfo) (ser : Bool) : Word64 :=
  BitVec.ofNat 64 (status + 16 * a.code + 256 * (a.detail % 256)
    + (if a.scal then 2 ^ 21 else 2 ^ 16 * (a.lane % 32)) + (if ser then 2 ^ 25 else 0)
    + 2 ^ 32 * (a.changed % 256))

/-- Loads of the region in flight keep their counter but lose their destination (R217). -/
def State.orphanLoads (s : State) (k : Nat) : State :=
  let dead := (s.ops.filter fun o => o.inRegion && o.splits.contains k).map fun o => o.id + 1
  { s with ops := updWhere s.ops (fun o => dead.contains (o.id + 1)) fun o =>
             { o with rows := [], sreg := 0, lanes := 0, inputs := [], inRegion := false, dropped := true }
           pendV := s.pendV.filter fun p => !dead.contains p.2
           pendS := s.pendS.filter fun p => !dead.contains p.2 }

/-- Put back what a region wrote: registers and return links (R217). -/
def State.restoreRegs (s : State) (r : Region) : State :=
  { s with sreg := r.savedS.foldl (fun m p => mset 0 m p.1 p.2) s.sreg
           preg := r.savedP.foldl (fun m p => mset 0 m p.1 p.2) s.preg
           vreg := r.savedV.foldl (fun m p => mset 0 m p.1 p.2) s.vreg
           link := r.savedL.foldl (fun m p => mset 0 m p.1 p.2) s.link }

/-- Abort the region of split k (R217). -/
def State.regAbort (s : State) (k : Nat) (a : AbortInfo) : State :=
  match s.region k with
  | none => s
  | some r =>
    let s := ((s.orphanLoads k).restoreRegs r).releaseHeld 4 k
    let s := { s with reqs := s.reqs.filter fun q => !(q.who == 2 && q.holder == k) }
    let s := s.setRegion k none
    let s := s.modSp k fun p =>
      { p with mode := .normal, wait := .none, rep := none, replay := none, eccu := none, pc := r.target, gmode := r.gmode,
               cwp := r.cwp, resident := r.resident, rgst := statusWord 4 a r.ser, readySince := s.stepNo,
               run := if a.code = abConstraint then min 8 (p.run + 1) else 0 }
    (s.sset k r.s (BitVec.ofNat 64 a.code)).wake

/-! ## Traps (R390-R395) -/

/-- What a trap writes into its record (R393). -/
structure TrapInfo where
  cause : Nat
  /-- ACC: 0 none 1 load 2 store 3 atomic -/
  acc : Nat := 0
  addr : Nat := 0
  lmask : BitVec 32
  pmask : BitVec 32
  code : Nat := 0
  word4 : Word64 := 0
  pc : BitVec 32
  gmode : BitVec 12
  rep : Option Rep
  /-- TRET 0 reissues the lanes of PMASK only (R395) -/
  byLane : Bool := false
  /-- the cause lies in scalar or unguarded work (R219) -/
  scal : Bool := true
  /-- ECCU of an earlier load's data, no cause of the instruction at TRAPPC (R396) -/
  late : Bool := false
  deriving DecidableEq, Repr

/-- The record of a scalar or uniform instruction (R393). -/
def State.uniTrap (s : State) (k cause : Nat) : TrapInfo :=
  let p := s.sp k
  { cause := cause, lmask := p.mask, pmask := p.mask, pc := p.pc, gmode := p.gmode, rep := p.rep }

/-- Scan position of a core in a partition (R359). -/
def State.scanIndex (s : State) (part core : Nat) : Nat :=
  let p := s.pa part
  let d := dieOf core
  let inMask (x : Nat) (v : Die) : Bool :=
    (v.kind == 1 && bit p.w0 (16 + v.ord)) || (v.kind == 2 && bit p.w0 v.ord) && decide (x < 32)
  let before := (s.dies.filter fun q => decide (q.1 < d) && inMask q.1 q.2)
  before.foldl (fun n q => n + if q.2.kind = 1 then 32 else 48) (core % 64)

/-- The address of split k's trap record (R393). -/
def State.recordAddr (s : State) (k : Nat) : Nat :=
  let g := gidOf k
  let c := s.cx (s.gr g).ctx
  let base := (s.physWord (c.vt.toNat + 0x108)).toNat
  base + 64 * (128 * s.scanIndex c.partition (coreOf g) + 4 * (g % 32) + k % 4)

/-- The record's first five words (R393); words 5 to 7 are zero. -/
def recordWords (t : TrapInfo) (word : Word32) : List Nat :=
  let r := t.rep
  [t.cause + 256 * (t.code % 1024) + 2 ^ 18 * t.acc
     + (match r with | some r => 2 ^ 20 * r.i + 2 ^ 26 | none => 0) + 2 ^ 32 * word.toNat,
   if t.acc = 0 then 0 else t.addr,
   t.lmask.toNat + 2 ^ 32 * t.pmask.toNat,
   t.pc.toNat + 2 ^ 32 * t.gmode.toNat,
   t.word4.toNat, 0, 0, 0]

/-- Write a list of 64-bit words at a virtual address. -/
def State.putWords (s : State) (core c : Nat) : Nat → List Nat → Option State
  | _, [] => some s
  | a, w :: ws =>
    match s.vaWrite core c a 8 w with
    | some t => State.putWords t core c (a + 8) ws
    | none => none

/-- The halt of a fill that no instruction of split k asked for (R450): at an emulation entry EMUDEPTH with the PC of the
word (R286), else the fill's cause. A PC pins its overlay, so a split in STATE 4 needs a fill at its entry only. The fill of a trap
handler's overlay is no cause that arises in the handler: DOUBLE says whether an earlier handler is open under it (R398; log entry
89). -/
def State.entryHalt (s : State) (k cause : Nat) : State :=
  let p := s.sp k
  match p.mode, p.levels with
  | .emu, v :: _ =>
    s.haltCtx (s.gr (gidOf k)).ctx
      { cause := cEmudepth, dbl := !p.traps.isEmpty, pc := (v.ow.headD 0).setWidth 32, core := coreOf (gidOf k) }
  | _, _ => s.haltCtx (s.gr (gidOf k)).ctx { cause := cause, dbl := decide (1 < p.traps.length), pc := p.pc, core := coreOf (gidOf k) }

/-- The overlay of split k's PC is filled while the split stalls, if it is not in the Chuck (R450). An evict-pending overlay
is still there and stays readable (R114): it needs no fill (log entry 69). -/
def State.ensureCode (s : State) (k : Nat) : State :=
  let g := gidOf k
  let c := (s.gr g).ctx
  if (s.overlayOf (coreOf g) c (pcId (s.sp k).pc)).isSome then s
  else
    match s.startFill (coreOf g) c (pcId (s.sp k).pc) [] with
    | (t, .resident) => t
    | (t, .filling f) => t.waitFor k (.fill f)
    | (t, .wait) => t.waitFor k .operand
    | (t, .failed e) => t.entryHalt k e

/-- Trap entry proper, once the record is written at `at'` (R394). TRET 0 reissues the lanes of PMASK, or those that an earlier TRET 0
had left to reissue (R395); ECCU that awaits the split goes on waiting, unless it is what traps (R396; log entry 71). -/
def State.enterTrap (s : State) (k : Nat) (t : TrapInfo) (h : BitVec 32) (at' : Nat) : State :=
  let p := s.sp k
  let save : TrapSave :=
    { cause := BitVec.ofNat 8 t.cause, pc := t.pc, mode := p.mode, gmode := t.gmode, probe := p.ownProbe,
      bank := p.bank, rep := t.rep, replay := if t.byLane then some t.pmask else p.replay,
      fall := s.fallAt (gidOf k) t.pc }
  let s := s.setSp k { p with traps := save :: p.traps, mode := .trap, wait := .none, gmode := 0,
                              ownProbe := false, bank := 3, rep := none, replay := none,
                              eccu := if t.late then none else p.eccu, pc := h }
  (s.sset k 31 (BitVec.ofNat 64 at')).ensureCode k

/-- A trap of split k (R394). -/
def State.trap (s : State) (k : Nat) (t : TrapInfo) : State :=
  let g := gidOf k
  let gr := s.gr g
  let p := s.sp k
  if p.mode = .trap then s.haltSplit k t.cause true t.addr
  else if p.mode = .region then
    s.regAbort k { code := abFault, detail := t.cause, scal := t.scal, lane := if t.scal then 0 else lowLane t.pmask }
  else if t.cause = cEmudepth ∨ t.cause = cContain ∨ 0x20 ≤ t.cause then s.haltSplit k t.cause false t.addr
  else
    let h := lo32 (s.physWord ((s.cx gr.ctx).vt.toNat + 8 * t.cause))
    if h = 0 ∨ ((t.cause = cWspill ∨ t.cause = cWfill) ∧ pcId h < sysId) then s.haltSplit k t.cause false t.addr
    else if (entries g).any fun j => j != k && (s.sp j).valid && (s.sp j).mode == .trap then
      -- the lanes that passed are served; the others issue again with the bank free (R178, R394)
      s.modSp k fun p => { p with wait := .trapBank, replay := if t.byLane then some t.pmask else p.replay }
    else
      let at' := s.recordAddr k
      let (s, wait) := s.vaWaits (coreOf g) gr.ctx at' needStore
      if wait then s.modSp k fun p => { p with wait := .operand, replay := if t.byLane then some t.pmask else p.replay }
      else
      let word := (s.fetch g t.pc).getD 0
      match s.putWords (coreOf g) gr.ctx at' (recordWords t word) with
      | none => s.haltSplit k cXlate true at'
      | some s => s.enterTrap k t h at'

/-- A trap of the issuing split by a scalar or unguarded form. -/
def State.trapU (s : State) (cause : Nat) : State := s.trap s.cur (s.uniTrap s.cur cause)

/-- The return from a trap (R101, R395): n = 0 reissues, n = 1 steps over the trapping instruction. -/
def State.returnTrap (s : State) (k : Nat) (again : Bool) : State :=
  let p := s.sp k
  match p.traps with
  | [] => s
  | v :: rest =>
    let q : Split := { p with traps := rest, mode := v.mode, wait := .none, gmode := v.gmode, ownProbe := v.probe,
                              bank := v.bank, pc := v.pc, rep := v.rep, replay := if again then v.replay else none }
    s.setSp k (if again then q else q.pastBy v.fall)

/-! ## Emulation entry (R285-R289) -/

/-! ## REP (R59) -/

/-- A register field after i steps (R59). -/
def stepField (w : Nat) (x i : Nat) (step : BitVec 3) : Nat := (((x : Int) + i * step.toInt) % 2 ^ w).toNat

/-- Which of the d, a and b positions of a word REP steps, by major and minor (R59, R201, R253, R284): all three, less the
immediate of VI and SI and the fields that R59 never steps: a type (0x16), an op code (VSCAN, VREDUCE) and the space of XREG (log
entry 66). A "must be 0" field steps, and is undefined once it is not 0. -/
def stepped (major minor : Nat) : Bool × Bool × Bool :=
  match major with
  | 0x0F => (true, true, !([7, 8].contains minor))
  | 0x27 => (true, true, minor == 0)
  | _ => (true, true, !([0x09, 0x0A, 0x0B, 0x0D, 0x0E, 0x16].contains major))

/-- The minor of a word, by its major (R56, R72). -/
def minorOf (w : Nat) : Nat :=
  let major := w / 2 ^ 26
  if [0x08, 0x1A, 0x1D, 0x1E, 0x1F, 0x22, 0x23, 0x26, 0x27].contains major then w % 2 ^ 10
  else if major = 0x10 then w % 2 ^ 11
  else w % 2 ^ 7

/-- Low bits and widths of the d, a and b positions (R56). The a of VBCAST is a scalar field, which wraps mod 32 (R137; log
entry 66). -/
def positions (major minor : Nat) : List (Nat × Nat) :=
  if [0x08, 0x09, 0x0A, 0x0B, 0x1A, 0x1D, 0x1E, 0x1F, 0x22, 0x23, 0x26, 0x27].contains major || (major == 0x21 && decide (2 ≤ minor)) then
    [(20, 5), (15, 5), (10, 5)]
  else if major = 0x10 then [(22, 3), (19, 3), (16, 3)]
  else if 0x17 ≤ major ∧ major ≤ 0x1C ∧ major ≠ 0x1A then [(19, 6), (14, 5), (8, 6)]
  else if major = 0x0F ∧ minor = 5 then [(19, 6), (13, 5), (7, 6)]
  else [(19, 6), (13, 6), (7, 6)]

/-- A word with the field of w bits at lo stepped. -/
def stepAt (x : Nat) (p : Nat × Nat) (on : Bool) (i : Nat) (step : BitVec 3) : Nat :=
  let old := x / 2 ^ p.1 % 2 ^ p.2
  if on then x - old * 2 ^ p.1 + stepField p.2 old i step * 2 ^ p.1 else x

/-- The word that iteration i of a REP issues. -/
def stepWord (word : Word32) (r : Rep) : Word32 :=
  let x := word.toNat
  let major := x / 2 ^ 26
  let on := stepped major (minorOf x)
  match positions major (minorOf x) with
  | [d, a, b] => BitVec.ofNat 32 (stepAt (stepAt (stepAt x d on.1 r.i r.sd) a on.2.1 r.i r.sa) b on.2.2 r.i r.sb)
  | _ => word

/-! ## The operand window (R289) -/

/-- Majors whose fields OW2 shows stepped under REP (R289). -/
def stepsInOw2 (major : Nat) : Bool :=
  (0x0C ≤ major && major ≤ 0x0F) || (0x11 ≤ major && major ≤ 0x16) || major == 0x24 || major == 0x25
    || (0x28 ≤ major && major ≤ 0x3F)

/-- The eight operand-window registers at entry to a level: every field that R289 does not list reads as zero (R289, R300). A word with
S = 1 that is the last of its overlay has no live-mask word: OW1[63:32] is 0 then (log entry 98). -/
def owRegs (pc : BitVec 32) (word live : Word32) (guard mask : BitVec 32) (gmode : BitVec 12) (rep : Option Rep)
    (cause level : Nat) (isG : Bool) : List Word64 :=
  let w := word.toNat
  let major := w / 2 ^ 26
  let x := match rep with
    | some r => if stepsInOw2 major then (stepWord word r).toNat else w
    | none => w
  let d := x / 2 ^ 19 % 64
  let a := x / 2 ^ 13 % 64
  let b := x / 2 ^ 7 % 64
  [ BitVec.ofNat 64 pc.toNat,
    pair64 (if bit word 25 then live else 0) word,
    BitVec.ofNat 64 (d + 2 ^ 8 * a + 2 ^ 16 * b + 2 ^ 24 * (w % 128) + 2 ^ 32 * major
      + if bit word 25 then 2 ^ 38 else 0),
    BitVec.ofNat 64 guard.toNat,
    BitVec.ofNat 64 mask.toNat,
    BitVec.ofNat 64 gmode.toNat,
    (match rep with
     | some r => BitVec.ofNat 64 (r.i + 2 ^ 8 * r.last + 2 ^ 16 + 2 ^ 20 * r.sd.toNat + 2 ^ 24 * r.sa.toNat
                   + 2 ^ 28 * r.sb.toNat)
     | none => 0),
    BitVec.ofNat 64 (cause + 2 ^ 8 * level + if isG then 2 ^ 16 else 0) ]

/-- EMUPC of a context (R286, R392). -/
def State.emuPc (s : State) (c : Nat) : BitVec 32 := lo32 (s.physWord ((s.cx c).vt.toNat + 0x100))

/-- The probe bit that governs a split (R294). -/
def State.probeOf (s : State) (k : Nat) : Bool :=
  if (s.sp k).levels.isEmpty && (s.sp k).traps.isEmpty then (s.gr (gidOf k)).probe else (s.sp k).ownProbe

/-- Entry to the emulation handler for a word of the issuing split (R285). -/
def State.enterEmu (s : State) (cause : Nat) (word live : Word32) : State :=
  let k := s.cur
  let g := s.cg
  let gr := s.gr g
  let p := s.sp k
  let n := p.levels.length
  if 2 ≤ n then s.haltSplit k cEmudepth false 0
  else if n = 0 ∧ ((entries g).any fun j => j != k && (s.sp j).valid && !(s.sp j).levels.isEmpty) then
    s.waitFor k .emuLevel
  else if p.resident = gr.depth then s.trapU cWspill
  else
    let pc := s.emuPc gr.ctx
    if pc = 0 then s.haltSplit k cEmudepth false 0
    else
      let ow := owRegs p.pc word live (s.guard k) p.mask p.gmode p.rep cause (n + 1) (s.isG (coreOf g))
      let v : EmuLevel := { ow := ow, mode := p.mode, gmode := p.gmode, probe := p.ownProbe, bank := p.bank,
                            entryCwp := p.cwp + 1, rep := p.rep }
      let s := s.setSp k { p with levels := v :: p.levels, mode := .emu, wait := .none, gmode := 0, ownProbe := false,
                                  bank := n + 1, cwp := p.cwp + 1, resident := p.resident + 1, rep := none,
                                  replay := none, pc := pc }
      s.ensureCode k

/-- The minor probe mode records (R76). -/
def probeMinor (word : Word32) : Nat :=
  let w := word.toNat
  let major := w / 2 ^ 26
  if [0x00, 0x05, 0x08, 0x1A, 0x1D, 0x1E, 0x1F, 0x22, 0x23, 0x26, 0x27].contains major then w % 2 ^ 10
  else if [0x0C, 0x0F, 0x11, 0x12, 0x13, 0x14, 0x15, 0x16, 0x21, 0x24, 0x25].contains major ∨ 0x38 ≤ major then w % 2 ^ 7
  else if major = 0x06 then w % 2 ^ 9
  else if major = 0x10 then w % 2 ^ 11
  else if major = 0x20 then w / 2 ^ 18 % 4
  else w % 2 ^ 11

/-- A word that is not native is met by the issuing split (R74, R76, R285): 0 UNDEF, 1 DISABLED, 2 SOFT,
3 FUTURE. In a region it aborts with FAULT (R76, R296), but the disabled forms of a G-core are of the majors that abort with
ENGINE, which comes first (R75, R218, R222). -/
def State.nonNative (s : State) (cause : Nat) (word live : Word32) : State :=
  let k := s.cur
  let g := s.cg
  if (s.sp k).mode = .region then
    if cause = 1 ∧ s.isG (coreOf g) then s.regAbort k { code := abEngine, detail := word.toNat / 2 ^ 26 }
    else s.regAbort k { code := abFault, detail := 0x80 + cause, scal := true }
  else if cause ≠ 2 ∧ s.probeOf k then
    let s := s.modGr g fun r =>
      if bit r.probef 0 then r
      else { r with probef := BitVec.ofNat 18 (1 + 2 * (word.toNat / 2 ^ 26) + 2 ^ 7 * probeMinor word) }
    s.advance (bit word 25)
  else s.enterEmu cause word live

/-- The issued word and the word after it. -/
def State.curWord (s : State) : Word32 := (s.fetch s.cg s.me.pc).getD 0
def State.curLive (s : State) : Word32 := (s.fetch s.cg (pcAdd s.me.pc 1)).getD 0

/-- A form that its GMODE type or operands make undefined at issue (R65, R76). -/
def State.undef (s : State) : State := s.nonNative 0 s.curWord s.curLive

/-! ## Stalls -/

/-- The registers an instruction reads and writes: scalars, vector registers, predicates. -/
structure Uses where
  ss : List Nat := []
  ds : List Nat := []
  sv : List Nat := []
  dv : List Nat := []
  sq : List Nat := []
  dq : List Nat := []
  /-- reads other lanes' rows (VSHUF, VEXT): the tagged sources are those of `also`, register and lane -/
  cross : Bool := false
  also : List (Nat × Nat) := []
  /-- the scalars in `ds` are written only where G is not empty (VEXT, VPACKB; R132) -/
  ifAny : Bool := false
  deriving DecidableEq, Repr

def State.scalarKey (s : State) (k n : Nat) : Nat := sKey k ((s.sp k).bankS n) n
def State.predKey (s : State) (k n : Nat) : Nat := pKey k ((s.sp k).bankP n) n
def rowKey (g row : Nat) : Nat := g * 512 + row

/-- A pending token or load destination (R37, R174). -/
def State.pendingS (s : State) (k n : Nat) : Bool := n != 0 && mget 0 s.pendS (s.scalarKey k n) != 0
def State.pendingV (s : State) (k n : Nat) : Bool := mget 0 s.pendV (rowKey (gidOf k) (s.row k n)) != 0

/-- Another split's open region has written the register (R222). -/
def State.lockedByRegion (s : State) (k : Nat) (u : Uses) : Bool :=
  (entries (gidOf k)).any fun j => j != k &&
    match s.region j with
    | none => false
    | some r =>
      (u.ss ++ u.ds).any (fun n => n != 0 && (afind r.savedS (s.scalarKey k n)).isSome)
      || (u.sq ++ u.dq ++ (if (u.sv ++ u.dv).isEmpty then [] else [gGuard (s.sp k).gmode])).any
            (fun n => n != 0 && (afind r.savedP (s.predKey k n)).isSome)
      || (u.cross && u.sv.any fun n => lanes.any fun l => (afind r.savedV (vKey (gidOf k) (s.row k n) l)).isSome)

/-- The instruction cannot issue yet. -/
def State.stalled (s : State) (k : Nat) (u : Uses) : Bool :=
  (u.ss ++ u.ds).any (s.pendingS k) || (u.sv ++ u.dv).any (s.pendingV k) || s.lockedByRegion k u

/-- The split stalls on the scoreboard (STATE 1). -/
def State.stall (s : State) : State := s.waitFor s.cur .operand

/-! ## The record of an open region (R208-R213) -/

/-- A step of a region: the state it leaves, or the state after its abort. -/
abbrev RegStep := Except State State

/-- Record slot of the split's scalar work; slots 0 to 31 are the lanes. -/
def scalSlot : Nat := 32

/-- An abort with CAP by one record: the lane that passed the limit, or the scalar work (R219). -/
def abortIn (s : State) (k detail slot : Nat) : RegStep :=
  .error (s.regAbort k { code := abCap, detail := detail, lane := if slot = scalSlot then 0 else slot,
                         scal := slot == scalSlot })

/-- An abort with CAP by a limit of the whole region, which no lane passed and which is no scalar work: LANE 0, SCAL 0 (R207,
R219; log entry 68). -/
def abortWhole (s : State) (k detail : Nat) : State := s.regAbort k { code := abCap, detail := detail }

/-- Add a constraint to a record (R212). -/
def State.addCons (s : State) (k : Nat) (c : Constraint) : RegStep :=
  match s.region k with
  | none => .ok s
  | some r =>
    if 8 ≤ (r.cons.filter fun x => x.slot == c.slot).length then abortIn s k 2 c.slot
    else .ok (s.setRegion k (some { r with cons := r.cons ++ [c] }))

/-- The constraint is the equality of x_k with its observed value: concretised, or a compare eq of the untouched input that
was true (R212). -/
def Constraint.pins (c : Constraint) (slot k : Nat) : Bool :=
  c.slot == slot && c.k == k && (c.rel == 6 || (c.rel == 0 && c.outcome && c.c == 0))

/-- Concretise an input of a record (R212). -/
def State.concretise (s : State) (k slot x : Nat) : RegStep :=
  match s.region k with
  | none => .ok s
  | some r =>
    if r.cons.any fun c => c.pins slot x then .ok s
    else s.addCons k { slot := slot, k := x, rel := 6, signed := false, w := 64, c := 0, bound := 0, outcome := true }

/-- Where a tag sits: a scalar's key, or a row's key in a lane. -/
inductive TagLoc where
  | scal (key : Nat)
  | vec (key lane : Nat)
  deriving DecidableEq, Repr

def TagLoc.slot : TagLoc → Nat
  | .scal _ => scalSlot
  | .vec _ l => l

def Region.tagAt (r : Region) : TagLoc → Option Tag
  | .scal n => afind r.tagS n
  | .vec n _ => afind r.tagV n

def Region.setTag (r : Region) (t : TagLoc) (v : Option Tag) : Region :=
  match t, v with
  | .scal n, some x => { r with tagS := aput r.tagS n x }
  | .scal n, none => { r with tagS := adel r.tagS n }
  | .vec n _, some x => { r with tagV := aput r.tagV n x }
  | .vec n _, none => { r with tagV := adel r.tagV n }

def State.tagAt (s : State) (k : Nat) (t : TagLoc) : Option Tag :=
  match s.region k with
  | some r => r.tagAt t
  | none => none

def State.setTag (s : State) (k : Nat) (t : TagLoc) (v : Option Tag) : State :=
  match s.region k with
  | some r => s.setRegion k (some (r.setTag t v))
  | none => s

/-- Concretise what a location holds, if it is tagged, and clear the tag (R212). -/
def State.concLoc (s : State) (k : Nat) (t : TagLoc) : RegStep :=
  match s.tagAt k t with
  | none => .ok s
  | some x => (s.concretise k t.slot x.k).map fun s => s.setTag k t none

def State.concAll (s : State) (k : Nat) (ts : List TagLoc) : RegStep :=
  ts.foldlM (fun t l => t.concLoc k l) s

def State.locS (s : State) (k n : Nat) : TagLoc := .scal (s.scalarKey k n)
def State.locV (s : State) (k n l : Nat) : TagLoc := .vec (vKey (gidOf k) (s.row k n) l) l

/-- What a form does with tags (R139, R211). -/
inductive TagRule where
  /-- every tagged source is concretised -/
  | conc
  /-- the form settles its tags itself -/
  | own
  | linS (d a b : Nat) (sub : Bool)
  | immS (d a : Nat) (i : Word64)
  | movS (d a : Nat)
  | cmpS (d a b rel : Nat) (signed : Bool)
  | linV (d a b : Nat) (sub wide : Bool)
  | immV (d a : Nat) (i : Word64) (wide : Bool)
  | movV (d a : Nat) (wide : Bool)
  | cmpV (a b rel : Nat) (signed wide : Bool)
  deriving DecidableEq, Repr

/-- Two operands: which carries the tag, with the other's value. -/
inductive Tagged where
  | none
  | both
  | a (x : Tag) (u : Word64)
  | b (x : Tag) (u : Word64)
  deriving DecidableEq, Repr

def tagged (ta tb : Option Tag) (va vb : Word64) : Tagged :=
  match ta, tb with
  | .none, .none => .none
  | some x, .none => .a x vb
  | .none, some x => .b x va
  | some _, some _ => .both

/-- The tag of a location read as an operand of the width: a half of a pair alone is no operand of width 32,
and a pair's halves must belong together (R211). -/
def State.operandTag (s : State) (k n l : Nat) (wide : Bool) : Option Tag :=
  match s.tagAt k (s.locV k n l) with
  | some t =>
    if wide then
      match s.tagAt k (s.locV k (n + 1) l) with
      | some u => if t.part = 1 ∧ u.part = 2 ∧ t.k = u.k ∧ t.c = u.c then some t else none
      | none => none
    else if t.part = 0 then some t else none
  | none => none

def State.operandVal (s : State) (k n l : Nat) (wide : Bool) : Word64 :=
  if wide then s.vget64 k n l else (s.vget k n l).setWidth 64

/-- The locations of a vector operand in a lane. -/
def State.operandLocs (s : State) (k n l : Nat) (wide : Bool) : List TagLoc :=
  if wide then [s.locV k n l, s.locV k (n + 1) l] else [s.locV k n l]

/-- The tags a vector destination takes. -/
def State.destTags (s : State) (k d l : Nat) (wide : Bool) (x : Tag) (c : Word64) : List (TagLoc × Tag) :=
  if wide then [(s.locV k d l, { x with c := c, part := 1 }), (s.locV k (d + 1) l, { x with c := c, part := 2 })]
  else [(s.locV k d l, { x with c := c, part := 0 })]

/-- A constraint from a compare (R212): the tag on b reverses the relation. -/
def revRel (rel : Nat) : Nat :=
  match rel with | 2 => 4 | 3 => 5 | 4 => 2 | 5 => 3 | r => r

/-- The truth of a relation of R212 on w-bit values. -/
def relHolds (rel : Nat) (signed : Bool) (w : Nat) (x y : Word64) : Bool :=
  let a := x.toNat % 2 ^ w
  let b := y.toNat % 2 ^ w
  let sa : Int := if signed && a.testBit (w - 1) then (a : Int) - 2 ^ w else a
  let sb : Int := if signed && b.testBit (w - 1) then (b : Int) - 2 ^ w else b
  match rel with
  | 0 => decide (sa = sb) | 1 => decide (sa ≠ sb) | 2 => decide (sa < sb)
  | 3 => decide (sa ≤ sb) | 4 => decide (sa > sb) | _ => decide (sa ≥ sb)

/-- Tag work before the effect: the state with its constraints, and the tags the destinations will take. -/
def State.tagWork (s : State) (k : Nat) (u : Uses) : TagRule → Except State (State × List (TagLoc × Tag))
  | .own => .ok (s, [])
  | .conc => do
    let s ← s.concAll k (u.ss.map (s.locS k))
    let s ← s.concAll k (if u.cross then u.also.map fun p => s.locV k p.1 p.2
      else (s.glanes k).flatMap fun l => u.sv.map fun n => s.locV k n l)
    return (s, [])
  | .linS d a b sub =>
    match tagged (s.tagAt k (s.locS k a)) (s.tagAt k (s.locS k b)) (s.sget k a) (s.sget k b) with
    | .none => .ok (s, [])
    | .a x v => .ok (s, [(s.locS k d, { x with c := if sub then x.c - v else x.c + v })])
    | .b x v =>
      if sub then do let s ← s.concLoc k (s.locS k b); return (s, [])
      else .ok (s, [(s.locS k d, { x with c := x.c + v })])
    | .both => do let s ← s.concAll k [s.locS k a, s.locS k b]; return (s, [])
  | .immS d a i =>
    match s.tagAt k (s.locS k a) with
    | none => .ok (s, [])
    | some x => .ok (s, [(s.locS k d, { x with c := x.c + i })])
  | .movS d a =>
    match s.tagAt k (s.locS k a) with
    | none => .ok (s, [])
    | some x => .ok (s, [(s.locS k d, x)])
  | .cmpS _ a b rel sg =>
    let put (x : Tag) (v : Word64) (r : Nat) : Except State (State × List (TagLoc × Tag)) := do
      let y := s.sget k (if r = rel then a else b)
      let s ← s.addCons k { slot := scalSlot, k := x.k, rel := r, signed := sg, w := 64, c := x.c, bound := v,
                            outcome := relHolds r sg 64 y v }
      return (s, [])
    match tagged (s.tagAt k (s.locS k a)) (s.tagAt k (s.locS k b)) (s.sget k a) (s.sget k b) with
    | .none => .ok (s, [])
    | .a x v => put x v rel
    | .b x v => do
      let y := s.sget k b
      let s ← s.addCons k { slot := scalSlot, k := x.k, rel := revRel rel, signed := sg, w := 64, c := x.c, bound := v,
                            outcome := relHolds (revRel rel) sg 64 y v }
      return (s, [])
    | .both => do let s ← s.concAll k [s.locS k a, s.locS k b]; return (s, [])
  | .linV d a b sub wide =>
    (s.glanes k).foldlM (fun (acc : State × List (TagLoc × Tag)) l =>
      let s := acc.1
      let locs := s.operandLocs k a l wide ++ s.operandLocs k b l wide
      match tagged (s.operandTag k a l wide) (s.operandTag k b l wide) (s.operandVal k a l wide) (s.operandVal k b l wide) with
      | .a x v => do
        let s ← s.concAll k (s.operandLocs k b l wide)
        return (s, acc.2 ++ s.destTags k d l wide x (if sub then x.c - v else x.c + v))
      | .b x v =>
        if sub then do let s ← s.concAll k locs; return (s, acc.2)
        else do
          let s ← s.concAll k (s.operandLocs k a l wide)
          return (s, acc.2 ++ s.destTags k d l wide x (x.c + v))
      | _ => do let s ← s.concAll k locs; return (s, acc.2)) (s, [])
  | .immV d a i wide =>
    (s.glanes k).foldlM (fun (acc : State × List (TagLoc × Tag)) l =>
      let s := acc.1
      match s.operandTag k a l wide with
      | some x => .ok (s, acc.2 ++ s.destTags k d l wide x (x.c + i))
      | none => do let s ← s.concAll k (s.operandLocs k a l wide); return (s, acc.2)) (s, [])
  | .movV d a wide =>
    .ok (s, (s.glanes k).flatMap fun l =>
      (if wide then [(a, d), (a + 1, d + 1)] else [(a, d)]).filterMap fun p =>
        (s.tagAt k (s.locV k p.1 l)).map fun x => (s.locV k p.2 l, x))
  | .cmpV a b rel sg wide =>
    (s.glanes k).foldlM (fun (acc : State × List (TagLoc × Tag)) l =>
      let s := acc.1
      let w := if wide then 64 else 32
      let con (s : State) (n : Nat) (x : Tag) (v : Word64) (r : Nat) : Except State (State × List (TagLoc × Tag)) := do
        let s ← s.addCons k { slot := l, k := x.k, rel := r, signed := sg, w := w, c := x.c, bound := v,
                              outcome := relHolds r sg w (s.operandVal k n l wide) v }
        return (s, acc.2)
      match tagged (s.operandTag k a l wide) (s.operandTag k b l wide) (s.operandVal k a l wide) (s.operandVal k b l wide) with
      | .a x v => do
        let s ← s.concAll k (s.operandLocs k b l wide)
        con s a x v rel
      | .b x v => do
        let s ← s.concAll k (s.operandLocs k a l wide)
        con s b x v (revRel rel)
      | _ => do
        let s ← s.concAll k (s.operandLocs k a l wide ++ s.operandLocs k b l wide)
        return (s, acc.2)) (s, [])

/-- The scalars a form writes (R132). -/
def State.written (s : State) (k : Nat) (u : Uses) : List Nat := if u.ifAny ∧ s.glanes k = [] then [] else u.ds

/-- Save a register before the region's first write of it; the limits of R208. A vector register counts by its visible number,
also where a CALL or RET of the region has moved the window (log entry 70). -/
def State.saveDests (s : State) (k : Nat) (u : Uses) : RegStep :=
  match s.region k with
  | none => .ok s
  | some r =>
    let ds := (s.written k u).filter fun n => n != 0
    let savedS := ds.foldl (fun m n => akeep m (s.scalarKey k n) (s.sget k n)) r.savedS
    let savedP := (u.dq.filter fun n => n != 0).foldl (fun m n => akeep m (s.predKey k n) (s.pget k n)) r.savedP
    let savedV := u.dv.foldl (fun m n => (s.glanes k).foldl (fun m l =>
      akeep m (vKey (gidOf k) (s.row k n) l) (s.vget k n l)) m) r.savedV
    let wroteV := if s.glanes k = [] then r.wroteV else (r.wroteV ++ u.dv).dedup
    if 24 < wroteV.length then .error (abortWhole s k 4)
    else if 16 < savedS.length then abortIn s k 5 scalSlot
    else .ok (s.setRegion k (some { r with savedS := savedS, savedP := savedP, savedV := savedV, wroteV := wroteV }))

/-- Count an issued instruction (R208). -/
def State.countIssue (s : State) (k : Nat) : RegStep :=
  match s.region k with
  | none => .ok s
  | some r =>
    if 4096 ≤ r.issued then .error (abortWhole s k 6)
    else .ok (s.setRegion k (some { r with issued := r.issued + 1 }))

/-- Clear the tags of the written locations, then set the new ones. -/
def State.retag (s : State) (k : Nat) (ls : List Nat) (u : Uses) (new : List (TagLoc × Tag)) : State :=
  let gone := (if u.ifAny ∧ ls = [] then [] else u.ds.map (s.locS k)) ++ ls.flatMap fun l => u.dv.map fun n => s.locV k n l
  let s := gone.foldl (fun t x => t.setTag k x none) s
  new.foldl (fun t p => if p.1 = s.locS k 0 then t else t.setTag k p.1 (some p.2)) s

/-- An instruction inside a region (R208-R213). -/
def State.inRegionDo (s : State) (k : Nat) (u : Uses) (tag : TagRule) (eff : State → State) : State :=
  let ls := s.glanes k
  let r : Except State (State × List (TagLoc × Tag)) := do
    let s ← s.countIssue k
    let s ← s.saveDests k u
    s.tagWork k u tag
  match r with
  | .error t => t
  | .ok (t, new) => (eff t).retag k ls u new

/-! ## The prelude of an encoded instruction -/

/-- An encoded instruction issues from a valid split, or nothing issues. -/
def issue (s : State) (f : State → State) : Out :=
  if s.me.valid then .next (f s) else .fault .noSplit

/-- A register form: it stalls while a register it uses is pending or held by another split's region, keeps a
region's record, has its effect and moves on. -/
def State.form (s : State) (e : Bool) (u : Uses) (tag : TagRule) (eff : State → State) : State :=
  if s.stalled s.cur u then s.stall
  else if s.me.mode = .region then
    let t := s.inRegionDo s.cur u tag eff
    if (t.region s.cur).isSome then t.advance e else t
  else (eff s).advance e

/-- The prelude of a form that settles its own completion: `f` runs once the registers are free; in a region the
sources are concretised and the destinations saved first. -/
def State.whenFree (s : State) (u : Uses) (f : State → State) : State :=
  if s.stalled s.cur u then s.stall
  else if s.me.mode = .region then s.inRegionDo s.cur u .conc f
  else f s

/-- The issuing split is inside a region. -/
def State.inRegion (s : State) : Bool := s.me.mode == .region

/-- A form a region bars (R202, R218). -/
def State.barred (s : State) (code detail : Nat) : State :=
  s.regAbort s.cur { code := code, detail := detail, scal := code == abFault }

end Sys2Proof.Machine
end

