-- ==== Sys2Proof/Machine/Operands.lean ====
section
/-! DEFINITION. Element types (R65), packed operands, register pairs, and the shapes the scalar and vector forms
share (R121, R125, R136, R137). -/
namespace Sys2Proof.Machine

/-! ## Types (R65) -/

/-- Element width of a type code. -/
def elW (t : Nat) : Nat :=
  if t < 4 then 32 else if t < 8 then 16 else if t < 12 then 8 else if t < 15 then 4 else 64

/-- Elements of a 32-bit row, or of a pair under b64. -/
def elN (t : Nat) : Nat := if t = 15 then 1 else 32 / elW t

/-- Types whose elements are read as two's complement; b32 and b64 among them (R125). -/
def elSigned (t : Nat) : Bool := [0, 1, 4, 8, 12, 15].contains t

/-- Classes of R126. -/
def clsI (t : Nat) : Bool := [0, 1, 2, 4, 5, 8, 9, 12, 13].contains t
def clsI64 (t : Nat) : Bool := clsI t || t == 15

/-- Class F (R153). -/
def clsF (t : Nat) : Bool := t == 3 || t == 6 || t == 7

/-- The float format of a type code (R65). -/
def fmtOf (t : Nat) : Option Fmt :=
  match t with
  | 3 => some .fp32 | 6 => some .fp16 | 7 => some .bf16 | 10 => some .f8a | 11 => some .f8b | 14 => some .f4
  | _ => none

/-- Element e of width w (R65). -/
def el (w : Nat) (x : Word64) (e : Nat) : Nat := (x.toNat >>> (w * e)) % 2 ^ w

/-- A packed value from its elements. -/
def packEl (w n : Nat) (f : Nat → Nat) : Word64 :=
  BitVec.ofNat 64 ((List.range n).foldl (fun acc e => acc + (f e % 2 ^ w) * 2 ^ (w * e)) 0)

/-- An element as an integer. -/
def elInt (signed : Bool) (w x : Nat) : Int := if signed && x.testBit (w - 1) then (x : Int) - 2 ^ w else x

/-- The w-bit code of an integer, wrapped (R125). -/
def wrapTo (w : Nat) (v : Int) : Nat := (v % 2 ^ w).toNat

/-- The least and greatest value of an element type. -/
def elMin (signed : Bool) (w : Nat) : Int := if signed then -(2 ^ (w - 1)) else 0
def elMax (signed : Bool) (w : Nat) : Int := if signed then 2 ^ (w - 1) - 1 else 2 ^ w - 1

def clampTo (lo hi v : Int) : Int := max lo (min hi v)

/-- Wrap, or clamp under SAT (R125). -/
def fitEl (sat signed : Bool) (w : Nat) (v : Int) : Nat :=
  wrapTo w (if sat then clampTo (elMin signed w) (elMax signed w) v else v)

/-! ## The issuing split's mode -/

def State.ty (s : State) : Nat := gType s.me.gmode
def State.sat (s : State) : Bool := gSat s.me.gmode
def State.ftz (s : State) : Bool := gFtz s.me.gmode
def State.rnd (s : State) : Nat := gRnd s.me.gmode
def State.wide (s : State) : Bool := s.ty == 15

/-! ## Register pairs -/

/-- The registers a field names: n, or the pair n, n+1. -/
def regs (wide : Bool) (n : Nat) : List Nat := if wide then [n, n + 1] else [n]

/-- Write an operand-sized value into register n, or the pair, of lane l. -/
def State.putOp (s : State) (k n l : Nat) (wide : Bool) (v : Word64) : State :=
  if wide then (s.vset k n l (lo32 v)).vset k (n + 1) l (hi32 v) else s.vset k n l (lo32 v)

/-- Write register n of the guard lanes, each lane its own value. -/
def State.putLanes (s : State) (n : Nat) (wide : Bool) (f : Nat → Word64) : State :=
  (s.glanes s.cur).foldl (fun t l => t.putOp t.cur n l wide (f l)) s

/-! ## Shapes -/

/-- A scalar form of two sources (R121). -/
def State.scal2 (s : State) (e : Bool) (d a b : BitVec 5) (tag : TagRule) (f : Word64 → Word64 → Word64) : State :=
  s.form e { ss := [a.toNat, b.toNat], ds := [d.toNat] } tag fun s =>
    s.sset s.cur d.toNat (f (s.sget s.cur a.toNat) (s.sget s.cur b.toNat))

/-- A scalar form of one source. -/
def State.scal1 (s : State) (e : Bool) (d a : BitVec 5) (tag : TagRule) (f : Word64 → Word64) : State :=
  s.form e { ss := [a.toNat], ds := [d.toNat] } tag fun s =>
    s.sset s.cur d.toNat (f (s.sget s.cur a.toNat))

/-- A vector form: undefined outside its types and with an odd register under b64 (R65); else each guard lane's
destination takes `f` of the state before and the lane (R125, R137). -/
def State.vec (s : State) (e : Bool) (ok : Bool) (d : Nat) (srcs : List Nat) (tag : TagRule)
    (f : State → Nat → Word64) : State :=
  let wide := s.wide
  if !ok || (wide && (d :: srcs).any fun n => n % 2 == 1) then s.undef
  else s.form e { sv := srcs.flatMap (regs wide), dv := regs wide d } tag fun s => s.putLanes d wide (f s)

/-- The operand register n supplies in lane l under the split's type. -/
def State.opnd (s : State) (n l : Nat) : Word64 := s.operandVal s.cur n l s.wide

/-- Per element on the codes of up to three operands (R125). -/
def mapEl (t : Nat) (f : Nat → Nat → Nat → Nat) (x y z : Word64) : Word64 :=
  packEl (elW t) (elN t) fun e => f (el (elW t) x e) (el (elW t) y e) (el (elW t) z e)

/-- Per element on integers, wrapped or clamped (R125). -/
def mapInt (t : Nat) (sat : Bool) (f : Int → Int → Int → Int) (x y z : Word64) : Word64 :=
  let i := elInt (elSigned t) (elW t)
  mapEl t (fun a b c => fitEl (sat && t != 15) (elSigned t) (elW t) (f (i a) (i b) (i c))) x y z

/-- Types under which VADD and VSUB keep a tag (R139). -/
def State.tagTypes (s : State) : Bool := [0, 1, 2, 15].contains s.ty && !s.sat

end Sys2Proof.Machine
end

