-- ==== Sys2Proof/Machine/Flags.lean ====
section
/-! DEFINITION. Sticky flags of float forms (R49, R152) and the relations of the compares (R134, R135). -/
namespace Sys2Proof.Machine

/-- OR flags into the lanes of a list, each lane its own. -/
def State.orLanes (s : State) (ls : List Nat) (f : Nat → Flags) : State :=
  ls.foldl (fun t l => t.orFlag t.cg l (f l)) s

/-- A vector form that sets flags: each guard lane takes a value and ORs in its flags (R152, R153). -/
def State.vecFl (s : State) (e ok : Bool) (srcs dsts : List Nat) (f : State → Nat → List Word32 × Flags) : State :=
  if !ok then s.undef
  else s.form e { sv := srcs, dv := dsts } .conc fun s =>
    let ls := s.glanes s.cur
    let t := ls.foldl (fun t l => (dsts.zip (f s l).1).foldl (fun t p => t.vset t.cur p.1 l p.2) t) s
    t.orLanes ls fun l => (f s l).2

/-- Relations by number: 0 eq 1 ne 2 lt 3 le 4 gt 5 ge 6 un (R134). -/
def relInt (rel : Nat) (x y : Int) : Bool :=
  match rel with
  | 0 => decide (x = y) | 1 => decide (x ≠ y) | 2 => decide (x < y) | 3 => decide (x ≤ y)
  | 4 => decide (x > y) | 5 => decide (x ≥ y) | _ => false

/-- A relation of float elements with its flags (R135). -/
def relFloat (f : Fmt) (ftz : Bool) (rel x0 y0 : Nat) : Bool × Flags :=
  let inp (x : Nat) : Nat := if ftz && f.isSub x then f.put (f.neg x) 0 else x
  let x := inp x0
  let y := inp y0
  let nan := f.isNan x || f.isNan y
  let fl : Flags := if f.isSnan x || f.isSnan y || (nan && decide (2 ≤ rel ∧ rel ≤ 5)) then flNV else 0
  if rel = 6 then (nan, fl)
  else if nan then (false, fl)
  else
    let o := f.cmp x y
    (match rel with
     | 0 => o == .eq | 1 => o != .eq | 2 => o == .lt | 3 => o != .gt | 4 => o == .gt | _ => o != .lt, fl)

/-- A relation of elements under a type code: float types by R135, integer types by R134. -/
def relEl (t : Nat) (ftz : Bool) (rel x y : Nat) : Bool × Flags :=
  match fmtOf t with
  | some f => relFloat f ftz rel x y
  | none => (relInt rel (elInt (elSigned t) (elW t) x) (elInt (elSigned t) (elW t) y), 0)

end Sys2Proof.Machine
end

