-- ==== Sys2Proof/Machine/FloatArith.lean ====
section
/-! DEFINITION. Floating point, majors 0x12 to 0x15 (R153-R161). -/
namespace Sys2Proof.Machine

/-- The arithmetic context of a class F type under GMODE: SAT does not act (R146). -/
def State.fctx (s : State) : FCtx :=
  { f := (fmtOf s.ty).getD .fp32, mode := s.rnd, sat := false, ftz := s.ftz }

/-- Per element of the split's type, packing results and gathering flags (R152). -/
def mapFl (t : Nat) (f : Nat → FRes) : List Word32 × Flags :=
  let rs := (List.range (elN t)).map f
  ([lo32 (packEl (elW t) (elN t) fun i => ((rs[i]?).getD (0, 0)).1)], rs.foldl (fun x r => x ||| r.2) 0)

/-- A class F form over elements of a, b and the old d (R153). -/
def State.fform (s : State) (e : Bool) (d : BitVec 6) (srcs : List (BitVec 6)) (f : FCtx → List Nat → FRes) : State :=
  s.vecFl e (clsF s.ty) (srcs.map BitVec.toNat) [d.toNat] fun s l =>
    mapFl s.ty fun i => f s.fctx (srcs.map fun r => el (elW s.ty) ((s.vget s.cur r.toNat l).setWidth 64) i)

/-- One and two operands out of a list. -/
def op1 (xs : List Nat) : Nat := xs.headD 0
def op2 (xs : List Nat) : Nat := (xs[1]?).getD 0
def op3 (xs : List Nat) : Nat := (xs[2]?).getD 0

/-- R154. -/
def execFadd (e : Bool) (d a b : BitVec 6) (s : State) : Out :=
  issue s fun s => s.fform e d [a, b] fun c x => c.add (op1 x) (op2 x)

/-- R154. -/
def execFsub (e : Bool) (d a b : BitVec 6) (s : State) : Out :=
  issue s fun s => s.fform e d [a, b] fun c x => c.sub (op1 x) (op2 x)

/-- R154. -/
def execFmul (e : Bool) (d a b : BitVec 6) (s : State) : Out :=
  issue s fun s => s.fform e d [a, b] fun c x => c.mul (op1 x) (op2 x)

/-- R155. -/
def execFmin (e : Bool) (d a b : BitVec 6) (s : State) : Out :=
  issue s fun s => s.fform e d [a, b] fun c x => c.minmax false (op1 x) (op2 x)

/-- R155. -/
def execFmax (e : Bool) (d a b : BitVec 6) (s : State) : Out :=
  issue s fun s => s.fform e d [a, b] fun c x => c.minmax true (op1 x) (op2 x)

/-- R154. -/
def execFdiv (e : Bool) (d a b : BitVec 6) (s : State) : Out :=
  issue s fun s => s.fform e d [a, b] fun c x => c.div (op1 x) (op2 x)

/-- R157. -/
def execFscale (e : Bool) (d a b : BitVec 6) (s : State) : Out :=
  issue s fun s => s.fform e d [a, b] fun c x => c.scale (op1 x) (sOf c.f.width (op2 x))

/-- R156. -/
def execFabs (e : Bool) (d a : BitVec 6) (s : State) : Out :=
  issue s fun s => s.fform e d [a] fun c x => (c.f.mag (op1 x), 0)

/-- R156. -/
def execFneg (e : Bool) (d a : BitVec 6) (s : State) : Out :=
  issue s fun s => s.fform e d [a] fun c x => (c.f.flip (op1 x), 0)

/-- R158. -/
def execFrcp (e : Bool) (d a : BitVec 6) (s : State) : Out :=
  issue s fun s => s.fform e d [a] fun c x => c.unary 0 (op1 x)

/-- R158. -/
def execFrsq (e : Bool) (d a : BitVec 6) (s : State) : Out :=
  issue s fun s => s.fform e d [a] fun c x => c.unary 1 (op1 x)

/-- R158. -/
def execFsqrt (e : Bool) (d a : BitVec 6) (s : State) : Out :=
  issue s fun s => s.fform e d [a] fun c x => c.unary 2 (op1 x)

/-- R158. -/
def execFexp2 (e : Bool) (d a : BitVec 6) (s : State) : Out :=
  issue s fun s => s.fform e d [a] fun c x => c.unary 3 (op1 x)

/-- R158. -/
def execFlog2 (e : Bool) (d a : BitVec 6) (s : State) : Out :=
  issue s fun s => s.fform e d [a] fun c x => c.unary 4 (op1 x)

/-- R158. -/
def execFsinp (e : Bool) (d a : BitVec 6) (s : State) : Out :=
  issue s fun s => s.fform e d [a] fun c x => c.unary 5 (op1 x)

/-- R158. -/
def execFcosp (e : Bool) (d a : BitVec 6) (s : State) : Out :=
  issue s fun s => s.fform e d [a] fun c x => c.unary 6 (op1 x)

/-- R159. -/
def execFma (e : Bool) (d a b : BitVec 6) (s : State) : Out :=
  issue s fun s => s.fform e d [a, b, d] fun c x => c.fma false false (op1 x) (op2 x) (op3 x)

/-- R159. -/
def execFms (e : Bool) (d a b : BitVec 6) (s : State) : Out :=
  issue s fun s => s.fform e d [a, b, d] fun c x => c.fma false true (op1 x) (op2 x) (op3 x)

/-- R159. -/
def execFnma (e : Bool) (d a b : BitVec 6) (s : State) : Out :=
  issue s fun s => s.fform e d [a, b, d] fun c x => c.fma true false (op1 x) (op2 x) (op3 x)

/-- IDOT of one lane (R160). -/
def idot (t : Nat) (sat : Bool) (d a b : Word64) : Nat :=
  let sg := elSigned t
  let w := elW t
  let sum := (List.range (elN t)).foldl (fun acc i => acc + elInt sg w (el w a i) * elInt sg w (el w b i))
    (elInt sg 32 d.toNat)
  fitEl sat sg 32 sum

/-- R160. -/
def execIdot (e : Bool) (d a b : BitVec 6) (s : State) : Out :=
  issue s fun s => s.vecFl e ([4, 5, 8, 9, 12, 13].contains s.ty) [a.toNat, b.toNat, d.toNat] [d.toNat] fun s l =>
    ([BitVec.ofNat 32 (idot s.ty s.sat (s.opnd d.toNat l) (s.opnd a.toNat l) (s.opnd b.toNat l))], 0)

/-- R161: the accumulator is FP32. -/
def execFdot (e : Bool) (d a b : BitVec 6) (s : State) : Out :=
  issue s fun s => s.vecFl e ([6, 7, 10, 11, 14].contains s.ty) [a.toNat, b.toNat, d.toNat] [d.toNat] fun s l =>
    let w := elW s.ty
    let x := s.opnd a.toNat l
    let y := s.opnd b.toNat l
    let c : FCtx := { f := .fp32, mode := s.rnd, sat := false, ftz := s.ftz }
    let r := c.dot ((fmtOf s.ty).getD .fp16) ((List.range (elN s.ty)).map fun i => (el w x i, el w y i))
      (s.vget s.cur d.toNat l).toNat
    ([BitVec.ofNat 32 r.1], r.2)

end Sys2Proof.Machine
end

