-- ==== Sys2Proof/Machine/FloatConv.lean ====
section
/-! DEFINITION. Conversions, rounding and classification, major 0x16 (R163-R169). -/
namespace Sys2Proof.Machine

/-- Types a conversion may have on its float side and on its integer side (R163). -/
def clsCvtF (t : Nat) : Bool := [3, 6, 7, 10, 11, 14].contains t
def clsCvtI (t : Nat) : Bool := clsI t

/-- SAT acts in FCVT and I2F into FP16, BF16 and F8B (R146). -/
def satCvt (t : Nat) (sat : Bool) : Bool := sat && (t == 6 || t == 7 || t == 11)

/-- The context of a conversion into type t. -/
def State.cvtCtx (s : State) (t : Nat) : FCtx :=
  { f := (fmtOf t).getD .fp32, mode := s.rnd, sat := satCvt t s.sat, ftz := s.ftz }

/-- Registers a side of a conversion spans (R164). -/
def spanOf (src dst t : Nat) : Nat := max (elN src) (elN dst) / elN t

/-- A conversion from type src to type dst (R164): `f` converts one element's code. -/
def State.convert (s : State) (e ok : Bool) (d a : BitVec 6) (src dst : Nat) (f : State → Nat → FRes) : State :=
  let ns := spanOf src dst src
  let nd := spanOf src dst dst
  let srcs := (List.range ns).map fun i => a.toNat + i
  let dsts := (List.range nd).map fun i => d.toNat + i
  if !ok || decide (64 < a.toNat + ns) || decide (64 < d.toNat + nd) then s.undef
  else s.vecFl e true srcs dsts fun s l =>
    let get (i : Nat) : Nat :=
      el (elW src) ((s.vget s.cur (a.toNat + i / elN src) l).setWidth 64) (i % elN src)
    let rs := (List.range (max (elN src) (elN dst))).map fun i => f s (get i)
    (((List.range nd).map fun j => lo32 (packEl (elW dst) (elN dst) fun i => ((rs[j * elN dst + i]?).getD (0, 0)).1)),
     rs.foldl (fun x r => x ||| r.2) 0)

/-- R165. -/
def execFcvt (e : Bool) (d a : BitVec 6) (t : BitVec 4) (s : State) : Out :=
  issue s fun s => s.convert e (clsCvtF t.toNat && clsCvtF s.ty) d a t.toNat s.ty fun s x =>
    (s.cvtCtx s.ty).cvt ((fmtOf t.toNat).getD .fp32) x

/-- R166. -/
def execFrnd (e : Bool) (d a : BitVec 6) (t : BitVec 4) (s : State) : Out :=
  issue s fun s => s.convert e (t.toNat == s.ty && clsF s.ty) d a t.toNat s.ty fun s x => s.fctx.rnd x

/-- The n type of a float type's element width (R163). -/
def classType (t : Nat) : Nat := if t = 3 then 2 else if t = 6 ∨ t = 7 then 5 else if t = 10 ∨ t = 11 then 9 else 13

/-- R167. -/
def execFclass (e : Bool) (d a : BitVec 6) (t : BitVec 4) (s : State) : Out :=
  issue s fun s => s.convert e (clsCvtF t.toNat && s.ty == classType t.toNat) d a t.toNat s.ty fun _ x =>
    (fclass ((fmtOf t.toNat).getD .fp32) x, 0)

/-- F2I of one code into type t (R168). -/
def toInt (g : Fmt) (mode : Nat) (ftz : Bool) (t x : Nat) : FRes :=
  let r := f2i g mode ftz (elMin (elSigned t) (elW t)) (elMax (elSigned t) (elW t)) x
  (wrapTo (elW t) r.1, r.2)

/-- R168. -/
def execF2i (e : Bool) (d a : BitVec 6) (t : BitVec 4) (s : State) : Out :=
  issue s fun s => s.convert e (clsCvtF t.toNat && clsCvtI s.ty) d a t.toNat s.ty fun s x =>
    toInt ((fmtOf t.toNat).getD .fp32) s.rnd s.ftz s.ty x

/-- R169. -/
def execI2f (e : Bool) (d a : BitVec 6) (t : BitVec 4) (s : State) : Out :=
  issue s fun s => s.convert e (clsCvtI t.toNat && clsCvtF s.ty) d a t.toNat s.ty fun s x =>
    (s.cvtCtx s.ty).ofInt (elInt (elSigned t.toNat) (elW t.toNat) x)

end Sys2Proof.Machine
end

