-- ==== Sys2Proof/Machine/Access.lean ====
section
/-! DEFINITION. How one unit of an access is performed (R306, R307): the L1 and the die L2 by class (R321,
R324, R327), requests to the home (R329, R333), the order units keep (R309-R311), the claims of copies and of
the matrix engine (R229, R242). -/
namespace Sys2Proof.Machine

/-! ## Places -/

/-- A place lies in a sector of memory. -/
def Place.inSector (sec : Nat) : Place → Bool
  | .mem pa _ _ => pa / 64 == sec
  | _ => false

/-- Space and address of a place: 0 memory, 1 host, then ABUF and WBUF of each core. -/
def Place.at' : Place → Nat × Nat
  | .mem pa _ _ => (0, pa)
  | .host a _ => (1, a)
  | .abuf c o => (2 + 2 * c, o)
  | .wbuf c o => (3 + 2 * c, o)

/-- n bytes at p and m bytes at q share a byte. -/
def meets (p : Place) (n : Nat) (q : Place) (m : Nat) : Bool :=
  p.at'.1 == q.at'.1 && decide (p.at'.2 < q.at'.2 + m ∧ q.at'.2 < p.at'.2 + n)

/-- The 256-byte granule of a place (R242). -/
def Place.granule (p : Place) : Nat × Nat := (p.at'.1, p.at'.2 / 256)

/-! ## Requests (R329, R333) -/

def Req.same (a b : Req) : Bool :=
  a.kind == b.kind && a.die == b.die && a.sector == b.sector && a.who == b.who && a.holder == b.holder && a.unit == b.unit

/-- Send a request once; while it is on its way or served it is not repeated. -/
def State.ask (s : State) (q : Req) : State :=
  if s.reqs.any (Req.same q) || (match (s.dirAt q.sector).busy with | some r => r.same q | none => false) then s
  else { s.countReq q with reqs := s.reqs ++ [{ q with inc := (s.di q.die).incarn }] }

/-! ## Classes of a sector -/

/-- An access that the home answers with an error: the home is out of service, or the sector is lost (R332,
R346). -/
def State.lost (s : State) (sec home : Nat) : Bool := !s.homeUp home || (s.dirAt sec).state == 6

/-- Banks carved for L1 (R323). -/
def State.hasL1 (s : State) (core : Nat) : Bool := (s.co core).carved != 0

/-- An uncached class of a peer's page (R321). -/
def uncached (cls home : Nat) : Bool := decide (32 ≤ home) && cls != 2

/-! ## The L2's ways (R326, R328) -/

/-- The tree after a use of a way: along its path, every bit points to the other half. -/
def plruTouch (b : BitVec 15) (way : Nat) : BitVec 15 :=
  ((List.range 4).foldl (fun (acc : BitVec 15 × Nat) i =>
    let right := way.testBit (3 - i)
    (if right then acc.1 &&& ~~~ ((1 : BitVec 15) <<< acc.2) else acc.1 ||| ((1 : BitVec 15) <<< acc.2), 2 * acc.2 + (if right then 2 else 1))) (b, 0)).1

/-- The way the tree leads to from a node at height n, less those that may not be chosen (R328). -/
def plruPick (b : BitVec 15) (ok : Nat → Bool) : Nat → Nat → Nat → Option Nat
  | 0, _, w => if ok w then some w else none
  | n + 1, node, w =>
    let d := if bit b node then 1 else 0
    match plruPick b ok n (2 * node + 1 + d) (2 * w + d) with
    | some x => some x
    | none => plruPick b ok n (2 * node + 2 - d) (2 * w + 1 - d)

/-- The four sectors of a line. -/
def lineSecs (line : Nat) : List Nat := [4 * line, 4 * line + 1, 4 * line + 2, 4 * line + 3]

/-- A copy claims the line, the granule of that number, and writes it in the die's L2 (R242, R338). -/
def State.lineClaimed (s : State) (die line : Nat) : Bool :=
  s.copies.any fun c => c.claims.contains (0, line) && ((s.ownerOf (4 * line)).getD (dieOf c.core) == die || dieOf c.core == die)

/-- A line may not be chosen: a sector of it is claimed, held or in a transaction with the directory (R328). -/
def State.lineBarred (s : State) (die line : Nat) : Bool :=
  ((lineSecs line).any fun sec => !s.secFree sec) || (s.reqs.any fun q => q.die == die && q.sector / 4 == line) || s.lineClaimed die line

/-- A line with a valid sector, or one that is barred, keeps its way. -/
def State.lineKept (s : State) (die line : Nat) : Bool :=
  ((lineSecs line).any fun sec => (s.l2At die sec).state != 0) || s.lineBarred die line

/-- The bytes that a write-back of an L2 sector replaces: of an owned sector all of it (R338). -/
def State.backMask (s : State) (die sec : Nat) (e : L2Sector) : BitVec 64 :=
  if !e.tracked && s.ownerOf sec == some die then BitVec.allOnes 64 else e.dirty

/-- One sector of an evicted line: an M sector is written back by WRB, an untracked dirty one by WRM, a clean one dropped (R328). -/
def State.evictSector (s : State) (die sec : Nat) : State :=
  let e := s.l2At die sec
  let d := s.dirAt sec
  let s := if e.state = 3 ∧ s.homeUp e.home then
      (s.countReq { kind := if e.tracked || s.ownerOf sec == some die then 4 else 6, die := die, sector := sec, home := e.home }).homeMerge
        e.home sec (s.backMask die sec e) e.data
    else s
  let s := if e.state = 3 ∧ e.tracked ∧ d.state = 2 ∧ d.owner = die then s.setDir sec { d with state := 0 } else s
  s.setL2 die sec {}

/-- The owner of an OWN block writes it back and drops it (R338). -/
def State.releaseBlock (s : State) (sec : Nat) : State :=
  match s.ownerOf sec with
  | none => s
  | some o =>
    let b := blockOf sec
    let s := (List.range 64).foldl (fun t i => if (t.l2At o (b + i)).tracked then t else t.evictSector o (b + i)) s
    s.setDir b { s.dirAt b with own := none }

/-- A use of a line that the L2 holds (R328). -/
def State.touchL2 (s : State) (die sec : Nat) : State :=
  let key := s.l2SetOf die sec
  let x := mget {} s.l2Ways key
  match x.lines.find? fun p => p.2 == sec / 4 with
  | some p => { s with l2Ways := mset {} s.l2Ways key { x with plru := plruTouch x.plru p.1 } }
  | none => s

/-- A way for a sector's line, which evicts another line if no way is free; none where every way is barred (R328). -/
def State.roomL2 (s : State) (die sec : Nat) : Option State :=
  let key := s.l2SetOf die sec
  let x := mget {} s.l2Ways key
  let line := sec / 4
  if x.lines.any fun p => p.2 == line then some (s.touchL2 die sec)
  else
    let kept := x.lines.filter fun p => s.lineKept die p.2
    let put (s : State) (rest : List (Nat × Nat)) (way : Nat) : State :=
      { s with l2Ways := mset {} s.l2Ways key { lines := (way, line) :: rest, plru := plruTouch x.plru way } }
    match (List.range 16).find? fun w => !(kept.any fun p => p.1 == w) with
    | some w => some (put s kept w)
    | none =>
      match plruPick x.plru (fun w => kept.any fun p => p.1 == w && !s.lineBarred die p.2) 4 0 0 with
      | none => none
      | some w =>
        let gone := (kept.filter fun p => p.1 == w).flatMap fun p => lineSecs p.2
        some (put (gone.foldl (fun t sec => t.evictSector die sec) s) (kept.filter fun p => p.1 != w) w)

/-! ## The L1 (R323-R325) -/

/-- The sectors a core's L1 holds. -/
def State.l1Secs (s : State) (core : Nat) : List Nat :=
  (s.l1.filter fun p => p.1 / 2 ^ 52 == core).map fun p => p.1 % 2 ^ 52

/-- Write a dirty L1 sector into the die L2 and keep it clean (R321). An L2 that does not hold the sector first fills it from the home,
an RDU; where every way there is barred the bytes go on to the home as a masked write-back. -/
def State.cleanL1 (s : State) (core sec : Nat) : State :=
  match s.l1At core sec with
  | none => s
  | some x =>
    if x.dirty = 0 then s
    else
      let d := dieOf core
      match s.roomL2 d sec with
      | none =>
        ((s.countReq { kind := 6, die := d, sector := sec, home := x.home }).homeMerge x.home sec x.dirty x.data).setL1 core sec
          (some { x with dirty := 0 })
      | some s =>
        let e := s.l2At d sec
        let u : State × L2Sector :=
          if e.state ≠ 0 then (s, e)
          else
            let (t, y) := (s.countReq { kind := 3, die := d, sector := sec, home := x.home }).homeRead x.home sec
            (t, { home := x.home, data := y })
        (u.1.setL2 d sec { u.2 with state := 3, data := mergeBytes x.dirty u.2.data x.data, dirty := u.2.dirty ||| x.dirty }).setL1 core sec
          (some { x with dirty := 0 })

/-- The set of a core's L1 that holds a sector's line, by its key (R323). -/
def l1SetOf (core sec : Nat) : Nat := core * 192 + sec / 4 % 2 ^ 40 % 192

/-- A line leaves a core's L1, its dirty sectors written back. -/
def State.evictL1 (s : State) (core line : Nat) : State :=
  (lineSecs line).foldl (fun t sec => (t.cleanL1 core sec).setL1 core sec none) s

/-- A use of a line that the L1 holds makes it the most recent of its set (R323). -/
def State.touchL1 (s : State) (core sec : Nat) : State :=
  let key := l1SetOf core sec
  let ws := mget [] s.l1Ways key
  match ws.find? fun w => w.2 == sec / 4 with
  | some w => { s with l1Ways := mset [] s.l1Ways key (w :: ws.erase w) }
  | none => s

/-- A way for a sector's line; the least recently used line of the set gives its own up if no way is free (R323). -/
def State.roomL1 (s : State) (core sec : Nat) : State :=
  let key := l1SetOf core sec
  let ws := mget [] s.l1Ways key
  let line := sec / 4
  if ws.any fun w => w.2 == line then s.touchL1 core sec
  else
    let kept := ws.filter fun w => (lineSecs w.2).any fun x => (s.l1At core x).isSome
    match (List.range (s.co core).carved).find? fun i => !(kept.any fun w => w.1 == i) with
    | some i => { s with l1Ways := mset [] s.l1Ways key ((i, line) :: kept) }
    | none =>
      match kept.getLast? with
      | none => s
      | some v =>
        let s := s.evictL1 core v.2
        { s with l1Ways := mset [] s.l1Ways key ((v.1, line) :: kept.erase v) }

/-- The cores of a die whose L1 holds a sector. -/
def State.l1Holders (s : State) (die sec : Nat) : List Nat :=
  (s.l1.filter fun p => p.1 % 2 ^ 52 == sec && dieOf (p.1 / 2 ^ 52) == die && p.2.isSome).map fun p => p.1 / 2 ^ 52

/-- Every L1 of a die writes a sector back and drops it. -/
def State.shedL1 (s : State) (die sec : Nat) : State :=
  (s.l1Holders die sec).foldl (fun t c => (t.cleanL1 c sec).setL1 c sec none) s

/-- Write back every dirty line of a core's L1 (R316, R187). -/
def State.cleanAllL1 (s : State) (core : Nat) : State := (s.l1Secs core).foldl (fun t sec => t.cleanL1 core sec) s

/-- Drop a core's COH sectors, and PRIV and RSH ones at level 2; the bytes of a sector that the core has written go to the L2 first
(R316, R324): the others of it are as old as those of a clean sector. -/
def State.dropCleanL1 (s : State) (core level : Nat) : State :=
  (s.l1Secs core).foldl (fun t sec =>
    match t.l1At core sec with
    | some x => if (x.cls = 2 ∧ 1 ≤ level) ∨ (x.cls ≤ 1 ∧ 2 ≤ level) then (t.cleanL1 core sec).setL1 core sec none else t
    | none => t) s

/-- What an acquire at a scope drops (R316, R324). The cores of a cluster lie in one die, the domain of PRIV memory, so at clus scope
PRIV sectors go too (R313; log entry 81). -/
def acqDrop (scope : Nat) : Nat := if 2 ≤ scope then 2 else 0

/-- Fill or refresh an L1 sector. -/
def State.fillL1 (s : State) (core sec cls home : Nat) (x : Sector) : State :=
  (s.roomL1 core sec).setL1 core sec (some { cls := cls, home := home, data := x, dirty := 0 })

/-! ## Reading and writing a sector -/

/-- A step towards performing a unit: the state and what was read, or the state in which it waits. -/
abbrev Tried (α : Type) := Except State (State × α)

/-- Read a sector of memory by class (R321, R324). A PRIV load at clus scope or wider goes to the L2 of the die, its domain, and
refreshes the L1: it returns what was performed there (R11, R315; log entry 81). The page of a peer is in no L1. -/
def State.readSector (s : State) (core sec cls home scope : Nat) : Tried Sector :=
  let d := dieOf core
  let e := s.l2At d sec
  if uncached cls home then .ok (s.homeRead home sec)
  else if cls ≤ 1 then
    match (if cls = 1 ∨ scope ≤ 1 then s.l1At core sec else none) with
    | some x => .ok (s.touchL1 core sec, x.data)
    | none =>
      let s := s.cleanL1 core sec
      let e := s.l2At d sec
      if e.state ≠ 0 then
        let t := s.touchL2 d sec
        .ok ((if t.hasL1 core then t.fillL1 core sec cls home e.data else t), e.data)
      else .error (s.ask { kind := 3, die := d, sector := sec, home := home, cls := cls })
  else if cls = 2 then
    match (if scope ≤ 1 then s.l1At core sec else none) with
    | some x => .ok (s.touchL1 core sec, x.data)
    | none =>
      if e.state ≠ 0 then
        let fill := s.hasL1 core && decide (home < 32) && ((s.l1At core sec).isSome || decide (scope ≤ 1))
        let t := s.touchL2 d sec
        .ok ((if fill then t.fillL1 core sec cls home e.data else t), e.data)
      else .error (s.ask { kind := 0, die := d, sector := sec, home := home, cls := cls })
  else if s.ownerOf sec ≠ none ∧ s.ownerOf sec ≠ some d then
    -- the LLC's value, with no recall, of which the die keeps nothing (R321, R338)
    .ok ((s.countReq { kind := 0, die := d, sector := sec, home := home }).homeRead home sec)
  else if e.state ≠ 0 ∧ s.ownerOf sec = some d then .ok (s.touchL2 d sec, e.data)
  else .error (s.ask { kind := 0, die := d, sector := sec, home := home, cls := cls })

/-- The die whose L2 takes a write or an atomic of a sector, once it holds the sector so (R184, R324, R327,
R338); `atomic` sends a PRIV sector's L1 copies back first, of every core of the die, at whose scope the atomic is performed
(R307). -/
def State.exclusive (s : State) (core sec cls home : Nat) (atomic : Bool) : Tried Nat :=
  let d := dieOf core
  if cls = 2 then
    let e := s.l2At d sec
    if e.state = 2 ∨ e.state = 3 then .ok (s, d)
    else .error (s.ask { kind := if e.state = 1 then 2 else 1, die := d, sector := sec, home := home, cls := cls })
  else if cls = 3 then
    let o := (s.ownerOf sec).getD d
    if (s.l2At o sec).state ≠ 0 ∧ s.ownerOf sec = some o then .ok (s, o)
    else .error (s.ask { kind := 1, die := o, sector := sec, home := home, cls := cls })
  else
    let s := if atomic then s.shedL1 d sec else s
    if (s.l2At d sec).state ≠ 0 then .ok (s, d)
    else .error (s.ask { kind := 3, die := d, sector := sec, home := home, cls := cls })

/-- Write bytes of a sector that a die's L2 holds for writing. -/
def State.writeL2 (s : State) (d sec : Nat) (keep : BitVec 64) (data : Sector) : State :=
  let e := s.l2At d sec
  (s.touchL2 d sec).setL2 d sec { e with state := 3, data := mergeBytes keep e.data data, dirty := e.dirty ||| keep }

/-- A present L1 copy of the writer's core takes the written bytes (R324). -/
def State.refreshL1 (s : State) (core sec : Nat) (keep : BitVec 64) (data : Sector) : State :=
  match s.l1At core sec with
  | some x => s.setL1 core sec (some { x with data := mergeBytes keep x.data data })
  | none => s

/-- Store bytes into a sector by class (R321, R324, R327, R338); `op` and `unit` name the store. -/
def State.writeSector (s : State) (core sec cls home : Nat) (keep : BitVec 64) (data : Sector) (op unit : Nat) :
    Tried Unit :=
  let d := dieOf core
  if uncached cls home then .ok (s.homeMerge home sec keep data, ())
  else if cls = 3 ∧ s.ownerOf sec ≠ none ∧ s.ownerOf sec ≠ some d then
    .error (s.ask { kind := 7, die := d, sector := sec, home := home, cls := cls, data := data, dirty := keep, who := 3,
                    holder := op, unit := unit })
  else if cls ≤ 1 ∧ s.hasL1 core then
    match s.readSector core sec cls home 0 with
    | .error t => .error t
    | .ok (t, _) =>
      match t.l1At core sec with
      | some x =>
        .ok ((t.touchL1 core sec).setL1 core sec (some { x with data := mergeBytes keep x.data data, dirty := x.dirty ||| keep }), ())
      | none => .ok (t, ())
  else
    match s.exclusive core sec cls home false with
    | .error t => .error t
    | .ok (t, o) => .ok ((t.writeL2 o sec keep data).refreshL1 core sec keep data, ())

/-- An atomic on a sector: `f` gives the bytes it writes from the sector (R181, R184). -/
def State.atomSector (s : State) (core sec cls home : Nat) (f : Sector → BitVec 64 × Sector) : Tried Sector :=
  if uncached cls home then
    let (t, x) := s.homeRead home sec
    let w := f x
    .ok (t.homeMerge home sec w.1 w.2, x)
  else
    match s.exclusive core sec cls home true with
    | .error t => .error t
    | .ok (t, o) =>
      let x := (t.l2At o sec).data
      let w := f x
      .ok ((t.writeL2 o sec w.1 w.2).refreshL1 core sec w.1 w.2, x)

/-! ## Atomic operations (R180-R183) -/

/-- The operand width of an atomic's type. -/
def atomWidth (op ty : Nat) : Nat := if op = 11 then 16 else if ty = 15 then 64 else 32

/-- The types an op accepts (R180). -/
def atomType (op ty : Nat) : Bool :=
  if op = 0 ∨ op = 5 ∨ op = 6 ∨ op = 7 then [0, 1, 2, 15].contains ty
  else if op = 1 ∨ op = 2 then [0, 1, 15].contains ty
  else if op = 3 ∨ op = 4 then [0, 2, 15].contains ty
  else if op = 8 ∨ op = 9 then [0, 1, 2, 3, 15].contains ty
  else if op = 10 then ty == 3
  else if op = 11 then ty == 6 || ty == 7
  else false

/-- A float add as atomics do it: to nearest even, subnormals kept, no flag (R183). -/
def atomFadd (ty m x : Nat) : Nat :=
  (({ f := (fmtOf ty).getD .fp32, mode := 0, sat := false, ftz := false } : FCtx).add m x).1

/-- OP(m, x) (R180); `c` is the compare value of a cas. -/
def atomOp (op ty m x c : Nat) : Nat :=
  let w := atomWidth op ty
  let i (v : Nat) : Int := elInt true w v
  match op with
  | 0 => (m + x) % 2 ^ w
  | 1 => if i x < i m then x else m
  | 2 => if i m < i x then x else m
  | 3 => min m x
  | 4 => max m x
  | 5 => m &&& x
  | 6 => m ||| x
  | 7 => m ^^^ x
  | 8 => x
  | 9 => if m = c then x else m
  | _ => atomFadd ty m x

/-! ## Poison (R322, R396) -/

def poisonKey (core space word : Nat) : Nat := (core * 4 + space) * 2 ^ 22 + word

/-- Some 4-byte word of n bytes at o holds an uncorrectable error. -/
def State.poisoned (s : State) (core space o n : Nat) : Bool :=
  s.poison.any fun k => decide (poisonKey core space (o / 4) ≤ k ∧ k ≤ poisonKey core space ((o + n - 1) / 4))

/-- A word written whole is good again. -/
def State.unpoison (s : State) (core space o n : Nat) : State :=
  { s with poison := s.poison.filter fun k =>
      !decide (poisonKey core space ((o + 3) / 4) ≤ k ∧ k < poisonKey core space ((o + n) / 4)) }

def Place.poisonAt (p : Place) : Option (Nat × Nat × Nat) :=
  match p with
  | .abuf c o => some (c, 0, o)
  | .wbuf c o => some (c, 1, o)
  | _ => none

/-! ## Banks under test (R411) -/

/-- The number of the buffer bank that holds byte o of ABUF (space 0) or WBUF (1), or accumulator word o (2) (R412). -/
def bankOf (core space o : Nat) : Nat :=
  128 * (core % 64) + (if space = 0 then o / 49152 else if space = 1 then 64 + o / 49152 else 96 + o / 24576)

/-- A bank of the range is under test: requests to it wait. -/
def State.underTest (s : State) (core space o n : Nat) : Bool :=
  (s.di (dieOf core)).tests.any fun t =>
    t.1 == 0 && decide (0 < n ∧ bankOf core space o ≤ t.2 ∧ t.2 ≤ bankOf core space (o + n - 1))

/-- A detected error starts the test of its bank (R411, R412). -/
def State.detect (s : State) (core space o : Nat) : State := s.startTest (dieOf core) 0 (bankOf core space o)

/-- An access of n bytes from a core waits for the test of a unit that it needs (R411). -/
def State.placeTested (s : State) (core : Nat) (p : Place) (n : Nat) : Bool :=
  match p.poisonAt, p with
  | some (c, sp, off), _ => s.underTest c sp off n
  | none, .mem pa _ home => s.memTested (dieOf core) (pa / 64) home
  | none, _ => false

/-! ## Order (R305, R309-R311) -/

def MemOp.isLoad (o : MemOp) : Bool :=
  match o.kind with
  | .load => true | .sload => true | .tex _ => true | .atom _ _ r => r | .store => false
def MemOp.isStore (o : MemOp) : Bool :=
  match o.kind with
  | .store => true | .atom _ _ _ => true | _ => false

def share (a b : List Nat) : Bool := a.any fun k => b.contains k

/-- A launch remembers the OWN blocks that its cores write (R363). -/
def State.noteOwn (s : State) (launch : Nat) (p : Place) : State :=
  match p with
  | .mem pa 3 _ =>
    if (s.la launch).live then s.modLa launch fun l => { l with wrote := (l.wrote ++ [blockOf (pa / 64)]).dedup } else s
  | _ => s

/-- The launch of a group's team. -/
def State.launchOf (s : State) (g : Nat) : Nat := (s.tm (s.gr g).team).launch

/-- The byte ranges of a unit. -/
def MUnit.spans (u : MUnit) : List (Place × Nat) :=
  match u.hi with
  | some p => [(u.place, 4), (p, 4)]
  | none => [(u.place, u.size)]

/-- Two units share a byte. -/
def unitsMeet (u v : MUnit) : Bool := u.spans.any fun p => v.spans.any fun q => meets p.1 p.2 q.1 q.2

/-- A fence, fusion or phase stands between an access of `src` with id x and the access y. -/
def FenceMark.between (m : FenceMark) (x : Nat) (splits : List Nat) (y : MemOp) : Bool :=
  decide (x < m.upto ∧ m.id < y.id) && share splits m.src && share y.splits m.dst

/-- A ray query in flight keeps a unit of its split back: its reads are loads of the split, of bytes that are not known before its
end, so that no later access of memory may come before them (R309, R310, R318; log entry 82). -/
def State.rayBefore (s : State) (y : MemOp) (v : MUnit) : Bool :=
  s.rays.any fun r => decide (r.id < y.id)
    && ((share r.splits y.splits && (y.rel || match v.place with | .mem _ _ _ => true | .host _ _ => true | _ => false))
      || s.fences.any fun m => m.rays && m.between r.id r.splits y && (m.acq || (m.rel && y.isStore)))

/-- An earlier access is ordered before all of a later one: after an acquire, before a release, across fences, fusions and phases
(R310, R311). -/
def State.opBefore (s : State) (x y : MemOp) : Bool :=
  (share x.splits y.splits && (x.acq || y.rel))
  || s.fences.any fun m => m.between x.id x.splits y
      && ((m.acq && x.isLoad) || (m.rel && y.isStore) || (m.both && x.isStore && y.isLoad))

/-- A unit waits for earlier accesses of its split: to its bytes, and where they are ordered before all of its access. -/
def State.ordered (s : State) (y : MemOp) (i : Nat) (v : MUnit) : Bool :=
  !((y.units.take i).any (fun u => !u.done && unitsMeet u v)
    || s.rayBefore y v
    || s.ops.any fun x => decide (x.id < y.id)
        && (s.opBefore x y || (share x.splits y.splits && x.units.any fun u => !u.done && unitsMeet u v)))

/-- A fence, fusion or phase orders an access of `src` with number x before all that split k does from now on. -/
def State.fencedTo (s : State) (k x : Nat) (src : List Nat) : Bool :=
  s.fences.any fun m => decide (x < m.upto) && share src m.src && m.dst.contains k && m.rel

/-! ## Claims (R229, R242) -/

/-- A claim on the granule of a place does not hold an access up: a load of an OWN block by a die that does not own it, which returns
the LLC's value (R338), or an access of the region that holds the sector, whose claim waits (R215, R220). -/
def State.pastClaim (s : State) (o : MemOp) (p : Place) : Bool :=
  match p with
  | .mem pa cls home =>
    let d := s.dirAt (pa / 64)
    (cls == 3 && decide (home < 32) && !o.isStore && (s.ownerOf (pa / 64)).getD (dieOf o.core) != dieOf o.core)
      || (d.state == 4 && o.splits.contains d.holder)
  | _ => false

/-- A copy's destination claim holds the unit up; a store of the copy's own split from before the copy, which
the copy reads, is not held up by it. -/
def State.claimed (s : State) (o : MemOp) (u : MUnit) : Bool :=
  s.copies.any fun c => (u.spans.any fun p => c.claims.contains p.1.granule && !s.pastClaim o p.1)
    && !c.after.contains o.id

/-- A quarter-op claims a byte of ABUF from o to o + n - 1 (R229, R231, R232). -/
def QOp.readsA (q : QOp) (o n : Nat) : Bool :=
  (List.range q.arows).any fun i => decide (q.alo + i * q.apitch < o + n ∧ o < q.alo + i * q.apitch + q.alen)

/-- A quarter-op's read claim on ABUF or WBUF bytes: every write waits but those that the operation itself waits for, so that each
operand has its value at issue (R229, R318); `id` is the number of the writing operation. -/
def State.readClaim (s : State) (id : Nat) (p : Place) (n : Nat) : Bool :=
  match p with
  | .abuf core o => s.passes.any fun x => x.core == core && x.ops.any fun q => !q.after.contains id && q.readsA o n
  | .wbuf core o => s.passes.any fun x => x.core == core && x.ops.any fun q => !q.after.contains id && decide (q.blo < o + n ∧ o < q.bhi)
  | _ => false

/-- Stores that come before an engine operation that split k issues, which reads them if they meet its source: those of the split, and
those that a fusion or a phase orders before it (R311, R318). -/
def State.storesOf (s : State) (k : Nat) : List Nat :=
  (s.ops.filter fun o => o.isStore && (o.splits.contains k || s.fencedTo k o.id o.splits)).map fun o => o.id

/-- One of the stores of a list has still to be performed on n bytes at p. -/
def State.storeMeets (s : State) (after : List Nat) (p : Place) (n : Nat) : Bool :=
  s.ops.any fun o => after.contains o.id && o.units.any fun u => !u.done && u.spans.any fun q => meets q.1 q.2 p n

/-- n bytes of a virtual range of a context lie at m bytes of a place. -/
def State.rangeMeets (s : State) (core ctx a n : Nat) (p : Place) (m : Nat) : Bool :=
  match s.aperture core a n with
  | some 1 => meets (.wbuf core (a - wbufBase)) n p m
  | some 2 => meets (.abuf core (a - abufBase)) n p m
  | _ => (pagesOf a n).any fun x =>
    match (s.translate core ctx x needLoad).2 with
    | .ok q _ => meets q (min (a + n) (x / 65536 * 65536 + 65536) - x) p m
    | _ => false

/-- A store or an atomic waits while a copy that its split issued before it has still to read the bytes: the copy's reads stand at its
issue (R309, R318). What a gather reads is not known before its end. -/
def State.sourceHeld (s : State) (o : MemOp) (u : MUnit) : Bool :=
  s.copies.any fun c => decide (c.id < o.id) && c.failed == 0 && !c.reads.isEmpty && share c.splits o.splits
    && (c.form == 3 || u.spans.any fun p => c.reads.any fun r => s.rangeMeets c.core c.ctx r.1 r.2 p.1 p.2)

/-- The unit may be performed now. -/
def State.mayPerform (s : State) (o : MemOp) (i : Nat) (u : MUnit) : Bool :=
  s.ordered o i u && !s.claimed o u
    && !(o.isStore && (s.sourceHeld o u || u.spans.any fun p => s.readClaim o.id p.1 p.2))

/-- An access that split k performs at once may go ahead: it keeps its place after the accesses before it, no claim lies on its
bytes, and no directory keeps its sector (R229, R242, R309-R311, R336). -/
def State.nowMay (s : State) (k : Nat) (store : Bool) (p : Place) (n : Nat) : Bool :=
  let u : MUnit := { lane := 0, place := p, size := n, off := 0 }
  let o : MemOp := { id := s.nextId, splits := [k], gid := gidOf k, ctx := (s.gr (gidOf k)).ctx, core := coreOf (gidOf k),
                     kind := if store then .store else .load, units := [u] }
  s.mayPerform o 0 u && !s.placeHeld (coreOf (gidOf k)) p

/-! ## Performing a unit -/

/-- Bytes of ABUF, WBUF or the host. -/
def State.flatRead (s : State) (p : Place) (n : Nat) : Nat := (s.placeRead p n).2
def State.flatWrite (s : State) (p : Place) (n v : Nat) : State :=
  let t := s.placeWrite p n v
  match p.poisonAt with
  | some (c, sp, o) => t.unpoison c sp o n
  | none => t

/-- One word of a 64-bit atomic over two separate words: its value, and the new one if it is written. -/
def State.atomHalf (s : State) (core : Nat) (p : Place) (new : Option Nat) : Tried Nat :=
  match p with
  | .mem pa cls home =>
    (s.atomSector core (pa / 64) cls home fun x => match new with
      | some v => (sectorMask (pa / 64) pa 4, sectorImage (pa / 64) pa 4 v)
      | none => (0, x)).map fun r => (r.1, sectorPart r.2 (pa / 64) pa 4)
  | q => .ok ((match new with | some v => s.flatWrite q 4 v | none => s), s.flatRead q 4)

/-- A 64-bit atomic over two separate words (R45). -/
def State.atomPair (s : State) (o : MemOp) (u : MUnit) (op ty : Nat) (p q : Place) : Except State (State × Word64 × Bool) := do
  let (s, x) ← s.atomHalf o.core p none
  let (s, y) ← s.atomHalf o.core q none
  let old := x + 2 ^ 32 * y
  let new := atomOp op ty old u.value.toNat u.cmp.toNat
  let (s, _) ← s.atomHalf o.core p (some (new % 2 ^ 32))
  let (s, _) ← s.atomHalf o.core q (some (new / 2 ^ 32))
  return (s, BitVec.ofNat 64 old, false)

/-! ## Accesses that fail (R218, R219, R332, R346) -/

/-- The open region in which an access was issued. -/
def State.regionOf (s : State) (o : MemOp) : Option (Nat × Region) :=
  if o.inRegion then
    match o.splits.find? fun k => (s.region k).isSome with
    | some k => (s.region k).map fun r => (k, r)
    | none => none
  else none

/-- The places of a unit. -/
def MUnit.places (u : MUnit) : List Place := u.place :: u.hi.toList

def State.placeLost (s : State) (p : Place) : Bool :=
  match p with
  | .mem pa _ home => s.lost (pa / 64) home
  | _ => false

/-- A load whose region has aborted leaves the table. -/
def State.forgetOp (s : State) (o : MemOp) : State :=
  (({ s with ops := s.ops.filter fun x => x.id != o.id } : State).modGr o.gid fun g => { g with ldc := g.ldc - 1 }).wake

/-- An access fails, of which units that `hit` names meet an error: its region aborts with the lowest failing lane, or SCAL for the
scalar work, or its context halts with the address (R218, R219, R346, R398). -/
def State.failOp (s : State) (o : MemOp) (hit : Place → Bool) : State :=
  let us := o.units.filter fun u => !u.done && u.places.any hit
  let lane := lowLane (maskOf (us.map fun u => u.lane))
  match s.regionOf o with
  | some (k, _) =>
    s.regAbort k { code := abFault, detail := cContain, scal := o.kind == .sload, lane := if o.kind = .sload then 0 else lane }
  | none =>
    if o.dropped then s.forgetOp o
    else
    let va := ((us.find? fun u => u.lane == lane).map fun u => u.va).getD 0
    s.haltCtx o.ctx { cause := cContain, dbl := o.inTrap, pc := o.pc, core := o.core, addr := va }

/-- A correctable error in a word that is accessed is corrected in place and noted (R322, R411). -/
def State.correct (s : State) (core space o n : Nat) : State :=
  let hit (k : Nat) : Bool := decide (poisonKey core space (o / 4) ≤ k ∧ k ≤ poisonKey core space ((o + n - 1) / 4))
  if s.soft.any hit then ({ s with soft := s.soft.filter fun k => !hit k } : State).detect core space o else s

/-- A sector of an L2 or an LLC stands with an uncorrectable error. -/
def State.placeBad (s : State) (p : Place) : Bool :=
  match p with
  | .mem pa _ _ => s.badSecs.contains (pa / 64)
  | _ => false

/-- Its first reader meets the error (R340). -/
def State.meetPlace (s : State) (core : Nat) (p : Place) : State :=
  match p with
  | .mem pa _ home => if s.placeBad p then s.meetBad (dieOf core) (pa / 64) home else s
  | _ => s

/-- Read, write or update the unit's bytes: the value found, and whether it came with an error. An access to a unit under test
waits (R411). -/
def State.doUnit (s : State) (o : MemOp) (i : Nat) (u : MUnit) : Tried (Word64 × Bool) :=
  let n := u.size
  if u.places.any s.placeLost then .error (s.failOp o s.placeLost)
  else if u.places.any fun p => s.placeTested o.core p (if u.hi.isSome then 4 else n) then .error s
  else if o.kind != .store ∧ u.places.any s.placeBad then .ok (u.places.foldl (fun t p => t.meetPlace o.core p) s, 0, true)
  else match u.hi, o.kind with
  | some q, .atom op ty _ => s.atomPair o u op ty u.place q
  | _, _ =>
  match u.place with
  | .mem pa cls home =>
      let sec := pa / 64
      let keep := sectorMask sec pa n
      match o.kind with
      | .store => (s.writeSector o.core sec cls home keep (sectorImage sec pa n u.value.toNat) o.id i).map
          fun r => (r.1, 0, false)
      | .atom op ty _ =>
        (s.atomSector o.core sec cls home fun x =>
          (keep, sectorImage sec pa n (atomOp op ty (sectorPart x sec pa n) u.value.toNat u.cmp.toNat))).map
          fun r => (r.1, BitVec.ofNat 64 (sectorPart r.2 sec pa n), false)
      | _ => (s.readSector o.core sec cls home o.scope).map
          fun r => (r.1, BitVec.ofNat 64 (sectorPart r.2 sec pa n), false)
  | p =>
    let s := match p.poisonAt with
      | some (c, sp, off) => s.correct c sp off n
      | none => s
    let old := s.flatRead p n
    let bad : Bool := match p.poisonAt with
      | some (c, sp, off) => s.poisoned c sp off n
      | none => false
    match o.kind with
      | .store => .ok (s.flatWrite p n u.value.toNat, 0, false)
      | .atom op ty _ => .ok (s.flatWrite p n (atomOp op ty old u.value.toNat u.cmp.toNat), BitVec.ofNat 64 old, false)
      | _ =>
        match bad, p.poisonAt with
        | true, some (c, sp, off) => .ok (s.detect c sp off, BitVec.ofNat 64 old, true)
        | _, _ => .ok (s, BitVec.ofNat 64 old, false)

end Sys2Proof.Machine
end

