-- ==== Sys2Proof/Machine/Texel.lean ====
section
/-! DEFINITION. Images: descriptors (R274, R275), the Morton order (R232), levels, the level of detail (R276),
addressing and filtering (R277). -/
namespace Sys2Proof.Machine

/-! ## The Morton order (R232) -/

/-- Bits of a coordinate below n: log₂ rounded up. -/
def coordBits (n : Nat) : Nat := if n ≤ 1 then 0 else Nat.log2 (n - 1) + 1

/-- Which coordinate each index bit comes from, x first (true); a coordinate whose bits have run out is skipped. -/
def mortonOrder (bx b : Nat) : List (Bool × Nat) :=
  (List.range (max bx b)).flatMap fun i => (if i < bx then [(true, i)] else []) ++ (if i < b then [(false, i)] else [])

/-- morton(x, y) in a w × h image. -/
def morton (w h x y : Nat) : Nat :=
  ((mortonOrder (coordBits w) (coordBits h)).zipIdx).foldl (fun acc p =>
    if (if p.1.1 then x else y).testBit p.1.2 then acc + 2 ^ p.2 else acc) 0

/-- The pixel at a Morton index. -/
def mortonInv (w h i : Nat) : Nat × Nat :=
  ((mortonOrder (coordBits w) (coordBits h)).zipIdx).foldl (fun (acc : Nat × Nat) p =>
    if i.testBit p.2 then (if p.1.1 then (acc.1 + 2 ^ p.1.2, acc.2) else (acc.1, acc.2 + 2 ^ p.1.2)) else acc) (0, 0)

/-- Pixels of the Morton square around a w × h image. -/
def mortonSize (w h : Nat) : Nat := 2 ^ (coordBits w + coordBits h)

/-! ## Descriptors -/

/-- Bytes hi:lo of a block as a number. -/
def blockField (b lo n : Nat) : Nat := (b >>> (8 * lo)) % 256 ^ n

/-- An image descriptor (R274). -/
structure Image where
  base : Nat
  w : Nat
  h : Nat
  levels : Nat
  fmt : Nat
  mortonLayout : Bool
  pitch : Nat
  deriving DecidableEq, Repr

/-- Read an image descriptor, none where it breaks the layout or BASE is misaligned (R274, R275). -/
def imageOf (b : Nat) : Option Image :=
  let w := blockField b 8 2
  let h := blockField b 10 2
  let l := blockField b 12 1
  let m := blockField b 13 1
  let i : Image := { base := blockField b 0 8, w := w + 1, h := h + 1, levels := l % 16 + 1, fmt := l / 16 % 4,
                     mortonLayout := m == 1, pitch := blockField b 16 4 }
  if w < 2 ^ 14 ∧ h < 2 ^ 14 ∧ l < 64 ∧ i.fmt ≠ 3 ∧ m ≤ 1 ∧ blockField b 14 2 = 0 ∧ blockField b 20 12 = 0
      ∧ i.base % 256 = 0 ∧ (m = 1 ∨ (i.pitch % 4 = 0 ∧ 4 * i.w ≤ i.pitch)) then some i else none

/-- A sampler descriptor (R275). -/
structure Sampler where
  filter : Nat
  au : Nat
  av : Nat
  bias : Nat
  minLod : Nat
  maxLod : Nat
  deriving DecidableEq, Repr

def samplerOf (b : Nat) : Option Sampler :=
  let f := blockField b 32 1
  let a := blockField b 33 1
  if f < 3 ∧ a % 4 < 3 ∧ a / 4 < 3 ∧ blockField b 34 2 = 0 ∧ blockField b 48 16 = 0 then
    some { filter := f, au := a % 4, av := a / 4, bias := blockField b 36 4, minLod := blockField b 40 4,
           maxLod := blockField b 44 4 }
  else none

/-! ## Levels (R274) -/

def Image.lw (i : Image) (m : Nat) : Nat := max 1 (i.w >>> m)
def Image.lh (i : Image) (m : Nat) : Nat := max 1 (i.h >>> m)
def Image.lpitch (i : Image) (m : Nat) : Nat := if m = 0 then i.pitch else 4 * i.lw m

/-- Bytes of a level. -/
def Image.lsize (i : Image) (m : Nat) : Nat :=
  if i.mortonLayout then 4 * mortonSize (i.lw m) (i.lh m) else i.lpitch m * i.lh m

/-- Where a level starts. -/
def Image.lbase (i : Image) : Nat → Nat
  | 0 => i.base
  | m + 1 => (i.lbase m + i.lsize m + 255) / 256 * 256

/-- The address of texel (x, y) of a level. -/
def Image.texel (i : Image) (m x y : Nat) : Nat :=
  i.lbase m + (if i.mortonLayout then 4 * morton (i.lw m) (i.lh m) x y else y * i.lpitch m + 4 * x)

/-! ## Level of detail (R276) -/

/-- The FP32 arithmetic of the texture unit: to nearest even, subnormals kept. -/
def texCtx : FCtx := { f := .fp32, mode := 0, sat := false, ftz := false }

/-- A gradient's length. -/
def gradLen (du dv w h : Nat) : Nat :=
  let a := (texCtx.mul du (texCtx.ofInt w).1).1
  let b := (texCtx.mul dv (texCtx.ofInt h).1).1
  (texCtx.unary 2 (texCtx.add (texCtx.mul a a).1 (texCtx.mul b b).1).1).1

/-- λ from the gradients: ∂u/∂x, ∂v/∂x, ∂u/∂y, ∂v/∂y. -/
def lodOf (i : Image) (g : List Nat) : Nat :=
  let at' (n : Nat) : Nat := (g[n]?).getD 0
  (texCtx.unary 4 (texCtx.minmax true (gradLen (at' 0) (at' 1) i.w i.h) (gradLen (at' 2) (at' 3) i.w i.h)).1).1

/-- The value of an FP32 code in 2^-149ths, an infinite one beyond every finite one. -/
def fp32Value (x : Nat) : Int :=
  if Fmt.fp32.isInf x then (if Fmt.fp32.neg x then -(2 ^ 300 : Int) else (2 ^ 300 : Int)) else Fmt.fp32.signed x

/-- λc, in 2^-149ths. The sum λ + LODBIAS is rounded to FP32 before the clamp: R276 gives FP32 steps for the gradients and is silent
on it (DESIGN CHOICE, log entry 87). Where a bound or the sum is a NaN, or MAXLOD lies below both the lower bound and the last level, the spec
gives no clamp (log entry 44). -/
def lodClamp (i : Image) (p : Sampler) (lod : Nat) : Int :=
  let l := if Fmt.fp32.isNan lod then 0 else lod
  let x := (texCtx.add l p.bias).1
  let top : Int := (i.levels - 1 : Nat) * (2 ^ 149 : Int)
  let lo := max (fp32Value p.minLod) 0
  let hi := fp32Value p.maxLod
  if Fmt.fp32.isNan x ∨ Fmt.fp32.isNan p.minLod ∨ Fmt.fp32.isNan p.maxLod ∨ (hi < lo ∧ hi < top) then
    Config.lodOpen l p.bias p.minLod p.maxLod
  else min (max (fp32Value x) lo) (min hi top)

/-! ## Addressing and filtering (R277) -/

/-- An integer coordinate in a level of size n. -/
def addrOf (mode n : Nat) (i : Int) : Nat :=
  match mode with
  | 0 => (i % n).toNat
  | 1 => (max 0 (min i (n - 1 : Int))).toNat
  | _ => let k := (i % (2 * n)).toNat; if k < n then k else 2 * n - 1 - k

/-- A coordinate over a level of size n in 2^-150ths, less half a texel when `half`; none for an infinite one,
which is taken to the edge. -/
def coordOf (u n : Nat) (half : Bool) : Int :=
  let v := if Fmt.fp32.isNan u then 0 else Fmt.fp32.signed u
  2 * v * n - if half then 2 ^ 149 else 0

/-- The texels along one axis with weights in 256ths. -/
def axisTaps (mode n u : Nat) (linear : Bool) : List (Nat × Nat) :=
  if Fmt.fp32.isInf u then [(if Fmt.fp32.neg u then 0 else n - 1, 256)]
  else
    let c := coordOf u n linear
    let i : Int := c / (2 ^ 150 : Int)
    if linear then
      let a := ((c - i * 2 ^ 150) * 256 / (2 ^ 150 : Int)).toNat
      [(addrOf mode n i, 256 - a), (addrOf mode n (i + 1), a)]
    else [(addrOf mode n i, 256)]

/-- The taps of one level: texel address and weight in 2^-16. -/
def levelTaps (i : Image) (p : Sampler) (m u v : Nat) (linear : Bool) : List (Nat × Nat) :=
  (axisTaps p.av (i.lh m) v linear).flatMap fun y =>
    (axisTaps p.au (i.lw m) u linear).map fun x => (i.texel m x.1 y.1, x.2 * y.2)

/-- The taps of a sample: texel address and weight in 2^-24 (R276, R277). -/
def sampleTaps (i : Image) (p : Sampler) (u v lod : Nat) : List (Nat × Nat) :=
  let l := lodClamp i p lod
  let top : Int := (i.levels - 1 : Nat)
  let cl (x : Int) : Nat := (max 0 (min x top)).toNat
  if p.filter = 2 then
    let m0 := cl (l / (2 ^ 149 : Int))
    let m1 := min (m0 + 1) (i.levels - 1)
    let c := ((l % (2 ^ 149 : Int)) * 256 / (2 ^ 149 : Int)).toNat
    ((levelTaps i p m0 u v true).map fun t => (t.1, t.2 * (256 - c))) ++ ((levelTaps i p m1 u v true).map fun t => (t.1, t.2 * c))
  else
    let m := cl ((2 * l + 2 ^ 149) / (2 ^ 150 : Int))
    (levelTaps i p m u v (p.filter == 1)).map fun t => (t.1, t.2 * 256)

/-! ## Texels to channels -/

/-- A channel of a texel: an integer in 255ths (n8x4) or a float code, as (format, code). -/
def channelOf (fmt c : Nat) (t : Nat) : Num :=
  match fmt with
  | 0 => .q ((t >>> (8 * c)) % 256 : Nat) 255
  | 1 => if c < 2 then .ofFmt .fp16 ((t >>> (16 * c)) % 65536) else .q (if c = 3 then 1 else 0) 1
  | _ => if c = 0 then .ofFmt .fp32 t else .q (if c = 3 then 1 else 0) 1

/-- The exact weighted sum over a common denominator, or a special value (R277). -/
def weighted (xs : List (Num × Nat)) : Num :=
  let ys := xs.filter fun x => x.2 != 0
  if ys.any fun x => match x.1 with | .nan _ => true | _ => false then .nan false
  else
    let p := ys.any fun x => match x.1 with | .inf n => !n | _ => false
    let n := ys.any fun x => match x.1 with | .inf n => n | _ => false
    if p && n then .nan false
    else if p then .inf false
    else if n then .inf true
    else
      let d : Nat := match ys with | (.q _ d, _) :: _ => d | _ => 1
      .q (ys.foldl (fun acc x => acc + (match x.1 with | .q v e => v * (d / e : Nat) * x.2 | _ => 0)) 0) (d * 2 ^ 24)

/-- One channel of a sample as FP32. -/
def sampleChannel (fmt c : Nat) (taps : List (Nat × Nat)) : Nat :=
  match weighted (taps.map fun t => (channelOf fmt c t.1, t.2)) with
  | .nan _ => Fmt.fp32.canon
  | .inf n => Fmt.fp32.put n Fmt.fp32.infMag
  | .q v d => (roundTo .fp32 0 false false (decide (v < 0)) v.natAbs d).1

/-- The words a lane of a texture load receives, from the data of the access's units (R277, R278). -/
def texWords (o : MemOp) (t : TexLane) : List Word32 :=
  let taps := t.taps.map fun q =>
    let w := match o.units[q.1]? with | some u => u.value.toNat | none => 0
    (((if q.2.1 then w / 2 ^ 32 else w) % 2 ^ 32), q.2.2)
  if t.fmt = 3 then [BitVec.ofNat 32 ((taps.head?.map fun x => x.1).getD 0)]
  else if t.fmt = 4 then o.rows.map fun _ => 0
  else (List.range 4).map fun c => BitVec.ofNat 32 (sampleChannel t.fmt c taps)

end Sys2Proof.Machine
end

