-- ==== Sys2Proof/Machine/Complete.lean ====
section
/-! DEFINITION. The completion of an access: its data in its registers, its counter, its acquire (R36, R174,
R176, R279, R396), and the events that perform one unit. -/
namespace Sys2Proof.Machine

/-! ## Data -/

def MemOp.laneBad (o : MemOp) (l : Nat) : Bool := o.units.any fun u => u.lane == l && u.bad

/-- The bytes a lane read. -/
def MemOp.laneVal (o : MemOp) (l : Nat) : Nat :=
  o.units.foldl (fun acc u => if u.lane = l then acc + u.value.toNat * 256 ^ u.off else acc) 0

/-- A loaded value in its registers (R174). -/
def loadWords (size : Nat) (signed : Bool) (v : Nat) : List Word32 :=
  if size < 4 then
    [BitVec.ofNat 32 (if signed then wrapTo 32 (elInt true (8 * size) v) else v)]
  else (List.range (size / 4)).map fun i => BitVec.ofNat 32 (v >>> (32 * i))

/-- What a lane's destination rows take; a failed lane's are zero (R396). -/
def MemOp.laneWords (o : MemOp) (l : Nat) : List Word32 :=
  if o.laneBad l then o.rows.map fun _ => 0
  else match o.kind with
    | .tex _ =>
      match o.tex.find? fun t => t.lane == l with
      | some t => texWords o t
      | none => o.rows.map fun _ => 0
    | _ => loadWords o.size o.signed (o.laneVal l)

/-! ## Completion -/

/-- Write the destination rows. -/
def State.writeRows (s : State) (o : MemOp) : State :=
  (lanesOf o.lanes).foldl (fun t l =>
    (o.rows.zip (o.laneWords l)).foldl (fun t p => t.rowSet o.gid p.1 l p.2) t) s

/-- Write the destination scalar: `sreg` is its key + 1, 0 for none. -/
def State.writeScalar (s : State) (o : MemOp) : State :=
  if o.sreg = 0 then s
  else { s with sreg := mset 0 s.sreg (o.sreg - 1)
                  (if o.laneBad 0 then 0 else BitVec.ofNat 64 (o.laneVal 0)) }

/-- An input takes its observed value. -/
def Input.observe (o : MemOp) (x : Input) : Input :=
  if o.inputs.contains (x.slot, x.k) then
    { x with observed := BitVec.ofNat 256 (o.laneVal (if x.slot = scalSlot then 0 else x.slot)) }
  else x

/-- The inputs of a region observe their data (R210). -/
def State.observe (s : State) (o : MemOp) : State :=
  o.splits.foldl (fun t k =>
    match t.region k with
    | none => t
    | some r => t.setRegion k (some { r with inputs := r.inputs.map (Input.observe o) })) s

/-- ECCU awaits split k; of two failed loads before its next issue the first gives the PC, and the lanes join (R396; log entry
71). -/
def State.putEccu (s : State) (k : Nat) (pc : BitVec 32) (m : Option (BitVec 32)) : State :=
  s.modSp k fun p => { p with eccu := joinEccu p.eccu (some (pc, m)) }

/-- ECCU awaits the split of a failed lane (R396). -/
def State.markEccu (s : State) (o : MemOp) : State :=
  let bad := o.units.filter fun u => u.bad
  if bad.isEmpty then s
  else
    let m := maskOf (bad.map fun u => u.lane)
    let ks := o.splits.filter fun k => (s.sp k).valid
    let lanes' : Option (BitVec 32) := if o.kind = .sload then none else some m
    match (ks.find? fun k => (s.sp k).mask &&& m != 0), ks.head? with
    | some k, _ => s.putEccu k o.pc lanes'
    | none, some k => s.putEccu k o.pc lanes'
    | none, none => s

/-- ECCU on the data of an earlier load (R396): it stands until the trap is taken. It is no access of the instruction at
TRAPPC, so ACC and ADDR are 0 (R393; log entry 71). -/
def State.takeEccu (s : State) (k : Nat) (x : BitVec 32 × Option (BitVec 32)) : State :=
  let t := s.uniTrap k cEccu
  let m := (x.2.getD t.lmask) &&& t.lmask
  let m := if m = 0 then t.lmask else m
  (s.modSp k fun p => { p with eccu := if p.mode = .region then none else p.eccu }).trap k
    { t with word4 := BitVec.ofNat 64 x.1.toNat, lmask := m, pmask := m, scal := x.2.isNone, late := true }

/-- An access whose units are all done leaves the table (R36, R174). -/
def State.finishOp (s : State) (o : MemOp) : State :=
  let s := { s with ops := s.ops.filter fun x => x.id != o.id }
  let s := if o.acq then s.dropCleanL1 o.core (acqDrop o.scope) else s
  let s :=
    if o.isLoad then
      let s := (((s.writeRows o).writeScalar o).observe o).markEccu o
      let s := s.modGr o.gid fun g => { g with ldc := g.ldc - 1 }
      { s with pendV := s.pendV.filter (fun p => p.2 != o.id + 1), pendS := s.pendS.filter fun p => p.2 != o.id + 1 }
    else s.modGr o.gid fun g => { g with stc := g.stc - 1 }
  s.wake

/-- Put an access into the table; one with nothing to do completes at once. -/
def State.startOp (s : State) (o : MemOp) : State :=
  let o := { o with id := s.nextId, inTrap := o.splits.any fun k => !(s.sp k).traps.isEmpty }
  let s := { s.fresh with ops := s.ops ++ [o] }
  let s := if o.isLoad then
      let s := s.modGr o.gid fun g => { g with ldc := g.ldc + 1 }
      let s := { s with pendV := o.rows.foldl (fun m r => mset 0 m (rowKey o.gid r) (o.id + 1)) s.pendV }
      if o.sreg = 0 then s else { s with pendS := mset 0 s.pendS (o.sreg - 1) (o.id + 1) }
    else s.modGr o.gid fun g => { g with stc := g.stc + 1 }
  if o.units.all fun u => u.done then s.finishOp o else s

/-- Unit i of an access has been performed with a value. -/
def State.unitDone (s : State) (id i : Nat) (v : Word64) (bad : Bool) : State :=
  match s.ops.find? fun o => o.id == id with
  | none => s
  | some o =>
    let o' := { o with units := o.units.modify i fun u =>
      { u with done := true, bad := bad, value := if o.isLoad then v else u.value } }
    let s := { s with ops := updWhere s.ops (fun x => x.id == id) fun _ => o' }
    if o'.units.all fun u => u.done then s.finishOp o' else s.wake

/-! ## Sectors held by a region -/

/-- A protected place (R209): a COH page outside every non-coherent range, homed in the package. -/
def Place.isProtected : Place → Bool
  | .mem _ cls home => cls == 2 && decide (home < 32)
  | _ => false

/-- Ask for a sector on behalf of a commit (R214, R220). -/
def State.askHold (s : State) (k sec home : Nat) : State :=
  match s.region k with
  | some r =>
    if r.held.contains sec then s
    else s.ask { kind := 1, die := dieOf (coreOf (gidOf k)), sector := sec, home := home, who := 2, holder := k }
  | none => s

/-! ## Performing -/

/-- Perform unit i of an access, if nothing before it is outstanding; a serialised region reads only sectors it
holds (R220). -/
def State.performUnit (s : State) (id i : Nat) : State :=
  match s.ops.find? fun o => o.id == id with
  | none => s
  | some o =>
    match o.units[i]? with
    | none => s
    | some u =>
      if u.done || !s.mayPerform o i u then s
      else
        let plain : State :=
          let s := if o.rel && decide (2 ≤ o.scope) then s.cleanAllL1 o.core else s
          match s.doUnit o i u with
          | .error t => t
          | .ok (t, v, bad) => (if o.isStore then t.noteOwn (t.launchOf o.gid) u.place else t).unitDone id i v bad
        match s.regionOf o, u.place with
        | some (k, r), .mem pa _ home =>
          if r.ser && u.place.isProtected && !inStack u.va then
            if s.lost (pa / 64) home then s.failOp o s.placeLost
            else if s.homeTested home (pa / 64) then s
            else if s.placeBad u.place then (s.meetPlace o.core u.place).unitDone id i 0 true
            else if r.held.contains (pa / 64) then
              let (t, x) := s.homeRead home (pa / 64)
              t.unitDone id i (BitVec.ofNat 64 (sectorPart x (pa / 64) pa u.size)) false
            else s.askHold k (pa / 64) home
          else plain
        | _, _ => plain

/-- R174: a unit of a load or of an ATOM. -/
def execLoadDataReturn (op unit : Nat) (s : State) : Out :=
  .next (if (s.ops.any fun o => o.id == op && o.isLoad) then s.performUnit op unit else s)

/-- R36, R175: a unit of a store or of a RED. -/
def execStorePerformed (op unit : Nat) (s : State) : Out :=
  .next (if (s.ops.any fun o => o.id == op && !o.isLoad) then s.performUnit op unit else s)

end Sys2Proof.Machine
end

