-- ==== Sys2Proof/Machine/Lanes.lean ====
section
/-! DEFINITION. The checks of per-lane and scalar accesses (R173, R179), the trap a failing access takes (R178,
R391, R393), and what a region does with its loads and stores (R209-R213). -/
namespace Sys2Proof.Machine

/-! ## Checks -/

/-- The address of lane l (R173). -/
def State.laneAddr (s : State) (k a o l : Nat) : Nat :=
  if a = 0 then (s.vget64 k o l).toNat else (s.sget k a + sext64 (s.vget k o l)).toNat

/-- The registers an address reads (R173). -/
def addrRegs (a o : Nat) : List Nat := if a = 0 then [o, o + 1] else [o]

/-- A lane that failed its checks. -/
structure Fail where
  lane : Nat
  va : Nat
  cause : Nat
  entry : Word64
  deriving DecidableEq, Repr

/-- The outcome of the checks of all lanes. -/
structure Checked where
  pass : List (Nat × List Piece) := []
  fail : List Fail := []
  /-- lanes whose page is not present -/
  away : List Fail := []
  wait : Bool := false
  dead : Bool := false
  /-- the lanes whose home is out of service (R332) -/
  gone : List Fail := []
  deriving DecidableEq, Repr

/-- Further words of a STACK access, each translated on its own (R45). -/
def State.stackWords (s : State) (k lane va : Nat) (need : Need) : Nat → Nat → State × Except Xl (List Piece)
  | _, 0 => (s, .ok [])
  | off, n + 1 =>
    match s.resolve k lane (va + off) 4 need with
    | (s, .ok p _) =>
      match s.stackWords k lane va need (off + 4) n with
      | (s, .ok ps) => (s, .ok ((p, 4, off) :: ps))
      | (s, x) => (s, x)
    | (s, x) => (s, .error x)

/-- The units of an access of `size` bytes (R306), or what its checks fail with. -/
def State.piecesOf (s : State) (k lane va size : Nat) (need : Need) : State × Except Xl (List Piece) :=
  if va % size ≠ 0 then (s, .error (.fault cAlign 0))
  else
    match s.resolve k lane va size need with
    | (s, .ok p true) =>
      if size ≤ 4 then (s, .ok [(p, size, 0)])
      else
        match s.stackWords k lane va need 4 (size / 4 - 1) with
        | (s, .ok ps) => (s, .ok ((p, 4, 0) :: ps))
        | (s, x) => (s, x)
    | (s, .ok p false) =>
      (s, .ok (if size ≤ 8 then [(p, size, 0)] else (List.range (size / 8)).map fun i => (p.plus (8 * i), 8, 8 * i)))
    | (s, x) => (s, .error x)

/-- A store of less than a whole 4-byte word, and an atomic, meet an uncorrectable word at issue (R322, R396). -/
def State.piecesBad (s : State) (ps : List Piece) : Bool :=
  ps.any fun p => match p.1.poisonAt with
    | some (c, sp, o) => s.poisoned c sp o p.2.1
    | none => match p.1 with
      | .mem pa _ _ => s.badSecs.contains (pa / 64)
      | _ => false

/-- The page entry of a lane's address, by its last translation: for PERM (R393). -/
def State.pageEntry (s : State) (k lane va : Nat) : Word64 :=
  let gr := s.gr (gidOf k)
  let a := if inStack va then gr.stackBase.toNat + (va - stackBase0) / 4 * 128 + 4 * lane else va
  match (s.lookup (coreOf (gidOf k)) gr.ctx a).2 with
  | .leaf e _ => e
  | _ => 0

/-- The pieces that stand with an error meet their first reader (R340). -/
def State.meetPieces (s : State) (core : Nat) (ps : List Piece) : State := ps.foldl (fun t p => t.meetPlace core p.1) s

/-- Check one lane and add it to the outcome. `rmw` accesses meet poison at issue; `host` says whether a HOST
page takes the access (R184). -/
def State.checkLane (s : State) (k size : Nat) (need : Need) (rmw host : Bool) (c : Checked) (l va : Nat) : State × Checked :=
  let failed (cause : Nat) (w : Word64) : Checked := { c with fail := c.fail ++ [{ lane := l, va := va, cause := cause, entry := w }] }
  match s.piecesOf k l va size need with
  | (s, .ok ps) =>
    if !host && (ps.any fun p => match p.1 with | .host _ _ => true | _ => false) then (s, failed cPerm (s.pageEntry k l va))
    else if rmw && s.piecesBad ps then (s.meetPieces (coreOf (gidOf k)) ps, failed cEccu 0)
    else (s, { c with pass := c.pass ++ [(l, ps)] })
  | (s, .error (.fault cause w)) => (s, failed cause w)
  | (s, .error (.absent w)) => (s, { c with away := c.away ++ [{ lane := l, va := va, cause := cXlate, entry := w }] })
  | (s, .error .wait) => (s, { c with wait := true })
  | (s, .error .contained) => (s, { c with dead := true, gone := c.gone ++ [{ lane := l, va := va, cause := cContain, entry := 0 }] })
  | (s, .error (.ok _ _)) => (s, c)

/-- Check the lanes of a list with their addresses. -/
def State.checkLanes (s : State) (k size : Nat) (need : Need) (rmw host : Bool) (ls : List (Nat × Nat)) : State × Checked :=
  ls.foldl (fun (acc : State × Checked) p => acc.1.checkLane k size need rmw host acc.2 p.1 p.2) (s, {})

/-- The entry word is recorded for XLATE and PERM only (R393). -/
def Fail.word4 (f : Fail) : Word64 := if f.cause = cXlate ∨ f.cause = cPerm then f.entry else 0

/-- The failure of the lowest lane of a list. -/
def lowestFail (fs : List Fail) : Option Fail := fs.find? fun f => f.lane == lowLane (maskOf (fs.map fun f => f.lane))

/-- The trap of the failing lanes: the first cause of R391's list (R393, R395). -/
def State.laneTrap (s : State) (k acc : Nat) (fs : List Fail) : TrapInfo :=
  let p := s.sp k
  let cause := (causeOrder.find? fun c => fs.any fun f => f.cause == c).getD cApert
  let mine := fs.filter fun f => f.cause == cause
  let first := lowestFail mine
  { cause := cause, acc := acc, addr := (first.map fun f => f.va).getD 0,
    lmask := maskOf (mine.map fun f => f.lane), pmask := maskOf (fs.map fun f => f.lane),
    word4 := (first.map Fail.word4).getD 0, pc := p.pc, gmode := p.gmode, rep := p.rep, byLane := true, scal := false }

/-- The trap of a scalar access. -/
def State.scalTrap (s : State) (k acc : Nat) (f : Fail) : TrapInfo :=
  let t := s.uniTrap k f.cause
  let t := { t with addr := f.va, word4 := f.word4 }
  { t with acc := acc }

/-- CONTAIN of the lanes whose home is out of service (R219, R332, R398). -/
def State.goneTrap (s : State) (k acc : Nat) (fs : List Fail) : TrapInfo :=
  let m := maskOf (fs.map fun f => f.lane)
  { s.laneTrap k acc fs with cause := cContain, addr := ((lowestFail fs).map fun f => f.va).getD 0, lmask := m, word4 := 0 }

/-- Another split of the group holds the trap bank (R394). -/
def State.trapHeld (s : State) (k : Nat) : Bool :=
  (s.sp k).mode != .trap && (entries (gidOf k)).any fun j => j != k && (s.sp j).valid && (s.sp j).mode == .trap

/-- Units of one lane's access at `va` with the value it writes. -/
def unitsOf (l va : Nat) (ps : List Piece) (v : Nat) : List MUnit :=
  ps.map fun p => { lane := l, place := p.1, size := p.2.1, off := p.2.2, va := va + p.2.2,
                    value := BitVec.ofNat 64 (v / 256 ^ p.2.2 % 256 ^ p.2.1) }

/-- The pieces of a register's value in bytes: count registers from v on. -/
def State.rowsVal (s : State) (k v count l : Nat) : Nat :=
  (List.range count).foldl (fun acc i => acc + (s.vget k (v + i) l).toNat * 2 ^ (32 * i)) 0

/-- What an access needs before it may count: room in its counter (R36). -/
def State.full (s : State) (load : Bool) : Bool := decide (62 ≤ (if load then s.grp.ldc else s.grp.stc))

/-- Finish an instruction whose passing lanes are on their way: trap for the others, or move on (R178). -/
def State.settleLanes (s : State) (e : Bool) (acc : Nat) (fs : List Fail) : State :=
  if fs.isEmpty then s.advance e else s.trap s.cur (s.laneTrap s.cur acc fs)

/-! ## Regions (R209-R213) -/

/-- What a load inside a region obtains. -/
inductive Got where
  /-- from memory, as this input if it is a new one -/
  | memory (input : Option Nat)
  | value (v : BitVec 256) (tag : Option Tag)
  deriving DecidableEq, Repr

def overlap (a b : List Piece) : Bool := a.any fun p => b.any fun q => meets p.1 p.2.1 q.1 q.2.1

/-- A HOST page or a page homed on a peer (R209). -/
def Place.barred : Place → Bool
  | .host _ _ => true
  | .mem _ _ home => decide (32 ≤ home)
  | _ => false

/-- The protected sectors of an access, with their homes. -/
def protectedSectors (ps : List Piece) : List (Nat × Nat) :=
  ps.filterMap fun p => match p.1 with
    | .mem pa cls home => if cls = 2 ∧ home < 32 then some (pa / 64, home) else none
    | _ => none

/-- Add the sectors of an access to the region's set (R208, R214); a serialised attempt takes them (R220). -/
def State.addSectors (s : State) (k slot : Nat) (ps : List Piece) : RegStep :=
  match s.region k with
  | none => .ok s
  | some r =>
    let set := (r.sectors ++ protectedSectors ps).dedup
    if 128 < set.length then abortIn s k 9 slot
    else .ok (s.setRegion k (some { r with sectors := set }))

/-- An input of the region whose load is still in flight. -/
def State.inFlight (s : State) (k slot x : Nat) : Bool :=
  s.ops.any fun o => o.inRegion && o.splits.contains k && o.inputs.contains (slot, x)

/-- A load of one record (R209, R210, R213); none when it must wait for an input in flight. A `plain` access, in the STACK aperture,
is protected on no page. -/
def State.regionRead (s : State) (k slot : Nat) (plain : Bool) (ps : List Piece) (size : Nat) : Except State (State × Option Got) :=
  match s.region k with
  | none => .ok (s, some (.memory none))
  | some r =>
    if !plain && ps.any fun p => p.1.barred then (abortIn s k 10 slot).map fun t => (t, none)
    else
      match (r.stores.filter fun b => b.slot == slot && overlap b.pieces ps).getLast? with
      | some b =>
        if b.pieces = ps ∧ b.size = size then .ok (s, some (.value b.value b.tag))
        else (abortIn s k 8 slot).map fun t => (t, none)
      | none =>
        if plain || (protectedSectors ps).isEmpty then .ok (s, some (.memory none))
        else
          match r.inputs.find? fun x => x.slot == slot && x.pieces == ps && x.size == size with
          | some x =>
            if s.inFlight k slot x.k then .ok (s, none)
            else .ok (s, some (.value x.observed (some { k := x.k, c := 0, part := 0 })))
          | none =>
            let n := (r.inputs.filter fun x => x.slot == slot).length
            if 4 ≤ n then (abortIn s k 1 slot).map fun t => (t, none)
            else do
              let s := s.setRegion k (some { r with inputs := r.inputs ++ [{ slot := slot, k := n, pieces := ps, size := size }] })
              let s ← s.addSectors k slot ps
              let s ← if size = 4 ∨ size = 8 then .ok s else s.concretise k slot n
              return (s, some (.memory (some n)))

/-- Buffer a store (R213). -/
def State.regionWrite (s : State) (k slot : Nat) (plain : Bool) (ps : List Piece) (size : Nat) (v : BitVec 256) (tag : Option Tag) : RegStep :=
  match s.region k with
  | none => .ok s
  | some r =>
    let n := (afind r.storeCount slot).getD 0
    if !plain && ps.any fun p => p.1.barred then abortIn s k 10 slot
    else if 8 ≤ n then abortIn s k 3 slot
    else do
      let b : RStore := { slot := slot, pieces := ps, size := size, value := v, tag := tag, plain := plain }
      let s := s.setRegion k (some { r with stores := r.stores ++ [b], storeCount := aput r.storeCount slot (n + 1) })
      let s ← if plain then .ok s else s.addSectors k slot ps
      return (if r.ser && !plain then (protectedSectors ps).foldl (fun t p => t.askHold k p.1 p.2) s else s)

/-- The tag a loaded value carries, for a load of 4 or 8 bytes (R210). -/
def loadTag (size : Nat) (t : Option Tag) : Option Tag := if size = 4 ∨ size = 8 then t else none

end Sys2Proof.Machine
end

