-- ==== Sys2Proof/Machine/Acc.lean ====
section
/-! DEFINITION. Major 0x1F: accumulator tiles in the registers and into ABUF (R197-R200). -/
namespace Sys2Proof.Machine

/-! ## Tiles (R48) -/

/-- Word e of a tile: element (i, j) is word 16i + j. -/
def tileKey (core tile e : Nat) : Nat := (core * 2048 + tile) * 256 + e
def State.tileGet (s : State) (core tile e : Nat) : Word32 := mget 0 s.tiles (tileKey core tile e)
def State.tileSet (s : State) (core tile e : Nat) (v : Word32) : State :=
  { s with tiles := mset 0 s.tiles (tileKey core tile e) v,
           poison := s.poison.filter fun k => k != poisonKey core 2 (256 * tile + e) }

/-- n tiles from the first lie in the team's allocation. -/
def Team.ownsTiles (t : Team) (first n : Nat) : Bool :=
  decide (n = 0 ∨ (t.accFirst ≤ first ∧ first + n ≤ t.accFirst + t.accCount))

/-- A correctable error in a tile that is read is corrected in place and noted (R322, R411). -/
def State.correctTile (s : State) (core tile : Nat) : State :=
  let hit (k : Nat) : Bool := decide (poisonKey core 2 (256 * tile) ≤ k ∧ k < poisonKey core 2 (256 * tile + 256))
  if s.soft.any hit then ({ s with soft := s.soft.filter fun k => !hit k } : State).detect core 2 (256 * tile) else s

/-- A quarter-op waits in the queue on one of these tiles for one of the team's groups (R200). -/
def State.tileBusy (s : State) (team : Nat) (tiles : List Nat) : Bool :=
  let gs := (s.tm team).groups.filter fun g => (s.gr g).live && (s.gr g).team == team
  (gs.any fun g => (s.gr g).batches.any fun b => !b.ops.isEmpty && share b.tiles tiles)
  || s.passes.any fun p => p.ops.any fun q => gs.contains q.gid && tiles.contains q.tile

/-- The trap of a guarded form whose operands are uniform: the lanes that took the cause (R393). -/
def State.guardTrap (s : State) (cause : Nat) (m : BitVec 32) : TrapInfo :=
  let t := s.uniTrap s.cur cause
  { t with lmask := m, pmask := m }

/-- The prelude of a form of this major: in a region it aborts with ENGINE; an empty G completes at once; a tile
outside the allocation takes ACCRANGE; else it waits for the tiles, and for a test of their bank (R197, R200-R202, R411). -/
def State.accForm (s : State) (e : Bool) (u : Uses) (first n : State → Nat) (check : State → Option Nat)
    (eff : State → State) : State :=
  if s.inRegion then s.barred abEngine 0x1F
  else if s.stalled s.cur { u with sq := [gGuard s.me.gmode] } then s.stall
  else if s.guard s.cur = 0 then s.advance e
  else
    match check s with
    | some c => s.trap s.cur (s.guardTrap c (s.guard s.cur))
    | none =>
      if s.tileBusy s.grp.team ((List.range (n s)).map fun i => first s + i) || s.underTest s.cc 2 (256 * first s) (256 * n s) then s.stall
      else (eff s).advance e

/-- ACCRANGE of a single tile. -/
def State.tileCheck (s : State) (tile : Nat) : Option Nat := if s.team.ownsTiles tile 1 then none else some cAccrange

def State.tileIn (s : State) (a : BitVec 5) : Nat := field (s.sget s.cur a.toNat) 15 0

/-- The rows v(8k) to v(8k + 7). -/
def accRows (k : BitVec 3) : List Nat := (List.range 8).map fun i => 8 * k.toNat + i

/-- Tile word of register i of the block in lane l (R198). -/
def accWord (i l : Nat) : Nat := 16 * (2 * i + l / 16) + l % 16

/-- R198. -/
def execAccLd (e : Bool) (k : BitVec 3) (a : BitVec 5) (s : State) : Out :=
  issue s fun s => s.accForm e { ss := [a.toNat], dv := accRows k } (fun s => s.tileIn a) (fun _ => 1)
    (fun s => s.tileCheck (s.tileIn a)) fun s =>
    (List.range 8).foldl (fun t i =>
      t.vsets t.cur (8 * k.toNat + i) (t.glanes t.cur) fun l => s.tileGet s.cc (s.tileIn a) (accWord i l)) (s.correctTile s.cc (s.tileIn a))

/-- R198. -/
def execAccSt (e : Bool) (k : BitVec 3) (a : BitVec 5) (s : State) : Out :=
  issue s fun s => s.accForm e { ss := [a.toNat], sv := accRows k } (fun s => s.tileIn a) (fun _ => 1)
    (fun s => s.tileCheck (s.tileIn a)) fun s =>
    (List.range 8).foldl (fun t i => (s.glanes s.cur).foldl (fun t l =>
      t.tileSet s.cc (s.tileIn a) (accWord i l) (s.vget s.cur (8 * k.toNat + i) l)) t) s

/-- Every element of a tile becomes +0.0, and is free of errors. -/
def State.zeroTile (s : State) (core tile : Nat) : State :=
  { s with tiles := s.tiles.filter fun p => !decide (p.1 / 256 = core * 2048 + tile),
           poison := s.poison.filter fun k =>
             !decide (poisonKey core 2 (256 * tile) ≤ k ∧ k < poisonKey core 2 (256 * tile + 256)) }

/-- R198: the whole range is checked before anything is zeroed (R197). -/
def execAccZero (e : Bool) (a : BitVec 5) (s : State) : Out :=
  issue s fun s =>
    let n (s : State) : Nat := field (s.sget s.cur a.toNat) 31 16
    s.accForm e { ss := [a.toNat] } (fun s => s.tileIn a) n
      (fun s => if s.team.ownsTiles (s.tileIn a) (n s) then none else some cAccrange) fun s =>
      (List.range (n s)).foldl (fun t i => t.zeroTile t.cc (s.tileIn a + i)) s

/-! ## ACC.CVT (R199) -/

/-- One element converted to the type, with its flags. -/
def State.accConvert (s : State) (x : Nat) : FRes :=
  if s.ty = 1 ∨ s.ty = 8 then toInt .fp32 s.rnd s.ftz s.ty x else (s.cvtCtx s.ty).cvt .fp32 x

/-- Bytes of a converted row. -/
def rowBytes (ty : Nat) : Nat := 2 * elW ty

/-- Where row i goes: an offset in ABUF, if the whole row lies in the aperture. -/
def State.cvtRow (s : State) (base pitch i : Nat) : Option Nat :=
  let va := (base + i * pitch) % 2 ^ 64
  if abufBase ≤ va ∧ va + rowBytes s.ty ≤ abufBase + s.abufSize s.cc then some (va - abufBase) else none

/-- ALIGN, APERT, ACCRANGE, BUFRANGE, in the order of R391. -/
def State.cvtCheck (s : State) (base pitch tile : Nat) : Option Nat :=
  let rows := (List.range 16).map (s.cvtRow base pitch)
  let n := rowBytes s.ty
  let tm := s.team
  if base % 4 ≠ 0 ∨ pitch % 4 ≠ 0 then some cAlign
  else if rows.any fun r => r.isNone then some cApert
  else if ¬ tm.ownsTiles tile 1 then some cAccrange
  else if rows.any fun r => match r with
      | some o => decide (o < tm.abufOff ∨ tm.abufOff + tm.abufSize < o + n ∨ s.abufLeft s.cc < o + n)
      | none => true then some cBufrange
  else none

/-- The packed bytes of row i and the OR of its flags. -/
def State.cvtWords (s : State) (tile i : Nat) : Nat × Flags :=
  (List.range 16).foldl (fun (acc : Nat × Flags) j =>
    let r := s.accConvert (s.tileGet s.cc tile (16 * i + j)).toNat
    (acc.1 + r.1 % 2 ^ elW s.ty * 2 ^ (elW s.ty * j), acc.2 ||| r.2)) (0, 0)

/-- Bytes of ABUF that an earlier access of the split, a copy's claim, a quarter-op's read claim or a test still holds. -/
def State.abufHeld (s : State) (off n : Nat) : Bool :=
  let p : Place := .abuf s.cc off
  let o : MemOp := { id := s.nextId, splits := [s.cur], gid := s.cg, ctx := s.grp.ctx, core := s.cc, kind := .store, units := [] }
  !s.mayPerform o 0 { lane := 0, place := p, size := n, off := 0 } || s.underTest s.cc 0 off n

/-- R199, R200. -/
def execAccCvt (e : Bool) (d a b : BitVec 5) (s : State) : Out :=
  issue s fun s =>
    if ¬ [1, 3, 6, 7, 8, 10, 11, 14].contains s.ty then s.undef
    else
      let base (s : State) : Nat := (s.sget s.cur d.toNat).toNat
      let pitch (s : State) : Nat := (s.sget s.cur b.toNat).toNat
      let tile (s : State) : Nat := s.tileIn a
      let offs (s : State) : List Nat := (List.range 16).filterMap (s.cvtRow (base s) (pitch s))
      if ¬ s.inRegion ∧ s.guard s.cur ≠ 0 ∧ ¬ s.stalled s.cur { ss := [d.toNat, a.toNat, b.toNat] }
          ∧ (s.cvtCheck (base s) (pitch s) (tile s)).isNone ∧ (offs s).any fun o => s.abufHeld o (rowBytes s.ty) then s.stall
      else s.accForm e { ss := [d.toNat, a.toNat, b.toNat] } tile (fun _ => 1)
        (fun s => s.cvtCheck (base s) (pitch s) (tile s)) fun s =>
        let rows := (List.range 16).map (s.cvtWords (tile s))
        let t := ((offs s).zip rows).foldl (fun t p => t.flatWrite (.abuf t.cc p.1) (rowBytes s.ty) p.2.1) (s.correctTile s.cc (tile s))
        let fl := rows.foldl (fun x r => x ||| r.2) (0 : Flags)
        t.orLanes (s.glanes s.cur) fun _ => fl

end Sys2Proof.Machine
end

