-- ==== Sys2Proof/WellFormed.lean ====
section
/-! DEFINITION. Which instructions the word alone allows (R57, R61-R63, R67, R68): a well-formed
instruction has no reserved code in a field. What depends on GMODE or on the next word is decided at
issue (R65, R59). -/
namespace Sys2Proof

/-- The assigned special-register numbers (R39). -/
def specialAssigned (n : Nat) : Bool :=
  n ≤ 0x0D || (0x10 ≤ n && n ≤ 0x14) || (0x18 ≤ n && n ≤ 0x1D) || (0x20 ≤ n && n ≤ 0x23)

/-- Vector registers that an MM size occupies (R61). -/
def mmCount (z : BitVec 3) : Nat :=
  if z.toNat = 3 then 2 else if z.toNat = 4 then 4 else if z.toNat = 5 then 8 else 1

/-- The MM format's common conditions: size and scope assigned, no register group past v63, no
wrapping address pair (R61, R62). -/
abbrev mmOk (v : BitVec 6) (s : BitVec 5) (o : BitVec 6) (z c : BitVec 3) : Prop :=
  z.toNat < 6 ∧ c.toNat < 6 ∧ v.toNat + mmCount z ≤ 64 ∧ ¬ (s.toNat = 0 ∧ o.toNat = 63)

/-- The MA format's common conditions (R61, R62). -/
abbrev maOk (s : BitVec 5) (o : BitVec 6) (c : BitVec 3) : Prop :=
  c.toNat < 6 ∧ ¬ (s.toNat = 0 ∧ o.toNat = 63)

/-- The instruction has no code that its word makes an undefined form (R57). An event row has no
word and is always well formed. -/
def Instr.wf : Instr → Bool
  | .nop _ => true
  | .exit _ => true
  | .ret _ => true
  | .yield _ => true
  | .tret _ _ => true
  | .brk _ => true
  | .wspill _ => true
  | .wfill _ => true
  | .emret _ n a => decide (n.toNat ≠ 3 ∧ (n.toNat ≠ 2 → a = 0))
  | .probe _ _ => true
  | .splq _ _ => true
  | .mode _ _ _ r _ _ => decide (r.toNat < 5)
  | .rep _ _ _ _ => true
  | .bra _ p c _ => decide (c.toNat = 3 → p = 0)
  | .call _ _ => true
  | .callx _ _ => true
  | .brx _ _ => true
  | .callo _ _ => true
  | .jmpo _ _ => true
  | .srd _ _ n => specialAssigned n.toNat
  | .swr _ _ n => specialAssigned n.toNat
  | .trap _ _ => true
  | .vsrd _ _ n => specialAssigned n.toNat
  | .wait _ _ _ _ _ => true
  | .sadd _ _ _ _ => true
  | .ssub _ _ _ _ => true
  | .smul _ _ _ _ => true
  | .smulh _ _ _ _ => true
  | .sdiv _ _ _ _ => true
  | .srem _ _ _ _ => true
  | .sand _ _ _ _ => true
  | .sor _ _ _ _ => true
  | .sxor _ _ _ _ => true
  | .snot _ _ _ => true
  | .sshl _ _ _ _ => true
  | .sshr _ _ _ _ => true
  | .ssra _ _ _ _ => true
  | .smin _ _ _ _ => true
  | .smax _ _ _ _ => true
  | .sminn _ _ _ _ => true
  | .smaxn _ _ _ _ => true
  | .scmpEq _ _ _ _ => true
  | .scmpNe _ _ _ _ => true
  | .scmpLt _ _ _ _ => true
  | .scmpLe _ _ _ _ => true
  | .scmpLtn _ _ _ _ => true
  | .scmpLen _ _ _ _ => true
  | .smov _ _ _ => true
  | .spopc _ _ _ => true
  | .sclz _ _ _ => true
  | .sbrev _ _ _ => true
  | .saddi _ _ _ _ => true
  | .sli _ _ _ => true
  | .slih _ _ _ _ => true
  | .vadd _ _ _ _ => true
  | .vsub _ _ _ _ => true
  | .vmul _ _ _ _ => true
  | .vmulh _ _ _ _ => true
  | .vmad _ _ _ _ => true
  | .vand _ _ _ _ => true
  | .vor _ _ _ _ => true
  | .vxor _ _ _ _ => true
  | .vnot _ _ _ => true
  | .vshl _ _ _ _ => true
  | .vshr _ _ _ _ => true
  | .vsra _ _ _ _ => true
  | .vmin _ _ _ _ => true
  | .vmax _ _ _ _ => true
  | .vabs _ _ _ => true
  | .vneg _ _ _ => true
  | .vmov _ _ _ => true
  | .vbsel _ _ _ _ => true
  | .vpopc _ _ _ => true
  | .vclz _ _ _ => true
  | .vavg _ _ _ _ => true
  | .vdiv _ _ _ _ => true
  | .vrem _ _ _ _ => true
  | .vaddi _ _ _ _ => true
  | .vli _ _ _ => true
  | .vbfe _ _ _ _ => true
  | .vbfi _ _ _ _ => true
  | .vprmt _ _ _ _ => true
  | .vshuf _ _ _ _ => true
  | .vpackb _ _ _ => true
  | .vbcast _ _ _ => true
  | .vext _ _ _ _ => true
  | .vscan _ _ _ o => decide (o.toNat < 6)
  | .vreduce _ _ _ o => decide (o.toNat < 6)
  | .pand _ _ _ _ => true
  | .por _ _ _ _ => true
  | .pxor _ _ _ _ => true
  | .pnot _ _ _ => true
  | .pmov _ _ _ => true
  | .pfrom _ _ _ => true
  | .pto _ _ _ => true
  | .ppopc _ _ _ => true
  | .pfirst _ _ _ => true
  | .vcmpEq _ _ _ _ => true
  | .vcmpNe _ _ _ _ => true
  | .vcmpLt _ _ _ _ => true
  | .vcmpLe _ _ _ _ => true
  | .vcmpGt _ _ _ _ => true
  | .vcmpGe _ _ _ _ => true
  | .vcmpUn _ _ _ _ => true
  | .vcmpvEq _ _ _ _ => true
  | .vcmpvNe _ _ _ _ => true
  | .vcmpvLt _ _ _ _ => true
  | .vcmpvLe _ _ _ _ => true
  | .vcmpvGt _ _ _ _ => true
  | .vcmpvGe _ _ _ _ => true
  | .vcmpvUn _ _ _ _ => true
  | .fadd _ _ _ _ => true
  | .fsub _ _ _ _ => true
  | .fmul _ _ _ _ => true
  | .fmin _ _ _ _ => true
  | .fmax _ _ _ _ => true
  | .fabs _ _ _ => true
  | .fneg _ _ _ => true
  | .fdiv _ _ _ _ => true
  | .fscale _ _ _ _ => true
  | .frcp _ _ _ => true
  | .frsq _ _ _ => true
  | .fsqrt _ _ _ => true
  | .fexp2 _ _ _ => true
  | .flog2 _ _ _ => true
  | .fsinp _ _ _ => true
  | .fcosp _ _ _ => true
  | .fma _ _ _ _ => true
  | .fms _ _ _ _ => true
  | .fnma _ _ _ _ => true
  | .idot _ _ _ _ => true
  | .fdot _ _ _ _ => true
  | .fcvt _ _ _ _ => true
  | .frnd _ _ _ _ => true
  | .fclass _ _ _ _ => true
  | .f2i _ _ _ _ => true
  | .i2f _ _ _ _ => true
  | .ld _ v s o z c r => decide (mmOk v s o z c ∧ r.toNat < 2)
  | .st _ v s o z c r => decide (mmOk v s o z c ∧ (r.toNat = 0 ∨ r.toNat = 2))
  | .ldn _ v s o z c r => decide (mmOk v s o z c ∧ r.toNat < 2)
  | .sldB32 _ _ _ _ => true
  | .sldB64 _ _ _ _ => true
  | .sstB32 _ _ _ _ => true
  | .sstB64 _ _ _ _ => true
  | .sldB32Acq _ _ _ _ => true
  | .sldB64Acq _ _ _ _ => true
  | .sstB32Rel _ _ _ _ => true
  | .sstB64Rel _ _ _ _ => true
  | .atom _ _ s o p c _ => decide (maOk s o c ∧ p.toNat < 12)
  | .red _ _ s o p c _ => decide (maOk s o c ∧ p.toNat < 12 ∧ p.toNat ≠ 8 ∧ p.toNat ≠ 9)
  | .fence _ c r => decide (c.toNat < 6 ∧ r.toNat ≠ 0)
  | .cctl _ _ _ _ => true
  | .pref _ n _ _ => decide (n.toNat ≠ 3)
  | .pageq _ _ _ k => decide (k.toNat ≠ 3)
  | .waitv _ _ _ _ => true
  | .carve _ _ _ => true
  | .sync _ _ => true
  | .bar _ _ _ => true
  | .cbar _ _ => true
  | .bara _ _ _ => true
  | .accLd _ _ _ => true
  | .accSt _ _ _ => true
  | .accZero _ _ => true
  | .accCvt _ _ _ _ => true
  | .rgbeg _ _ _ => true
  | .rgend _ => true
  | .rgabt _ _ => true
  | .rgst _ _ => true
  | .mma _ _ _ _ => true
  | .mmas _ _ _ _ => true
  | .mfence _ _ => true
  | .omap _ _ a => decide (a.toNat ≤ 28)
  | .merrq _ _ => true
  | .cpy _ _ a => decide (1 ≤ a.toNat ∧ a.toNat ≤ 28)
  | .cpyt _ _ a => decide (1 ≤ a.toNat ∧ a.toNat ≤ 26)
  | .cpyr _ _ a => decide (1 ≤ a.toNat ∧ a.toNat ≤ 28)
  | .cpyg _ _ a => decide (1 ≤ a.toNat ∧ a.toNat ≤ 27)
  | .cpyb _ _ a => decide (1 ≤ a.toNat ∧ a.toNat ≤ 27)
  | .cpyq _ _ _ => true
  | .ovlLd _ _ _ => true
  | .ovlHint _ _ => true
  | .ovlEv _ _ => true
  | .ovlPin _ _ _ => true
  | .ovlUnpin _ _ => true
  | .ovlQ _ _ _ => true
  | .mshEmit _ _ a _ => decide (a.toNat ≤ 60)
  | .mshClose _ _ _ b => decide (b.toNat ≠ 63)
  | .pixAttr _ _ _ _ => true
  | .pixOut _ _ _ => true
  | .pixKill _ => true
  | .pixOrd _ => true
  | .tex _ d a b => decide (b.toNat % 2 = 0 ∧ d.toNat ≤ 60 ∧ a.toNat ≤ 62)
  | .texl _ d a b => decide (b.toNat % 2 = 0 ∧ d.toNat ≤ 60 ∧ a.toNat ≤ 61)
  | .texg _ d a b => decide (b.toNat % 2 = 0 ∧ d.toNat ≤ 60 ∧ a.toNat ≤ 58)
  | .imgLd _ _ a b => decide (b.toNat % 2 = 0 ∧ a.toNat ≤ 61)
  | .imgSt _ _ a b => decide (b.toNat % 2 = 0 ∧ a.toNat ≤ 61)
  | .ray _ _ _ b => decide (b.toNat ≤ 24)
  | .rayh _ _ _ b => decide (b.toNat ≤ 24)
  | .owrd _ _ _ => true
  | .xregRd _ _ _ _ => true
  | .xregWr _ _ _ _ => true
  | .emulationEntry _ _ _ => true
  | .emulationLevelWaitEnd _ => true
  | .trapBankWaitEnd _ => true
  | .schedulerAgeThreshold _ => true
  | .loadDataReturn _ _ => true
  | .storePerformed _ _ => true
  | .copyGranuleWrite _ => true
  | .copyComplete _ => true
  | .matrixPass _ _ => true
  | .overlayFillComplete _ => true
  | .rayQueryComplete _ => true
  | .waitvWake _ => true
  | .waitvReread _ => true
  | .waitvTimeout _ => true
  | .regionCommit _ => true
  | .regionSerialTimeout _ => true
  | .carveComplete _ => true
  | .nopCommand _ _ => true
  | .launch _ _ => true
  | .draw _ _ => true
  | .waitCommand _ _ => true
  | .waitCommandPoll _ _ => true
  | .signal _ _ => true
  | .teamPlacement _ => true
  | .endOfLaunch _ => true
  | .drawEnd _ => true
  | .saveRequest _ => true
  | .forcedSave _ => true
  | .saveComplete _ => true
  | .contextResume _ => true
  | .timeSliceExpiry _ => true
  | .doorbell _ _ _ _ => true
  | .contextLoad _ => true
  | .contextRelease _ => true
  | .ctxtabWrite _ => true
  | .partitionEnable _ _ => true
  | .partitionReconfigure _ _ => true
  | .invalidatePage _ => true
  | .invalidateContext _ => true
  | .invalidationComplete _ => true
  | .pageRequestGrant _ _ => true
  | .pageRequestFail _ _ => true
  | .prqRptrPoll _ => true
  | .irqcauseClear _ _ => true
  | .registerWrite _ _ _ _ => true
  | .atsTranslationCompletion _ _ _ _ => true
  | .atsInvalidateRequest _ _ => true
  | .prgResponse _ _ _ => true
  | .hostMemoryWrite _ _ _ => true
  | .hostMemoryRead _ _ _ => true
  | .functionLevelReset _ => true
  | .vfEnableClear _ => true
  | .pfFunctionLevelReset => true
  | .warmDieReset _ => true
  | .coldDieReset _ => true
  | .warmPackageReset => true
  | .coldPackageReset => true
  | .powerOn => true
  | .explore _ _ => true
  | .exploreEnd => true
  | .bringUpSelfTestDone _ _ => true
  | .attestationRequest _ => true
  | .attestationReportDone => true
  | .selfTestComplete _ _ _ _ => true
  | .droopEvent _ _ => true
  | .powerLimitAdjust _ _ => true
  | .lossOfService _ => true
  | .coherenceTimeout _ => true
  | .rds _ _ => true
  | .rdx _ _ => true
  | .upg _ _ => true
  | .rdu _ _ => true
  | .wrb _ _ => true
  | .wrc _ _ => true
  | .wrm _ _ => true
  | .wrt _ _ => true
  | .invalidation _ _ => true
  | .downgrade _ _ => true
  | .coherenceAck _ _ => true
  | .formatRegionEnable _ _ => true
  | .formatRegionDisable _ _ => true
  | .linkFlit _ _ _ _ _ => true
  | .meshletCompressDone _ => true
  | .frontierBeacon _ _ => true
  | .visibilityPacket _ _ => true
  | .rasterisePacket _ => true
  | .blendApply _ => true
  | .powerOff => true
  | .priReenable _ => true
  | .msiXVectorUnmask _ _ => true

end Sys2Proof
end

