-- ==== Sys2Proof/Decode.lean ====
section
/-! DEFINITION. Decoding an instruction word (R51, R56-R73) and encoding it back. A word is read as a
number with bit 0 its least significant bit. Decoding is total: a word that is no instruction is
rejected by name, and the name fixes the emulation cause (R74). -/
namespace Sys2Proof

/-- Why a word is not an instruction (R74, R76). -/
inductive Reject where
  /-- major 0x28-0x2F: the software opcode space -/
  | soft
  /-- major 0x30-0x37 -/
  | reservedMajor
  /-- major 0x38-0x3F: the future-generation space -/
  | future
  /-- a minor the opcode map does not assign, minor 0 of major 0x00 among them (R57, R74) -/
  | reservedMinor
  /-- a nonzero bit in a field the instruction does not use (R57) -/
  | unusedField
  /-- a reserved code in a field (R57) -/
  | reservedCode
  deriving DecidableEq, Repr

/-- The emulation cause of a rejected word: 0 UNDEF, 2 SOFT, 3 FUTURE (R74, R289). -/
def Reject.cause : Reject → BitVec 2
  | .soft => 2
  | .future => 3
  | .reservedMajor => 0
  | .reservedMinor => 0
  | .unusedField => 0
  | .reservedCode => 0

/-- Bits [lo+n-1:lo] of a word. -/
def fld (w lo n : Nat) : Nat := w / 2 ^ lo % 2 ^ n

/-- Bits [lo+n-1:lo] of a word, as a field of n bits. -/
def bits (n w lo : Nat) : BitVec n := BitVec.ofNat n (w / 2 ^ lo)

/-- The S bit (R51). -/
def sBit (w : Nat) : Bool := fld w 25 1 == 1

/-- A field that must be zero, then the instruction (R57). -/
def ifZero (z : Nat) (r : Except Reject Instr) : Except Reject Instr :=
  if z = 0 then r else .error .unusedField

/-- Major 0x00. -/
def decMajor00 (w : Nat) : Except Reject Instr :=
  match fld w 0 10 with
  | 1 => ifZero (fld w 10 15) (.ok (.nop (sBit w)))
  | 2 => ifZero (fld w 10 15) (.ok (.exit (sBit w)))
  | 3 => ifZero (fld w 10 15) (.ok (.ret (sBit w)))
  | 4 => ifZero (fld w 10 15) (.ok (.yield (sBit w)))
  | 5 => ifZero (fld w 10 10) (ifZero (fld w 21 4) (.ok (.tret (sBit w) (bits 1 w 20))))
  | 6 => ifZero (fld w 10 15) (.ok (.brk (sBit w)))
  | 7 => ifZero (fld w 10 15) (.ok (.wspill (sBit w)))
  | 8 => ifZero (fld w 10 15) (.ok (.wfill (sBit w)))
  | 9 => ifZero (fld w 10 5) (ifZero (fld w 22 3) (.ok (.emret (sBit w) (bits 2 w 20) (bits 5 w 15))))
  | 10 => ifZero (fld w 10 10) (ifZero (fld w 21 4) (.ok (.probe (sBit w) (bits 1 w 20))))
  | 11 => ifZero (fld w 10 10) (.ok (.splq (sBit w) (bits 5 w 20)))
  | _ => .error .reservedMinor

/-- Major 0x01. -/
def decMajor01 (w : Nat) : Except Reject Instr :=
  ifZero (fld w 0 13) (.ok (.mode (sBit w) (bits 3 w 22) (bits 4 w 18) (bits 3 w 15) (bits 1 w 14) (bits 1 w 13)))

/-- Major 0x02. -/
def decMajor02 (w : Nat) : Except Reject Instr :=
  ifZero (fld w 0 10) (ifZero (fld w 25 1) (.ok (.rep (bits 6 w 19) (bits 3 w 16) (bits 3 w 13) (bits 3 w 10))))

/-- Major 0x03. -/
def decMajor03 (w : Nat) : Except Reject Instr :=
  .ok (.bra (sBit w) (bits 3 w 22) (bits 2 w 20) (bits 20 w 0))

/-- Major 0x04. -/
def decMajor04 (w : Nat) : Except Reject Instr :=
  .ok (.call (sBit w) (bits 25 w 0))

/-- Major 0x05. -/
def decMajor05 (w : Nat) : Except Reject Instr :=
  match fld w 0 10 with
  | 0 => ifZero (fld w 10 5) (ifZero (fld w 20 5) (.ok (.callx (sBit w) (bits 5 w 15))))
  | 1 => ifZero (fld w 10 5) (ifZero (fld w 20 5) (.ok (.brx (sBit w) (bits 5 w 15))))
  | 2 => ifZero (fld w 10 5) (ifZero (fld w 20 5) (.ok (.callo (sBit w) (bits 5 w 15))))
  | 3 => ifZero (fld w 10 5) (ifZero (fld w 20 5) (.ok (.jmpo (sBit w) (bits 5 w 15))))
  | _ => .error .reservedMinor

/-- Major 0x06. -/
def decMajor06 (w : Nat) : Except Reject Instr :=
  match fld w 0 9 with
  | 0 => ifZero (fld w 24 1) (.ok (.srd (sBit w) (bits 5 w 19) (bits 10 w 9)))
  | 1 => ifZero (fld w 24 1) (.ok (.swr (sBit w) (bits 5 w 19) (bits 10 w 9)))
  | 2 => ifZero (fld w 19 6) (.ok (.trap (sBit w) (bits 10 w 9)))
  | 3 => .ok (.vsrd (sBit w) (bits 6 w 19) (bits 10 w 9))
  | _ => .error .reservedMinor

/-- Major 0x07. -/
def decMajor07 (w : Nat) : Except Reject Instr :=
  ifZero (fld w 0 1) (.ok (.wait (sBit w) (bits 6 w 19) (bits 6 w 13) (bits 6 w 7) (bits 6 w 1)))

/-- Major 0x08. -/
def decMajor08 (w : Nat) : Except Reject Instr :=
  match fld w 0 10 with
  | 0 => .ok (.sadd (sBit w) (bits 5 w 20) (bits 5 w 15) (bits 5 w 10))
  | 1 => .ok (.ssub (sBit w) (bits 5 w 20) (bits 5 w 15) (bits 5 w 10))
  | 2 => .ok (.smul (sBit w) (bits 5 w 20) (bits 5 w 15) (bits 5 w 10))
  | 3 => .ok (.smulh (sBit w) (bits 5 w 20) (bits 5 w 15) (bits 5 w 10))
  | 4 => .ok (.sdiv (sBit w) (bits 5 w 20) (bits 5 w 15) (bits 5 w 10))
  | 5 => .ok (.srem (sBit w) (bits 5 w 20) (bits 5 w 15) (bits 5 w 10))
  | 6 => .ok (.sand (sBit w) (bits 5 w 20) (bits 5 w 15) (bits 5 w 10))
  | 7 => .ok (.sor (sBit w) (bits 5 w 20) (bits 5 w 15) (bits 5 w 10))
  | 8 => .ok (.sxor (sBit w) (bits 5 w 20) (bits 5 w 15) (bits 5 w 10))
  | 9 => ifZero (fld w 10 5) (.ok (.snot (sBit w) (bits 5 w 20) (bits 5 w 15)))
  | 10 => .ok (.sshl (sBit w) (bits 5 w 20) (bits 5 w 15) (bits 5 w 10))
  | 11 => .ok (.sshr (sBit w) (bits 5 w 20) (bits 5 w 15) (bits 5 w 10))
  | 12 => .ok (.ssra (sBit w) (bits 5 w 20) (bits 5 w 15) (bits 5 w 10))
  | 13 => .ok (.smin (sBit w) (bits 5 w 20) (bits 5 w 15) (bits 5 w 10))
  | 14 => .ok (.smax (sBit w) (bits 5 w 20) (bits 5 w 15) (bits 5 w 10))
  | 15 => .ok (.sminn (sBit w) (bits 5 w 20) (bits 5 w 15) (bits 5 w 10))
  | 16 => .ok (.smaxn (sBit w) (bits 5 w 20) (bits 5 w 15) (bits 5 w 10))
  | 17 => .ok (.scmpEq (sBit w) (bits 5 w 20) (bits 5 w 15) (bits 5 w 10))
  | 18 => .ok (.scmpNe (sBit w) (bits 5 w 20) (bits 5 w 15) (bits 5 w 10))
  | 19 => .ok (.scmpLt (sBit w) (bits 5 w 20) (bits 5 w 15) (bits 5 w 10))
  | 20 => .ok (.scmpLe (sBit w) (bits 5 w 20) (bits 5 w 15) (bits 5 w 10))
  | 21 => .ok (.scmpLtn (sBit w) (bits 5 w 20) (bits 5 w 15) (bits 5 w 10))
  | 22 => .ok (.scmpLen (sBit w) (bits 5 w 20) (bits 5 w 15) (bits 5 w 10))
  | 23 => ifZero (fld w 10 5) (.ok (.smov (sBit w) (bits 5 w 20) (bits 5 w 15)))
  | 24 => ifZero (fld w 10 5) (.ok (.spopc (sBit w) (bits 5 w 20) (bits 5 w 15)))
  | 25 => ifZero (fld w 10 5) (.ok (.sclz (sBit w) (bits 5 w 20) (bits 5 w 15)))
  | 26 => ifZero (fld w 10 5) (.ok (.sbrev (sBit w) (bits 5 w 20) (bits 5 w 15)))
  | _ => .error .reservedMinor

/-- Major 0x09. -/
def decMajor09 (w : Nat) : Except Reject Instr :=
  .ok (.saddi (sBit w) (bits 5 w 20) (bits 5 w 15) (bits 15 w 0))

/-- Major 0x0A. -/
def decMajor0A (w : Nat) : Except Reject Instr :=
  ifZero (fld w 15 5) (.ok (.sli (sBit w) (bits 5 w 20) (bits 15 w 0)))

/-- Major 0x0B. -/
def decMajor0B (w : Nat) : Except Reject Instr :=
  .ok (.slih (sBit w) (bits 5 w 20) (bits 5 w 15) (bits 15 w 0))

/-- Major 0x0C. -/
def decMajor0C (w : Nat) : Except Reject Instr :=
  match fld w 0 7 with
  | 0 => .ok (.vadd (sBit w) (bits 6 w 19) (bits 6 w 13) (bits 6 w 7))
  | 1 => .ok (.vsub (sBit w) (bits 6 w 19) (bits 6 w 13) (bits 6 w 7))
  | 2 => .ok (.vmul (sBit w) (bits 6 w 19) (bits 6 w 13) (bits 6 w 7))
  | 3 => .ok (.vmulh (sBit w) (bits 6 w 19) (bits 6 w 13) (bits 6 w 7))
  | 4 => .ok (.vmad (sBit w) (bits 6 w 19) (bits 6 w 13) (bits 6 w 7))
  | 5 => .ok (.vand (sBit w) (bits 6 w 19) (bits 6 w 13) (bits 6 w 7))
  | 6 => .ok (.vor (sBit w) (bits 6 w 19) (bits 6 w 13) (bits 6 w 7))
  | 7 => .ok (.vxor (sBit w) (bits 6 w 19) (bits 6 w 13) (bits 6 w 7))
  | 8 => ifZero (fld w 7 6) (.ok (.vnot (sBit w) (bits 6 w 19) (bits 6 w 13)))
  | 9 => .ok (.vshl (sBit w) (bits 6 w 19) (bits 6 w 13) (bits 6 w 7))
  | 10 => .ok (.vshr (sBit w) (bits 6 w 19) (bits 6 w 13) (bits 6 w 7))
  | 11 => .ok (.vsra (sBit w) (bits 6 w 19) (bits 6 w 13) (bits 6 w 7))
  | 12 => .ok (.vmin (sBit w) (bits 6 w 19) (bits 6 w 13) (bits 6 w 7))
  | 13 => .ok (.vmax (sBit w) (bits 6 w 19) (bits 6 w 13) (bits 6 w 7))
  | 14 => ifZero (fld w 7 6) (.ok (.vabs (sBit w) (bits 6 w 19) (bits 6 w 13)))
  | 15 => ifZero (fld w 7 6) (.ok (.vneg (sBit w) (bits 6 w 19) (bits 6 w 13)))
  | 16 => ifZero (fld w 7 6) (.ok (.vmov (sBit w) (bits 6 w 19) (bits 6 w 13)))
  | 17 => .ok (.vbsel (sBit w) (bits 6 w 19) (bits 6 w 13) (bits 6 w 7))
  | 18 => ifZero (fld w 7 6) (.ok (.vpopc (sBit w) (bits 6 w 19) (bits 6 w 13)))
  | 19 => ifZero (fld w 7 6) (.ok (.vclz (sBit w) (bits 6 w 19) (bits 6 w 13)))
  | 20 => .ok (.vavg (sBit w) (bits 6 w 19) (bits 6 w 13) (bits 6 w 7))
  | 21 => .ok (.vdiv (sBit w) (bits 6 w 19) (bits 6 w 13) (bits 6 w 7))
  | 22 => .ok (.vrem (sBit w) (bits 6 w 19) (bits 6 w 13) (bits 6 w 7))
  | _ => .error .reservedMinor

/-- Major 0x0D. -/
def decMajor0D (w : Nat) : Except Reject Instr :=
  .ok (.vaddi (sBit w) (bits 6 w 19) (bits 6 w 13) (bits 13 w 0))

/-- Major 0x0E. -/
def decMajor0E (w : Nat) : Except Reject Instr :=
  ifZero (fld w 13 6) (.ok (.vli (sBit w) (bits 6 w 19) (bits 13 w 0)))

/-- Major 0x0F. -/
def decMajor0F (w : Nat) : Except Reject Instr :=
  match fld w 0 7 with
  | 0 => .ok (.vbfe (sBit w) (bits 6 w 19) (bits 6 w 13) (bits 6 w 7))
  | 1 => .ok (.vbfi (sBit w) (bits 6 w 19) (bits 6 w 13) (bits 6 w 7))
  | 2 => .ok (.vprmt (sBit w) (bits 6 w 19) (bits 6 w 13) (bits 6 w 7))
  | 3 => .ok (.vshuf (sBit w) (bits 6 w 19) (bits 6 w 13) (bits 6 w 7))
  | 4 => ifZero (fld w 7 6) (ifZero (fld w 24 1) (.ok (.vpackb (sBit w) (bits 5 w 19) (bits 6 w 13))))
  | 5 => ifZero (fld w 7 6) (ifZero (fld w 18 1) (.ok (.vbcast (sBit w) (bits 6 w 19) (bits 5 w 13))))
  | 6 => ifZero (fld w 12 1) (ifZero (fld w 24 1) (.ok (.vext (sBit w) (bits 5 w 19) (bits 6 w 13) (bits 5 w 7))))
  | 7 => ifZero (fld w 10 3) (.ok (.vscan (sBit w) (bits 6 w 19) (bits 6 w 13) (bits 3 w 7)))
  | 8 => ifZero (fld w 10 3) (.ok (.vreduce (sBit w) (bits 6 w 19) (bits 6 w 13) (bits 3 w 7)))
  | _ => .error .reservedMinor

/-- Major 0x10. -/
def decMajor10 (w : Nat) : Except Reject Instr :=
  match fld w 0 11 with
  | 0 => ifZero (fld w 11 5) (.ok (.pand (sBit w) (bits 3 w 22) (bits 3 w 19) (bits 3 w 16)))
  | 1 => ifZero (fld w 11 5) (.ok (.por (sBit w) (bits 3 w 22) (bits 3 w 19) (bits 3 w 16)))
  | 2 => ifZero (fld w 11 5) (.ok (.pxor (sBit w) (bits 3 w 22) (bits 3 w 19) (bits 3 w 16)))
  | 3 => ifZero (fld w 11 8) (.ok (.pnot (sBit w) (bits 3 w 22) (bits 3 w 19)))
  | 4 => ifZero (fld w 11 8) (.ok (.pmov (sBit w) (bits 3 w 22) (bits 3 w 19)))
  | 5 => ifZero (fld w 16 6) (.ok (.pfrom (sBit w) (bits 3 w 22) (bits 5 w 11)))
  | 6 => ifZero (fld w 16 3) (ifZero (fld w 22 3) (.ok (.pto (sBit w) (bits 3 w 19) (bits 5 w 11))))
  | 7 => ifZero (fld w 16 3) (ifZero (fld w 22 3) (.ok (.ppopc (sBit w) (bits 3 w 19) (bits 5 w 11))))
  | 8 => ifZero (fld w 11 8) (.ok (.pfirst (sBit w) (bits 3 w 22) (bits 3 w 19)))
  | _ => .error .reservedMinor

/-- Major 0x11. -/
def decMajor11 (w : Nat) : Except Reject Instr :=
  match fld w 0 7 with
  | 0 => ifZero (fld w 22 3) (.ok (.vcmpEq (sBit w) (bits 3 w 19) (bits 6 w 13) (bits 6 w 7)))
  | 1 => ifZero (fld w 22 3) (.ok (.vcmpNe (sBit w) (bits 3 w 19) (bits 6 w 13) (bits 6 w 7)))
  | 2 => ifZero (fld w 22 3) (.ok (.vcmpLt (sBit w) (bits 3 w 19) (bits 6 w 13) (bits 6 w 7)))
  | 3 => ifZero (fld w 22 3) (.ok (.vcmpLe (sBit w) (bits 3 w 19) (bits 6 w 13) (bits 6 w 7)))
  | 4 => ifZero (fld w 22 3) (.ok (.vcmpGt (sBit w) (bits 3 w 19) (bits 6 w 13) (bits 6 w 7)))
  | 5 => ifZero (fld w 22 3) (.ok (.vcmpGe (sBit w) (bits 3 w 19) (bits 6 w 13) (bits 6 w 7)))
  | 6 => ifZero (fld w 22 3) (.ok (.vcmpUn (sBit w) (bits 3 w 19) (bits 6 w 13) (bits 6 w 7)))
  | 8 => .ok (.vcmpvEq (sBit w) (bits 6 w 19) (bits 6 w 13) (bits 6 w 7))
  | 9 => .ok (.vcmpvNe (sBit w) (bits 6 w 19) (bits 6 w 13) (bits 6 w 7))
  | 10 => .ok (.vcmpvLt (sBit w) (bits 6 w 19) (bits 6 w 13) (bits 6 w 7))
  | 11 => .ok (.vcmpvLe (sBit w) (bits 6 w 19) (bits 6 w 13) (bits 6 w 7))
  | 12 => .ok (.vcmpvGt (sBit w) (bits 6 w 19) (bits 6 w 13) (bits 6 w 7))
  | 13 => .ok (.vcmpvGe (sBit w) (bits 6 w 19) (bits 6 w 13) (bits 6 w 7))
  | 14 => .ok (.vcmpvUn (sBit w) (bits 6 w 19) (bits 6 w 13) (bits 6 w 7))
  | _ => .error .reservedMinor

/-- Major 0x12. -/
def decMajor12 (w : Nat) : Except Reject Instr :=
  match fld w 0 7 with
  | 0 => .ok (.fadd (sBit w) (bits 6 w 19) (bits 6 w 13) (bits 6 w 7))
  | 1 => .ok (.fsub (sBit w) (bits 6 w 19) (bits 6 w 13) (bits 6 w 7))
  | 2 => .ok (.fmul (sBit w) (bits 6 w 19) (bits 6 w 13) (bits 6 w 7))
  | 3 => .ok (.fmin (sBit w) (bits 6 w 19) (bits 6 w 13) (bits 6 w 7))
  | 4 => .ok (.fmax (sBit w) (bits 6 w 19) (bits 6 w 13) (bits 6 w 7))
  | 5 => ifZero (fld w 7 6) (.ok (.fabs (sBit w) (bits 6 w 19) (bits 6 w 13)))
  | 6 => ifZero (fld w 7 6) (.ok (.fneg (sBit w) (bits 6 w 19) (bits 6 w 13)))
  | 7 => .ok (.fdiv (sBit w) (bits 6 w 19) (bits 6 w 13) (bits 6 w 7))
  | 8 => .ok (.fscale (sBit w) (bits 6 w 19) (bits 6 w 13) (bits 6 w 7))
  | _ => .error .reservedMinor

/-- Major 0x13. -/
def decMajor13 (w : Nat) : Except Reject Instr :=
  match fld w 0 7 with
  | 0 => ifZero (fld w 7 6) (.ok (.frcp (sBit w) (bits 6 w 19) (bits 6 w 13)))
  | 1 => ifZero (fld w 7 6) (.ok (.frsq (sBit w) (bits 6 w 19) (bits 6 w 13)))
  | 2 => ifZero (fld w 7 6) (.ok (.fsqrt (sBit w) (bits 6 w 19) (bits 6 w 13)))
  | 3 => ifZero (fld w 7 6) (.ok (.fexp2 (sBit w) (bits 6 w 19) (bits 6 w 13)))
  | 4 => ifZero (fld w 7 6) (.ok (.flog2 (sBit w) (bits 6 w 19) (bits 6 w 13)))
  | 5 => ifZero (fld w 7 6) (.ok (.fsinp (sBit w) (bits 6 w 19) (bits 6 w 13)))
  | 6 => ifZero (fld w 7 6) (.ok (.fcosp (sBit w) (bits 6 w 19) (bits 6 w 13)))
  | _ => .error .reservedMinor

/-- Major 0x14. -/
def decMajor14 (w : Nat) : Except Reject Instr :=
  match fld w 0 7 with
  | 0 => .ok (.fma (sBit w) (bits 6 w 19) (bits 6 w 13) (bits 6 w 7))
  | 1 => .ok (.fms (sBit w) (bits 6 w 19) (bits 6 w 13) (bits 6 w 7))
  | 2 => .ok (.fnma (sBit w) (bits 6 w 19) (bits 6 w 13) (bits 6 w 7))
  | _ => .error .reservedMinor

/-- Major 0x15. -/
def decMajor15 (w : Nat) : Except Reject Instr :=
  match fld w 0 7 with
  | 0 => .ok (.idot (sBit w) (bits 6 w 19) (bits 6 w 13) (bits 6 w 7))
  | 1 => .ok (.fdot (sBit w) (bits 6 w 19) (bits 6 w 13) (bits 6 w 7))
  | _ => .error .reservedMinor

/-- Major 0x16. -/
def decMajor16 (w : Nat) : Except Reject Instr :=
  match fld w 0 7 with
  | 0 => ifZero (fld w 11 2) (.ok (.fcvt (sBit w) (bits 6 w 19) (bits 6 w 13) (bits 4 w 7)))
  | 1 => ifZero (fld w 11 2) (.ok (.frnd (sBit w) (bits 6 w 19) (bits 6 w 13) (bits 4 w 7)))
  | 2 => ifZero (fld w 11 2) (.ok (.fclass (sBit w) (bits 6 w 19) (bits 6 w 13) (bits 4 w 7)))
  | 3 => ifZero (fld w 11 2) (.ok (.f2i (sBit w) (bits 6 w 19) (bits 6 w 13) (bits 4 w 7)))
  | 4 => ifZero (fld w 11 2) (.ok (.i2f (sBit w) (bits 6 w 19) (bits 6 w 13) (bits 4 w 7)))
  | _ => .error .reservedMinor

/-- Major 0x17. -/
def decMajor17 (w : Nat) : Except Reject Instr :=
  .ok (.ld (sBit w) (bits 6 w 19) (bits 5 w 14) (bits 6 w 8) (bits 3 w 5) (bits 3 w 2) (bits 2 w 0))

/-- Major 0x18. -/
def decMajor18 (w : Nat) : Except Reject Instr :=
  .ok (.st (sBit w) (bits 6 w 19) (bits 5 w 14) (bits 6 w 8) (bits 3 w 5) (bits 3 w 2) (bits 2 w 0))

/-- Major 0x19. -/
def decMajor19 (w : Nat) : Except Reject Instr :=
  .ok (.ldn (sBit w) (bits 6 w 19) (bits 5 w 14) (bits 6 w 8) (bits 3 w 5) (bits 3 w 2) (bits 2 w 0))

/-- Major 0x1A. -/
def decMajor1A (w : Nat) : Except Reject Instr :=
  match fld w 0 10 with
  | 0 => .ok (.sldB32 (sBit w) (bits 5 w 20) (bits 5 w 15) (bits 5 w 10))
  | 1 => .ok (.sldB64 (sBit w) (bits 5 w 20) (bits 5 w 15) (bits 5 w 10))
  | 2 => .ok (.sstB32 (sBit w) (bits 5 w 20) (bits 5 w 15) (bits 5 w 10))
  | 3 => .ok (.sstB64 (sBit w) (bits 5 w 20) (bits 5 w 15) (bits 5 w 10))
  | 4 => .ok (.sldB32Acq (sBit w) (bits 5 w 20) (bits 5 w 15) (bits 5 w 10))
  | 5 => .ok (.sldB64Acq (sBit w) (bits 5 w 20) (bits 5 w 15) (bits 5 w 10))
  | 6 => .ok (.sstB32Rel (sBit w) (bits 5 w 20) (bits 5 w 15) (bits 5 w 10))
  | 7 => .ok (.sstB64Rel (sBit w) (bits 5 w 20) (bits 5 w 15) (bits 5 w 10))
  | _ => .error .reservedMinor

/-- Major 0x1B. -/
def decMajor1B (w : Nat) : Except Reject Instr :=
  .ok (.atom (sBit w) (bits 6 w 19) (bits 5 w 14) (bits 6 w 8) (bits 4 w 4) (bits 3 w 1) (bits 1 w 0))

/-- Major 0x1C. -/
def decMajor1C (w : Nat) : Except Reject Instr :=
  .ok (.red (sBit w) (bits 6 w 19) (bits 5 w 14) (bits 6 w 8) (bits 4 w 4) (bits 3 w 1) (bits 1 w 0))

/-- Major 0x1D. -/
def decMajor1D (w : Nat) : Except Reject Instr :=
  match fld w 0 10 with
  | 0 => ifZero (fld w 12 3) (ifZero (fld w 18 7) (.ok (.fence (sBit w) (bits 3 w 15) (bits 2 w 10))))
  | 1 => ifZero (fld w 22 3) (.ok (.cctl (sBit w) (bits 2 w 20) (bits 5 w 15) (bits 5 w 10)))
  | 2 => ifZero (fld w 22 3) (.ok (.pref (sBit w) (bits 2 w 20) (bits 5 w 15) (bits 5 w 10)))
  | 3 => ifZero (fld w 12 3) (.ok (.pageq (sBit w) (bits 5 w 20) (bits 5 w 15) (bits 2 w 10)))
  | 4 => .ok (.waitv (sBit w) (bits 5 w 20) (bits 5 w 15) (bits 5 w 10))
  | 5 => ifZero (fld w 10 5) (.ok (.carve (sBit w) (bits 5 w 20) (bits 5 w 15)))
  | _ => .error .reservedMinor

/-- Major 0x1E. -/
def decMajor1E (w : Nat) : Except Reject Instr :=
  match fld w 0 10 with
  | 0 => ifZero (fld w 10 5) (ifZero (fld w 20 5) (.ok (.sync (sBit w) (bits 5 w 15))))
  | 1 => ifZero (fld w 10 5) (ifZero (fld w 24 1) (.ok (.bar (sBit w) (bits 4 w 20) (bits 5 w 15))))
  | 2 => ifZero (fld w 10 10) (ifZero (fld w 22 3) (.ok (.cbar (sBit w) (bits 2 w 20))))
  | 3 => ifZero (fld w 10 5) (ifZero (fld w 24 1) (.ok (.bara (sBit w) (bits 4 w 20) (bits 5 w 15))))
  | _ => .error .reservedMinor

/-- Major 0x1F. -/
def decMajor1F (w : Nat) : Except Reject Instr :=
  match fld w 0 10 with
  | 0 => ifZero (fld w 10 5) (ifZero (fld w 23 2) (.ok (.accLd (sBit w) (bits 3 w 20) (bits 5 w 15))))
  | 1 => ifZero (fld w 10 5) (ifZero (fld w 23 2) (.ok (.accSt (sBit w) (bits 3 w 20) (bits 5 w 15))))
  | 2 => ifZero (fld w 10 5) (ifZero (fld w 20 5) (.ok (.accZero (sBit w) (bits 5 w 15))))
  | 3 => .ok (.accCvt (sBit w) (bits 5 w 20) (bits 5 w 15) (bits 5 w 10))
  | _ => .error .reservedMinor

/-- Major 0x20. -/
def decMajor20 (w : Nat) : Except Reject Instr :=
  match fld w 18 2 with
  | 0 => .ok (.rgbeg (sBit w) (bits 5 w 20) (bits 18 w 0))
  | 1 => ifZero (fld w 0 18) (ifZero (fld w 20 5) (.ok (.rgend (sBit w))))
  | 2 => ifZero (fld w 8 10) (ifZero (fld w 20 5) (.ok (.rgabt (sBit w) (bits 8 w 0))))
  | _ => ifZero (fld w 0 18) (.ok (.rgst (sBit w) (bits 5 w 20)))

/-- Major 0x21. -/
def decMajor21 (w : Nat) : Except Reject Instr :=
  match fld w 0 7 with
  | 0 => .ok (.mma (sBit w) (bits 6 w 19) (bits 6 w 13) (bits 6 w 7))
  | 1 => .ok (.mmas (sBit w) (bits 6 w 19) (bits 6 w 13) (bits 6 w 7))
  | 2 => ifZero (fld w 7 13) (.ok (.mfence (sBit w) (bits 5 w 20)))
  | 3 => ifZero (fld w 7 8) (ifZero (fld w 23 2) (.ok (.omap (sBit w) (bits 3 w 20) (bits 5 w 15))))
  | 4 => ifZero (fld w 7 13) (.ok (.merrq (sBit w) (bits 5 w 20)))
  | _ => .error .reservedMinor

/-- Major 0x22. -/
def decMajor22 (w : Nat) : Except Reject Instr :=
  match fld w 0 10 with
  | 0 => ifZero (fld w 10 5) (.ok (.cpy (sBit w) (bits 5 w 20) (bits 5 w 15)))
  | 1 => ifZero (fld w 10 5) (.ok (.cpyt (sBit w) (bits 5 w 20) (bits 5 w 15)))
  | 2 => ifZero (fld w 10 5) (.ok (.cpyr (sBit w) (bits 5 w 20) (bits 5 w 15)))
  | 3 => ifZero (fld w 10 5) (.ok (.cpyg (sBit w) (bits 5 w 20) (bits 5 w 15)))
  | 4 => ifZero (fld w 10 5) (.ok (.cpyb (sBit w) (bits 5 w 20) (bits 5 w 15)))
  | 5 => ifZero (fld w 10 5) (.ok (.cpyq (sBit w) (bits 5 w 20) (bits 5 w 15)))
  | _ => .error .reservedMinor

/-- Major 0x23. -/
def decMajor23 (w : Nat) : Except Reject Instr :=
  match fld w 0 10 with
  | 0 => ifZero (fld w 10 5) (.ok (.ovlLd (sBit w) (bits 5 w 20) (bits 5 w 15)))
  | 1 => ifZero (fld w 10 5) (ifZero (fld w 20 5) (.ok (.ovlHint (sBit w) (bits 5 w 15))))
  | 2 => ifZero (fld w 10 5) (ifZero (fld w 20 5) (.ok (.ovlEv (sBit w) (bits 5 w 15))))
  | 3 => ifZero (fld w 10 5) (.ok (.ovlPin (sBit w) (bits 5 w 20) (bits 5 w 15)))
  | 4 => ifZero (fld w 10 5) (ifZero (fld w 20 5) (.ok (.ovlUnpin (sBit w) (bits 5 w 15))))
  | 5 => ifZero (fld w 10 5) (.ok (.ovlQ (sBit w) (bits 5 w 20) (bits 5 w 15)))
  | _ => .error .reservedMinor

/-- Major 0x24. -/
def decMajor24 (w : Nat) : Except Reject Instr :=
  match fld w 0 7 with
  | 0 => .ok (.mshEmit (sBit w) (bits 6 w 19) (bits 6 w 13) (bits 6 w 7))
  | 1 => .ok (.mshClose (sBit w) (bits 6 w 19) (bits 6 w 13) (bits 6 w 7))
  | 2 => .ok (.pixAttr (sBit w) (bits 6 w 19) (bits 6 w 13) (bits 6 w 7))
  | 3 => ifZero (fld w 7 6) (ifZero (fld w 21 4) (.ok (.pixOut (sBit w) (bits 2 w 19) (bits 6 w 13))))
  | 4 => ifZero (fld w 7 18) (.ok (.pixKill (sBit w)))
  | 5 => ifZero (fld w 7 18) (.ok (.pixOrd (sBit w)))
  | _ => .error .reservedMinor

/-- Major 0x25. -/
def decMajor25 (w : Nat) : Except Reject Instr :=
  match fld w 0 7 with
  | 0 => .ok (.tex (sBit w) (bits 6 w 19) (bits 6 w 13) (bits 6 w 7))
  | 1 => .ok (.texl (sBit w) (bits 6 w 19) (bits 6 w 13) (bits 6 w 7))
  | 2 => .ok (.texg (sBit w) (bits 6 w 19) (bits 6 w 13) (bits 6 w 7))
  | 3 => .ok (.imgLd (sBit w) (bits 6 w 19) (bits 6 w 13) (bits 6 w 7))
  | 4 => .ok (.imgSt (sBit w) (bits 6 w 19) (bits 6 w 13) (bits 6 w 7))
  | _ => .error .reservedMinor

/-- Major 0x26. -/
def decMajor26 (w : Nat) : Except Reject Instr :=
  match fld w 0 10 with
  | 0 => .ok (.ray (sBit w) (bits 5 w 20) (bits 5 w 15) (bits 5 w 10))
  | 1 => .ok (.rayh (sBit w) (bits 5 w 20) (bits 5 w 15) (bits 5 w 10))
  | _ => .error .reservedMinor

/-- Major 0x27. -/
def decMajor27 (w : Nat) : Except Reject Instr :=
  match fld w 0 10 with
  | 0 => ifZero (fld w 10 5) (ifZero (fld w 18 2) (.ok (.owrd (sBit w) (bits 5 w 20) (bits 3 w 15))))
  | 1 => ifZero (fld w 12 3) (.ok (.xregRd (sBit w) (bits 5 w 20) (bits 5 w 15) (bits 2 w 10)))
  | 2 => ifZero (fld w 12 3) (.ok (.xregWr (sBit w) (bits 5 w 20) (bits 5 w 15) (bits 2 w 10)))
  | _ => .error .reservedMinor

/-- The fields of a word, by its major (R66), before the reserved codes are checked. -/
def parse (w : Nat) : Except Reject Instr :=
  match fld w 26 6 with
  | 0 => decMajor00 w
  | 1 => decMajor01 w
  | 2 => decMajor02 w
  | 3 => decMajor03 w
  | 4 => decMajor04 w
  | 5 => decMajor05 w
  | 6 => decMajor06 w
  | 7 => decMajor07 w
  | 8 => decMajor08 w
  | 9 => decMajor09 w
  | 10 => decMajor0A w
  | 11 => decMajor0B w
  | 12 => decMajor0C w
  | 13 => decMajor0D w
  | 14 => decMajor0E w
  | 15 => decMajor0F w
  | 16 => decMajor10 w
  | 17 => decMajor11 w
  | 18 => decMajor12 w
  | 19 => decMajor13 w
  | 20 => decMajor14 w
  | 21 => decMajor15 w
  | 22 => decMajor16 w
  | 23 => decMajor17 w
  | 24 => decMajor18 w
  | 25 => decMajor19 w
  | 26 => decMajor1A w
  | 27 => decMajor1B w
  | 28 => decMajor1C w
  | 29 => decMajor1D w
  | 30 => decMajor1E w
  | 31 => decMajor1F w
  | 32 => decMajor20 w
  | 33 => decMajor21 w
  | 34 => decMajor22 w
  | 35 => decMajor23 w
  | 36 => decMajor24 w
  | 37 => decMajor25 w
  | 38 => decMajor26 w
  | 39 => decMajor27 w
  | m =>
    if m < 0x30 then .error .soft
    else if m < 0x38 then .error .reservedMajor
    else .error .future

/-- The instruction of a word, or why the word is none (R57, R74). -/
def decodeNat (w : Nat) : Except Reject Instr :=
  match parse w with
  | .ok i => if i.wf then .ok i else .error .reservedCode
  | .error r => .error r

/-- The instruction of a 32-bit instruction word (R51). -/
def decode (w : BitVec 32) : Except Reject Instr := decodeNat w.toNat

/-- The S bit as a number in its place. -/
def sVal (e : Bool) : Nat := if e then 2 ^ 25 else 0

/-- A field in its place. -/
def put {n : Nat} (x : BitVec n) (lo : Nat) : Nat := x.toNat * 2 ^ lo

/-- A word from its fixed bits, its S bit and its fields. -/
def join (fixed : Nat) (e : Bool) (fields : List Nat) : Nat := fixed + sVal e + fields.sum

/-- The word of an encoded instruction, from the encoding tables (R56, R66); an event row has none. -/
def encodeNat : Instr → Option Nat
  | .nop e => some (join 0x00000001 e [])
  | .exit e => some (join 0x00000002 e [])
  | .ret e => some (join 0x00000003 e [])
  | .yield e => some (join 0x00000004 e [])
  | .tret e n => some (join 0x00000005 e [put n 20])
  | .brk e => some (join 0x00000006 e [])
  | .wspill e => some (join 0x00000007 e [])
  | .wfill e => some (join 0x00000008 e [])
  | .emret e n a => some (join 0x00000009 e [put n 20, put a 15])
  | .probe e n => some (join 0x0000000A e [put n 20])
  | .splq e d => some (join 0x0000000B e [put d 20])
  | .mode e g t r s f => some (join 0x04000000 e [put g 22, put t 18, put r 15, put s 14, put f 13])
  | .rep c d a b => some (join 0x08000000 false [put c 19, put d 16, put a 13, put b 10])
  | .bra e p c i => some (join 0x0C000000 e [put p 22, put c 20, put i 0])
  | .call e i => some (join 0x10000000 e [put i 0])
  | .callx e a => some (join 0x14000000 e [put a 15])
  | .brx e a => some (join 0x14000001 e [put a 15])
  | .callo e a => some (join 0x14000002 e [put a 15])
  | .jmpo e a => some (join 0x14000003 e [put a 15])
  | .srd e r n => some (join 0x18000000 e [put r 19, put n 9])
  | .swr e r n => some (join 0x18000001 e [put r 19, put n 9])
  | .trap e c => some (join 0x18000002 e [put c 9])
  | .vsrd e r n => some (join 0x18000003 e [put r 19, put n 9])
  | .wait e l s c t => some (join 0x1C000000 e [put l 19, put s 13, put c 7, put t 1])
  | .sadd e d a b => some (join 0x20000000 e [put d 20, put a 15, put b 10])
  | .ssub e d a b => some (join 0x20000001 e [put d 20, put a 15, put b 10])
  | .smul e d a b => some (join 0x20000002 e [put d 20, put a 15, put b 10])
  | .smulh e d a b => some (join 0x20000003 e [put d 20, put a 15, put b 10])
  | .sdiv e d a b => some (join 0x20000004 e [put d 20, put a 15, put b 10])
  | .srem e d a b => some (join 0x20000005 e [put d 20, put a 15, put b 10])
  | .sand e d a b => some (join 0x20000006 e [put d 20, put a 15, put b 10])
  | .sor e d a b => some (join 0x20000007 e [put d 20, put a 15, put b 10])
  | .sxor e d a b => some (join 0x20000008 e [put d 20, put a 15, put b 10])
  | .snot e d a => some (join 0x20000009 e [put d 20, put a 15])
  | .sshl e d a b => some (join 0x2000000A e [put d 20, put a 15, put b 10])
  | .sshr e d a b => some (join 0x2000000B e [put d 20, put a 15, put b 10])
  | .ssra e d a b => some (join 0x2000000C e [put d 20, put a 15, put b 10])
  | .smin e d a b => some (join 0x2000000D e [put d 20, put a 15, put b 10])
  | .smax e d a b => some (join 0x2000000E e [put d 20, put a 15, put b 10])
  | .sminn e d a b => some (join 0x2000000F e [put d 20, put a 15, put b 10])
  | .smaxn e d a b => some (join 0x20000010 e [put d 20, put a 15, put b 10])
  | .scmpEq e d a b => some (join 0x20000011 e [put d 20, put a 15, put b 10])
  | .scmpNe e d a b => some (join 0x20000012 e [put d 20, put a 15, put b 10])
  | .scmpLt e d a b => some (join 0x20000013 e [put d 20, put a 15, put b 10])
  | .scmpLe e d a b => some (join 0x20000014 e [put d 20, put a 15, put b 10])
  | .scmpLtn e d a b => some (join 0x20000015 e [put d 20, put a 15, put b 10])
  | .scmpLen e d a b => some (join 0x20000016 e [put d 20, put a 15, put b 10])
  | .smov e d a => some (join 0x20000017 e [put d 20, put a 15])
  | .spopc e d a => some (join 0x20000018 e [put d 20, put a 15])
  | .sclz e d a => some (join 0x20000019 e [put d 20, put a 15])
  | .sbrev e d a => some (join 0x2000001A e [put d 20, put a 15])
  | .saddi e d a i => some (join 0x24000000 e [put d 20, put a 15, put i 0])
  | .sli e d i => some (join 0x28000000 e [put d 20, put i 0])
  | .slih e d a i => some (join 0x2C000000 e [put d 20, put a 15, put i 0])
  | .vadd e d a b => some (join 0x30000000 e [put d 19, put a 13, put b 7])
  | .vsub e d a b => some (join 0x30000001 e [put d 19, put a 13, put b 7])
  | .vmul e d a b => some (join 0x30000002 e [put d 19, put a 13, put b 7])
  | .vmulh e d a b => some (join 0x30000003 e [put d 19, put a 13, put b 7])
  | .vmad e d a b => some (join 0x30000004 e [put d 19, put a 13, put b 7])
  | .vand e d a b => some (join 0x30000005 e [put d 19, put a 13, put b 7])
  | .vor e d a b => some (join 0x30000006 e [put d 19, put a 13, put b 7])
  | .vxor e d a b => some (join 0x30000007 e [put d 19, put a 13, put b 7])
  | .vnot e d a => some (join 0x30000008 e [put d 19, put a 13])
  | .vshl e d a b => some (join 0x30000009 e [put d 19, put a 13, put b 7])
  | .vshr e d a b => some (join 0x3000000A e [put d 19, put a 13, put b 7])
  | .vsra e d a b => some (join 0x3000000B e [put d 19, put a 13, put b 7])
  | .vmin e d a b => some (join 0x3000000C e [put d 19, put a 13, put b 7])
  | .vmax e d a b => some (join 0x3000000D e [put d 19, put a 13, put b 7])
  | .vabs e d a => some (join 0x3000000E e [put d 19, put a 13])
  | .vneg e d a => some (join 0x3000000F e [put d 19, put a 13])
  | .vmov e d a => some (join 0x30000010 e [put d 19, put a 13])
  | .vbsel e d a b => some (join 0x30000011 e [put d 19, put a 13, put b 7])
  | .vpopc e d a => some (join 0x30000012 e [put d 19, put a 13])
  | .vclz e d a => some (join 0x30000013 e [put d 19, put a 13])
  | .vavg e d a b => some (join 0x30000014 e [put d 19, put a 13, put b 7])
  | .vdiv e d a b => some (join 0x30000015 e [put d 19, put a 13, put b 7])
  | .vrem e d a b => some (join 0x30000016 e [put d 19, put a 13, put b 7])
  | .vaddi e d a i => some (join 0x34000000 e [put d 19, put a 13, put i 0])
  | .vli e d i => some (join 0x38000000 e [put d 19, put i 0])
  | .vbfe e d a b => some (join 0x3C000000 e [put d 19, put a 13, put b 7])
  | .vbfi e d a b => some (join 0x3C000001 e [put d 19, put a 13, put b 7])
  | .vprmt e d a b => some (join 0x3C000002 e [put d 19, put a 13, put b 7])
  | .vshuf e d a b => some (join 0x3C000003 e [put d 19, put a 13, put b 7])
  | .vpackb e d a => some (join 0x3C000004 e [put d 19, put a 13])
  | .vbcast e d a => some (join 0x3C000005 e [put d 19, put a 13])
  | .vext e d a b => some (join 0x3C000006 e [put d 19, put a 13, put b 7])
  | .vscan e d a o => some (join 0x3C000007 e [put d 19, put a 13, put o 7])
  | .vreduce e d a o => some (join 0x3C000008 e [put d 19, put a 13, put o 7])
  | .pand e d a b => some (join 0x40000000 e [put d 22, put a 19, put b 16])
  | .por e d a b => some (join 0x40000001 e [put d 22, put a 19, put b 16])
  | .pxor e d a b => some (join 0x40000002 e [put d 22, put a 19, put b 16])
  | .pnot e d a => some (join 0x40000003 e [put d 22, put a 19])
  | .pmov e d a => some (join 0x40000004 e [put d 22, put a 19])
  | .pfrom e d s => some (join 0x40000005 e [put d 22, put s 11])
  | .pto e a s => some (join 0x40000006 e [put a 19, put s 11])
  | .ppopc e a s => some (join 0x40000007 e [put a 19, put s 11])
  | .pfirst e d a => some (join 0x40000008 e [put d 22, put a 19])
  | .vcmpEq e d a b => some (join 0x44000000 e [put d 19, put a 13, put b 7])
  | .vcmpNe e d a b => some (join 0x44000001 e [put d 19, put a 13, put b 7])
  | .vcmpLt e d a b => some (join 0x44000002 e [put d 19, put a 13, put b 7])
  | .vcmpLe e d a b => some (join 0x44000003 e [put d 19, put a 13, put b 7])
  | .vcmpGt e d a b => some (join 0x44000004 e [put d 19, put a 13, put b 7])
  | .vcmpGe e d a b => some (join 0x44000005 e [put d 19, put a 13, put b 7])
  | .vcmpUn e d a b => some (join 0x44000006 e [put d 19, put a 13, put b 7])
  | .vcmpvEq e d a b => some (join 0x44000008 e [put d 19, put a 13, put b 7])
  | .vcmpvNe e d a b => some (join 0x44000009 e [put d 19, put a 13, put b 7])
  | .vcmpvLt e d a b => some (join 0x4400000A e [put d 19, put a 13, put b 7])
  | .vcmpvLe e d a b => some (join 0x4400000B e [put d 19, put a 13, put b 7])
  | .vcmpvGt e d a b => some (join 0x4400000C e [put d 19, put a 13, put b 7])
  | .vcmpvGe e d a b => some (join 0x4400000D e [put d 19, put a 13, put b 7])
  | .vcmpvUn e d a b => some (join 0x4400000E e [put d 19, put a 13, put b 7])
  | .fadd e d a b => some (join 0x48000000 e [put d 19, put a 13, put b 7])
  | .fsub e d a b => some (join 0x48000001 e [put d 19, put a 13, put b 7])
  | .fmul e d a b => some (join 0x48000002 e [put d 19, put a 13, put b 7])
  | .fmin e d a b => some (join 0x48000003 e [put d 19, put a 13, put b 7])
  | .fmax e d a b => some (join 0x48000004 e [put d 19, put a 13, put b 7])
  | .fabs e d a => some (join 0x48000005 e [put d 19, put a 13])
  | .fneg e d a => some (join 0x48000006 e [put d 19, put a 13])
  | .fdiv e d a b => some (join 0x48000007 e [put d 19, put a 13, put b 7])
  | .fscale e d a b => some (join 0x48000008 e [put d 19, put a 13, put b 7])
  | .frcp e d a => some (join 0x4C000000 e [put d 19, put a 13])
  | .frsq e d a => some (join 0x4C000001 e [put d 19, put a 13])
  | .fsqrt e d a => some (join 0x4C000002 e [put d 19, put a 13])
  | .fexp2 e d a => some (join 0x4C000003 e [put d 19, put a 13])
  | .flog2 e d a => some (join 0x4C000004 e [put d 19, put a 13])
  | .fsinp e d a => some (join 0x4C000005 e [put d 19, put a 13])
  | .fcosp e d a => some (join 0x4C000006 e [put d 19, put a 13])
  | .fma e d a b => some (join 0x50000000 e [put d 19, put a 13, put b 7])
  | .fms e d a b => some (join 0x50000001 e [put d 19, put a 13, put b 7])
  | .fnma e d a b => some (join 0x50000002 e [put d 19, put a 13, put b 7])
  | .idot e d a b => some (join 0x54000000 e [put d 19, put a 13, put b 7])
  | .fdot e d a b => some (join 0x54000001 e [put d 19, put a 13, put b 7])
  | .fcvt e d a t => some (join 0x58000000 e [put d 19, put a 13, put t 7])
  | .frnd e d a t => some (join 0x58000001 e [put d 19, put a 13, put t 7])
  | .fclass e d a t => some (join 0x58000002 e [put d 19, put a 13, put t 7])
  | .f2i e d a t => some (join 0x58000003 e [put d 19, put a 13, put t 7])
  | .i2f e d a t => some (join 0x58000004 e [put d 19, put a 13, put t 7])
  | .ld e v s o z c r => some (join 0x5C000000 e [put v 19, put s 14, put o 8, put z 5, put c 2, put r 0])
  | .st e v s o z c r => some (join 0x60000000 e [put v 19, put s 14, put o 8, put z 5, put c 2, put r 0])
  | .ldn e v s o z c r => some (join 0x64000000 e [put v 19, put s 14, put o 8, put z 5, put c 2, put r 0])
  | .sldB32 e d a b => some (join 0x68000000 e [put d 20, put a 15, put b 10])
  | .sldB64 e d a b => some (join 0x68000001 e [put d 20, put a 15, put b 10])
  | .sstB32 e d a b => some (join 0x68000002 e [put d 20, put a 15, put b 10])
  | .sstB64 e d a b => some (join 0x68000003 e [put d 20, put a 15, put b 10])
  | .sldB32Acq e d a b => some (join 0x68000004 e [put d 20, put a 15, put b 10])
  | .sldB64Acq e d a b => some (join 0x68000005 e [put d 20, put a 15, put b 10])
  | .sstB32Rel e d a b => some (join 0x68000006 e [put d 20, put a 15, put b 10])
  | .sstB64Rel e d a b => some (join 0x68000007 e [put d 20, put a 15, put b 10])
  | .atom e v s o p c l => some (join 0x6C000000 e [put v 19, put s 14, put o 8, put p 4, put c 1, put l 0])
  | .red e v s o p c l => some (join 0x70000000 e [put v 19, put s 14, put o 8, put p 4, put c 1, put l 0])
  | .fence e c r => some (join 0x74000000 e [put c 15, put r 10])
  | .cctl e n a b => some (join 0x74000001 e [put n 20, put a 15, put b 10])
  | .pref e n a b => some (join 0x74000002 e [put n 20, put a 15, put b 10])
  | .pageq e d a k => some (join 0x74000003 e [put d 20, put a 15, put k 10])
  | .waitv e d a b => some (join 0x74000004 e [put d 20, put a 15, put b 10])
  | .carve e d a => some (join 0x74000005 e [put d 20, put a 15])
  | .sync e a => some (join 0x78000000 e [put a 15])
  | .bar e i a => some (join 0x78000001 e [put i 20, put a 15])
  | .cbar e i => some (join 0x78000002 e [put i 20])
  | .bara e i a => some (join 0x78000003 e [put i 20, put a 15])
  | .accLd e k a => some (join 0x7C000000 e [put k 20, put a 15])
  | .accSt e k a => some (join 0x7C000001 e [put k 20, put a 15])
  | .accZero e a => some (join 0x7C000002 e [put a 15])
  | .accCvt e d a b => some (join 0x7C000003 e [put d 20, put a 15, put b 10])
  | .rgbeg e s d => some (join 0x80000000 e [put s 20, put d 0])
  | .rgend e => some (join 0x80040000 e [])
  | .rgabt e c => some (join 0x80080000 e [put c 0])
  | .rgst e s => some (join 0x800C0000 e [put s 20])
  | .mma e d a b => some (join 0x84000000 e [put d 19, put a 13, put b 7])
  | .mmas e d a b => some (join 0x84000001 e [put d 19, put a 13, put b 7])
  | .mfence e d => some (join 0x84000002 e [put d 20])
  | .omap e n a => some (join 0x84000003 e [put n 20, put a 15])
  | .merrq e d => some (join 0x84000004 e [put d 20])
  | .cpy e d a => some (join 0x88000000 e [put d 20, put a 15])
  | .cpyt e d a => some (join 0x88000001 e [put d 20, put a 15])
  | .cpyr e d a => some (join 0x88000002 e [put d 20, put a 15])
  | .cpyg e d a => some (join 0x88000003 e [put d 20, put a 15])
  | .cpyb e d a => some (join 0x88000004 e [put d 20, put a 15])
  | .cpyq e d a => some (join 0x88000005 e [put d 20, put a 15])
  | .ovlLd e d a => some (join 0x8C000000 e [put d 20, put a 15])
  | .ovlHint e a => some (join 0x8C000001 e [put a 15])
  | .ovlEv e a => some (join 0x8C000002 e [put a 15])
  | .ovlPin e d a => some (join 0x8C000003 e [put d 20, put a 15])
  | .ovlUnpin e a => some (join 0x8C000004 e [put a 15])
  | .ovlQ e d a => some (join 0x8C000005 e [put d 20, put a 15])
  | .mshEmit e d a b => some (join 0x90000000 e [put d 19, put a 13, put b 7])
  | .mshClose e d a b => some (join 0x90000001 e [put d 19, put a 13, put b 7])
  | .pixAttr e d a b => some (join 0x90000002 e [put d 19, put a 13, put b 7])
  | .pixOut e t a => some (join 0x90000003 e [put t 19, put a 13])
  | .pixKill e => some (join 0x90000004 e [])
  | .pixOrd e => some (join 0x90000005 e [])
  | .tex e d a b => some (join 0x94000000 e [put d 19, put a 13, put b 7])
  | .texl e d a b => some (join 0x94000001 e [put d 19, put a 13, put b 7])
  | .texg e d a b => some (join 0x94000002 e [put d 19, put a 13, put b 7])
  | .imgLd e d a b => some (join 0x94000003 e [put d 19, put a 13, put b 7])
  | .imgSt e d a b => some (join 0x94000004 e [put d 19, put a 13, put b 7])
  | .ray e d a b => some (join 0x98000000 e [put d 20, put a 15, put b 10])
  | .rayh e d a b => some (join 0x98000001 e [put d 20, put a 15, put b 10])
  | .owrd e d n => some (join 0x9C000000 e [put d 20, put n 15])
  | .xregRd e d a p => some (join 0x9C000001 e [put d 20, put a 15, put p 10])
  | .xregWr e d a p => some (join 0x9C000002 e [put d 20, put a 15, put p 10])
  | .emulationEntry _ _ _ => none
  | .emulationLevelWaitEnd _ => none
  | .trapBankWaitEnd _ => none
  | .schedulerAgeThreshold _ => none
  | .loadDataReturn _ _ => none
  | .storePerformed _ _ => none
  | .copyGranuleWrite _ => none
  | .copyComplete _ => none
  | .matrixPass _ _ => none
  | .overlayFillComplete _ => none
  | .rayQueryComplete _ => none
  | .waitvWake _ => none
  | .waitvReread _ => none
  | .waitvTimeout _ => none
  | .regionCommit _ => none
  | .regionSerialTimeout _ => none
  | .carveComplete _ => none
  | .nopCommand _ _ => none
  | .launch _ _ => none
  | .draw _ _ => none
  | .waitCommand _ _ => none
  | .waitCommandPoll _ _ => none
  | .signal _ _ => none
  | .teamPlacement _ => none
  | .endOfLaunch _ => none
  | .drawEnd _ => none
  | .saveRequest _ => none
  | .forcedSave _ => none
  | .saveComplete _ => none
  | .contextResume _ => none
  | .timeSliceExpiry _ => none
  | .doorbell _ _ _ _ => none
  | .contextLoad _ => none
  | .contextRelease _ => none
  | .ctxtabWrite _ => none
  | .partitionEnable _ _ => none
  | .partitionReconfigure _ _ => none
  | .invalidatePage _ => none
  | .invalidateContext _ => none
  | .invalidationComplete _ => none
  | .pageRequestGrant _ _ => none
  | .pageRequestFail _ _ => none
  | .prqRptrPoll _ => none
  | .irqcauseClear _ _ => none
  | .registerWrite _ _ _ _ => none
  | .atsTranslationCompletion _ _ _ _ => none
  | .atsInvalidateRequest _ _ => none
  | .prgResponse _ _ _ => none
  | .hostMemoryWrite _ _ _ => none
  | .hostMemoryRead _ _ _ => none
  | .functionLevelReset _ => none
  | .vfEnableClear _ => none
  | .pfFunctionLevelReset => none
  | .warmDieReset _ => none
  | .coldDieReset _ => none
  | .warmPackageReset => none
  | .coldPackageReset => none
  | .powerOn => none
  | .explore _ _ => none
  | .exploreEnd => none
  | .bringUpSelfTestDone _ _ => none
  | .attestationRequest _ => none
  | .attestationReportDone => none
  | .selfTestComplete _ _ _ _ => none
  | .droopEvent _ _ => none
  | .powerLimitAdjust _ _ => none
  | .lossOfService _ => none
  | .coherenceTimeout _ => none
  | .rds _ _ => none
  | .rdx _ _ => none
  | .upg _ _ => none
  | .rdu _ _ => none
  | .wrb _ _ => none
  | .wrc _ _ => none
  | .wrm _ _ => none
  | .wrt _ _ => none
  | .invalidation _ _ => none
  | .downgrade _ _ => none
  | .coherenceAck _ _ => none
  | .formatRegionEnable _ _ => none
  | .formatRegionDisable _ _ => none
  | .linkFlit _ _ _ _ _ => none
  | .meshletCompressDone _ => none
  | .frontierBeacon _ _ => none
  | .visibilityPacket _ _ => none
  | .rasterisePacket _ => none
  | .blendApply _ => none
  | .powerOff => none
  | .priReenable _ => none
  | .msiXVectorUnmask _ _ => none

/-- The word of an encoded instruction as 32 bits; an event row has none. -/
def encode (i : Instr) : Option (BitVec 32) := (encodeNat i).map (BitVec.ofNat 32)

/-- What the decoder reads from a table row's word. Rows have 32 bits; the word is laid out as the
Chuck holds it, one 32-bit word (R51), so nothing is reordered. -/
def decodeTableWord (nbits w : Nat) : Option Instr :=
  if nbits = 0 then none
  else
    match decode (BitVec.ofNat 32 w) with
    | .ok i => some i
    | .error _ => none

end Sys2Proof
end

