-- ==== Sys2Proof/Machine/Control.lean ====
section
/-! DEFINITION. Majors 0x00 to 0x07: control flow, windows, overlay calls, mode, repeat, special registers
and WAIT (R93-R120). EMRET and PROBE stand with the emulation handler. -/
namespace Sys2Proof.Machine

/-- The split is in a handler (STATE 4 or 5). -/
def State.inHandler (s : State) : Bool := s.me.mode == .emu || s.me.mode == .trap

/-- A form without register operands: it counts in a region, has its effect and moves on. -/
def State.plain (s : State) (e : Bool) (eff : State → State) : State := s.form e {} .own eff

/-! ## Major 0x00 -/

/-- R96. -/
def execNop (e : Bool) (s : State) : Out := issue s fun s => s.plain e id

/-- The lanes of the issuing split end (R97); the last exit of a group closes its open MMAs (R98). -/
def State.exitSplit (s : State) : State :=
  let m := s.me.mask
  let s := s.modGr s.cg fun g =>
    let ex := g.exited ||| m
    if ex = BitVec.allOnes 32 ∧ ¬ (g.unclosed.isEmpty ∧ g.unclosedFlags.isEmpty) then
      { g with exited := ex, batches := g.batches ++ [{ num := 0, counted := false, ops := g.unclosed, tiles := g.unclosedTiles, flags := g.unclosedFlags }],
               unclosed := [], unclosedTiles := [], unclosedFlags := [] }
    else { g with exited := ex }
  s.freeEntry s.cur

/-- R97; in a region it aborts (R118). -/
def execExit (_e : Bool) (s : State) : Out :=
  issue s fun s => if s.inRegion then s.barred abFault 0x90 else s.exitSplit

/-- R99. -/
def execYield (e : Bool) (s : State) : Out :=
  issue s fun s => s.plain e fun s => if s.inRegion then s else s.modSp s.cur fun p => { p with yielded := true }

/-- R101, R395. TRET 1 completes the trapping instruction, a safe point if it has S = 1 (R366). -/
def execTret (_e : Bool) (n : BitVec 1) (s : State) : Out :=
  issue s fun s =>
    if s.me.mode ≠ .trap ∨ (n = 1 ∧ s.me.resident = 0) then s.trapU cPriv
    else
      let t := s.returnTrap s.cur (n == 0)
      match s.me.traps, n == 0 with
      | v :: _, false => t.stopHere s.cur v.pc
      | _, _ => t

/-- R100. -/
def execBrk (_e : Bool) (s : State) : Out := issue s fun s => s.trapU cBrkpt

/-- R100: the code goes into the record. -/
def execTrap (_e : Bool) (c : BitVec 10) (s : State) : Out :=
  issue s fun s => s.trap s.cur { s.uniTrap s.cur cTrapi with code := c.toNat }

/-! ## Window spill and fill (R113) -/

/-- The words of frame f in a lane's STACK aperture (R29, R113): 40 rows and the link; each with its offset. -/
def frameOffsets (stack f : Nat) : List (Option Nat × Nat) :=
  ((List.range 40).map fun i => (some i, stack - 160 * (f + 1) + 4 * i)) ++ [(none, 4 * f)]

/-- The physical row of word i of frame f (R27). -/
def frameRow (d f i : Nat) : Nat := 8 + (40 * f + i) % (40 * d + 16)

/-- A fault of one lane's stack word inside WSPILL or WFILL (R113). -/
def State.frameTrap (s : State) (k lane va cause : Nat) (spill : Bool) (w : Word64) : State :=
  let u := s.uniTrap k cause
  let m := maskOf [lane]
  let u := { u with addr := va, word4 := w, lmask := m, pmask := m }
  s.trap k { u with acc := (if spill then 2 else 1) }

/-- A word of a frame in flight between a lane's registers and its stack: the lane, the row (none for the link), the place. -/
abbrev FrameWord := Nat × Option Nat × Place

/-- Resolve every word of a frame for every lane; the first fault traps. -/
def State.frameLook (s : State) (f : Nat) (spill : Bool) : Except State (State × List FrameWord) :=
  let k := s.cur
  let items := (lanesOf s.me.mask).flatMap fun l => (frameOffsets s.ctx.stackSz f).map fun q => (l, q.1, q.2)
  items.foldlM (m := Except State) (fun (acc : State × List FrameWord) it =>
    let va := stackBase0 + it.2.2
    match acc.1.resolve k it.1 va 4 (if spill then needStore else needLoad) with
    | (t, .ok p _) => .ok (t, acc.2 ++ [(it.1, it.2.1, p)])
    | (t, .wait) => .error t.stall
    | (t, .contained) => .error (t.haltSplit k cContain false va)
    | (t, .fault c w) => .error (t.frameTrap k it.1 va c spill w)
    | (t, .absent w) => .error (t.frameTrap k it.1 va cXlate spill w)) (s, [])

/-- Move one word of frame f. -/
def State.frameWord (s : State) (f : Nat) (spill : Bool) (m : FrameWord) : State :=
  let g := s.cg
  let row (i : Nat) : Nat := frameRow s.grp.depth f i
  if spill then
    let v := match m.2.1 with
      | some i => s.rowGet g (row i) m.1
      | none => s.linkOf g m.1 f
    s.nowWrite s.cc m.2.2 4 v.toNat
  else
    let (t, v) := s.nowRead s.cc m.2.2 4
    match m.2.1 with
    | some i => t.rowSet g (row i) m.1 (BitVec.ofNat 32 v)
    | none => t.setLink g m.1 f (BitVec.ofNat 32 v)

/-- Move the words of frame f, and count it. -/
def State.moveFrame (s : State) (f : Nat) (spill : Bool) (moves : List FrameWord) : State :=
  (moves.foldl (fun t m => t.frameWord f spill m) s).modSp s.cur fun p =>
    { p with resident := if spill then p.resident - 1 else p.resident + 1 }

/-- In the trap handler of a window cause. -/
def Split.inWindowTrap (p : Split) : Bool :=
  p.mode == .trap && match p.traps with
    | v :: _ => v.cause == BitVec.ofNat 8 cWspill || v.cause == BitVec.ofNat 8 cWfill
    | [] => false

/-- WSPILL or WFILL of frame f, once it is valid (R113). -/
def State.window (s : State) (e : Bool) (f : Nat) (spill : Bool) : State :=
  if s.ctx.stackSz < 164 * (f + 1) then s.trapU cApert
  else if (List.range 40).any fun i => mget 0 s.pendV (rowKey s.cg (frameRow s.grp.depth f i)) != 0 then s.stall
  else match s.frameLook f spill with
    | .error t => t
    | .ok (t, moves) =>
      if moves.any fun m => !t.nowMay t.cur spill m.2.2 4 then t.stall else (t.moveFrame f spill moves).advance e

/-- R113. -/
def execWspill (e : Bool) (s : State) : Out :=
  issue s fun s =>
    if s.me.inWindowTrap && decide (1 ≤ s.me.resident) then s.window e (s.me.cwp + 1 - s.me.resident) true
    else s.trapU cPriv

/-- R113. -/
def execWfill (e : Bool) (s : State) : Out :=
  issue s fun s =>
    if s.me.inWindowTrap && decide (s.me.resident < s.grp.depth ∧ s.me.resident ≤ s.me.cwp) then
      s.window e (s.me.cwp - s.me.resident) false
    else s.trapU cPriv

/-- The picture of the split state (R102). -/
def State.splitPicture (s : State) : Word64 :=
  let g := s.cg
  BitVec.ofNat 64 ((List.range 4).foldl (fun n i => if (s.sp (4 * g + i)).valid then n + 2 ^ i else n) 0
    + 2 ^ 4 * (s.gr g).park.length + 2 ^ 8 * (s.cur % 4) + 2 ^ 32 * (~~~ (s.gr g).exited).toNat)

/-- R102. -/
def execSplq (e : Bool) (d : BitVec 5) (s : State) : Out :=
  issue s fun s => s.form e { ds := [d.toNat] } .conc fun s => s.sset s.cur d.toNat s.splitPicture

/-! ## MODE, REP (R58, R59) -/

/-- R58. -/
def execMode (e : Bool) (g : BitVec 3) (t : BitVec 4) (r : BitVec 3) (s' f : BitVec 1) (s : State) : Out :=
  issue s fun s => s.plain e fun s => s.modSp s.cur fun p => { p with gmode := g ++ t ++ r ++ s' ++ f }

/-- A REP is undefined before this word (R59). -/
def repBars (word : Word32) (stepB : BitVec 3) : Bool :=
  let major := word.toNat / 2 ^ 26
  major ≤ 7 || major == 0x20 || (stepB != 0 && [0x09, 0x0A, 0x0B, 0x0D, 0x0E].contains major)

/-- R59: the next word issues count times. -/
def execRep (c : BitVec 6) (d a b : BitVec 3) (s : State) : Out :=
  issue s fun s =>
    match s.fetch s.cg (pcAdd s.me.pc 1) with
    | none => s.undef
    | some w =>
      if repBars w b then s.undef
      else s.whenFree {} fun s => s.modSp s.cur fun p =>
        { p with pc := pcAdd p.pc 1, rep := some { i := 0, last := c.toNat, sd := d, sa := a, sb := b } }

/-! ## Branches (R103, R104) -/

/-- Words of the overlay the split runs in, as a target within it is checked: LEN of its table entry at the check (R110), and
the slots it occupies where that entry is not valid (log entry 74). -/
def State.nearLen (s : State) : Nat :=
  match (s.targetLen s.cc s.grp.ctx (pcId s.me.pc)).2 with
  | some n => 1024 * n
  | none => s.codeLen s.cg s.me.pc

/-- The table is not behind a HOST page whose answer is awaited (R386). -/
def State.lenKnown (s : State) : Bool :=
  decide (sysId ≤ pcId s.me.pc) || !(s.ovWaits s.cc s.grp.ctx (pcId s.me.pc)).2

/-- A form that checks a target within the overlay, once LEN can be read. -/
def State.nearForm (s : State) (f : State → State) : State :=
  if s.lenKnown then f s else (s.ovWaits s.cc s.grp.ctx (pcId s.me.pc)).1.stall

/-- A displaced target within the current overlay: none outside it (R103, R110). -/
def State.nearTarget (s : State) (off : Int) : Option (BitVec 32) :=
  if 0 ≤ off ∧ off < s.nearLen then some (mkPc (pcId s.me.pc) off.toNat) else none

/-- A division of the issuing split into a staying path and new paths (R104), with its checks: a region aborts
with CAP (R118), the table must have room (R17). -/
def State.split (s : State) (pc stay : BitVec 32) (paths : List (BitVec 32 × BitVec 32)) : State :=
  if s.inRegion then abortWhole s s.cur 7
  else if ¬ s.roomFor s.cg paths.length then s.trapU cSplitovf
  else s.divide s.cur pc stay paths

/-- The lanes that take a branch (R103). -/
def takenLanes (cond : Nat) (p mask : BitVec 32) : BitVec 32 :=
  let t := p &&& mask
  match cond with
  | 0 => t
  | 1 => if t = mask then mask else 0
  | 2 => if t = 0 then mask else 0
  | _ => mask

/-- R103. -/
def execBra (e : Bool) (p : BitVec 3) (c : BitVec 2) (i : BitVec 20) (s : State) : Out :=
  issue s fun s => s.whenFree { sq := [p.toNat] } fun s =>
    let mask := s.me.mask
    let take := takenLanes c.toNat (s.pget s.cur p.toNat) mask
    let next := pcAdd s.me.pc (fallBy e)
    if take = 0 then s.goto next
    else if take ≠ mask ∧ s.inHandler then s.trapU cPriv
    else s.nearForm fun s =>
      match s.nearTarget ((pcOff s.me.pc : Int) + i.toInt) with
      | none => s.trapU cApert
      | some pc =>
        if take = mask then s.goto pc
        else s.split next (mask &&& ~~~ take) [(pc, take)]

/-! ## Calls and returns (R107-R111, R115) -/

/-- The checks of a far target (R110): PRIV, OVFAULT, APERT. -/
def State.farCheck (s : State) (pc : BitVec 32) (far : Bool) : State × Option Nat :=
  let id := pcId pc
  if far && decide (sysId ≤ id) && decide (pcId s.me.pc < sysId) then (s, some cPriv)
  else
    match s.targetLen s.cc s.grp.ctx id with
    | (s, none) => (s, some cOvfault)
    | (s, some n) =>
      if pc.toNat / 2 ^ 14 % 4 ≠ 0 ∨ 1024 * n ≤ pcOff pc then (s, some cApert) else (s, none)

/-- The issuing split itself points into the overlay (R115). -/
def State.ownPin (s : State) (id : Nat) : Bool :=
  (s.splitIds s.cg s.me.pc s.me.mask s.me.cwp s.me.resident).contains id

/-- Residency of one target (R115): some state when the instruction ends or stalls here. A return goes on into an
evict-pending overlay as normal (R114), for a call or jump it counts as not resident (R115; log entry 69). -/
def State.residency (s : State) (id major : Nat) (ret : Bool) : State × Option State :=
  let away : Bool := match s.overlayOf s.cc s.grp.ctx id with
    | some o => o.evp && !ret
    | none => decide (id < sysId)
  if !away then (s, none)
  else
    let (s, wait) := s.ovWaits s.cc s.grp.ctx id
    if wait then (s, some s.stall)
    else
    let (s, h) := s.ovHeader s.cc s.grp.ctx
    let pend : Bool := match s.overlayOf s.cc s.grp.ctx id with | some o => o.evp | none => false
    if !h.demand || (pend && s.ownPin id) then (s, some (s.trapU cOvmiss))
    else if s.inRegion then
      (s, some (s.regAbort s.cur { code := abEngine, detail := major }))
    else
      match s.startFill s.cc s.grp.ctx id [] with
      | (t, .resident) => (t, none)
      | (t, .filling f) => (t, some (t.waitFor t.cur (.fill f)))
      | (t, .wait) => (t, some t.stall)
      | (t, .failed c) => (t, some (t.trapU c))

/-- The residency of the targets of a RET, settled before any change (R111). -/
def State.residencies (s : State) (ids : List Nat) (major : Nat) : State × Option State :=
  ids.foldl (fun (acc : State × Option State) id =>
    match acc.2 with
    | some t => (acc.1, some t)
    | none => acc.1.residency id major true) (s, none)

/-- In a region the links of a frame are kept before they are first written (R217). -/
def State.saveLinks (s : State) : State :=
  match (if s.inRegion then s.region s.cur else none) with
  | none => s
  | some r =>
    let ks := (lanesOf s.me.mask).map fun l => linkKey s.cg l s.me.cwp
    s.setRegion s.cur (some { r with savedL := ks.foldl (fun m x => akeep m x (mget 0 s.link x)) r.savedL })

/-- Open a frame with a return link (R109). -/
def State.openFrame (s : State) (ret : BitVec 32) : State :=
  let s := (s.modSp s.cur fun p => { p with cwp := p.cwp + 1, resident := p.resident + 1 }).saveLinks
  (lanesOf s.me.mask).foldl (fun t l => t.setLink t.cg l t.me.cwp ret) s

/-- A call or jump within the overlay (R108, R109). -/
def State.nearCall (s : State) (e : Bool) (off : Int) (opens : Bool) : State :=
  s.nearForm fun s => match s.nearTarget off with
  | none => s.trapU cApert
  | some pc =>
    if opens ∧ s.me.resident = s.grp.depth then s.trapU cWspill
    else
      let ret := pcAdd s.me.pc (fallBy e)
      ((if opens then s.openFrame ret else s)).goto pc

/-- A call or jump to another overlay (R108-R110, R115). -/
def State.farCall (s : State) (e : Bool) (pc : BitVec 32) (opens : Bool) : State :=
  let (s, wait) := s.ovWaits s.cc s.grp.ctx (pcId pc)
  if wait then s.stall
  else match s.farCheck pc true with
  | (s, some c) => s.trapU c
  | (s, none) =>
    if opens ∧ s.me.resident = s.grp.depth then s.trapU cWspill
    else
      match s.residency (pcId pc) 5 false with
      | (_, some t) => t
      | (s, none) =>
        let ret := pcAdd s.me.pc (fallBy e)
        ((if opens then s.openFrame ret else s)).goto pc

/-- R108. -/
def execCall (e : Bool) (i : BitVec 25) (s : State) : Out :=
  issue s fun s => s.whenFree {} fun s => s.nearCall e ((pcOff s.me.pc : Int) + i.toInt) true

/-- R108: bits 63:14 of the scalar are ignored. -/
def execCallx (e : Bool) (a : BitVec 5) (s : State) : Out :=
  issue s fun s => s.whenFree { ss := [a.toNat] } fun s =>
    s.nearCall e (field (s.sget s.cur a.toNat) 13 0 : Nat) true

/-- R108. -/
def execBrx (e : Bool) (a : BitVec 5) (s : State) : Out :=
  issue s fun s => s.whenFree { ss := [a.toNat] } fun s =>
    s.nearCall e (field (s.sget s.cur a.toNat) 13 0 : Nat) false

/-- R108: bits 63:32 of the scalar are ignored. -/
def execCallo (e : Bool) (a : BitVec 5) (s : State) : Out :=
  issue s fun s => s.whenFree { ss := [a.toNat] } fun s => s.farCall e (lo32 (s.sget s.cur a.toNat)) true

/-- R108. -/
def execJmpo (e : Bool) (a : BitVec 5) (s : State) : Out :=
  issue s fun s => s.whenFree { ss := [a.toNat] } fun s => s.farCall e (lo32 (s.sget s.cur a.toNat)) false

/-- The distinct return targets of the split's lanes with their lanes, lowest lane first (R111). -/
def State.returns (s : State) : List (BitVec 32 × BitVec 32) :=
  let g := s.cg
  let c := s.me.cwp
  (lanesOf s.me.mask).foldl (fun (acc : List (BitVec 32 × BitVec 32)) l =>
    let t := s.linkOf g l c
    if acc.any fun p => p.1 == t then
      acc.map fun p => if p.1 = t then (p.1, p.2 ||| maskOf [l]) else p
    else acc ++ [(t, maskOf [l])]) []

/-- The first check that a list of targets fails (R110). -/
def State.checkAll (s : State) (ts : List (BitVec 32)) : State × Option Nat :=
  ts.foldl (fun (acc : State × Option Nat) pc =>
    match acc.2 with
    | some c => (acc.1, some c)
    | none => acc.1.farCheck pc false) (s, none)

/-- R111, in the order of checks of R94 (log entry 17). -/
def execRet (_e : Bool) (s : State) : Out :=
  issue s fun s =>
    if s.me.cwp = 0 then (if s.inRegion then s.barred abFault 0x90 else s.exitSplit)
    else s.whenFree {} fun s =>
      if s.me.levels.any fun v => v.entryCwp == s.me.cwp then s.trapU cPriv
      else
        let ts := s.returns
        let (s, wait) := s.ovAnyWaits s.cc s.grp.ctx (ts.map fun p => pcId p.1)
        if 1 < ts.length ∧ s.inHandler then s.trapU cPriv
        else if wait then s.stall
        else
          match s.checkAll (ts.map fun p => p.1) with
          | (s, some c) => s.trapU c
          | (s, none) =>
            if 1 < ts.length ∧ s.inRegion then abortWhole s s.cur 7
            else if ¬ s.roomFor s.cg (ts.length - 1) then s.trapU cSplitovf
            else if s.me.resident ≤ 1 then s.trapU cWfill
            else
              match s.residencies (ts.map fun p => pcId p.1) 0 with
              | (_, some t) => t
              | (s, none) =>
                let s := s.modSp s.cur fun p => { p with cwp := p.cwp - 1, resident := p.resident - 1 }
                match ts with
                | [] => s
                | [t] => s.goto t.1
                | t :: rest => s.divide s.cur t.1 t.2 rest

/-! ## Special registers (R39-R41, R117) -/

/-- The value of a special register in a lane, none for a reserved number (R39). -/
def State.special (s : State) (k l n : Nat) : Option Word64 :=
  let g := gidOf k
  let gr := s.gr g
  let p := s.sp k
  let tm := s.tm gr.team
  let la := s.la tm.launch
  let core := coreOf g
  let nat (x : Nat) : Option Word64 := some (BitVec.ofNat 64 x)
  match n with
  | 0x000 => nat l
  | 0x001 => nat gr.index
  | 0x002 => nat tm.x
  | 0x003 => nat tm.y
  | 0x004 => nat tm.z
  | 0x005 => nat la.packet.gridX
  | 0x006 => nat la.packet.gridY
  | 0x007 => nat la.packet.gridZ
  | 0x008 => nat tm.cluster
  | 0x009 => nat (tm.cx + 2 ^ 8 * tm.cy)
  | 0x00A => nat (core % 64 + 2 ^ 8 * (core % 8) + 2 ^ 12 * (core % 64 / 8))
  | 0x00B => nat (dieOf core + 2 ^ 8 * (s.di (dieOf core)).kind)
  | 0x00C => nat (gr.ctx + 2 ^ 8 * (s.cx gr.ctx).fn)
  | 0x00D => some la.packet.args
  | 0x010 => nat p.gmode.toNat
  | 0x011 => nat (k % 4)
  | 0x012 => nat p.mask.toNat
  | 0x013 => nat (p.cwp % 2 ^ 16)
  | 0x014 => nat (gr.depth + 2 ^ 4 * p.resident)
  | 0x018 => nat (s.flag g l).toNat
  | 0x019 => nat gr.probef.toNat
  | 0x01A => nat (s.cycles (dieOf core))
  | 0x01B => nat (pcId p.pc)
  | 0x01C => if p.mode = .trap then nat (match p.traps with | v :: _ => v.cause.toNat | [] => 0) else nat 0
  | 0x01D => if p.mode = .trap then nat (match p.traps with | v :: _ => v.pc.toNat | [] => 0) else nat 0
  | 0x020 => nat (abufBase + tm.abufOff)
  | 0x021 => nat (wbufBase + tm.wbufOff)
  | 0x022 => nat (tm.accFirst + 2 ^ 16 * tm.accCount)
  | 0x023 => some gr.stackBase
  | _ => none

/-- Registers held per lane (R39). -/
def perLane (n : Nat) : Bool := n == 0x000 || n == 0x018

/-- What SRD reads (R40). -/
def State.srdValue (s : State) (n : Nat) : Option Word64 :=
  if perLane n then
    if s.guard s.cur = 0 then some 0 else s.special s.cur (lowLane (s.guard s.cur)) n
  else s.special s.cur 0 n

/-- The predicate that a form of a register held per lane reads: its guard (R40, R222). -/
def laneGuard (n : Nat) (gmode : BitVec 12) : List Nat := if perLane n then [gGuard gmode] else []

/-- R40. -/
def execSrd (e : Bool) (r : BitVec 5) (n : BitVec 10) (s : State) : Out :=
  issue s fun s =>
    match s.srdValue n.toNat with
    | none => s.undef
    | some v => s.form e { ds := [r.toNat], sq := laneGuard n.toNat s.me.gmode } .conc fun s => s.sset s.cur r.toNat v

/-- R40: a 64-bit value gives its low 32 bits to the rows (log entry 18). -/
def execVsrd (e : Bool) (r : BitVec 6) (n : BitVec 10) (s : State) : Out :=
  issue s fun s =>
    if (s.special s.cur 0 n.toNat).isNone then s.undef
    else s.form e { dv := [r.toNat] } .conc fun s =>
      s.vsets s.cur r.toNat (s.glanes s.cur) fun l => lo32 ((s.special s.cur l n.toNat).getD 0)

/-- R40, R25, R117. -/
def execSwr (e : Bool) (r : BitVec 5) (n : BitVec 10) (s : State) : Out :=
  issue s fun s =>
    if (s.special s.cur 0 n.toNat).isNone then s.undef
    else if n.toNat = 0x010 then
      s.whenFree { ss := [r.toNat] } fun s =>
        let v := s.sget s.cur r.toNat
        if v.toNat / 2 ^ 12 ≠ 0 ∨ 5 ≤ gRnd (v.setWidth 12) then s.undef
        else (s.modSp s.cur fun p => { p with gmode := v.setWidth 12 }).advance e
    else if n.toNat = 0x018 then
      s.form e { ss := [r.toNat], sq := laneGuard n.toNat s.me.gmode } .conc fun s =>
        let v : BitVec 5 := (s.sget s.cur r.toNat).setWidth 5
        (s.glanes s.cur).foldl (fun t l => { t with flags := mset 0 t.flags (t.cg * 32 + l) v }) s
    else if n.toNat = 0x019 then
      s.form e { ss := [r.toNat] } .conc fun s =>
        let v : BitVec 18 := (s.sget s.cur r.toNat).setWidth 18
        s.modGr s.cg fun g => { g with probef := v }
    else s.trapU cPriv

/-! ## WAIT (R36, R60, R233) -/

/-- A limit of WAIT: 63 ignores its counter. -/
def within (lim : BitVec 6) (n : Nat) : Bool := lim == 63 || decide (n ≤ lim.toNat)

/-- Retire the group's complete batches and merge their flags, each quarter-op's into its own guard lanes (R49,
R233). -/
def State.retireBatches (s : State) (g : Nat) : State :=
  let done := (s.gr g).batches.filter fun b => b.ops.isEmpty
  let s := s.modGr g fun r => { r with batches := r.batches.filter fun b => !b.ops.isEmpty }
  done.foldl (fun t b => b.flags.foldl (fun t q => (lanesOf q.1).foldl (fun t l => t.orFlag g l q.2) t) t) s

/-- R60. -/
def execWait (e : Bool) (l s' c t : BitVec 6) (s : State) : Out :=
  issue s fun s =>
    let g := s.grp
    if within l g.ldc && within s' g.stc && within c g.cpc && within t g.tbc then
      s.plain e fun s => if t = 63 then s else s.retireBatches s.cg
    else s.stall

end Sys2Proof.Machine
end

