-- ==== Sys2Proof/Machine/PageReq.lean ====
section
/-! DEFINITION. Page requests: the context's queue (R388) and PRI for HOST pages (R387). -/
namespace Sys2Proof.Machine

/-- The page-request queue's header: EN and SIZE; a header with a wrong SIZE or zero field counts as off (R388). -/
def State.prqHeader (s : State) (c : Nat) : Bool × Nat :=
  let a := (s.cx c).prq.toNat
  let w := s.physWord a
  let zeros := field w 63 6 == 0 && field (s.physWord (a + 8)) 63 32 == 0 && field (s.physWord (a + 16)) 63 32 == 0
    && (List.range 5).all fun i => s.physWord (a + 24 + 8 * i) == 0
  (bit w 5 && decide (4 ≤ field w 4 0 ∧ field w 4 0 ≤ 16) && zeros, field w 4 0)

/-- What is asked for: the context, the address, KIND and SRC, the die and core that ask. -/
structure Ask where
  ctx : Nat
  va : Nat
  kind : Nat
  src : Nat
  die : Nat
  core : Nat
  who : Requester
  deriving DecidableEq, Repr

/-- The outcome of a request: posted or joined, dropped because the queue is full, or the queue is off. -/
inductive Posted where
  | posted | full | off
  deriving DecidableEq, Repr

/-- Add a waiter to an outstanding request. -/
def PageReq.join (r : PageReq) (w : Requester) : PageReq :=
  { r with waiters := if w = .pageq then r.waiters else (r.waiters ++ [w]).dedup }

/-- Post an entry, or join the outstanding one of the 64 KiB page (R388). -/
def State.postEntry (s : State) (q : Ask) : State × Posted :=
  let c := s.cx q.ctx
  let page := q.va / 65536
  if c.requests.any fun r => !r.host && r.page == page then
    (s.modCx q.ctx fun x => { x with requests := updWhere x.requests (fun r => !r.host && r.page == page) fun r => r.join q.who }, .posted)
  else
    let (en, size) := s.prqHeader q.ctx
    let a := c.prq.toNat
    let wptr := field (s.physWord (a + 8)) 31 0
    let rptr := field (s.physWord (a + 16)) 31 0
    if !en then (s, .off)
    else if 2 ^ size ≤ (wptr + 2 ^ 32 - rptr) % 2 ^ 32 then (s, .full)
    else
      let at' := a + 64 + 32 * (wptr % 2 ^ size)
      let tag := c.nextTag
      let s := s.physPut at' (BitVec.ofNat 64 q.va)
      let s := s.physPut (at' + 8) (BitVec.ofNat 64 (q.kind + 16 * q.src + 256 * q.die + 2 ^ 16 * q.core + 2 ^ 32 * tag.toNat))
      let s := (s.physPut (at' + 16) 0).physPut (at' + 24) 0
      let s := s.physPut (a + 8) (BitVec.ofNat 64 ((wptr + 1) % 2 ^ 32))
      let r : PageReq := { tag := tag, page := page, kind := q.kind, host := false, waiters := [] }
      let s := s.modCx q.ctx fun x => { x with requests := x.requests ++ [r.join q.who], nextTag := tag + 1 }
      (s.raiseIrq c.fn 2, .posted)

/-- Send a PRI Page Request for the 4 KiB unit of a host address, with or without write access, or join one outstanding that asks for
as much (R387); a function has no more of them outstanding than the host allows (R385, R189). -/
def State.postPri (s : State) (q : Ask) (unit : Nat) (write : Bool) : State × Posted :=
  let fn := (s.cx q.ctx).fn
  let serves (r : PageReq) : Bool := r.host && r.page == unit && (!write || r.kind == 1)
  if (s.fn fn).priStopped then (s, .off)
  else if (s.cx q.ctx).requests.any serves then
    (s.modCx q.ctx fun x => { x with requests := updWhere x.requests serves fun r => r.join q.who }, .posted)
  else
    if (s.fn fn).priAlloc ≤ (s.fn fn).priOutstanding.length then (s, .full)
    else
    let r : PageReq := { tag := 0, page := unit, kind := if write then 1 else 0, host := true, waiters := [] }
    let s := s.modFn fn fun f => { f with priOutstanding := (f.priOutstanding ++ [(unit, write)]).dedup }
    (s.modCx q.ctx fun x => { x with requests := x.requests ++ [r.join q.who] }, .posted)

/-- The host unit behind a virtual address, with the W of its page entry, if its page is a HOST page (R379, R386). -/
def State.hostUnit (s : State) (c va : Nat) : Option (Nat × Bool) :=
  match s.walk 4 (s.cx c).root.toNat va with
  | .leaf e level => if bit e 5 then some ((field e 55 16 * 65536 + va % pageBytes level) / 4096, bit e 3) else none
  | _ => none

/-- Ask for a page, by PRI or by the queue. Of a HOST page a PAGEQ of kind 1 asks for write access, and an engine that writes it where
its entry has W = 1 (R387). -/
def State.post (s : State) (q : Ask) : State × Posted :=
  match s.hostUnit q.ctx q.va with
  | some u => s.postPri q u.1 (q.kind == 1 && (q.src == 0 || u.2))
  | none => s.postEntry q

end Sys2Proof.Machine
end

