-- ==== Sys2Proof/Machine/MemCtl.lean ====
section
/-! DEFINITION. Major 0x1D: fences, cache control, prefetch, page requests, value waits and the carve-out
(R185-R191, R202). -/
namespace Sys2Proof.Machine

/-! ## FENCE (R186) -/

/-- A fence with what it does to the L1s when all before it is performed (R316, R324). -/
def State.fenceWith (s : State) (src dst cores : List Nat) (acq rel both : Bool) (scope : Nat) (rays : Bool := true) : State :=
  s.fresh.addMark { id := s.nextId, upto := s.nextId, src := src, dst := dst, acq := acq, rel := rel, both := both, cores := cores,
                    rays := rays, wb := rel && decide (2 ≤ scope), drop := if acq then acqDrop scope else 0 }

/-- R186; no effect in a region (R202). -/
def execFence (e : Bool) (c : BitVec 3) (r : BitVec 2) (s : State) : Out :=
  issue s fun s => s.plain e fun s =>
    if s.inRegion then s
    else s.fenceWith [s.cur] [s.cur] [s.cc] (bit r 0) (bit r 1) (r == 3) c.toNat (rays := false)

/-! ## CCTL (R187) -/

/-- The physical 256-byte lines of a virtual range, page by page; none for the whole cache. -/
def State.linesOf (s : State) (a n : Nat) : Option (List (Nat × Nat)) :=
  if n = 0 then none
  else
    let lo := a / 256
    let hi := (a + n - 1) / 256
    some ((List.range (hi / 256 - lo / 256 + 1)).filterMap fun i =>
      let page := lo / 256 + i
      match s.walk 4 s.ctx.root.toNat (page * 65536) with
      | .leaf e level =>
        if bit e 5 ∨ 2 ^ 40 ≤ page then none
        else
          let pa := field e 55 16 * 65536 / pageBytes level * pageBytes level + page * 65536 % pageBytes level
          let f := if page = lo / 256 then lo % 256 else 0
          let l := if page = hi / 256 then hi % 256 else 255
          some (pa / 256 + f, pa / 256 + l)
      | _ => none)

/-- A sector lies in the range. -/
def inLines (r : Option (List (Nat × Nat))) (sec : Nat) : Bool :=
  match r with
  | none => true
  | some ls => ls.any fun p => decide (p.1 ≤ sec / 4 ∧ sec / 4 ≤ p.2)

/-- The sectors of a die's L2. -/
def State.l2Secs (s : State) (die : Nat) : List Nat :=
  (s.l2.filter fun p => p.1 / 2 ^ 52 == die).map fun p => p.1 % 2 ^ 52

/-- Ask for the write-back of a dirty L2 sector: WRC keeps a tracked or owned sector, WRM an untracked one, WRB
gives a tracked one up (R187, R329). -/
def State.askWriteBack (s : State) (die sec : Nat) (drop : Bool) : State :=
  let e := s.l2At die sec
  let owned := s.ownerOf sec == some die
  let kind := if e.tracked then (if drop then 4 else 5) else if owned then 5 else 6
  s.ask { kind := kind, die := die, sector := sec, home := e.home, cls := if e.tracked then 2 else if owned then 3 else 0 }

/-- One CCTL: true when every line has been handled. -/
def State.cctlStep (s : State) (n : Nat) (r : Option (List (Nat × Nat))) : State × Bool :=
  let core := s.cc
  let die := dieOf core
  if n < 2 then
    let secs := (s.l1Secs core).filter (inLines r)
    let s := secs.foldl (fun t sec => t.cleanL1 core sec) s
    (if n = 1 then secs.foldl (fun t sec => t.setL1 core sec none) s else s, true)
  else
    let secs := (s.l2Secs die).filter (inLines r)
    let dirty := secs.filter fun sec => (s.l2At die sec).state == 3
    if dirty.isEmpty then (if n = 3 then secs.foldl (fun t sec => t.setL2 die sec {}) s else s, true)
    else (dirty.foldl (fun t sec => t.askWriteBack die sec (n == 3)) s, false)

/-- R187; in a region it aborts (R202). -/
def execCctl (e : Bool) (n : BitVec 2) (a b : BitVec 5) (s : State) : Out :=
  issue s fun s =>
    if s.inRegion then s.barred abFault 0x90
    else s.whenFree { ss := [a.toNat, b.toNat] } fun s =>
      let r := s.linesOf (s.sget s.cur a.toNat).toNat (s.sget s.cur b.toNat).toNat
      let (t, done) := s.cctlStep n.toNat r
      if done then t.advance e else t.stall

/-! ## PREF (R188) -/

/-- The request that brings a sector to a die's L2, or makes a sector there its own: none where nothing is missing, and none for an OWN
sector of a block that another die owns, which stands in no other L2 (R188, R321, R329). -/
def prefKind (n cls state : Nat) (foreign : Bool) : Option Nat :=
  if cls = 3 ∧ foreign then none
  else if n = 2 ∧ cls = 2 then (if state = 0 then some 1 else if state = 1 then some 2 else none)
  else if state ≠ 0 then none
  else if cls ≤ 1 then some 3
  else if n = 2 then some 1
  else some 0

/-- The request of one lane: a lane whose address fails is dropped. A prefetch to the L1 fills it from the L2, at once or when the
sector comes. -/
def State.prefLane (s : State) (n lane va : Nat) : State :=
  match s.resolve s.cur lane va 1 needLoad with
  | (t, .ok (.mem pa cls home) _) =>
    let d := dieOf t.cc
    let sec := pa / 64
    let e := t.l2At d sec
    let toL1 := n == 1 && t.hasL1 t.cc && decide (cls ≤ 2 ∧ home < 32) && (t.l1At t.cc sec).isNone
    if t.lost sec home || uncached cls home then t
    else if toL1 && e.state != 0 then (t.touchL2 d sec).fillL1 t.cc sec cls home e.data
    else
      match prefKind n cls e.state (t.ownerOf sec != none && t.ownerOf sec != some d) with
      | none => t
      | some kind =>
        t.ask { kind := kind, die := d, sector := sec, home := home, cls := cls, who := if toL1 then 4 else 0, holder := if toL1 then t.cc else 0 }
  | (t, _) => t

/-- R188; no effect in a region (R202). -/
def execPref (e : Bool) (n : BitVec 2) (a b : BitVec 5) (s : State) : Out :=
  issue s fun s => s.form e { ss := [a.toNat], sv := [b.toNat] } .own fun s =>
    if s.inRegion then s
    else (s.glanes s.cur).foldl (fun t l =>
      t.prefLane n.toNat l (t.sget t.cur a.toNat + sext64 (t.vget t.cur b.toNat l)).toNat) s

/-! ## PAGEQ (R189) -/

/-- What a kind asks of its page. -/
def pageNeed (kind : Nat) : Need :=
  if kind = 0 then needLoad else if kind = 1 then needAtomic else needFill

/-- The status PAGEQ writes. -/
def State.pageq (s : State) (va kind : Nat) : State × Nat :=
  if 2 ^ 56 ≤ va then (s, 3)
  else
    match s.translate s.cc s.grp.ctx va (pageNeed kind) with
    | (t, .ok _ _) => (t, 0)
    | (t, .contained) => (t, 0)
    | (t, _) =>
      match t.post { ctx := t.grp.ctx, va := va, kind := kind, src := 0, die := dieOf t.cc, core := t.cc % 64, who := .pageq } with
      | (t, .posted) => (t, 1)
      | (t, _) => (t, 2)

/-- R189; in a region it aborts (R202). PAGEQ never stalls: of a HOST page whose ATS answer is not held it asks for the answer, and posts
the page (log entry 83). A walk whose table is lost with its home is answered with an error (R332). -/
def execPageq (e : Bool) (d a : BitVec 5) (k : BitVec 2) (s : State) : Out :=
  issue s fun s =>
    if s.inRegion then s.barred abFault 0x90
    else s.whenFree { ss := [a.toNat], ds := [d.toNat] } fun s =>
      let va := (s.sget s.cur a.toNat).toNat
      if va < 2 ^ 56 ∧ (s.lookup s.cc s.grp.ctx va).2 = .contained then s.trapU cContain
      else
        let (t, v) := s.pageq va k.toNat
        (t.sset t.cur d.toNat (BitVec.ofNat 64 v)).advance e

/-! ## WAITV (R190) -/

/-- Read each watched word as a plain load at dev scope does, where one may be performed now (R190, R242, R309, R310); true when one
differs from the value. A word that is lost halts the context (R346). -/
def State.waitvLook (s : State) (k : Nat) (watched : List (Nat × Nat)) (value : Word32) : State × Bool :=
  match watched.find? fun p => (s.resolve k p.1 p.2 4 needLoad).2 == .contained with
  | some p => (s.haltSplit k cContain false p.2, false)
  | none =>
    watched.foldl (fun (acc : State × Bool) p =>
      match acc.1.resolve k p.1 p.2 4 needLoad with
      | (t, .ok pl _) =>
        if t.nowMay k false pl 4 then
          let (t, v) := t.nowRead (coreOf (gidOf k)) pl 4
          (t, acc.2 || v != value.toNat)
        else (t, acc.2)
      | (t, _) => (t, acc.2)) (s, false)

/-- The instruction under a waiting split moves on. -/
def State.finishAt (s : State) (k : Nat) : State :=
  let p := s.sp k
  let e := match s.fetch (gidOf k) p.pc with | some w => bit w 25 | none => false
  let q : Split := { p.pastBy (fallBy e) with wait := .none, readySince := s.stepNo, aged := false }
  (s.setSp k q).stopHere k p.pc

/-- R190; in a region it aborts (R202). -/
def execWaitv (e : Bool) (d a b : BitVec 5) (s : State) : Out :=
  issue s fun s =>
    if s.inRegion then s.barred abFault 0x90
    else
      let k := s.cur
      let u : Uses := { ss := [d.toNat, a.toNat], sv := [b.toNat] }
      if s.stalled k u then s.stall
      else
        let at' (l : Nat) : Nat := (s.sget k a.toNat + sext64 (s.vget k b.toNat l)).toNat
        let value := lo32 (s.sget k d.toNat)
        let (t, c) := s.checkLanes k 4 needLoad false true ((s.glanes k).map fun l => (l, at' l))
        let fails := c.fail ++ c.away
        if c.wait then t.stall
        else if c.dead then t.trapU cContain
        else
          let watched := c.pass.map fun p => (p.1, at' p.1)
          if ¬ fails.isEmpty then t.trap k (t.laneTrap k 1 fails)
          else if watched.isEmpty then t.advance e
          else
            let (t, differs) := t.waitvLook k watched value
            if differs then t.advance e else t.waitFor k (.waitv watched value)

/-- One read of a waiting WAITV. -/
def State.waitvRead (s : State) (k : Nat) : State :=
  match (s.sp k).wait with
  | .waitv ws v =>
    if (s.sp k).valid then
      let (t, differs) := s.waitvLook k ws v
      if differs then t.finishAt k else t
    else s
  | _ => s

/-- R190: the core observes a write to the word's sector. -/
def execWaitvWake (split : Nat) (s : State) : Out := .next (s.waitvRead split)

/-- R190: at least once every 4 096 cycles. -/
def execWaitvReread (split : Nat) (s : State) : Out := .next (s.waitvRead split)

/-- R190: 65 536 cycles have passed. -/
def execWaitvTimeout (split : Nat) (s : State) : Out :=
  .next (match (s.sp split).wait with
    | .waitv _ _ => if (s.sp split).valid then s.finishAt split else s
    | _ => s)

/-! ## CARVE (R191, R325) -/

/-- Bytes of ABUF above a carve-out's lower edge are held by a resident team (R191). -/
def State.abufHeldAbove (s : State) (core lim : Nat) : Bool :=
  s.teams.any fun p => p.2.live && p.2.core == core && decide (0 < p.2.abufSize ∧ lim < p.2.abufOff + p.2.abufSize)

/-- Zero a range of ABUF. -/
def State.zeroAbuf (s : State) (core lo hi : Nat) : State :=
  { s with abuf := s.abuf.filter fun p => !decide (core * 2 ^ 22 + lo ≤ p.1 ∧ p.1 < core * 2 ^ 22 + hi),
           poison := s.poison.filter fun k => !decide (poisonKey core 0 (lo / 4) ≤ k ∧ k < poisonKey core 0 (hi / 4)) }

/-- Fewer banks: the ways that are released write their dirty sectors back and are gone, the others stay; the banks return zeroed
(R325). -/
def State.shrinkCarve (s : State) (core n : Nat) : State :=
  let old := s.abufLeft core
  let gone := (s.l1Ways.filter fun p => p.1 / 192 == core).flatMap fun p => (p.2.filter fun w => decide (n ≤ w.1)).map fun w => w.2
  let s := gone.foldl (fun t line => t.evictL1 core line) s
  let ways := s.l1Ways.map fun p => if p.1 / 192 == core then (p.1, p.2.filter fun w => decide (w.1 < n)) else p
  let s : State := { s with l1Ways := ways.filter fun p => !p.2.isEmpty }
  let s := s.modCo core fun c => { c with carved := n, pending := false, target := n }
  s.zeroAbuf core old (s.abufLeft core)

/-- More banks: the ways start with every sector invalid (R325). -/
def State.growCarve (s : State) (core n : Nat) : State :=
  s.modCo core fun c => { c with carved := n, pending := false, target := n }

/-- A CARVE request and its result. A request for as many banks as there are ends a pending one and is done (log entry 91). -/
def State.carve (s : State) (core : Nat) (v : Word64) : State × Nat :=
  let n := v.toNat
  if ¬ [0, 4, 8, 12, 16].contains n then (s, 2)
  else
    let now := (s.co core).carved
    if n = now then (s.modCo core fun c => { c with pending := false, target := n }, 0)
    else if n < now then (s.shrinkCarve core n, 0)
    else if s.abufHeldAbove core (s.abufSize core - 49152 * n) then
      (s.modCo core fun c => { c with target := n, pending := true }, 1)
    else (s.growCarve core n, 0)

/-- R191; in a region it aborts (R202). A query reads 0 for the target while no request is pending (log entry 91). -/
def execCarve (e : Bool) (d a : BitVec 5) (s : State) : Out :=
  issue s fun s =>
    if s.inRegion then s.barred abFault 0x90
    else s.whenFree { ss := [a.toNat], ds := [d.toNat] } fun s =>
      if !s.ctx.carve then s.trapU cPriv
      else if a = 0 then
        let c := s.co s.cc
        (s.sset s.cur d.toNat (BitVec.ofNat 64 (c.carved + if c.pending then 2 ^ 8 * c.target + 2 ^ 16 else 0))).advance e
      else
        let (t, v) := s.carve s.cc (s.sget s.cur a.toNat)
        (t.sset t.cur d.toNat (BitVec.ofNat 64 v)).advance e

/-- R191: the teams that held the banks have retired. -/
def execCarveComplete (core : Nat) (s : State) : Out :=
  .next (
    let c := s.co core
    if c.pending && !s.abufHeldAbove core (s.abufSize core - 49152 * c.target) then s.growCarve core c.target else s)

/-! ## Caches between commands (R312, R316, R363) -/

/-- Write back a die's dirty untracked L2 sector of no OWN block that it owns, if the home answers, and drop it (R321, R363). -/
def State.flushL2 (s : State) (die sec : Nat) : State :=
  let e := s.l2At die sec
  if e.state = 0 ∨ e.tracked ∨ s.ownerOf sec = some die then s else s.evictSector die sec

/-- The cores of dies whose L1 holds something. -/
def State.l1Cores (s : State) (dies : List Nat) : List Nat :=
  ((s.l1.map fun p => p.1 / 2 ^ 52).dedup).filter fun c => dies.contains (dieOf c)

/-- Write back and drop the untracked sectors of a core's carve-out, at level 2 the COH ones too. -/
def State.flushL1 (s : State) (core level : Nat) : State :=
  let s := s.cleanAllL1 core
  (s.l1Secs core).foldl (fun t sec =>
    match t.l1At core sec with
    | some x => if x.cls = 2 ∧ level < 2 then t else t.setL1 core sec none
    | none => t) s

/-- Write back and drop the untracked sectors of dies, carve-outs first. -/
def State.flushUntracked (s : State) (dies : List Nat) (level : Nat) : State :=
  let s := (s.l1Cores dies).foldl (fun t c => t.flushL1 c level) s
  dies.foldl (fun t d => (t.l2Secs d).foldl (fun u sec => u.flushL2 d sec) t) s

end Sys2Proof.Machine
end

