-- ==== Sys2Proof/Machine/Sync.lean ====
section
/-! DEFINITION. Major 0x1E: SYNC, BAR, CBAR and BARA, and the rendezvous of the splits that wait (R192-R196). -/
namespace Sys2Proof.Machine

/-- Lanes of a group that have not exited. -/
def State.liveLanes (s : State) (g : Nat) : BitVec 32 := ~~~ (s.gr g).exited

/-- Every number an access of the group may stand under: its entries, its parked paths, and those of paths that have ended with
accesses still outstanding. A group takes part in a phase with all it issued before its arrival (R196; log entry 76). -/
def State.groupKeys (s : State) (g : Nat) : List Nat :=
  (entries g ++ ((s.gr g).park.map fun q => q.key) ++ (s.ops.filter fun o => o.gid == g).flatMap (fun o => o.splits)
    ++ (s.rays.filter fun r => r.gid == g).flatMap fun r => r.splits).dedup

/-- The groups of a team that have not retired. -/
def State.teamLive (s : State) (t : Nat) : List Nat :=
  (s.tm t).groups.filter fun g => (s.gr g).live && (s.gr g).team == t && !(s.gr g).retired

/-! ## SYNC (R193) -/

/-- The lanes a waiting SYNC needs now: exited lanes have left its set. -/
def State.syncSet (s : State) (k : Nat) : Option (BitVec 32) :=
  match (s.sp k).wait with
  | .sync m => if (s.sp k).valid then some (m &&& s.liveLanes (gidOf k)) else none
  | _ => none

/-- Trap several splits with a cause, each with its own record. -/
def State.trapAll (s : State) (ks : List Nat) (cause : Nat) : State :=
  ks.foldl (fun t k => if (t.sp k).valid then t.trap k (t.uniTrap k cause) else t) s

/-- R193. -/
def execSync (_e : Bool) (a : BitVec 5) (s : State) : Out :=
  issue s fun s =>
    if s.inRegion then s.barred abFault 0x90
    else if s.me.mode = .emu then s.trapU cPriv
    else s.whenFree { ss := [a.toNat] } fun s =>
      let m : BitVec 32 := lo32 (s.sget s.cur a.toNat) &&& s.liveLanes s.cg
      if s.me.mask &&& ~~~ m ≠ 0 then s.trapU cSyncmask
      else
        let clash := (s.valids s.cg).filter fun k => k != s.cur &&
          match s.syncSet k with | some x => x != m && x &&& m != 0 | none => false
        if clash.isEmpty then s.waitFor s.cur (.sync m)
        else s.trapAll (s.cur :: clash) cSyncmask

/-- The splits released with split k, once every lane of its set waits (R193). -/
def State.syncReady (s : State) (k : Nat) : Option (List Nat) :=
  match s.syncSet k with
  | none => none
  | some m =>
    let ks := (s.valids (gidOf k)).filter fun j => s.syncSet j == some m
    if m &&& ~~~ (ks.foldl (fun x j => x ||| (s.sp j).mask) 0) = 0 then some ks else none

/-- Release the SYNCs of a group that are complete (R193, R196: grp scope). -/
def State.settleSync (s : State) (g : Nat) : State :=
  (entries g).foldl (fun t k =>
    match t.syncReady k with
    | none => t
    | some ks => ks.foldl (fun t j => t.finishAt j) (t.fenceWith ks ks [] true true true 0)) s

/-! ## Team barriers (R194) -/

def State.barrier (s : State) (t id : Nat) : Barrier := mget {} (s.tm t).barriers id
def State.setBarrier (s : State) (t id : Nat) (b : Barrier) : State :=
  s.modTm t fun x => { x with barriers := mset {} x.barriers id b }

/-- The count a phase expects: 0 names every group that has not retired. -/
def State.expectedOf (s : State) (t named : Nat) : Nat := if named = 0 then (s.teamLive t).length else named

/-- A split of the group waits at another id. -/
def State.otherId (s : State) (k : Nat) (same : Wait → Bool) : Bool :=
  (s.valids (gidOf k)).any fun j => j != k && same (s.sp j).wait

/-- Lanes of a group that issued BARA for this phase. -/
def Barrier.gone (b : Barrier) (g : Nat) : BitVec 32 :=
  b.lanes.foldl (fun m p => if p.1 = g then m ||| p.2 else m) 0

/-- The lanes of a group that have issued a barrier in this phase. -/
def State.barLanes (s : State) (b : Barrier) (g id : Nat) : BitVec 32 :=
  (s.valids g).foldl (fun m k => match (s.sp k).wait with
    | .bar i _ => if i = id then m ||| (s.sp k).mask else m
    | _ => m) (b.gone g)

/-- BAR or BARA at its issue: the checks, then the wait or the arrival. Lanes that have left by BARA for the phase under way issue
for the next one and stall, before their count is compared with a phase that is not theirs (R194). -/
def State.arriveAt (s : State) (e : Bool) (id named : Nat) (waits : Bool) : State :=
  let t := s.grp.team
  let b := s.barrier t id
  let other := s.otherId s.cur fun w => match w with | .bar i _ => i != id | _ => false
  if other ∨ (s.tm t).groups.length < named then s.trapU cSyncmask
  else if b.gone s.cg &&& s.me.mask ≠ 0 then s.waitFor s.cur (.phase id)
  else if b.arrived ≠ [] ∧ b.expected ≠ named then s.trapU cSyncmask
  else
    let s := s.setBarrier t id { b with expected := named, lanes := if waits then b.lanes else b.lanes ++ [(s.cg, s.me.mask)] }
    if waits then s.waitFor s.cur (.bar id named) else s.advance e

/-- R194. -/
def execBar (e : Bool) (i : BitVec 4) (a : BitVec 5) (s : State) : Out :=
  issue s fun s =>
    if s.inRegion then s.barred abFault 0x90
    else if s.me.mode = .emu then s.trapU cPriv
    else s.whenFree { ss := [a.toNat] } fun s => s.arriveAt e i.toNat (field (s.sget s.cur a.toNat) 5 0) true

/-- R194: BARA does not wait. -/
def execBara (e : Bool) (i : BitVec 4) (a : BitVec 5) (s : State) : Out :=
  issue s fun s =>
    if s.inRegion then s.barred abFault 0x90
    else if s.me.mode = .emu then s.trapU cPriv
    else s.whenFree { ss := [a.toNat] } fun s => s.arriveAt e i.toNat (field (s.sget s.cur a.toNat) 5 0) false

/-- Note the groups that have arrived (R194). -/
def State.noteArrivals (s : State) (t id : Nat) : State :=
  let b := s.barrier t id
  let new := (s.teamLive t).filter fun g =>
    !(b.arrived.any fun p => p.1 == g) && s.liveLanes g != 0 && s.liveLanes g &&& ~~~ (s.barLanes b g id) == 0
  if new.isEmpty then s
  else s.setBarrier t id { b with arrived := b.arrived ++ new.map fun g => (g, s.nextId) }

/-- The splits of a team that wait at a barrier. -/
def State.barWaiters (s : State) (t id : Nat) : List Nat :=
  ((s.tm t).groups.flatMap s.valids).filter fun k => match (s.sp k).wait with | .bar i _ => i == id | _ => false

/-- The arrivals that count: where all groups are expected, those of groups that have not retired, as in the expected number; where
a count is named, all (R194; log entry 75). -/
def State.arrivals (s : State) (t : Nat) (b : Barrier) : Nat :=
  if b.expected = 0 then (b.arrived.filter fun p => (s.teamLive t).contains p.1).length else b.arrived.length

/-- A phase is over: what groups that have not arrived in it have issued stays for the next one, and splits held for it issue again. -/
def State.nextPhase (s : State) (t id : Nat) (b : Barrier) : State :=
  let rest := b.lanes.filter fun p => !b.arrived.any fun q => q.1 == p.1
  let s := s.setBarrier t id (if rest.isEmpty ∧ (s.barWaiters t id).isEmpty then {} else { expected := b.expected, lanes := rest })
  ((s.tm t).groups.flatMap s.valids).foldl (fun u k => if (u.sp k).wait = .phase id then u.ready k else u) s

/-- Complete a phase when the expected groups have arrived (R194, R196: team scope); the splits of those groups go on, and the release
drops the core's clean COH sectors (R324). -/
def State.settleBarrier (s : State) (t id : Nat) : State :=
  let s := s.noteArrivals t id
  let b := s.barrier t id
  if b.arrived = [] ∨ s.arrivals t b < s.expectedOf t b.expected then s
  else
    let ks := (s.barWaiters t id).filter fun k => b.arrived.any fun p => p.1 == gidOf k
    let s := b.arrived.foldl (fun u p =>
      u.addMark { id := u.nextId, upto := p.2, src := u.groupKeys p.1, dst := ks, acq := true, rel := true, both := true,
                  cores := [(s.tm t).core], drop := 1 }) s
    let s := s.fresh
    ((ks.foldl (fun u k => u.finishAt k) s).nextPhase t id b).wake

/-- The barrier ids a team uses. -/
def State.barIds (s : State) (t : Nat) : List Nat :=
  (mkeys (s.tm t).barriers ++ ((s.tm t).groups.flatMap s.valids).filterMap fun k =>
    match (s.sp k).wait with | .bar i _ => some i | _ => none).dedup

/-! ## Cluster barriers (R194) -/

/-- R194. -/
def execCbar (_e : Bool) (i : BitVec 2) (s : State) : Out :=
  issue s fun s =>
    if s.inRegion then s.barred abFault 0x90
    else if s.me.mode = .emu then s.trapU cPriv
    else if s.otherId s.cur fun w => match w with | .cbar j => j != i.toNat | _ => false then s.trapU cSyncmask
    else s.waitFor s.cur (.cbar i.toNat)

/-- The group has issued the cluster barrier: it has lanes that have not exited, and all of them wait there (R194). -/
def State.groupAtCbar (s : State) (g id : Nat) : Bool :=
  let m := (s.valids g).foldl (fun m k => match (s.sp k).wait with
    | .cbar i => if i = id then m ||| (s.sp k).mask else m
    | _ => m) (0 : BitVec 32)
  s.liveLanes g != 0 && s.liveLanes g &&& ~~~ m == 0

/-- The teams of a team's cluster that are on the part. -/
def State.clusterTeams (s : State) (t : Nat) : List Nat :=
  (s.teams.filter fun p => p.2.live && p.2.launch == (s.tm t).launch && p.2.cluster == (s.tm t).cluster).map fun p => p.1

/-- Complete a cluster barrier when every team has arrived (R194, R196: clus scope). -/
def State.settleCbar (s : State) (t id : Nat) : State :=
  let ts := s.clusterTeams t
  let gs := ts.flatMap s.teamLive
  let ks := (gs.flatMap s.valids).filter fun k => match (s.sp k).wait with | .cbar i => i == id | _ => false
  if ks = [] ∨ ¬ gs.all fun g => s.groupAtCbar g id then s
  else
    let s := s.fenceWith (gs.flatMap s.groupKeys) ks ((ts.map fun t => (s.tm t).core).dedup) true true true 2
    ks.foldl (fun u k => u.finishAt k) s

/-! ## Waits that can never end (R195) -/

/-- The splits of a group that must take SYNCMASK: all its entries wait and a lane they need is parked. -/
def State.stuckWaiters (s : State) (g : Nat) : List Nat :=
  let vs := s.valids g
  let parked := (s.gr g).park.foldl (fun m q => m ||| q.mask) (0 : BitVec 32)
  let waits (k : Nat) : Bool := match (s.sp k).wait with | .sync _ => true | .bar _ _ => true | .cbar _ => true | .phase _ => true | _ => false
  if vs.all waits then
    vs.filter fun k => match (s.sp k).wait with
      | .sync m => m &&& parked != 0
      | .bar _ _ => parked != 0
      | .cbar _ => parked != 0
      | .phase _ => parked != 0
      | _ => false
  else []

/-- R195. -/
def State.settleStuck (s : State) (g : Nat) : State := s.trapAll (s.stuckWaiters g) cSyncmask

end Sys2Proof.Machine
end

