-- ==== Sys2Proof/Machine/Copy.lean ====
section
/-! DEFINITION. Major 0x22: the streamer (R236-R246). -/
namespace Sys2Proof.Machine

/-! ## Descriptors (R236, R237) -/

/-- Scalars of a form's descriptor. -/
def descLen (form : Nat) : Nat := if form = 1 then 6 else if form = 0 ∨ form = 2 then 4 else 5

def dw (d : List Word64) (i : Nat) : Word64 := (d[i]?).getD 0

/-- Fields of the descriptors. -/
def dLen (d : List Word64) : Nat := field (dw d 2) 31 0
def dW (d : List Word64) : Nat := field (dw d 2) 15 0
def dH (d : List Word64) : Nat := field (dw d 2) 31 16
def dPB (d : List Word64) : Nat := field (dw d 2) 47 32
def dPitch (d : List Word64) : Nat := field (dw d 3) 31 0
def dDir (d : List Word64) : Bool := bit (dw d 4) 0
def dN (d : List Word64) : Nat := field (dw d 3) 31 0
def dES (d : List Word64) : Nat := field (dw d 3) 47 32
def dMask (d : List Word64) : Nat := field (dw d 4) 11 0

/-- The word that holds the completion scope. -/
def scopeWord (form : Nat) : Nat := if form = 1 then 5 else if form = 3 then 4 else 3
def dScope (form : Nat) (d : List Word64) : Nat := field (dw d (scopeWord form)) 2 0

/-- The descriptor keeps its limits and reserved bits (R237), but for a length, a pitch or an address that is no
multiple of 4, which takes ALIGN (R239); `n` is the number of positions of the cluster. -/
def descOk (form n : Nat) (d : List Word64) : Bool :=
  let s := dScope form d
  match form with
  | 0 => field (dw d 2) 63 32 == 0 && field (dw d 3) 63 3 == 0 && decide (s ≤ 5)
  | 2 => field (dw d 2) 63 32 == 0 && field (dw d 3) 63 8 == 0 && field (dw d 3) 3 3 == 0 && decide (s ≤ 5)
         && [1, 2, 3, 6, 7].contains (field (dw d 3) 7 4)
  | 1 => decide (1 ≤ dW d ∧ 1 ≤ dH d ∧ 4 ≤ dPB d ∧ dPB d ≤ 4096 ∧ dPB d % 4 = 0 ∧ field (dw d 2) 63 48 = 0
           ∧ dW d * dPB d ≤ dPitch d ∧ field (dw d 3) 63 32 = 0 ∧ field (dw d 4) 63 1 = 0
           ∧ field (dw d 5) 63 3 = 0 ∧ s ≤ 5)
  | 3 => decide (4 ≤ dES d ∧ dES d ≤ 4096 ∧ dES d % 4 = 0 ∧ field (dw d 3) 63 48 = 0 ∧ field (dw d 4) 63 3 = 0 ∧ s ≤ 5)
  | _ => decide (field (dw d 1) 63 32 = 0 ∧ field (dw d 2) 63 32 = 0 ∧ field (dw d 3) 63 3 = 0
           ∧ 2 ≤ s ∧ s ≤ 5 ∧ field (dw d 4) 63 12 = 0 ∧ dMask d < 2 ^ n)

/-! ## Geometry (R238) -/

/-- Bytes from the first destination byte to past the last. -/
def dstLen (form : Nat) (d : List Word64) : Nat :=
  match form with
  | 1 => if dDir d then (dH d - 1) * dPitch d + dW d * dPB d
         else (morton (dW d) (dH d) (dW d - 1) (dH d - 1) + 1) * dPB d
  | 3 => dN d * dES d
  | _ => dLen d

/-- Bytes of the source range; a gather has none of its own. -/
def srcLen (form : Nat) (d : List Word64) : Nat :=
  match form with
  | 1 => if dDir d then (morton (dW d) (dH d) (dW d - 1) (dH d - 1) + 1) * dPB d
         else (dH d - 1) * dPitch d + dW d * dPB d
  | 3 => 0
  | _ => dLen d

/-- The source offset of the word at a destination offset; none where nothing is written. -/
def srcOf (form : Nat) (d : List Word64) (o : Nat) : Option Nat :=
  if form = 1 then
    let pb := dPB d
    if dDir d then
      let y := o / dPitch d
      let x := o % dPitch d / pb
      if x < dW d ∧ y < dH d then some (morton (dW d) (dH d) x y * pb + o % dPitch d % pb) else none
    else
      let p := mortonInv (dW d) (dH d) (o / pb)
      if p.1 < dW d ∧ p.2 < dH d then some (p.2 * dPitch d + p.1 * pb + o % pb) else none
  else some o

/-- COMMIT at a destination offset: bytes written below it; elements for CPYG (R240). -/
def commitOf (form : Nat) (d : List Word64) (pos : Nat) : Nat :=
  match form with
  | 1 => 4 * ((List.range (pos / 4)).filter fun i => (srcOf form d (4 * i)).isSome).length
  | 3 => pos / dES d
  | _ => pos

/-- The end of the granule at an offset of a destination that starts at `base` (R243). -/
def granuleEnd (base len pos : Nat) : Nat := min len ((base + pos) / 256 * 256 + 256 - base)

/-! ## Checks at issue (R239) -/

/-- A buffer range breaks the allocation (R43, R239). -/
def State.badBuffer (s : State) (core a n : Nat) (tm : Team) : Bool :=
  match s.aperture core a n with
  | some 1 => let o := a - wbufBase; s.isG core || decide (o < tm.wbufOff ∨ tm.wbufOff + tm.wbufSize < o + n)
  | some 2 => let o := a - abufBase; decide (o < tm.abufOff ∨ tm.abufOff + tm.abufSize < o + n ∨ s.abufLeft core < o + n)
  | _ => false

/-- The page of a global address is a HOST page. -/
def State.isHostPage (s : State) (c a : Nat) : Bool := decide (a < 2 ^ 56) && (s.hostUnit c a).isSome

/-- The length, the pitch or the address of the indices, which R239 checks with the addresses. -/
def dAligned (form : Nat) (d : List Word64) : List Nat :=
  if form = 1 then [dPitch d] else if form = 3 then [(dw d 2).toNat] else [dLen d]

/-- The first check of R239 that the copy fails. A source in WBUF, which the streamer may not read (R46), takes PERM with the others
(log entry 84). -/
def State.copyCheck (s : State) (form : Nat) (d : List Word64) : Option Nat :=
  let core := s.cc
  let tm := s.team
  let c := s.grp.ctx
  let src := (dw d 0).toNat
  let dst := (dw d 1).toNat
  let sl := srcLen form d
  let dl := dstLen form d
  let ranges : List (Nat × Nat) :=
    (if form = 3 then [((dw d 2).toNat, 4 * dN d)] else [(src, sl)]) ++ (if form = 4 then [] else [(dst, dl)])
  let hostDst := form = 2 ∧ (s.aperture core dst dl = some 1 ∨ (s.aperture core dst dl = some 0 ∧ (pagesOf dst dl).any fun p => s.isHostPage c p))
  if s.grp.index ≠ tm.producer then some cStream
  else if (src :: dst :: dAligned form d).any fun v => v % 4 != 0 then some cAlign
  else if ranges.any fun r => (s.aperture core r.1 r.2).isNone then some cApert
  else if form < 3 ∧ src < dst + dl ∧ dst < src + sl then some cApert
  else if (ranges.any fun r => s.badBuffer core r.1 r.2 tm) ∨ (form = 4 ∧ tm.abufSize < dst + dl) then some cBufrange
  else if (ranges.head?.any fun r => s.aperture core r.1 r.2 == some 1) ∨ hostDst ∨ (form = 4 ∧ 0 < sl ∧ s.isHostPage c src) then some cPerm
  else none

/-- What word 4 of the record of a failed check holds: of PERM the entry of the HOST page, of which no buffer has one (R393). -/
def State.copyEntry (s : State) (form : Nat) (d : List Word64) (cause : Nat) : Word64 :=
  let va := if form = 4 then (dw d 0).toNat else ((pagesOf (dw d 1).toNat (dstLen form d)).find? (s.isHostPage s.grp.ctx)).getD 0
  if cause = cPerm ∧ s.isHostPage s.grp.ctx va then s.pageEntry s.cur 0 va else 0

/-! ## Claims (R242) -/

/-- The granules of a place range and, for memory that a directory tracks, its sectors with home and class. -/
def granulesOf (p : Place) (n : Nat) : List (Nat × Nat) :=
  if n = 0 then []
  else (List.range ((p.at'.2 + n - 1) / 256 - p.at'.2 / 256 + 1)).map fun i => (p.at'.1, p.at'.2 / 256 + i)

def claimSectors (p : Place) (n : Nat) : List Nat :=
  (granulesOf p n).flatMap fun g => (List.range 4).map fun i => 4 * g.2 + i

/-- Sectors that a claim takes at a directory: COH and OWN memory. -/
def Place.tracked : Place → Bool
  | .mem _ cls home => cls == 2 || (cls == 3 && decide (home < 32))
  | _ => false

/-- Claim a place range for a copy; the claim of a sector names the bytes of it that the range reaches. -/
def State.claimPlace (s : State) (id core : Nat) (p : Place) (n : Nat) : State :=
  match p with
  | .host _ _ => s
  | _ =>
    let gs := granulesOf p n
    let s := { s with copies := updWhere s.copies (fun c => c.id == id) fun c => { c with claims := (c.claims ++ gs).dedup } }
    match p with
    | .mem _ cls home =>
      if p.tracked then
        (claimSectors p n).foldl (fun t sec =>
          t.ask { kind := 1, die := dieOf core, sector := sec, home := home, cls := cls, dirty := sectorMask sec p.at'.2 n, who := 1,
                  holder := id }) s
      else s
    | _ => s

/-- What a copy needs of a destination page; CPYR reads it, so a lost sector ends it (R244, R346). -/
def copyDst (form : Nat) : Need := if form = 2 then { r := true, w := true } else { w := true, copy := true }

/-- The source range of a copy that stands at an offset; a gather's is its indices. -/
def readsFrom (form : Nat) (d : List Word64) (pos : Nat) : List (Nat × Nat) :=
  if dstLen form d ≤ pos then []
  else if form = 3 then [((dw d 2).toNat, 4 * dN d)]
  else if form = 1 then [((dw d 0).toNat, srcLen form d)]
  else [((dw d 0).toNat + pos, srcLen form d - pos)]

/-- Translate the destination from offset `lo` on and claim what translates (R239, R242). -/
def State.claimAll (s : State) (id form core ctx : Nat) (d : List Word64) (targets : List Nat) (lo : Nat) : State :=
  let dst := (dw d 1).toNat + lo
  let n := dstLen form d - lo
  if form = 4 then
    targets.foldl (fun t x => t.claimPlace id core (.abuf (t.tm x).core ((t.tm x).abufOff + dst)) n) s
  else
    match s.aperture core dst n with
    | some 1 => s.claimPlace id core (.wbuf core (dst - wbufBase)) n
    | some 2 => s.claimPlace id core (.abuf core (dst - abufBase)) n
    | _ =>
      (pagesOf dst n).foldl (fun t a =>
        let m := min (dst + n) (a / 65536 * 65536 + 65536) - a
        match t.translate core ctx a (copyDst form) with
        | (t, .ok p _) => t.claimPlace id core p m
        | (t, _) => t) s

/-! ## Issue -/

/-- The teams a CPYB mask names: bit x + width × y of the cluster's rectangle (R237, R451). -/
def State.copyTargets (s : State) (mask : Nat) : List Nat :=
  let w := (s.la s.team.launch).packet.clw
  (s.clusterTeams s.grp.team).filter fun t => mask.testBit ((s.tm t).cx + w * (s.tm t).cy)

/-- Positions of the issuing team's cluster rectangle. -/
def State.clusterArea (s : State) : Nat :=
  let p := (s.la s.team.launch).packet
  p.clw * p.clh

/-- Take the token: pending, its earlier value gone (R37). -/
def State.takeToken (s : State) (k d id : Nat) : State :=
  if d = 0 then s else { s with pendS := mset 0 s.pendS (s.scalarKey k d) (id + 1) }

/-- Write a token and make it readable. -/
def State.writeToken (s : State) (key id : Nat) (v : Word64) : State :=
  let s := if key = 0 then s else { s with sreg := mset 0 s.sreg (key - 1) v }
  { s with pendS := s.pendS.filter fun p => p.2 != id + 1 }

/-- The token a copy leaves (R240). -/
def copyToken (cause commit : Nat) : Word64 := BitVec.ofNat 64 (1 + 256 * cause + 2 ^ 24 * commit)

/-- Claims still on their way to a directory. -/
def State.claimsOut (s : State) (id : Nat) : Bool :=
  (s.reqs.any fun q => q.who == 1 && q.holder == id)
  || s.dir.any fun p => match p.2.busy with | some q => q.who == 1 && q.holder == id | none => false

/-- A copy form (R236-R242): region, undefined descriptor, limits, checks, then the copy is on its way; the issue
ends when its claims are taken. -/
def State.copyForm (s : State) (e : Bool) (form : Nat) (d a : BitVec 5) : State :=
  let k := s.cur
  let regs' := (List.range (descLen form)).map fun i => a.toNat + i
  if s.inRegion then s.barred abEngine 0x22
  else if s.stalled k { ss := regs', ds := [d.toNat] } then s.stall
  else
    let desc := regs'.map (s.sget k)
    if !descOk form s.clusterArea desc then s.undef
    else
      match s.copyCheck form desc with
      | some c => s.trap k { s.uniTrap k c with word4 := s.copyEntry form desc c }
      | none =>
        let ts := if form = 4 then s.copyTargets (dMask desc) else []
        let n := dstLen form desc
        if n = 0 ∨ (form = 4 ∧ dMask desc = 0) then (s.sset k d.toNat (copyToken 0 0)).advance e
        else if 256 ≤ (s.copies.filter fun c => c.core == s.cc).length ∨ 62 ≤ s.grp.cpc then s.stall
        else
          let id := s.nextId
          let c : Copy := { id := id, form := form, gid := s.cg, after := s.storesOf k, team := s.grp.team, ctx := s.grp.ctx, core := s.cc,
                            token := if d = 0 then 0 else s.scalarKey k d.toNat + 1, desc := desc, targets := ts, splits := [k],
                            reads := readsFrom form desc 0 }
          let s := { s.fresh with copies := s.copies ++ [c] }
          let s := (s.takeToken k d.toNat id).modGr s.cg fun g => { g with cpc := g.cpc + 1 }
          let pc := s.me.pc
          let s := (s.claimAll id form s.cc s.grp.ctx desc ts 0).advance e
          if s.claimsOut id then s.waitFor k (.claim id pc) else s

/-- R236. -/
def execCpy (e : Bool) (d a : BitVec 5) (s : State) : Out := issue s fun s => s.copyForm e 0 d a

/-- R236. -/
def execCpyt (e : Bool) (d a : BitVec 5) (s : State) : Out := issue s fun s => s.copyForm e 1 d a

/-- R236, R244. -/
def execCpyr (e : Bool) (d a : BitVec 5) (s : State) : Out := issue s fun s => s.copyForm e 2 d a

/-- R236. -/
def execCpyg (e : Bool) (d a : BitVec 5) (s : State) : Out := issue s fun s => s.copyForm e 3 d a

/-- R236, R245. -/
def execCpyb (e : Bool) (d a : BitVec 5) (s : State) : Out := issue s fun s => s.copyForm e 4 d a

/-- R246: it does not read the token. -/
def execCpyq (e : Bool) (d a : BitVec 5) (s : State) : Out :=
  issue s fun s =>
    if s.inRegion then s.barred abEngine 0x22
    else if s.grp.index ≠ s.team.producer then s.trapU cStream
    else s.form e { ds := [d.toNat] } .own fun s =>
      let key := s.scalarKey s.cur a.toNat + 1
      let v : Nat := match s.copies.find? fun c => a != 0 && c.token == key with
        | some c => commitOf c.form c.desc c.committed % 2 ^ 40 + (if c.parked then 2 ^ 40 else 0) + 2 ^ 41
        | none => 0
      s.sset s.cur d.toNat (BitVec.ofNat 64 v)

/-! ## The copy at work (R238-R245) -/

/-- What one step of a copy comes to. -/
inductive CopyStep where
  | done (s : State)
  /-- nothing can be done yet -/
  | wait (s : State)
  /-- the page at this address cannot be translated -/
  | fault (s : State) (va : Nat) (write : Bool)
  | ends (s : State) (cause : Nat)

/-- Translate one word of a copy. -/
def State.copyPlace (s : State) (core ctx va : Nat) (need : Need) (dst : Bool) : Except CopyStep (State × Place) :=
  match s.translate core ctx va need with
  | (s, .ok p _) => .ok (s, p)
  | (s, .wait) => .error (.wait s)
  | (s, .contained) => .error (.ends s cContain)
  | (s, .absent _) => .error (.fault s va dst)
  | (s, .fault c _) => .error (if c = cXlate then .fault s va dst else .ends s c)

/-- The place of n bytes at a virtual address of a copy: buffers of its team, or memory. -/
def State.copyAt (s : State) (c : Copy) (va n : Nat) (need : Need) (dst : Bool) : Except CopyStep (State × Place) :=
  match s.aperture c.core va n with
  | some 0 => s.copyPlace c.core c.ctx va need dst
  | some 1 => if s.badBuffer c.core va n (s.tm c.team) then .error (.ends s cBufrange) else .ok (s, .wbuf c.core (va - wbufBase))
  | some _ => if s.badBuffer c.core va n (s.tm c.team) then .error (.ends s cBufrange) else .ok (s, .abuf c.core (va - abufBase))
  | none => .error (.ends s cApert)

/-- The units that a copy has read. -/
def State.gotOf (s : State) (id : Nat) : List (Nat × Nat) :=
  match s.copies.find? fun c => c.id == id with
  | some c => c.got
  | none => []

/-- An engine's read of n bytes of one sector or buffer as a load at dev scope: a miss in the L2 sends RDS or RDU, and waits as any
request does while a copy, a commit or a transaction keeps the sector (R329, R336); the claims of the operation `id` itself it reads
through. An uncorrectable error ends the operation (log entry 85). -/
def State.engineRead (s : State) (core id : Nat) (p : Place) (n : Nat) : Except CopyStep (State × Nat) :=
  match p with
  | .mem pa cls home =>
    let sec := pa / 64
    let d := s.dirAt sec
    if s.lost sec home then .error (.ends s cContain)
    else if s.memTested (dieOf core) sec home then .error (.wait s)
    else if d.state = 3 ∧ d.holder = id then
      let (t, x) := s.homeRead home sec
      .ok (t, sectorPart x sec pa n)
    else if cls = 3 ∧ (s.ownerOf sec).getD (dieOf core) = dieOf core ∧ s.copies.any (fun x => x.id != id && x.claims.contains p.granule) then
      .error (.wait s)
    else if s.badSecs.contains sec then .error (.ends (s.meetBad (dieOf core) sec home) cEccu)
    else
      match s.readSector core sec cls home 4 with
      | .error t => .error (.wait t)
      | .ok (t, x) => .ok (t, sectorPart x sec pa n)
  | q =>
    match q.poisonAt with
    | some (own, sp, off) =>
      let s := s.correct own sp off n
      if s.poisoned own sp off n then .error (.ends (s.detect own sp off) cEccu) else .ok (s, s.flatRead q n)
    | none => .ok (s, s.flatRead q n)

/-- Read one 32-bit word of the source, out of its aligned 8-byte unit, which the copy reads once (R240, R306). -/
def State.copyRead (s : State) (c : Copy) (va : Nat) : Except CopyStep (State × Nat) :=
  let half (v : Nat) : Nat := if va % 8 = 0 then v % 2 ^ 32 else v / 2 ^ 32
  match (s.gotOf c.id).find? fun g => g.1 == va / 8 with
  | some g => .ok (s, half g.2)
  | none => do
    let (s, p) ← s.copyAt c va 4 needLoad false
    match p with
    | .host _ _ => if c.form = 4 then throw (.ends s cPerm)
    | .wbuf _ _ => throw (.ends s cPerm)
    | _ => pure ()
    if s.storeMeets c.after p.unit8 8 || s.placeTested c.core p 4 then throw (.wait s)
    let (s, v) ← s.engineRead c.core c.id p.unit8 8
    return ({ s with copies := updWhere s.copies (fun x => x.id == c.id) fun x =>
      { x with got := x.got ++ [(va / 8, v)],
               spec := if c.form = 1 ∨ c.form = 3 then x.spec
                       else max x.spec (min (dstLen c.form c.desc) (va / 8 * 8 + 8 - (dw c.desc 0).toNat)) } }, half v)

/-- The source word of a destination offset: its value, none where nothing is written. -/
def State.copyWord (s : State) (c : Copy) (o : Nat) : Except CopyStep (State × Option Nat) :=
  if c.form = 3 then do
    let es := dES c.desc
    let (s, i) ← s.copyRead c ((dw c.desc 2).toNat + 4 * (o / es))
    let (s, v) ← s.copyRead c (((dw c.desc 0).toNat + i * es + o % es) % 2 ^ 64)
    return (s, some v)
  else
    match srcOf c.form c.desc o with
    | none => .ok (s, none)
    | some x => (s.copyRead c ((dw c.desc 0).toNat + x)).map fun r => (r.1, some r.2)

/-- CPYR's element add (R244). -/
def copyAdd (ty m x : Nat) : Nat :=
  match ty with
  | 3 => atomFadd 3 m x
  | 6 => atomFadd 6 (m % 65536) (x % 65536) + 65536 * atomFadd 6 (m / 65536) (x / 65536)
  | 7 => atomFadd 7 (m % 65536) (x % 65536) + 65536 * atomFadd 7 (m / 65536) (x / 65536)
  | _ => (m + x) % 2 ^ 32

/-- Write one sector of a COH granule that the copy holds: X with the engine's die (R336, R339), in E where no byte of it is written. A
lost sector that is written whole has no holder but may be held again by then (R346). -/
def State.copySector (s : State) (core sec home : Nat) (keep : BitVec 64) (data : Sector) : State :=
  let d := dieOf core
  let s := (s.tracked sec).foldl (fun t x => if x = d then t else t.recallL2 x sec) s
  let s := (s.roomL2 d sec).getD s
  let (s, x) := s.homeRead home sec
  let s := s.setL2 d sec { state := if keep = 0 then 2 else 3, home := home, tracked := true, data := mergeBytes keep x data, dirty := keep }
  (s.setDir sec { (s.dirAt sec) with state := 2, owner := d, holder := 0, home := home }).refreshL1 core sec keep data

/-- A sector that is lost, or that stands with an error, and is written whole holds good data again; of an OWN block nobody owns the
writer's die is the owner (R346). -/
def State.madeGood (s : State) (die sec cls home : Nat) (keep : BitVec 64) : State :=
  if keep ≠ BitVec.allOnes 64 then s
  else
    let s := { s with badSecs := s.badSecs.filter fun x => x != sec }
    let x := s.dirAt sec
    let s := if x.state = 6 then s.setDir sec { x with state := 0 } else s
    if x.state = 6 ∧ cls = 3 ∧ s.ownerOf sec = none then
      s.setDir (blockOf sec) { s.dirAt (blockOf sec) with own := some die, home := home }
    else s

/-- Write bytes of a destination sector by class: of PRIV memory in the die's L2, where the core's L1 has its dirty bytes go
first. A sector that was lost is in X on the writer's die, whatever its class (R346). -/
def State.copyStore (s : State) (c : Copy) (sec cls home : Nat) (keep : BitVec 64) (data : Sector) : State :=
  let d := dieOf c.core
  let lost := (s.dirAt sec).state == 6
  let s := s.madeGood d sec cls home keep
  if cls = 2 ∨ (lost ∧ cls ≤ 1 ∧ home < 32) then s.copySector c.core sec home keep data
  else if uncached cls home then s.homeMerge home sec keep data
  else
    let o := if cls = 3 then (s.ownerOf sec).getD d else d
    let s := if cls ≤ 1 then s.cleanL1 c.core sec else s
    let s := (s.refreshL1 c.core sec keep data).noteOwn (s.tm c.team).launch (.mem (64 * sec) cls home)
    if (s.l2At o sec).state ≠ 0 then s.writeL2 o sec keep data else s.homeMerge home sec keep data

/-- The destination bytes before the write, as CPYR adds to them. -/
def State.copyOld (s : State) (c : Copy) (p : Place) : Nat :=
  match p with
  | .mem pa cls home =>
    let sec := pa / 64
    let o := if cls = 3 then (s.ownerOf sec).getD (dieOf c.core) else dieOf c.core
    if cls ≠ 2 ∧ (s.l2At o sec).state ≠ 0 then sectorPart (s.l2At o sec).data sec pa 4
    else sectorPart (s.homeRead home sec).2 sec pa 4
  | q => s.flatRead q 4

/-- Words of a granule with their places. -/
abbrev Staged := List (Place × Nat)

/-- Stage the words from offset o on, at most n of them: `base` is the destination's first address. -/
def State.stageWords (s : State) (c : Copy) (place : State → Nat → Except CopyStep (State × Place)) :
    Nat → Nat → Except CopyStep (State × Staged)
  | _, 0 => .ok (s, [])
  | o, n + 1 =>
    match s.copyWord c o with
    | .error x => .error x
    | .ok (s, none) => s.stageWords c place (o + 4) n
    | .ok (s, some v) =>
      match place s o with
      | .error x => .error x
      | .ok (s, p) =>
        match s.stageWords c place (o + 4) n with
        | .error x => .error x
        | .ok (s, ws) => .ok (s, (p, v) :: ws)

/-- The destinations of two copies of a group share an address, of which the first has bytes still to write. -/
def Copy.reaches (x c : Copy) : Bool :=
  let a := (dw x.desc 1).toNat
  let b := (dw c.desc 1).toNat
  x.form != 4 && c.form != 4
    && decide (x.committed < dstLen x.form x.desc ∧ a < b + dstLen c.form c.desc ∧ b < a + dstLen x.form x.desc)

/-- An earlier copy of the same group writes a place later than this one would: it still claims the granule, or it goes to the same
addresses, on a HOST page or on a page that it has not claimed yet (R241, R242). -/
def State.copyBefore (s : State) (c : Copy) (p : Place) : Bool :=
  s.copies.any fun x => decide (x.id < c.id) && x.gid == c.gid && x.failed == 0
    && (x.reaches c || match p with
      | .host _ _ => false
      | q => x.claims.contains q.granule)

/-- A staged write may be performed: its claim is taken, no copy or quarter-op that came before has still to write or read it, and
the L2 has a way for its line (R229, R239, R241, R328). -/
def State.mayStage (s : State) (c : Copy) (p : Place) : Bool :=
  !s.readClaim c.id p 4 && !s.placeTested c.core p 4 && !s.copyBefore c p &&
    match p with
    | .mem pa cls _ =>
      (!p.tracked || c.granted.contains (pa / 64))
        && ((cls != 2 && (s.dirAt (pa / 64)).state != 6) || (s.roomL2 (dieOf c.core) (pa / 64)).isSome)
    | _ => true

/-- The whole sector is written, as a lost one must be (R346). -/
def coversSector (ws : Staged) (sec : Nat) : Bool :=
  (ws.filter fun w => match w.1 with | .mem pa _ _ => pa / 64 == sec | _ => false).length == 16

/-- Write staged words, sector by sector for memory. -/
def State.writeStaged (s : State) (c : Copy) (ws : Staged) : State :=
  let ty := field (dw c.desc 3) 7 4
  -- of PRIV memory the adds are performed in the L2, as atomics are (R244, R307)
  let s := if c.form = 2 then ((ws.filterMap fun w => match w.1 with
      | .mem pa cls _ => if cls ≤ 1 then some (pa / 64) else none
      | _ => none).dedup).foldl (fun t sec => t.shedL1 (dieOf c.core) sec) s
    else s
  let val (t : State) (w : Place × Nat) : Nat := if c.form = 2 then copyAdd ty (t.copyOld c w.1) w.2 else w.2
  let mems := ws.filterMap fun w => match w.1 with | .mem pa cls home => some (pa, cls, home, val s w) | _ => none
  let flat := ws.filter fun w => match w.1 with | .mem _ _ _ => false | _ => true
  let s := flat.foldl (fun t w => t.flatWrite w.1 4 (val t w)) s
  ((mems.map fun m => m.1 / 64).dedup).foldl (fun t sec =>
    let mine := mems.filter fun m => m.1 / 64 == sec
    match mine with
    | [] => t
    | (_, cls, home, _) :: _ =>
      let keep := mine.foldl (fun k m => k ||| sectorMask sec m.1 4) 0
      let data := mine.foldl (fun x m => mergeBytes (sectorMask sec m.1 4) x (sectorImage sec m.1 4 m.2.2.2)) 0
      t.copyStore c sec cls home keep data) s

/-- Where the words of the copy go. -/
def State.dstPlace (c : Copy) (s : State) (o : Nat) : Except CopyStep (State × Place) :=
  match s.copyAt c ((dw c.desc 1).toNat + o) 4 (copyDst c.form) true with
  | .ok (t, .host a f) => if c.form = 2 then .error (.ends t cPerm) else .ok (t, .host a f)
  | r => r

/-- The other claimed sectors of a granule that has been written go to X with it, and what waits for them is served (R336, R339). -/
def State.settleGranules (s : State) (c : Copy) (done : List (Nat × Nat)) : State :=
  let mine := s.dir.filter fun p => p.2.state == 3 && p.2.holder == c.id && done.contains (0, p.1 / 4)
  mine.foldl (fun t p => t.copySector c.core p.1 p.2.home 0 0) s

/-- The units of a copy that are read and stay of use when it stands at an offset: of a copy in the order of its source, those past
it; of the others all. -/
def Copy.keeps (c : Copy) (pos : Nat) : List (Nat × Nat) :=
  if c.form = 1 ∨ c.form = 3 then c.got else c.got.filter fun g => decide ((dw c.desc 0).toNat + pos < 8 * g.1 + 8)

/-- Record that the copy stands at an offset, its claims below it gone. -/
def State.advanceCopy (s : State) (c : Copy) (pos : Nat) (done : List (Nat × Nat)) : State :=
  let s := s.settleGranules c done
  let fin := pos = dstLen c.form c.desc
  { s with copies := updWhere s.copies (fun x => x.id == c.id) fun x =>
      { x with committed := pos, spec := max x.spec pos, parked := false, got := if fin then [] else x.keeps pos,
               reads := readsFrom c.form c.desc pos, claims := if fin then [] else x.claims.filter fun g => !done.contains g } }

/-- The speculative position of a copy goes on to an offset (R243). -/
def State.specTo (s : State) (id pos : Nat) : State :=
  { s with copies := updWhere s.copies (fun x => x.id == id) fun x => { x with spec := max x.spec pos } }

/-- Claim the page the copy has just reached, if it was not claimed at issue (R242). -/
def State.claimLate (s : State) (c : Copy) (ws : Staged) : State :=
  ws.foldl (fun t w => match w.1 with
    | .host _ _ => t
    | p => if (t.copies.any fun x => x.id == c.id && x.claims.contains p.granule) then t else t.claimPlace c.id c.core p 4) s

/-- Write the granule at the committed position (R242, R243). -/
def State.copyGranule (s : State) (c : Copy) : CopyStep :=
  let len := dstLen c.form c.desc
  let base := if c.form = 4 then (dw c.desc 1).toNat else (dw c.desc 1).toNat % 256
  let fin := granuleEnd base len c.committed
  let n := (fin - c.committed) / 4
  if c.form = 4 then
    if c.targets.any fun t => !(s.tm t).abufReady then .wait s
    else
      match s.stageWords c (fun s o => .ok (s, .abuf 0 o)) c.committed n with
      | .error x => x
      | .ok (s, ws) =>
        let dst := (dw c.desc 1).toNat
        let all := c.targets.flatMap fun t => ws.map fun w => ((.abuf (s.tm t).core ((s.tm t).abufOff + dst + w.1.at'.2) : Place), w.2)
        if all.any fun w => !s.mayStage c w.1 then .wait (s.specTo c.id fin)
        else .done ((s.writeStaged c all).advanceCopy c fin ((all.map fun w => w.1.granule).dedup))
  else
    match s.stageWords c (State.dstPlace c) c.committed n with
    | .error x => x
    | .ok (s, ws) =>
      let s := s.claimLate c ws
      let c := (s.copies.find? fun x => x.id == c.id).getD c
      let bad := ws.any fun w => match w.1 with
        | .mem pa _ home => s.lost (pa / 64) home && !(s.homeUp home && coversSector ws (pa / 64))
        | _ => false
      if bad then .ends s cContain
      else if ws.any fun w => !s.mayStage c w.1 then .wait (s.specTo c.id fin)
      else .done ((s.writeStaged c ws).advanceCopy c fin ((ws.map fun w => w.1.granule).dedup))

/-- The copy stops with a cause; its end is still to be written. -/
def State.failCopy (s : State) (id cause : Nat) : State :=
  { s with copies := updWhere s.copies (fun x => x.id == id) fun x => { x with failed := cause, parked := false } }

/-- Park a copy on a page and ask for it (R243, R388, R389): it keeps its two positions, and what it has read past the committed one is
discarded. R388's entry has no bits for the positions. -/
def State.parkCopy (s : State) (c : Copy) (va : Nat) (write : Bool) : State :=
  let s := { s with copies := updWhere s.copies (fun x => x.id == c.id) fun x => { x with parked := true, got := [] } }
  match s.post { ctx := c.ctx, va := va, kind := if write then 1 else 0, src := 1, die := dieOf c.core, core := c.core % 64,
                 who := .copy c.id } with
  | (s, .posted) => s
  | (s, .full) => s.modCx c.ctx fun x => { x with prqPoll := x.prqPoll ++ [(va, if write then 1 else 0, 1, .copy c.id)] }
  | (s, .off) => s.failCopy c.id cXlate

/-- One step of a copy. -/
def State.copyStep (s : State) (c : Copy) : State :=
  match s.copyGranule c with
  | .done t => t.wake
  | .wait t => t
  | .fault t va w => t.parkCopy c va w
  | .ends t cause => t.failCopy c.id cause

/-- The copy is finished, well or not. -/
def Copy.over (c : Copy) : Bool := c.failed != 0 || decide (dstLen c.form c.desc ≤ c.committed)

/-- R242: the next granule of a copy that is neither parked nor finished. -/
def execCopyGranuleWrite (copy : Nat) (s : State) : Out :=
  .next (match s.copies.find? fun c => c.id == copy with
    | none => s
    | some c => if c.parked || c.over then s else s.copyStep c)

/-- The PC of the copy form whose claims a split waits for. -/
def Wait.ofCopy (id : Nat) : Wait → Option (BitVec 32)
  | .claim c pc => if c = id then Option.some pc else Option.none
  | _ => Option.none

/-- A split that waited for the copy's claims has completed the copy form and goes on, or stops there (R242, R366). -/
def State.claimsTaken (s : State) (id : Nat) : State :=
  if s.claimsOut id then s
  else (s.splits.foldl (fun t p => match p.2.wait.ofCopy id with
    | some pc => (t.ready p.1).stopHere p.1 pc
    | none => t) s).wake

/-- The end of a copy: claims released, token written, CPC falls (R240, R242). -/
def State.endCopy (s : State) (c : Copy) : State :=
  let s := s.releaseHeld 3 c.id
  let s := { s with copies := s.copies.filter (fun x => x.id != c.id),
                    reqs := s.reqs.filter fun q => !(q.who == 1 && q.holder == c.id) }
  let s := s.dropCleanL1 c.core (acqDrop (dScope c.form c.desc))
  let s := s.writeToken c.token c.id (copyToken c.failed (commitOf c.form c.desc c.committed))
  let s := s.modGr c.gid fun g => { g with cpc := g.cpc - 1 }
  (s.claimsTaken c.id).wake

/-- R240. -/
def execCopyComplete (copy : Nat) (s : State) : Out :=
  .next (match s.copies.find? fun c => c.id == copy with
    | none => s
    | some c => if c.over then s.endCopy c else s)

end Sys2Proof.Machine
end

