-- ==== Sys2Proof/Machine/Region.lean ====
section
/-! DEFINITION. Major 0x20: atomic regions, their commit (R214-R216) and the serialised attempt's timeout
(R203-R207, R220). The record a region keeps stands in Ops and Lanes. -/
namespace Sys2Proof.Machine

/-! ## Opening and closing -/

/-- Open regions on a core. -/
def State.openRegions (s : State) (core : Nat) : Nat :=
  (s.regions.filter fun p => coreOf (gidOf p.1) == core).length

/-- R204. -/
def execRgbeg (e : Bool) (a : BitVec 5) (d : BitVec 18) (s : State) : Out :=
  issue s fun s =>
    let k := s.cur
    let p := s.me
    if s.inHandler then s.trapU cPriv
    else s.nearForm fun s =>
      match s.nearTarget ((pcOff p.pc : Int) + d.toInt) with
      | none => s.trapU cApert
      | some target =>
        match s.region k with
        | some r =>
          if r.depth = 4 then s.regAbort k { code := abNest }
          else
            match s.countIssue k with
            | .error t => t
            | .ok t =>
              (match t.region k with
               | some r => t.setRegion k (some { r with depth := r.depth + 1 })
               | none => t).advance e
        | none =>
          if s.stalled k { ds := [a.toNat] } || decide (s.grp.ldc ≠ 0) || decide (16 ≤ s.openRegions s.cc) then s.stall
          else
            let run := if p.runPc = p.pc then p.run else 0
            let r : Region := { target := target, s := a.toNat, gmode := p.gmode, cwp := p.cwp, resident := p.resident,
                                depth := 1, ser := decide (8 ≤ run), since := s.nextId }
            let s := s.setRegion k (some r)
            (s.modSp k fun p => { p with mode := .region, run := run, runPc := p.pc }).advance e

/-- The commit engine takes the next sector of the set, in ascending order (R214). -/
def State.askNext (s : State) (k : Nat) : State :=
  match s.region k with
  | none => s
  | some r =>
    let open' := r.sectors.filter fun p => !r.held.contains p.1
    match open'.foldl (fun (m : Option (Nat × Nat)) p => match m with
      | none => some p
      | some q => if p.1 < q.1 then some p else some q) none with
    | none => s
    | some p =>
      if s.lost p.1 p.2 then s.regAbort k { code := abFault, detail := cContain, scal := true }
      else s.askHold k p.1 p.2

/-- An access or a ray query of the split, or one that a fusion or a phase orders before it, is still to be performed: the commit waits
for it before it takes a sector (R214, R216, R311). -/
def State.splitInFlight (s : State) (k : Nat) : Bool :=
  (s.ops.any fun o => o.splits.contains k || s.fencedTo k o.id o.splits)
  || s.rays.any fun r => r.splits.contains k || s.fencedTo k r.id r.splits

/-- R205. -/
def execRgend (e : Bool) (s : State) : Out :=
  issue s fun s =>
    let k := s.cur
    match s.region k with
    | none => s.trapU cPriv
    | some _ =>
      match s.countIssue k with
      | .error t => t
      | .ok t =>
        match t.region k with
        | none => t
        | some r =>
          if 1 < r.depth then (t.setRegion k (some { r with depth := r.depth - 1 })).advance e
          else
            let t := t.waitFor k .commit
            if t.splitInFlight k then t else t.askNext k

/-- R206. -/
def execRgabt (_e : Bool) (c : BitVec 8) (s : State) : Out :=
  issue s fun s =>
    if s.inRegion then s.regAbort s.cur { code := abExplicit, detail := c.toNat } else s.trapU cPriv

/-- The status word of the split's current or latest region (R207). -/
def State.rgStatus (s : State) (k : Nat) : Word64 :=
  let p := s.sp k
  let run := 2 ^ 26 * p.run
  match s.region k with
  | some r => BitVec.ofNat 64 (1 + 2 ^ 22 * r.depth + (if r.ser then 2 ^ 25 else 0) + run)
  | none => p.rgst + BitVec.ofNat 64 run

/-- R207. -/
def execRgst (e : Bool) (a : BitVec 5) (s : State) : Out :=
  issue s fun s => s.form e { ds := [a.toNat] } .conc fun s => s.sset s.cur a.toNat (s.rgStatus s.cur)

/-! ## The commit (R214) -/

/-- Read the pieces of an input at the home, which holds the sectors. -/
def State.reread (s : State) (x : Input) : Nat :=
  x.pieces.foldl (fun acc p => acc + (match p.1 with
    | .mem pa _ home => sectorPart (s.homeRead home (pa / 64)).2 (pa / 64) pa p.2.1
    | _ => 0) * 256 ^ p.2.2) 0

/-- The re-read value of input k of a record. -/
def newOf (news : List (Nat × Nat × Nat)) (slot k : Nat) : Nat :=
  ((news.find? fun n => n.1 == slot && n.2.1 == k).map fun n => n.2.2).getD 0

/-- A constraint holds with the new value (R212, R214). -/
def Constraint.holds (c : Constraint) (news : List (Nat × Nat × Nat)) (inputs : List Input) : Bool :=
  let v := newOf news c.slot c.k
  if c.rel = 6 then
    inputs.any fun x => x.slot == c.slot && x.k == c.k && x.observed.toNat == v
  else relHolds c.rel c.signed c.w (BitVec.ofNat 64 v + c.c) c.bound == c.outcome

/-- The first failing constraint: its slot, lanes before the scalar work, and its index in the record. -/
def firstFailing (r : Region) (news : List (Nat × Nat × Nat)) : Option (Nat × Nat) :=
  (List.range 33).findSome? fun slot =>
    (((r.cons.filter fun c => c.slot == slot).zipIdx).find? fun p => !p.1.holds news r.inputs).map fun p => (slot, p.2)

/-- The value a tag names after the commit. -/
def Tag.value (t : Tag) (news : List (Nat × Nat × Nat)) (slot : Nat) : Word64 :=
  BitVec.ofNat 64 (newOf news slot t.k) + t.c

/-- The part of a tagged value a row holds. -/
def Tag.row (t : Tag) (v : Word64) : Word32 := if t.part = 2 then hi32 v else lo32 v

/-- Tagged registers take their new values. -/
def State.reeval (s : State) (r : Region) (news : List (Nat × Nat × Nat)) : State :=
  { s with sreg := r.tagS.foldl (fun m p => mset 0 m p.1 (p.2.value news scalSlot)) s.sreg
           vreg := r.tagV.foldl (fun m p => mset 0 m p.1 (p.2.row (p.2.value news (p.1 % 32)))) s.vreg }

/-- Perform one buffered store (R213, R216). -/
def State.commitStore (s : State) (k core : Nat) (news : List (Nat × Nat × Nat)) (b : RStore) : State :=
  let v := match b.tag with
    | some t => (t.value news b.slot).toNat % 256 ^ b.size
    | none => b.value.toNat
  b.pieces.foldl (fun t p =>
    let w := v / 256 ^ p.2.2 % 256 ^ p.2.1
    match p.1 with
    | .mem pa cls home =>
      if cls = 2 ∧ home < 32 ∧ ¬ b.plain then t.homeMerge home (pa / 64) (sectorMask (pa / 64) pa p.2.1) (sectorImage (pa / 64) pa p.2.1 w)
      else (t.nowWrite core p.1 p.2.1 w).noteOwn (t.launchOf (gidOf k)) p.1
    | q => t.flatWrite q p.2.1 w) s

/-- The commit of split k as one store of n bytes at a place. -/
def commitOp (s : State) (k : Nat) (p : Place) (n : Nat) : MemOp × MUnit :=
  let u : MUnit := { lane := 0, place := p, size := n, off := 0 }
  ({ id := s.nextId, splits := [k], gid := gidOf k, ctx := (s.gr (gidOf k)).ctx, core := coreOf (gidOf k), kind := .store, units := [u],
     rel := true }, u)

/-- Nothing still holds the commit up: the split's accesses are performed, its sectors are held, and of no buffered store a claim lies
on the bytes, an earlier copy of the split has still to read them, or a test keeps them (R214-R216, R229, R242, R318, R411). -/
def State.mayCommit (s : State) (k : Nat) (r : Region) : Bool :=
  !s.splitInFlight k && (r.sectors.all fun p => r.held.contains p.1 && !s.homeTested p.2 p.1)
  && !r.stores.any fun b => b.pieces.any fun p =>
      let x := commitOp s k p.1 p.2.1
      s.readClaim s.nextId p.1 p.2.1 || s.claimed x.1 x.2 || s.sourceHeld x.1 x.2 || s.placeTested (coreOf (gidOf k)) p.1 p.2.1
        || ((b.plain || !p.1.isProtected) && s.placeHeld (coreOf (gidOf k)) p.1)

/-- Commit the region of split k, or abort it with CONSTRAINT (R214). -/
def State.commit (s : State) (k : Nat) (r : Region) : State :=
  let core := coreOf (gidOf k)
  let news := r.inputs.map fun x => (x.slot, x.k, s.reread x)
  let changed := (r.inputs.filter fun x => s.reread x != x.observed.toNat).length
  match firstFailing r news with
  | some (slot, i) =>
    s.regAbort k { code := abConstraint, detail := i, lane := if slot = scalSlot then 0 else slot, scal := slot == scalSlot,
                   changed := changed }
  | none =>
    let s := s.cleanAllL1 core
    let s := r.stores.foldl (fun t b => t.commitStore k core news b) (s.reeval r news)
    let s := ((s.releaseHeld 4 k).setRegion k none).dropCleanL1 core 2
    let s := s.modSp k fun p =>
      { p with mode := .normal, run := 0, rgst := statusWord (if changed = 0 then 2 else 3) { code := 0, changed := changed } r.ser }
    (s.finishAt k).wake

/-- A sector of the set is lost: its home is out of service, or its owner was (R222, R332, R346). -/
def State.setLost (s : State) (r : Region) : Bool := r.sectors.any fun p => s.lost p.1 p.2

/-- R214: the commit, once everything it needs is held; until then the engine takes its next sector. An uncorrectable load and a
sector that is lost, also after it was held, abort with FAULT (R218, R222). -/
def execRegionCommit (split : Nat) (s : State) : Out :=
  .next (match s.region split with
    | none => s
    | some r =>
      if (s.sp split).wait ≠ .commit ∨ s.splitInFlight split then s
      else if let some x := (s.sp split).eccu then s.takeEccu split x
      else if s.setLost r then s.regAbort split { code := abFault, detail := cContain, scal := true }
      else if s.mayCommit split r then s.commit split r
      else s.askNext split)

/-- A request of a region waits for a sector another region holds (R220). -/
def State.serialWaits (s : State) (k : Nat) : Bool :=
  s.reqs.any fun q => q.who == 2 && q.holder == k && (s.dirAt q.sector).state == 4 && (s.dirAt q.sector).holder != k

/-- R220: a serialised attempt has waited too long. No constraint failed, and the spec gives no LANE and SCAL for it (log entry 43). -/
def execRegionSerialTimeout (split : Nat) (s : State) : Out :=
  .next (match s.region split with
    | none => s
    | some r =>
      if r.ser && s.serialWaits split then
        let at' := Config.timeoutSlot s.freeCtr
        ({ s with freeCtr := s.freeCtr + 1 } : State).regAbort split { code := abConstraint, detail := 0xFF, lane := at'.1, scal := at'.2 }
      else s)

end Sys2Proof.Machine
end

