-- ==== Sys2Proof/Machine/Coherence.lean ====
section
/-! DEFINITION. The home directories at work (R334-R339): requests, recalls, grants, write-backs; stale messages
(R347), the switch that speaks for the peers (R345), and containment (R346). -/
namespace Sys2Proof.Machine

/-! ## Requests on their way -/

/-- The first request of a die for a sector, if it is of this kind: requests of one die for one sector keep their
order (R336). The home's own recall, and the switch's, come under every kind. -/
def State.nextReq (s : State) (kind die sec : Nat) : Option Req :=
  match s.reqs.find? fun q => q.die == die && q.sector == sec with
  | some q => if q.kind = kind ∨ q.kind = 8 then some q else none
  | none => none

def State.dropReq (s : State) (q : Req) : State := { s with reqs := s.reqs.erase q }

/-- The die-table index under which the directory knows the switch (R334, R345). -/
def switchDie : Nat := 31

/-- A message of an earlier incarnation of its sender (R347). -/
def Req.stale (s : State) (q : Req) : Bool :=
  q.inc != (if q.who = 5 then s.peerInc q.holder else (s.di q.die).incarn)

/-- The sender of a request is in service: a die of the package, or the switch, for a peer that is up. -/
def State.senderUp (s : State) (q : Req) : Bool :=
  if q.die = switchDie then q.who != 5 || s.peerUp q.holder else (s.di q.die).state == 1

/-- A request waits for the test of a unit that it needs (R411). -/
def State.reqTested (s : State) (q : Req) : Bool := s.testing q.die 1 (s.l2Slice q.die q.sector) || s.homeTested q.home q.sector

/-! ## Grants -/

/-- Fill a die's L2 with a sector from its home; a copy that is there already keeps its bytes, and rises to the state granted. -/
def State.fillL2 (s : State) (die sec home st : Nat) (tracked : Bool) : State :=
  let s := (s.roomL2 die sec).getD s
  let e := s.l2At die sec
  if e.state ≠ 0 then s.setL2 die sec { e with state := max e.state st, tracked := tracked }
  else
    let (t, x) := s.homeRead home sec
    t.setL2 die sec { state := st, home := home, tracked := tracked, data := x, dirty := 0 }

/-- A prefetched sector goes on to the L1 (R188). -/
def State.prefetched (s : State) (q : Req) : State :=
  let e := s.l2At q.die q.sector
  if q.who = 4 ∧ e.state ≠ 0 ∧ s.hasL1 q.holder then s.fillL1 q.holder q.sector q.cls q.home e.data else s

/-- Give a sector to a claim: the engine's die is the owner, no L2 holds it (R339). -/
def State.grantClaim (s : State) (q : Req) (st : Nat) : State :=
  let s := s.recallL2 q.die q.sector
  s.setDir q.sector { s.dirAt q.sector with state := st, owner := q.die, holder := q.holder, home := q.home, busy := none }

/-- A copy's claim is granted. -/
def State.grantCopy (s : State) (q : Req) : State :=
  { s with copies := updWhere s.copies (fun c => c.id == q.holder) fun c => { c with granted := c.granted ++ [q.sector] } }

/-- A commit engine takes a sector; a region that is gone gives it up at once (R214, R217). -/
def State.grantHold (s : State) (q : Req) : State :=
  match s.region q.holder with
  | none => s.releaseHeld 4 q.holder
  | some r =>
    let s := s.setRegion q.holder (some { r with held := r.held ++ [q.sector] })
    (if (s.sp q.holder).wait = .commit then s.askNext q.holder else s).wake

/-- A die takes a sector in X (R336). -/
def State.grantX (s : State) (q : Req) : State :=
  s.setDir q.sector { s.dirAt q.sector with state := 2, owner := q.die, home := q.home }

/-- Send the switch a message (R345). -/
def State.tellSwitch (s : State) (m : LinkOut) : State := { s with linkOut := m :: s.linkOut }

/-- The switch takes a sector for a peer: the directory knows it as SHARERS bit 31 or OWNER 31, the switch which peer it is (R336, R345).
The data go with the answer, but to an upgrade. -/
def State.grantPeer (s : State) (q : Req) : State :=
  let d := s.dirAt q.sector
  let (s, x) := s.homeRead q.home q.sector
  let s := s.tellSwitch (.reply q.sector (if q.kind = 2 ∧ d.state = 1 ∧ s.filter.contains (q.sector, q.holder) then none else some x))
  let s := { s with filter := (q.sector, q.holder) :: s.filter.erase (q.sector, q.holder) }
  if q.kind = 0 ∧ d.state = 1 then s.setSharers q.sector (s.sharersOf q.sector ||| maskOf [switchDie])
  else s.setDir q.sector { d with state := 2, owner := switchDie }

/-- The home recalls a sector of its own accord, or for the switch's filter: nobody holds it now (R334, R345). -/
def State.grantRecall (s : State) (q : Req) : State :=
  let s := s.setDir q.sector { s.dirAt q.sector with state := 0 }
  { s with filter := s.filter.filter fun p => p.1 != q.sector }

/-- Complete a request for a COH sector whose other holders have answered (R336). -/
def State.grant (s : State) (q : Req) : State :=
  let s := s.setDir q.sector { s.dirAt q.sector with busy := none, home := q.home }
  if q.who = 1 then ((s.grantClaim q 3).grantCopy q).claimsTaken q.holder
  else if q.who = 2 then (s.grantClaim q 4).grantHold q
  else if q.kind = 8 then (s.grantRecall q).wake
  else if q.who = 5 then (s.grantPeer q).wake
  else if q.kind = 0 ∧ (s.dirAt q.sector).state = 1 then
    (((s.fillL2 q.die q.sector q.home 1 true).setSharers q.sector (s.sharersOf q.sector ||| maskOf [q.die])).prefetched q).wake
  else (((s.fillL2 q.die q.sector q.home 2 true).grantX q).prefetched q).wake

/-- A die holds the sector beside the requester; the switch does so when another of its peers holds it. -/
def State.otherHolder (s : State) (q : Req) (i : Nat) : Bool :=
  i != q.die || (q.who == 5 && s.filter.any fun p => p.1 == q.sector && p.2 != q.holder)

/-- Dies that must answer before a request is granted: whom, and whether they invalidate. -/
def State.recallsFor (s : State) (q : Req) : List (Nat × Bool) :=
  let d := s.dirAt q.sector
  if d.state = 2 ∧ s.otherHolder q d.owner then [(d.owner, q.kind != 0)]
  else if d.state = 1 ∧ q.kind ≠ 0 then
    ((lanesOf (s.sharersOf q.sector)).filter (s.otherHolder q)).map fun i => (i, true)
  else []

/-- Serve a request for a COH sector (R336). -/
def State.serveCoh (s : State) (q : Req) : State :=
  let rs := s.recallsFor q
  if rs.isEmpty then s.grant q
  else
    let s := s.setDir q.sector { s.dirAt q.sector with busy := some q, home := q.home }
    let s := (rs.filter fun r => r.1 == switchDie).foldl (fun t r => t.tellSwitch (.recall q.sector r.2)) s
    { s with recalls := s.recalls ++ rs.map fun r =>
        { die := r.1, sector := q.sector, home := q.home, inval := r.2, inc := (s.di q.home).incarn } }

/-- A copy claims a sector of an OWN block: the owner's L2 takes it in M and holds the claim there (R338). -/
def State.claimOwned (s : State) (q : Req) (o : Nat) : State :=
  let s := if (s.l2At o q.sector).state = 0 then s.fillL2 o q.sector q.home 3 false else s
  let s := s.setL2 o q.sector { s.l2At o q.sector with state := 3 }
  (s.grantCopy q).claimsTaken q.holder

/-- Another copy holds a claim on the sector of an OWN block. -/
def State.ownClaimed (s : State) (q : Req) : Bool :=
  s.copies.any fun c => c.id != q.holder && c.granted.contains q.sector && c.claims.contains (0, q.sector / 4)

/-- Serve a request for an OWN sector (R338): the first one takes the block. A die that does not own it keeps nothing of the sector in
its L2 (R321); a peer is answered with the LLC's value. -/
def State.serveOwn (s : State) (q : Req) : State :=
  if q.who = 5 then
    let (s, x) := s.homeRead q.home q.sector
    (s.tellSwitch (.reply q.sector (some x))).wake
  else
    match s.ownerOf q.sector with
    | none =>
      let b := blockOf q.sector
      let s := s.setDir b { s.dirAt b with own := some q.die, home := q.home }
      if q.who = 1 then s.claimOwned q q.die else (s.fillL2 q.die q.sector q.home 1 false).wake
    | some o =>
      if q.who = 1 then s.claimOwned q o
      else if o = q.die ∧ (s.l2At q.die q.sector).state = 0 then (s.fillL2 q.die q.sector q.home 1 false).wake
      else s.wake

/-! ## Errors (R332, R346) -/

/-- An access of a die has still to be performed in a sector. -/
def MemOp.waitsFor (o : MemOp) (sec : Nat) : Bool := o.units.any fun u => !u.done && u.places.any (fun p => p.inSector sec)

/-- The accesses of a die that wait for a sector fail: a region aborts, or the context halts (R218, R346). -/
def State.failWaiting (s : State) (die sec : Nat) : State :=
  ((s.ops.filter fun o => dieOf o.core == die && o.waitsFor sec).map fun o => o.id).foldl (fun t id =>
    match t.ops.find? fun o => o.id == id with
    | some o => t.failOp o (fun p => p.inSector sec)
    | none => t) s

/-- The commit of a region, or an access of its serialised attempt, meets an error in a sector (R218-R220): of the commit SCAL is 1, of
an access the lowest lane is named that needs the sector. -/
def State.failHold (s : State) (k sec : Nat) : State :=
  if (s.sp k).wait = .commit then s.regAbort k { code := abFault, detail := cContain, scal := true }
  else
    match s.ops.find? fun o => o.inRegion && o.splits.contains k && o.waitsFor sec with
    | some o => s.failOp o (fun p => p.inSector sec)
    | none =>
      let slots := match s.region k with
        | some r => (r.stores.filter fun (b : RStore) => b.pieces.any fun p => p.1.inSector sec).map RStore.slot
        | none => []
      let lanes := slots.filter fun x => x != scalSlot
      s.regAbort k { code := abFault, detail := cContain, scal := lanes.isEmpty, lane := if lanes.isEmpty then 0 else lowLane (maskOf lanes) }

/-- A copy's claim of a sector that no byte of it reaches, or that it writes whole, though the sector is lost: the sector stays lost
until it is written (R346). -/
def State.claimsLost (s : State) (q : Req) : Bool :=
  s.homeUp q.home && (q.dirty == 0 || (q.dirty == BitVec.allOnes 64 && s.copies.any fun c => c.id == q.holder && c.form != 2))

/-- The error answer: a copy ends, a commit aborts, a thread's access fails, a peer is told. -/
def State.refuse (s : State) (q : Req) : State :=
  if q.who = 1 then
    if s.claimsLost q then (s.grantCopy q).claimsTaken q.holder
    else (s.failCopy q.holder cContain).claimsTaken q.holder
  else if q.who = 2 then s.failHold q.holder q.sector
  else if q.who = 5 then s.tellSwitch (.error q.sector)
  else if q.kind = 8 then s
  else (s.failWaiting q.die q.sector).wake

/-! ## The directory's entries (R334) -/

/-- The sector is in a state other than I, owned as a block, or in a transaction. -/
def Dir.used (d : Dir) : Bool := d.state != 0 || d.own.isSome || d.busy.isSome

/-- The lines with an entry in the directory of a home. -/
def State.dirLines (s : State) (home : Nat) : List Nat :=
  ((s.dir.filter fun p => p.2.used && p.2.home == home).map fun p => p.1 / 4).dedup

/-- The lines with an entry in the set of a line: which set a line takes is open (log entry 78). -/
def State.dirMates (s : State) (home line : Nat) : List Nat :=
  (s.dirLines home).filter fun x => Config.directorySet x % 262144 == Config.directorySet line % 262144

/-- A line has an entry, or its set has room for one: 16 ways. A peer's lines are with the switch (R345). -/
def State.dirRoom (s : State) (home line : Nat) : Bool :=
  decide (32 ≤ home) || (s.dirLines home).contains line || decide ((s.dirLines home).length < 16)
    || decide ((s.dirMates home line).length < 16)

/-- An entry may be evicted: no claim, commit or transaction holds a sector of the line, none is lost, and no request is queued on
it. -/
def State.mayEvict (s : State) (line : Nat) : Bool :=
  ((lineSecs line).all fun sec => s.secFree sec && (s.dirAt sec).state != 6) && !s.reqs.any fun q => q.sector / 4 == line

/-- Recall the holders of one sector of an entry that is evicted. -/
def State.recallEntry (s : State) (home sec : Nat) : State :=
  s.serveCoh { kind := 8, die := home, sector := sec, home := home }

/-- Make room in a set of the directory: an entry is evicted, its holders recalled, M data written back (R334). Which one is open
(log entry 78); while none may go, and while one is on its way, the request waits. -/
def State.evictEntry (s : State) (home line : Nat) : State :=
  let mates := s.dirMates home line
  let ok := mates.filter s.mayEvict
  if ok.isEmpty || mates.any fun x => (lineSecs x).any fun sec => match (s.dirAt sec).busy with | some q => q.kind == 8 | none => false
  then s
  else
    let v := (ok[Config.directoryVictim s.freeCtr % ok.length]?).getD 0
    let s := (lineSecs v).foldl (fun t sec => t.releaseBlock sec) { s with freeCtr := s.freeCtr + 1 }
    (lineSecs v).foldl (fun t sec => t.recallEntry home sec) s

/-- The L2 that is to take a request's sector: the owner's for a claim on an OWN block, none for another claim, for a commit and for the
switch, nor for what a die reads of a block that another die owns (R321, R338). -/
def State.fillsL2 (s : State) (q : Req) : Option Nat :=
  let o := (s.ownerOf q.sector).getD q.die
  if q.die = switchDie ∨ q.who = 2 ∨ (q.cls ≠ 3 ∧ q.who = 1) then none
  else if q.cls ≠ 3 then some q.die
  else if q.who = 1 then some o
  else if o = q.die then some o else none

/-- A way is kept for the line of a request in the L2 that is to take it; none where the request waits (R328). -/
def State.keepWay (s : State) (q : Req) : Option State :=
  match s.fillsL2 q with
  | some d => s.roomL2 d q.sector
  | none => some s

/-- The line under which the directory holds the sector of a request. -/
def Req.dirLine (q : Req) : Nat := (if q.cls = 3 then blockOf q.sector else q.sector) / 4

/-- A claim or a transaction keeps a request in the sector's queue (R336, R338). -/
def State.reqQueued (s : State) (q : Req) : Bool :=
  let d := s.dirAt q.sector
  if q.cls = 3 then q.who == 1 && s.ownClaimed q else d.busy.isSome || d.state == 3 || d.state == 4

/-- Serve the next read or ownership request of a die for a sector: 0 RDS, 1 RDX, 2 UPG. -/
def State.serve (s : State) (kind die sec : Nat) : State :=
  match s.nextReq kind die sec with
  | none => s
  | some q =>
    if ¬ s.senderUp q ∨ s.reqTested q then s
    else if q.stale s then s.dropReq q
    else if s.lost sec q.home then (s.dropReq q).refuse q
    else if s.reqQueued q then s
    else
      match s.keepWay q with
      | none => s
      | some t =>
        if ¬ s.dirRoom q.home q.dirLine then s.evictEntry q.home q.dirLine
        else if q.cls = 3 then (t.dropReq q).serveOwn q
        else (t.dropReq q).serveCoh q

/-- R336. -/
def execRds (die sector : Nat) (s : State) : Out := .next (s.serve 0 die sector)

/-- The home recalls of its own accord a sector that a peer holds (R334, R345). -/
def State.recallPeers (s : State) (die sec : Nat) : State :=
  if s.secFree sec ∧ (s.filter.any fun p => p.1 == sec) ∧ (s.dirAt sec).home = die then s.recallEntry die sec else s

/-- R336; for the M-die that homes the sector itself, the recall of one that peers hold. -/
def execRdx (die sector : Nat) (s : State) : Out :=
  .next (if (s.di die).kind = 3 then s.recallPeers die sector else s.serve 1 die sector)

/-- R336. -/
def execUpg (die sector : Nat) (s : State) : Out := .next (s.serve 2 die sector)

/-- R321, R329: an uncached fill; no directory. -/
def execRdu (die sector : Nat) (s : State) : Out :=
  .next (match s.nextReq 3 die sector with
    | none => s
    | some q =>
      if (s.di die).state ≠ 1 ∨ s.reqTested q then s
      else if q.stale s then s.dropReq q
      else if s.lost sector q.home then (s.dropReq q).refuse q
      else
        match s.keepWay q with
        | none => s
        | some t =>
          let t := t.dropReq q
          ((if (t.l2At die sector).state = 0 then t.fillL2 die sector q.home 1 false else t).prefetched q).wake)

/-! ## Write-backs -/

/-- A request on its way is spent; without one the die evicts of its own accord, and the request counts now. -/
def State.spend (s : State) (kind die sec home : Nat) : State :=
  match s.reqs.find? fun q => q.kind == kind && q.die == die && q.sector == sec with
  | some q => s.dropReq q
  | none => s.countReq { kind := kind, die := die, sector := sec, home := home }

/-- A write-back on its way comes from an earlier incarnation of its die (R347). -/
def State.staleBack (s : State) (kind die sec : Nat) : Option Req :=
  s.reqs.find? fun q => q.kind == kind && q.die == die && q.sector == sec && q.stale s

/-- A die may evict a line of its own accord: nothing bars the line, and no test keeps it (R328, R411). -/
def State.mayLeave (s : State) (die sec : Nat) : Bool :=
  !s.lineBarred die (sec / 4) && !s.testing die 1 (s.l2Slice die sec) && !s.homeTested (s.l2At die sec).home sec

/-- A recall of a sector of a die is under way. -/
def Recall.awaits (die sec : Nat) (r : Recall) : Bool := r.die == die && r.sector == sec && !r.answered

/-- A recall is answered, with data or without. -/
def Recall.give (data : Option (BitVec 512)) (dirty : BitVec 64) (inc : Nat) (r : Recall) : Recall :=
  { r with answered := true, data := data, dirty := dirty, inc := inc }

/-- R336-R338: an M sector, tracked or of a block that the die owns, leaves the die; it answers a recall it crosses. -/
def execWrb (die sector : Nat) (s : State) : Out :=
  .next (
    let e := s.l2At die sector
    let owned := !e.tracked && s.ownerOf sector == some die
    if (s.di die).state ≠ 1 then s
    else if let some q := s.staleBack 4 die sector then s.dropReq q
    else if e.state ≠ 3 ∨ ¬ (e.tracked ∨ owned) then
      match s.nextReq 4 die sector with
      | some q => (s.dropReq q).wake
      | none => s
    else if e.tracked ∧ (s.dirAt sector).busy.isSome then
      if s.recalls.any (Recall.awaits die sector) then
        let s := (s.spend 4 die sector e.home).setL2 die sector {}
        { s with recalls := updWhere s.recalls (Recall.awaits die sector) (Recall.give (some e.data) e.dirty (s.di die).incarn) }
      else s
    else if ¬ s.mayLeave die sector then s
    else
      let s := (s.spend 4 die sector e.home).homeMerge e.home sector (s.backMask die sector e) e.data
      let s := s.setL2 die sector {}
      (if e.tracked then s.setDir sector { s.dirAt sector with state := 0 } else s).wake)

/-- R187, R336, R338: a dirty sector is written back and kept. -/
def execWrc (die sector : Nat) (s : State) : Out :=
  .next (
    let e := s.l2At die sector
    match s.nextReq 5 die sector with
    | none => s
    | some q =>
      if (s.di die).state ≠ 1 ∨ s.reqTested q then s
      else if q.stale s then s.dropReq q
      else if e.state ≠ 3 then (s.dropReq q).wake
      else
        let s := (s.dropReq q).homeMerge e.home sector (s.backMask die sector e) e.data
        (s.setL2 die sector { e with state := if e.tracked then 2 else 1, dirty := 0 }).wake)

/-- R321, R329: an untracked dirty sector is merged into its home by bytes: on request, of CCTL or a release, it stays clean; of its
own accord the die evicts it, what the L1s of the die hold dirty with it (R315, R328). -/
def execWrm (die sector : Nat) (s : State) : Out :=
  .next (
    if (s.di die).state ≠ 1 then s
    else if let some q := s.staleBack 6 die sector then s.dropReq q
    else
      let asked := s.reqs.any fun q => q.kind == 6 && q.die == die && q.sector == sector
      let s := if asked then s else (s.l1Holders die sector).foldl (fun t c => t.cleanL1 c sector) s
      let e := s.l2At die sector
      if e.state ≠ 3 ∨ e.tracked ∨ s.ownerOf sector = some die then
        match s.nextReq 6 die sector with
        | some q => (s.dropReq q).wake
        | none => s
      else if (if asked then s.testing die 1 (s.l2Slice die sector) || s.homeTested e.home sector else !s.mayLeave die sector) then s
      else
        let s := (s.spend 6 die sector e.home).homeMerge e.home sector e.dirty e.data
        (s.setL2 die sector (if asked then { e with state := 1, dirty := 0 } else {})).wake)

/-- R329, R338: a store by a die that does not own the block merges at the home. -/
def execWrt (die sector : Nat) (s : State) : Out :=
  .next (match s.nextReq 7 die sector with
    | none => s
    | some q =>
      if (s.di die).state ≠ 1 ∨ s.reqTested q then s
      else if q.stale s then s.dropReq q
      else if s.lost sector q.home then (s.dropReq q).refuse q
      else ((s.dropReq q).homeMerge q.home sector q.dirty q.data).unitDone q.holder q.unit 0 false)

/-! ## Recalls -/

/-- A die answers a recall: its dirty data comes with the answer, as a WRB (R329, R336); a recall of an earlier incarnation of the
home is dropped and counted (R347). -/
def State.answer (s : State) (die sec : Nat) (inval : Bool) : State :=
  match s.recalls.find? fun r => r.inval == inval && r.awaits die sec with
  | none => s
  | some r =>
    if r.inc ≠ (s.di r.home).incarn then ({ s with recalls := s.recalls.erase r } : State).countStale die
    else
      let e := s.l2At die sec
      let dirty := e.tracked && e.state == 3
      let s := if dirty then s.countReq { kind := 4, die := die, sector := sec, home := e.home } else s
      let s := if !e.tracked then s
        else if inval then s.setL2 die sec {}
        else if e.state = 0 then s
        else s.setL2 die sec { e with state := 1, dirty := 0 }
      let give := Recall.give (if dirty then some e.data else none) (if dirty then e.dirty else 0) (s.di die).incarn
      { s with recalls := updWhere s.recalls (fun r => r.inval == inval && r.awaits die sec) give }

/-- R336. -/
def execInvalidation (die sector : Nat) (s : State) : Out :=
  .next (if (s.di die).state = 1 then s.answer die sector true else s)

/-- R336. -/
def execDowngrade (die sector : Nat) (s : State) : Out :=
  .next (if (s.di die).state = 1 then s.answer die sector false else s)

/-- The directory state once the recalls of a transaction are answered. -/
def State.afterRecalls (s : State) (sec : Nat) (inval : Bool) : State :=
  let d := s.dirAt sec
  if inval then s.setDir sec { d with state := 0 }
  else if d.state = 2 then (s.setDir sec { d with state := 1 }).setSharers sec (s.sharersOf sec ||| maskOf [d.owner])
  else s

/-- R336: an answer reaches the home; the last one completes the transaction. An answer of an earlier incarnation of the die is
dropped (R347). -/
def execCoherenceAck (die sector : Nat) (s : State) : Out :=
  .next (match s.recalls.find? fun r => r.die == die && r.sector == sector && r.answered with
    | none => s
    | some r =>
      let s := { s with recalls := s.recalls.erase r }
      if r.inc ≠ (s.di die).incarn then s
      else
        let s := match r.data with | some x => s.homeMerge r.home sector r.dirty x | none => s
        if s.recalls.any fun x => x.sector == sector then s
        else
          match (s.dirAt sector).busy with
          | some q => (s.afterRecalls sector r.inval).grant q
          | none => s)

/-! ## Containment (R346) -/

/-- A directory sector after a die is dead: what it held is lost, a transaction that waits on it is over. -/
def Dir.purged (die : Nat) (ended : Bool) (d : Dir) : Dir :=
  let mine : Bool := match d.busy with | some q => q.die == die || q.home == die | none => false
  let d := if [2, 3, 4].contains d.state && d.owner == die then { d with state := 6, holder := 0 } else d
  if ended || mine then { d with busy := none } else d

/-- The blocks a dead die owned are lost, every sector of them (R338, R346). -/
def State.loseBlocks (s : State) (die : Nat) : State :=
  let bs := s.dir.filter fun p => p.2.own == some die
  bs.foldl (fun t b => (List.range 64).foldl (fun u i =>
    let x := u.dirAt (b.1 + i)
    u.setDir (b.1 + i) { x with state := 6, holder := 0, home := b.2.home, own := none }) t) s

/-- What a dead die held at the directories: its sectors are lost, its sharer bits cleared, transactions that wait
on it end in error. -/
def State.purgeDie (s : State) (die : Nat) : State :=
  let s := s.loseBlocks die
  let ended := (s.recalls.filter fun r => r.die == die).map fun r => r.sector
  let dir := s.dir.map fun p => (p.1, p.2.purged die (ended.contains p.1))
  { s with
    dir := dir.filter fun p => decide (p.2 ≠ ({} : Dir))
    sharers := (s.sharers.map fun p => (p.1, p.2 &&& ~~~ maskOf [die])).filter fun p => p.2 != 0
    recalls := s.recalls.filter fun r => !(r.die == die || r.home == die || ended.contains r.sector)
    l2 := s.l2.filter fun p => p.1 / 2 ^ 52 != die
    l2Ways := s.l2Ways.filter fun p => p.1 / (256 * 64) != die
    l1 := s.l1.filter fun p => dieOf (p.1 / 2 ^ 52) != die
    l1Ways := s.l1Ways.filter fun p => dieOf (p.1 / 192) != die
    llcWays := s.llcWays.filter fun p => p.1 / (64 * 1024) != die }

/-- The requests whose transactions ended in error: those that wait on the dead die, and those that its directory served. -/
def State.lostRequests (s : State) (die : Nat) : List Req :=
  (s.dir.filterMap fun p => p.2.busy).filter fun q =>
    q.die != die && (q.home == die || s.recalls.any fun r => r.die == die && r.sector == q.sector)

/-- Contexts with a team on a die. -/
def State.contextsOn (s : State) (die : Nat) : List Nat :=
  ((s.teams.filter fun p => p.2.live && dieOf p.2.core == die).map fun p => p.2.ctx).dedup

/-- A die of the package is contained (R346, R417): none of its cores is in service any more (R4). -/
def State.contain (s : State) (die : Nat) : State :=
  if (s.di die).state ≠ 1 then s
  else
    let cs := s.contextsOn die
    let bad := s.lostRequests die
    let s := s.modDi die fun d => { d with state := 3, coresIn := 0 }
    let s := s.purgeDie die
    let s := bad.foldl (fun t q => t.refuse q) s
    let s := cs.foldl (fun t c => t.haltCtx c { cause := cContain }) s
    (s.errorIrq).wake

/-! ## Peers (R345-R347) -/

/-- The transactions that a dead peer keeps waiting. -/
def State.peerWaits (s : State) (peer : Nat) : List Req :=
  (s.dir.filterMap fun p => p.2.busy).filter fun q =>
    (q.who != 5 || q.holder != peer) && s.filter.contains (q.sector, peer) && s.recalls.any (Recall.awaits switchDie q.sector)

/-- A directory sector after a peer is dead: what it held in X is lost, and a transaction that waits on it, or serves it, is over. -/
def Dir.peerGone (peer : Nat) (mine waits : Bool) (d : Dir) : Dir :=
  let d := if mine ∧ d.state = 2 ∧ d.owner = switchDie then { d with state := 6, holder := 0 } else d
  match d.busy with
  | some q => if waits || (q.who == 5 && q.holder == peer) then { d with busy := none } else d
  | none => d

/-- What a dead peer held of this package: its sectors are lost, its sharer bits cleared, what waits on it ends (R346). -/
def State.purgePeer (s : State) (peer : Nat) : State :=
  let waits := (s.peerWaits peer).map fun q => q.sector
  let its (sec : Nat) : Bool := match (s.dirAt sec).busy with | some q => q.who == 5 && q.holder == peer | none => false
  let left := s.filter.filter fun p => p.2 != peer
  let dir := s.dir.map fun p => (p.1, p.2.peerGone peer (s.filter.contains (p.1, peer)) (waits.contains p.1))
  { s with
    dir := dir.filter fun p => decide (p.2 ≠ ({} : Dir))
    filter := left
    sharers := (s.sharers.map fun p =>
      (p.1, if left.any fun f => f.1 / 4 == p.1 then p.2 else p.2 &&& ~~~ maskOf [switchDie])).filter fun p => p.2 != 0
    reqs := s.reqs.filter fun q => !(q.who == 5 && q.holder == peer)
    recalls := s.recalls.filter fun r => !(waits.contains r.sector || its r.sector) }

/-- A Vreldo peer is dead: every address it homes answers with an error, and what waits on it fails (R332, R346). -/
def State.losePeer (s : State) (peer : Nat) : State :=
  if ¬ s.peerUp peer then s
  else
    let bad := s.peerWaits peer
    let s := (s.purgePeer peer).setPeer peer { up := false, incarn := s.peerInc peer }
    ((bad.foldl (fun t q => t.refuse q) s).errorIrq).wake

/-- A message to a die or a peer is unanswered. -/
def State.unanswered (s : State) (die : Nat) : Bool :=
  (s.recalls.any fun r => !r.answered && if die < 32 then r.die == die else r.die == switchDie && s.filter.contains (r.sector, die - 32))
  || s.reqs.any fun q => q.home == die

/-- R346: a die, a peer (32 and its number) or its link reports loss of service. -/
def execLossOfService (die : Nat) (s : State) : Out := .next (if die < 32 then s.contain die else s.losePeer (die - 32))

/-- R346: a message to the die or peer has stayed unanswered for 2^20 cycles. -/
def execCoherenceTimeout (die : Nat) (s : State) : Out :=
  .next (if s.unanswered die then
      (if die < 32 then s.contain die else s.losePeer (die - 32))
    else s)

end Sys2Proof.Machine
end

