-- ==== Sys2Proof/Machine/Compare.lean ====
section
/-! DEFINITION. Compares, major 0x11 (R134, R135). -/
namespace Sys2Proof.Machine

/-- Types of VCMP and of VCMPV (R134). -/
def clsCmp (t : Nat) : Bool := t == 0 || t == 1 || t == 2 || t == 3 || t == 15
def clsCmpv (t : Nat) : Bool := decide (4 ≤ t ∧ t ≤ 14)

/-- VCMP (R134): bits of the guard lanes only. -/
def State.vcmp (s : State) (e : Bool) (rel : Nat) (d : BitVec 3) (a b : BitVec 6) : State :=
  let t := s.ty
  let wide := s.wide
  if !clsCmp t || (wide && (a.toNat % 2 == 1 || b.toNat % 2 == 1)) then s.undef
  else
    let tag := if t = 3 ∨ rel = 6 then TagRule.conc else .cmpV a.toNat b.toNat rel (t != 2) wide
    s.form e { sv := regs wide a.toNat ++ regs wide b.toNat, dq := [d.toNat] } tag fun s =>
      let ls := s.glanes s.cur
      let r (l : Nat) := relEl t s.ftz rel (s.opnd a.toNat l).toNat (s.opnd b.toNat l).toNat
      let old := s.pget s.cur d.toNat
      let new := (old &&& ~~~ (s.guard s.cur)) ||| maskOf (ls.filter fun l => (r l).1)
      (s.pset s.cur d.toNat new).orLanes ls fun l => (r l).2

/-- VCMPV (R134). -/
def State.vcmpv (s : State) (e : Bool) (rel : Nat) (d a b : BitVec 6) : State :=
  let t := s.ty
  s.vecFl e (clsCmpv t) [a.toNat, b.toNat] [d.toNat] fun s l =>
    let x := s.opnd a.toNat l
    let y := s.opnd b.toNat l
    let w := elW t
    let r (i : Nat) := relEl t s.ftz rel (el w x i) (el w y i)
    ([lo32 (packEl w (elN t) fun i => if (r i).1 then 2 ^ w - 1 else 0)],
     (List.range (elN t)).foldl (fun f i => f ||| (r i).2) 0)

/-- R134. -/
def execVcmpEq (e : Bool) (d : BitVec 3) (a b : BitVec 6) (s : State) : Out :=
  issue s fun s => s.vcmp e 0 d a b

/-- R134. -/
def execVcmpNe (e : Bool) (d : BitVec 3) (a b : BitVec 6) (s : State) : Out :=
  issue s fun s => s.vcmp e 1 d a b

/-- R134. -/
def execVcmpLt (e : Bool) (d : BitVec 3) (a b : BitVec 6) (s : State) : Out :=
  issue s fun s => s.vcmp e 2 d a b

/-- R134. -/
def execVcmpLe (e : Bool) (d : BitVec 3) (a b : BitVec 6) (s : State) : Out :=
  issue s fun s => s.vcmp e 3 d a b

/-- R134. -/
def execVcmpGt (e : Bool) (d : BitVec 3) (a b : BitVec 6) (s : State) : Out :=
  issue s fun s => s.vcmp e 4 d a b

/-- R134. -/
def execVcmpGe (e : Bool) (d : BitVec 3) (a b : BitVec 6) (s : State) : Out :=
  issue s fun s => s.vcmp e 5 d a b

/-- R135. -/
def execVcmpUn (e : Bool) (d : BitVec 3) (a b : BitVec 6) (s : State) : Out :=
  issue s fun s => s.vcmp e 6 d a b

/-- R134. -/
def execVcmpvEq (e : Bool) (d a b : BitVec 6) (s : State) : Out :=
  issue s fun s => s.vcmpv e 0 d a b

/-- R134. -/
def execVcmpvNe (e : Bool) (d a b : BitVec 6) (s : State) : Out :=
  issue s fun s => s.vcmpv e 1 d a b

/-- R134. -/
def execVcmpvLt (e : Bool) (d a b : BitVec 6) (s : State) : Out :=
  issue s fun s => s.vcmpv e 2 d a b

/-- R134. -/
def execVcmpvLe (e : Bool) (d a b : BitVec 6) (s : State) : Out :=
  issue s fun s => s.vcmpv e 3 d a b

/-- R134. -/
def execVcmpvGt (e : Bool) (d a b : BitVec 6) (s : State) : Out :=
  issue s fun s => s.vcmpv e 4 d a b

/-- R134. -/
def execVcmpvGe (e : Bool) (d a b : BitVec 6) (s : State) : Out :=
  issue s fun s => s.vcmpv e 5 d a b

/-- R135. -/
def execVcmpvUn (e : Bool) (d a b : BitVec 6) (s : State) : Out :=
  issue s fun s => s.vcmpv e 6 d a b

end Sys2Proof.Machine
end

