-- ==== Sys2Proof/Machine/Emulation.lean ====
section
/-! DEFINITION. The emulation handler's forms (R290-R294), entry to it as an event (R285), and the ends of the
waits for a level and for the trap bank (R285, R394). -/
namespace Sys2Proof.Machine

/-- The innermost open level. -/
def Split.level (p : Split) : Option EmuLevel := p.levels.head?

/-- OW n of a level (R289). -/
def EmuLevel.owReg (v : EmuLevel) (n : Nat) : Word64 := (v.ow[n]?).getD 0

/-- The lanes of OW3. -/
def EmuLevel.owLanes (v : EmuLevel) : List Nat := lanesOf (lo32 (v.owReg 3))

/-- A form of R290 that acts on the current level; outside STATE 4 it takes PRIV. -/
def State.levelForm (s : State) (f : EmuLevel → State) : State :=
  if s.me.mode ≠ .emu then s.trapU cPriv
  else match s.me.level with
    | none => s.trapU cPriv
    | some v => f v

/-- R291. -/
def execOwrd (e : Bool) (d : BitVec 5) (n : BitVec 3) (s : State) : Out :=
  issue s fun s => s.levelForm fun v => s.form e { ds := [d.toNat] } .conc fun s =>
    s.sset s.cur d.toNat (v.owReg n.toNat)

/-! ## XREG (R292) -/

/-- Where the level below keeps its scalar n and its predicate n. -/
def State.lowerS (s : State) (v : EmuLevel) (n : Nat) : Nat := sKey s.cur (if 24 ≤ n then v.bank else 0) n
def State.lowerP (s : State) (v : EmuLevel) (n : Nat) : Nat := pKey s.cur (if 6 ≤ n then v.bank else 0) n

/-- The row the level below names with n. -/
def State.lowerRow (s : State) (v : EmuLevel) (n : Nat) : Nat := rowOf s.grp.depth (v.entryCwp - 1) n

/-- The number sa names in a space. -/
def State.xNum (s : State) (space : Nat) (a : BitVec 5) : Nat :=
  let x := s.sget s.cur a.toNat
  if space = 0 then field x 5 0 else if space = 1 then field x 4 0 else if space = 2 then field x 2 0 else x.toNat

/-- What XREG.RD reads of a scalar, a predicate or a number of space 3. -/
def State.xRead (s : State) (v : EmuLevel) (space n : Nat) : Word64 :=
  match space with
  | 1 => if n = 0 then 0 else mget 0 s.sreg (s.lowerS v n)
  | 2 => ((if n = 0 then BitVec.allOnes 32 else mget 0 s.preg (s.lowerP v n)) : BitVec 32).setWidth 64
  | _ => if n = 0 then s.team.shadow.getD 0 else if n = 1 then BitVec.ofNat 64 (v.entryCwp - 1) else 0

/-- The registers of the level below that a form of a space meets are still pending. -/
def State.xPending (s : State) (v : EmuLevel) (space n : Nat) : Bool :=
  match space with
  | 0 => mget 0 s.pendV (rowKey s.cg (s.lowerRow v n)) != 0
  | 1 => n != 0 && mget 0 s.pendS (s.lowerS v n) != 0
  | _ => false

/-- R292. -/
def execXregRd (e : Bool) (d a : BitVec 5) (p : BitVec 2) (s : State) : Out :=
  issue s fun s => s.levelForm fun v =>
    let space := p.toNat
    let u : Uses := { ss := [a.toNat], ds := if space = 0 then [] else [d.toNat], dv := if space = 0 then [d.toNat] else [] }
    if s.stalled s.cur u || s.xPending v space (s.xNum space a) then s.stall
    else s.form e u .conc fun s =>
      let n := s.xNum space a
      if space = 0 then s.vsets s.cur d.toNat v.owLanes fun l => s.rowGet s.cg (s.lowerRow v n) l
      else s.sset s.cur d.toNat (s.xRead v space n)

/-- What XREG.WR writes. -/
def State.xWrite (s : State) (v : EmuLevel) (space n d : Nat) : State :=
  let x := s.sget s.cur d
  match space with
  | 0 => v.owLanes.foldl (fun t l => t.rowSet t.cg (t.lowerRow v n) l (s.vget s.cur d l)) s
  | 1 => if n = 0 then s else { s with sreg := mset 0 s.sreg (s.lowerS v n) x }
  | _ => if n = 0 then s else { s with preg := mset 0 s.preg (s.lowerP v n) (lo32 x) }

/-- R292; space 3 takes PRIV. -/
def execXregWr (e : Bool) (d a : BitVec 5) (p : BitVec 2) (s : State) : Out :=
  issue s fun s => s.levelForm fun v =>
    let space := p.toNat
    if space = 3 then s.trapU cPriv
    else
      let u : Uses := { ss := a.toNat :: if space = 0 then [] else [d.toNat], sv := if space = 0 then [d.toNat] else [] }
      if s.stalled s.cur u || s.xPending v space (s.xNum space a) then s.stall
      else s.form e u .conc fun s => s.xWrite v space (s.xNum space a) d.toNat

/-! ## EMRET (R293) -/

/-- The causes EMRET 2 may raise. -/
def emretCauses : List Nat :=
  [cAlign, cXlate, cPerm, cApert, cStream, cSyncmask, cAccrange, cBufrange, cTrapi]

/-- The split back on the level below, at the trapped word with its REP position. -/
def Split.closeLevel (p : Split) (v : EmuLevel) : Split :=
  { p with levels := p.levels.tail, mode := v.mode, wait := .none, gmode := v.gmode, ownProbe := v.probe, bank := v.bank,
           cwp := p.cwp - 1, resident := p.resident - 1, rep := v.rep, replay := none, pc := (v.owReg 0).setWidth 32 }

/-- The record of the trap EMRET 2 raises. -/
def EmuLevel.trapInfo (v : EmuLevel) (x : Word64) : TrapInfo :=
  let cause := field x 7 0
  let m := if v.owReg 3 = 0 then lo32 (v.owReg 4) else lo32 (v.owReg 3)
  { cause := cause, lmask := m, pmask := m, code := if cause = cTrapi then field x 17 8 else 0,
    pc := (v.owReg 0).setWidth 32, gmode := v.gmode, rep := v.rep }

/-- R293: EMRET closes the level; then with n = 0 the trapped word is complete, a safe point if it has S = 1 (R366), with n = 2 it
takes the trap. Where that trap must wait, the word is issued again (R394). -/
def execEmret (_e : Bool) (n : BitVec 2) (a : BitVec 5) (s : State) : Out :=
  issue s fun s =>
    if n = 3 then s.undef
    else s.levelForm fun v =>
      if s.me.cwp ≠ v.entryCwp then s.trapU cPriv
      else if s.stalled s.cur { ss := if n = 2 then [a.toNat] else [] } then s.stall
      else
        let x := s.sget s.cur a.toNat
        if n = 2 ∧ ¬ emretCauses.contains (field x 7 0) then s.trapU cPriv
        else if s.me.resident ≤ 1 then s.trapU cWfill
        else
          let p := s.me.closeLevel v
          if n = 0 then (s.setSp s.cur (p.pastBy (fallBy (bit (v.owReg 1) 25)))).stopHere s.cur p.pc
          else
            let t := s.setSp s.cur p
            if n = 2 then t.trap t.cur (v.trapInfo x) else t

/-- R294. -/
def execProbe (e : Bool) (n : BitVec 1) (s : State) : Out :=
  issue s fun s => s.plain e fun s =>
    if s.inHandler then s.modSp s.cur fun p => { p with ownProbe := n == 1 }
    else s.modGr s.cg fun g => { g with probe := n == 1 }

/-! ## Events -/

/-- R285: the issuing split meets a word that is not native; `live` is the word after it. -/
def execEmulationEntry (cause : BitVec 2) (word live : BitVec 32) (s : State) : Out :=
  issue s fun s => s.nonNative cause.toNat word live

/-- R285. -/
def execEmulationLevelWaitEnd (split : Nat) (s : State) : Out :=
  .next (
    let p := s.sp split
    if p.valid && p.wait == .emuLevel
        && !((entries (gidOf split)).any fun j => j != split && (s.sp j).valid && !(s.sp j).levels.isEmpty) then s.ready split
    else s)

/-- R394. -/
def execTrapBankWaitEnd (split : Nat) (s : State) : Out :=
  .next (
    let p := s.sp split
    if p.valid && p.wait == .trapBank && !s.trapHeld split then s.ready split else s)

/-- R361: the split has been ready for 224 cycles. -/
def execSchedulerAgeThreshold (split : Nat) (s : State) : Out :=
  .next (
    let p := s.sp split
    if p.valid && p.wait == .none && !p.aged then s.modSp split fun q => { q with aged := true } else s)

end Sys2Proof.Machine
end

