-- ==== Sys2Proof/Machine/Mesh.lean ====
section
/-! DEFINITION. Major 0x24 on a G-die: the mesh stage (R257-R260), the compressor (R261, R262), the frontiers of
the G-dies (R264), and the release of packets at an S-die (R263-R266). -/
namespace Sys2Proof.Machine

/-! ## Dies of a partition -/

/-- The dies of a kind that a partition's mask names and that are in service, in die-table order (R256, R263). -/
def State.diesOf (s : State) (part kind : Nat) : List Nat :=
  (s.dies.filter fun p => p.2.kind == kind && p.2.state == 1 && bit (s.pa part).w0 ((if kind = 1 then 16 else 0) + p.2.ord)).map
    fun p => p.1

/-- The S-die that owns a region (R263), if the partition has an S-die. -/
def State.ownerDie (s : State) (part rx ry : Nat) : Option Nat :=
  let ds := s.diesOf part 2
  ds[(rx + 5 * ry) % ds.length]?

/-! ## MSH.EMIT (R258, R259) -/

/-- The open meshlet record of the issuing team. -/
def State.openRec (s : State) : Option MeshRec :=
  match s.team.mesh with
  | some r => if r.closed then none else some r
  | none => none

/-- One lane's vertex and primitive (R259). -/
def MeshRec.emit (r : MeshRec) (c d : Nat) (v : List Word32) : MeshRec :=
  let r := if c.testBit 8 then
      { r with vtx := (v.zipIdx).foldl (fun m p => mset 0 m (c % 256 * 4 + p.2) p.1) r.vtx }
    else r
  if c.testBit 9 then
    if r.prims.length < 256 then { r with prims := r.prims ++ [(d % 256, d / 2 ^ 8 % 256, d / 2 ^ 16 % 256)] }
    else { r with ovf := true }
  else r

/-- Prelude of the graphics forms: a region aborts (R218, R284), a group of the wrong origin takes PRIV. -/
def State.gfxForm (s : State) (allowed : Bool) (u : Uses) (f : State → State) : State :=
  if s.inRegion then s.barred abEngine 0x24
  else if !allowed then s.trapU cPriv
  else if s.stalled s.cur u then s.stall
  else f s

/-- R259. -/
def execMshEmit (e : Bool) (d a b : BitVec 6) (s : State) : Out :=
  issue s fun s =>
    if 60 < a.toNat then s.undef
    else
      let vs := (List.range 4).map fun i => a.toNat + i
      s.gfxForm s.openRec.isSome { sv := [d.toNat, b.toNat] ++ vs } fun s =>
        let k := s.cur
        let one (r : MeshRec) (l : Nat) : MeshRec :=
          r.emit (s.vget k b.toNat l).toNat (s.vget k d.toNat l).toNat (vs.map fun n => s.vget k n l)
        (s.modTm s.grp.team fun t => { t with mesh := t.mesh.map fun r => (s.glanes k).foldl one r }).advance e

/-- Nothing that a release of split k waits for is outstanding: its own accesses, and those that a fence, a fusion or a barrier phase puts
before it (R260, R310, R311). -/
def State.relReady (s : State) (k : Nat) : Bool :=
  let u : MUnit := { lane := 0, place := .host 0 0, size := 0, off := 0 }
  s.ordered { id := s.nextId, splits := [k], gid := gidOf k, ctx := (s.gr (gidOf k)).ctx, core := coreOf (gidOf k), kind := .store,
              units := [u], rel := true } 0 u

/-- R260: a release at dev scope, then the record is the compressor's and the split waits. -/
def execMshClose (e : Bool) (d a b : BitVec 6) (s : State) : Out :=
  issue s fun s =>
    if b = 63 then s.undef
    else s.gfxForm s.openRec.isSome { sv := [a.toNat, b.toNat, b.toNat + 1], dv := [d.toNat] } fun s =>
      let k := s.cur
      if s.guard k = 0 then s.advance e
      else if !s.relReady k || s.ops.any fun o => o.gid == s.cg && o.isStore then s.stall
      else
        let l := lowLane (s.guard k)
        let n := min 64 ((s.vget k a.toNat l).toNat % 128)
        let p := s.vget64 k b.toNat l
        let s := s.cleanAllL1 s.cc
        let w := (s.grp.index, s.guard k, s.row k d.toNat)
        let s := s.modTm s.grp.team fun t =>
          { t with mesh := t.mesh.map fun r => { r with closed := true, nattr := n, attr := p, closer := some w } }
        s.modSp k fun p => { p with wait := .close, replay := none }

/-! ## The compressor (R261, R262) -/

/-- An integer nearest to v / d, ties to even. -/
def rneInt (v : Int) (d : Nat) : Int :=
  let k := (roundQ 0 (decide (v < 0)) v.natAbs d 0).1
  if v < 0 then -(k : Int) else k

/-- Vertex i of a record: four codes. -/
def MeshRec.vert (r : MeshRec) (i : Nat) : List Nat := (List.range 4).map fun j => (mget 0 r.vtx (i * 4 + j)).toNat

/-- A vertex in raster form: X, Y in 16.8, Z, q; none where it culls its primitive (R261). -/
def rasterVert (v : List Nat) : Option (Int × Int × Nat × Word32) :=
  if v.any fun x => Fmt.fp32.isNan x || Fmt.fp32.isInf x then none
  else
    let f (i : Nat) : Int := Fmt.fp32.signed ((v[i]?).getD 0)
    let x := rneInt (f 0 * 256) (2 ^ 149)
    let y := rneInt (f 1 * 256) (2 ^ 149)
    let z := max 0 (min (f 2) (2 ^ 149))
    if f 3 ≤ 0 ∨ x < -(2 ^ 23) ∨ (2 ^ 23 : Int) ≤ x ∨ y < -(2 ^ 23) ∨ (2 ^ 23 : Int) ≤ y then none
    else some (x, y, (rneInt (z * 16777215) (2 ^ 149)).toNat, BitVec.ofNat 32 ((v[3]?).getD 0))

/-- A corner of a raster triangle. -/
def Prim.at (p : Prim) (i : Nat) : Int × Int × Nat × Word32 := (p.verts[i]?).getD (0, 0, 0, 0)

/-- Twice the signed area (R261). -/
def Prim.area (p : Prim) : Int :=
  let (x0, y0, _) := p.at 0
  let (x1, y1, _) := p.at 1
  let (x2, y2, _) := p.at 2
  (x1 - x0) * (y2 - y0) - (x2 - x0) * (y1 - y0)

/-- The pixel rectangle clipped to a target: x0, x1, y0, y1; none where it misses (R261). -/
def Prim.rect (p : Prim) (w h : Nat) : Option (Nat × Nat × Nat × Nat) :=
  let xs := p.verts.map fun v => v.1 / 256
  let ys := p.verts.map fun v => v.2.1 / 256
  let lo (l : List Int) : Int := max 0 (l.foldl min (l.headD 0))
  let hi (l : List Int) (n : Nat) : Int := min (n - 1 : Int) (l.foldl max (l.headD 0))
  if lo xs ≤ hi xs w ∧ lo ys ≤ hi ys h then some ((lo xs).toNat, (hi xs w).toNat, (lo ys).toNat, (hi ys h).toNat) else none

/-- Primitive n of a record, none if it is culled; COVER is still to come. -/
def MeshRec.prim (r : MeshRec) (n : Nat) (t : Nat × Nat × Nat) : Option Prim :=
  let is := [t.1, t.2.1, t.2.2]
  match is.mapM fun i => rasterVert (r.vert i) with
  | none => none
  | some vs =>
    let p : Prim := { verts := vs, idx := is, cover := 0, primIdx := n, back := false }
    if p.area = 0 then none else some { p with back := decide (p.area < 0) }

/-- COVER of a rectangle in a region (R262). -/
def coverOf (rc : Nat × Nat × Nat × Nat) (rx ry : Nat) : BitVec 16 :=
  let (x0, x1, y0, y1) := rc
  ofBits 16 fun i =>
    let tx := 32 * rx + 8 * (i % 4)
    let ty := 32 * ry + 8 * (i / 4)
    decide (x0 < tx + 8 ∧ tx ≤ x1 ∧ y0 < ty + 8 ∧ ty ≤ y1)

/-- The regions a rectangle meets. -/
def regionsOf (rc : Nat × Nat × Nat × Nat) : List (Nat × Nat) :=
  let (x0, x1, y0, y1) := rc
  (List.range (y1 / 32 - y0 / 32 + 1)).flatMap fun j => (List.range (x1 / 32 - x0 / 32 + 1)).map fun i => (x0 / 32 + i, y0 / 32 + j)

/-- Cut a list into runs of n. -/
def chunks {α : Type} (n : Nat) : Nat → List α → List (List α)
  | 0, _ => []
  | k + 1, l => if l.isEmpty then [] else l.take n :: chunks n k (l.drop n)

/-- The primitives that are sent, each with its rectangle, in list order (R261). -/
def MeshRec.sent (r : MeshRec) (w h : Nat) : List (Prim × (Nat × Nat × Nat × Nat)) :=
  r.prims.zipIdx.filterMap fun t => (r.prim t.2 t.1).bind fun p => (p.rect w h).map fun rc => (p, rc)

/-- The packets of a meshlet (R261, R262). -/
def MeshRec.packets (r : MeshRec) (draw token w h : Nat) : List VPacket :=
  let ps := r.sent w h
  ((ps.flatMap fun p => regionsOf p.2).dedup).flatMap fun g =>
    let mine := ps.filterMap fun p => if (regionsOf p.2).contains g then some { p.1 with cover := coverOf p.2 g.1 g.2 } else none
    let cs := chunks 17 mine.length mine
    cs.zipIdx.map fun c =>
      { token := token, draw := draw, rx := g.1, ry := g.2, prims := c.1, last := c.2 + 1 == cs.length, nattr := r.nattr, attr := r.attr }

/-! ## Frontiers (R264) -/

/-- The least m ≥ i, in steps of n, that a list does not hold; the first argument bounds the steps. -/
def leastOut (n : Nat) (l : List Nat) : Nat → Nat → Nat
  | 0, i => i
  | k + 1, i => if l.contains i then leastOut n l k (i + n) else i

/-- The lowest meshlet of a draw on a G-die that has not finished sending. -/
def Draw.firstOpen (d : Draw) (g : Nat) : Option Nat :=
  match d.gdies.findIdx? fun x => x == g with
  | none => none
  | some i =>
    let m := leastOut d.gdies.length d.finished (d.finished.length + 1) i
    if m < d.n then some m else none

/-- Draws of a context in draw order. -/
def State.drawsOf (s : State) (c : Nat) : List Draw := (s.draws.filter fun p => p.2.live && p.2.ctx == c).map fun p => p.2

/-- The frontier F of a G-die for a context's stream (R264). -/
def State.frontierF (s : State) (c g : Nat) : Nat :=
  match (s.drawsOf c).findSome? fun d => (d.firstOpen g).map fun m => d.number * 2 ^ 24 + m with
  | some f => f
  | none => (s.cx c).drawNext * 2 ^ 24

/-- Every G-die whose frontier has risen sends a beacon to every S-die of the partition (R264). -/
def State.sendBeacons (s : State) (c : Nat) : State :=
  let part := (s.cx c).partition
  (s.diesOf part 1).foldl (fun t g =>
    let f := t.frontierF c g
    if mget 0 t.sentF (c * 32 + g) = f then t
    else { t with sentF := mset 0 t.sentF (c * 32 + g) f,
                  faceplate := t.faceplate ++ (t.diesOf part 2).map fun d => (g, d, FpMsg.beacon c f) }) s

/-- A team's meshlet has been sent: its token is finished (R264). -/
def State.meshletSent (s : State) (draw m : Nat) : State :=
  (s.modDr draw fun d => { d with finished := (d.finished ++ [m]).dedup }).sendBeacons (s.dr draw).ctx

/-- MSH.CLOSE ends: its status in the lanes of its guard set; the split goes on, or first issues the MSH.CLOSE of a path that has
fused with it (R21, R260). -/
def State.closeDone (s : State) (team : Nat) (status : Word32) : State :=
  let t := s.tm team
  match t.mesh.bind fun r => r.closer with
  | none => s
  | some (i, lanes, row) =>
    match t.groups.find? fun g => (s.gr g).index == i with
    | none => s
    | some g =>
      let s := s.modTm team fun t => { t with mesh := t.mesh.map fun r => { r with closer := none } }
      let s := (lanesOf lanes).foldl (fun u l => u.rowSet g row l status) s
      (s.valids g).foldl (fun u k =>
        if (u.sp k).wait != .close then u
        else if (u.sp k).replay.isSome then u.modSp k fun p => { p with wait := .none, readySince := u.stepNo, aged := false }
        else u.finishAt k) s

/-- R260, R261: every packet of a closed record is formed and on the Faceplate. -/
def execMeshletCompressDone (team : Nat) (s : State) : Out :=
  .next (
    let t := s.tm team
    match t.mesh, t.draw with
    | some r, some (d, m) =>
      let dr := s.dr d
      if !r.closed || dr.finished.contains m || (s.di (dieOf t.core)).state != 1 then s
      else
        let w := dr.pass.width
        let h := dr.pass.height
        let ps := r.packets d (dr.number * 2 ^ 24 + m) w h
        let msgs := ps.filterMap fun p =>
          (s.ownerDie (s.cx dr.ctx).partition p.rx p.ry).map fun o => (dieOf t.core, o, FpMsg.packet p)
        let sent := (r.sent w h).length
        let status : Word32 := BitVec.ofNat 32 (sent + 2 ^ 9 * (r.prims.length - sent) + if r.ovf then 2 ^ 18 else 0)
        let s := ({ s with faceplate := s.faceplate ++ msgs } : State).meshletSent d m
        s.closeDone team status
    | _, _ => s)

/-! ## Arrival and release (R264-R266) -/

/-- Token a comes before token b (R256). -/
def tokenLt (a b : Nat) : Bool :=
  let x := a / 2 ^ 24
  let y := b / 2 ^ 24
  if x = y then decide (a % 2 ^ 24 < b % 2 ^ 24) else decide ((y + 2 ^ 24 - x) % 2 ^ 24 < 2 ^ 23)

/-- The stream a packet belongs to. -/
def State.streamOf (s : State) (p : VPacket) : Nat := (s.dr p.draw).ctx

def State.sameRegion (s : State) (p q : VPacket) : Bool := p.rx == q.rx && p.ry == q.ry && s.streamOf p == s.streamOf q

def frontKey (c sdie gdie : Nat) : Nat := (c * 32 + sdie) * 32 + gdie

/-- A held packet may be released (R265): `before` are the packets that arrived earlier. -/
def State.mayRelease (s : State) (sdie : Nat) (before : List (Nat × VPacket)) (p : VPacket) : Bool :=
  let c := s.streamOf p
  ((s.diesOf (s.cx c).partition 1).all fun g => !tokenLt (mget 0 s.frontier (frontKey c sdie g)) p.token)
  && !(s.held.any fun q => q.1 == sdie && s.sameRegion q.2 p && tokenLt q.2.token p.token)
  && !(before.any fun q => q.1 == sdie && s.sameRegion q.2 p && q.2.token == p.token)

/-- The first held packet of an S-die that may be released, by its place in the list. -/
def State.nextRelease (s : State) (sdie : Nat) : Option (Nat × VPacket) :=
  (s.held.zipIdx.find? fun q => q.1.1 == sdie && s.mayRelease sdie (s.held.take q.2) q.1.2).map fun q => (q.2, q.1.2)

/-- Release until nothing more can go; the last argument bounds the packets. -/
def State.releaseAll (s : State) (sdie : Nat) : Nat → State
  | 0 => s
  | n + 1 =>
    match s.nextRelease sdie with
    | none => s
    | some (i, p) => State.releaseAll { s with held := s.held.eraseIdx i, released := s.released ++ [(sdie, p)] } sdie n

/-- Bytes of a packet (R262). -/
def VPacket.bytes (p : VPacket) : Nat := 32 + 56 * p.prims.length

/-- Bytes a partition's S-dies hold beyond the 8 MiB of their L2s (R266). -/
def State.spilled (s : State) (part : Nat) : Nat :=
  let all := (s.held ++ s.released).filter fun q => (s.cx (s.streamOf q.2)).partition == part
  ((all.map fun q => q.1).dedup).foldl (fun n d =>
    n + ((all.filter fun q => q.1 == d).foldl (fun b q => b + q.2.bytes) 0 - 8 * 2 ^ 20)) 0

/-- Packets beyond the L2s are written to the spill area, in a layout that is not given; an area that is full halts the stream's
contexts (R266). -/
def State.checkSpill (s : State) (part : Nat) : State :=
  let n := s.spilled part
  if n = 0 then s
  else if n ≤ (s.pa part).w3.toNat then s.writeOpen (s.pa part).w2.toNat (s.pa part).w3.toNat
  else
    let cs := ((s.draws.filter fun p => (s.cx p.2.ctx).partition == part).map fun p => p.2.ctx).dedup
    cs.foldl (fun t c => t.haltCtx c { cause := cSpillfull }) s

/-- The message at the head of a channel (R264). -/
def State.channelHead (s : State) (gdie sdie : Nat) : Option (Nat × FpMsg) :=
  (s.faceplate.zipIdx.find? fun m => m.1.1 == gdie && m.1.2.1 == sdie).map fun m => (m.2, m.1.2.2)

/-- R264: a beacon arrives. -/
def execFrontierBeacon (gdie sdie : Nat) (s : State) : Out :=
  .next (match s.channelHead gdie sdie with
    | some (i, .beacon c f) =>
      let s := { s with faceplate := s.faceplate.eraseIdx i, frontier := mset 0 s.frontier (frontKey c sdie gdie) f }
      s.releaseAll sdie s.held.length
    | _ => s)

/-- R265, R266: a packet arrives; a message of an earlier incarnation of its sender is dropped and counted (R347). -/
def execVisibilityPacket (gdie sdie : Nat) (s : State) : Out :=
  .next (match s.channelHead gdie sdie with
    | some (i, .packet p) =>
      let s := { s with faceplate := s.faceplate.eraseIdx i, held := s.held ++ [(sdie, p)] }
      (s.releaseAll sdie s.held.length).checkSpill (s.cx (s.streamOf p)).partition
    | some (i, .stale) => ({ s with faceplate := s.faceplate.eraseIdx i } : State).countStale sdie
    | _ => s)

end Sys2Proof.Machine
end

