-- ==== Sys2Proof/Machine/Queue.lean ====
section
/-! DEFINITION. Queues and command processors (R352-R355): doorbells, heads and their choice, the words that commands
read and write, and the NOP, WAIT and SIGNAL commands. -/
namespace Sys2Proof.Machine

/-! ## The part and the host -/

/-- The part answers the host: power is on and bring-up has reached Ready (R403). -/
def State.up (s : State) : Bool := s.tail.power && s.tail.phase == 5

/-- A function answers: the PF, or a VF for which VF Enable is set (R403, R416, R419). -/
def State.fnUp (s : State) (fn : Nat) : Bool := s.up && (fn == 0 || (s.fn fn).vfEn)

/-! ## Queues -/

def State.qu (s : State) (c q : Nat) : Queue := mget {} (s.cx c).queues q
def State.modQu (s : State) (c q : Nat) (f : Queue → Queue) : State :=
  s.modCx c fun x => { x with queues := mset {} x.queues q (f (mget {} x.queues q)) }

/-- The address of a queue's descriptor (R352). -/
def State.quAt (s : State) (c q : Nat) : Nat := (s.cx c).queuesAt.toNat + 32 * q

/-- A queue's descriptor keeps its layout (R352). -/
def quOk (w0 w1 : Word64) : Bool :=
  w0.toNat % 4096 == 0 && decide (4 ≤ field w1 4 0 ∧ field w1 4 0 ≤ 16) && decide (field w1 10 8 ≤ 5) && field w1 63 11 == 0

/-- A context that is loaded for a function: its page of BAR 0 answers (R352). -/
def State.ownsCtx (s : State) (fn c : Nat) : Bool := decide (c < 64) && (s.cx c).state != .free && (s.cx c).fn == fn

/-- A doorbell is taken: the descriptor is read, and the new WPTR stands (R352). -/
def State.takeDoorbell (s : State) (fn ctx queue : Nat) (wptr : BitVec 32) : State :=
  if ¬ s.fnUp fn ∨ ¬ s.ownsCtx fn ctx ∨ 16 ≤ queue ∨ (s.cx ctx).state = .halted then s
  else
    let at' := s.quAt ctx queue
    let w0 := s.physWord at'
    let w1 := s.physWord (at' + 8)
    let q := s.qu ctx queue
    if !bit w1 5 then s
    else if !quOk w0 w1 || decide (2 ^ field w1 4 0 < (wptr.toNat + 2 ^ 32 - q.rptr) % 2 ^ 32) then
      s.haltCtx ctx { cause := cCmderr }
    else
      let s := s.physPut (at' + 24) (wptr.setWidth 64)
      s.modQu ctx queue fun q =>
        { q with base := w0, size := field w1 4 0, en := true, cls := field w1 7 6, cvec := field w1 10 8, wptr := wptr.toNat }

/-- A doorbell is ordered after what the driver wrote before it (R317, R352). -/
def State.ringDoorbell (s : State) (fn ctx queue : Nat) (wptr : BitVec 32) : State :=
  if s.hostQueue.isEmpty then s.takeDoorbell fn ctx queue wptr
  else { s with hostQueue := s.hostQueue ++ [.doorbell fn ctx queue wptr] }

/-- R352. -/
def execDoorbell (fn ctx queue : Nat) (wptr : BitVec 32) (s : State) : Out := .next (s.ringDoorbell fn ctx queue wptr)

/-! ## Heads -/

/-- Word i of the command at a queue's head. -/
def State.cmdWord (s : State) (q : Queue) (i : Nat) : Word64 :=
  s.physWord (q.base.toNat + 128 * (q.rptr % 2 ^ q.size) + 8 * i)

def State.cmdOp (s : State) (q : Queue) : Nat := field (s.cmdWord q 0) 7 0

/-- Pairs of a WAIT (R353). -/
def State.waitCount (s : State) (q : Queue) : Nat := field (s.cmdWord q 0) 15 8

/-- The command keeps R353: opcode, operands, unused bytes. -/
def State.cmdOk (s : State) (q : Queue) : Bool :=
  let w := s.cmdWord q
  let zero (n : Nat) : Bool := (List.range 16).all fun i => decide (i < n) || w i == 0
  match s.cmdOp q with
  | 0 => w 0 == 0 && zero 1
  | 1 => field (w 0) 63 8 == 0 && zero 2 && (w 1).toNat % 64 == 0
  | 2 => field (w 0) 63 8 == 0 && zero 6 && (w 1).toNat % 64 == 0 && (w 2).toNat % 64 == 0 && field (w 3) 63 32 == 0
         && decide (1 ≤ field (w 3) 31 0 ∧ field (w 3) 31 0 ≤ 2 ^ 24) && (w 4).toNat % 8 == 0
  | 3 =>
    let n := s.waitCount q
    decide (1 ≤ n ∧ n ≤ 4) && field (w 0) 63 16 == 0 && zero (1 + 2 * n) && (List.range n).all fun i => (w (1 + 2 * i)).toNat % 8 == 0
  | 4 => field (w 0) 63 8 == 0 && zero 3 && (w 1).toNat % 8 == 0
  | _ => false

/-- The partition's command processor serves the context: its heads may start (R351, R375). -/
def State.serves (s : State) (c : Nat) : Bool :=
  let x := s.cx c
  (x.state == .idle || x.state == .ready || x.state == .running) && bit (s.pa x.partition).w0 31 && (s.pa x.partition).want.isNone

def Queue.hasHead (q : Queue) : Bool := q.en && q.rptr != q.wptr

/-- Work of a queue that has started and not ended. -/
def State.queueBusy (s : State) (c q : Nat) : Bool :=
  (s.launches.any fun p => p.2.live && p.2.ctx == c && p.2.queue == q && p.2.draw.isNone)
  || s.draws.any fun p => p.2.live && p.2.ctx == c && p.2.queue == q

/-- Numbers of the draws of a context that have not ended. -/
def State.drawNumbers (s : State) (c : Nat) : List Nat :=
  (s.draws.filter fun p => p.2.live && p.2.ctx == c).map fun p => p.2.number

/-- A draw number may be given now: it lies less than 2^23 beyond the oldest draw (R256). -/
def State.drawFree (s : State) (c : Nat) : Bool :=
  (s.drawNumbers c).all fun n => decide (((s.cx c).drawNext + 2 ^ 24 - n) % 2 ^ 24 < 2 ^ 23)

/-- The head of a queue is ready (R354); one that breaks R353 is found out when it is taken. -/
def State.headReady (s : State) (c q : Nat) : Bool :=
  let x := s.qu c q
  x.hasHead &&
    match s.cmdOp x with
    | 2 => s.drawFree c
    | 3 => x.waitOk || !s.cmdOk x
    | 4 => !s.queueBusy c q
    | _ => true

/-- The effective class of a head (R355). -/
def State.effClass (s : State) (c q : Nat) : Nat :=
  let x := s.qu c q
  let t := match x.readyAt with | some n => cyclesIn 0 n (s.stepNo - n) | none => 0
  min 3 (x.cls + t / 2 ^ 20)

/-- The ready heads of a partition: context and queue. -/
def State.readyHeads (s : State) (part : Nat) : List (Nat × Nat) :=
  (s.ctxs.filter fun p => p.2.partition == part && s.serves p.1).flatMap fun p =>
    ((mkeys p.2.queues).filter fun q => s.headReady p.1 q).map fun q => (p.1, q)

/-- The head the command processor takes next: the highest effective class, then round-robin in the order (context,
queue) (R355). -/
def State.chosenHead (s : State) (part : Nat) : Option (Nat × Nat) :=
  let hs := s.readyHeads part
  let top := hs.foldl (fun m h => max m (s.effClass h.1 h.2)) 0
  let best := hs.filter fun h => s.effClass h.1 h.2 == top
  match best.find? fun h => decide ((s.pa part).rr < h.1 * 16 + h.2 + 1) with
  | some h => some h
  | none => best.head?

/-- A command starts: RPTR moves on and is written, the choice is remembered (R352, R355). `rr` holds the place after
the queue that started. -/
def State.startHead (s : State) (c q : Nat) : State :=
  let r := ((s.qu c q).rptr + 1) % 2 ^ 32
  let s := s.physPut (s.quAt c q + 16) (BitVec.ofNat 64 r)
  let s := s.modQu c q fun x => { x with rptr := r, waitOk := false, readyAt := none }
  s.modPa (s.cx c).partition fun p => { p with rr := c * 16 + q + 1 }

/-- The halt of a command error, with an address (R354, R398). -/
def State.cmdErr (s : State) (c addr : Nat) : State := s.haltCtx c { cause := cCmderr, addr := addr }

/-- A command event of a queue: nothing happens unless the head is served; a command that breaks R353 halts the
context; `f` takes a head of the right opcode. -/
def State.onHead (s : State) (c q op : Nat) (f : State → Queue → State) : State :=
  let x := s.qu c q
  if !s.serves c || !x.hasHead then s
  else if !s.cmdOk x then
    if s.chosenHead (s.cx c).partition = some (c, q) then s.cmdErr c (x.base.toNat + 128 * (x.rptr % 2 ^ x.size)) else s
  else if s.cmdOp x ≠ op then s
  else f s x

/-- A head that starts as soon as it is chosen. -/
def State.onChosen (s : State) (c q op : Nat) (f : State → Queue → State) : State :=
  s.onHead c q op fun s x => if s.chosenHead (s.cx c).partition = some (c, q) then f s x else s

/-! ## Words that commands read and write (R354) -/

/-- The core number under which the command processors translate: no core has it. -/
def cmdCore : Nat := 63

inductive WordXl where
  | ok (s : State) (p : Place)
  | wait (s : State)
  | bad (s : State)

def State.wordPlace (s : State) (c va : Nat) (need : Need) : WordXl :=
  if va % 8 ≠ 0 ∨ 2 ^ 56 ≤ va then .bad s
  else match s.translate cmdCore c va need with
    | (t, .ok p _) => if t.placeHeld cmdCore p then .wait t else .ok t p
    | (t, .wait) => .wait t
    | (t, _) => .bad t

/-- What a look at the words of a WAIT comes to. -/
inductive WaitLook where
  | met (s : State)
  | unmet (s : State)
  | halted (s : State)

/-- Read the words of a WAIT as acquires at sys scope, from pair i on: each is read, so that each that is an error is found. -/
def State.lookWait (s : State) (c : Nat) (x : Queue) (i : Nat) : Nat → WaitLook
  | 0 => .met s
  | n + 1 =>
    let va := (s.cmdWord x (1 + 2 * i)).toNat
    let unmet (r : WaitLook) : WaitLook := match r with | .met t => .unmet t | r => r
    match s.wordPlace c va { r := true } with
    | .wait t => unmet (t.lookWait c x (i + 1) n)
    | .bad t => .halted (t.cmdErr c va)
    | .ok t p =>
      let (t, v) := t.placeRead p 8
      let rest := t.lookWait c x (i + 1) n
      if v < (s.cmdWord x (2 + 2 * i)).toNat then unmet rest else rest

/-- Read the words and mark the head; `f` goes on when they are at least their values. -/
def State.pollWait (s : State) (c q : Nat) (x : Queue) (f : State → State) : State :=
  match s.lookWait c x 0 (s.waitCount x) with
  | .met t => f (t.modQu c q fun y => { y with waitOk := true })
  | .unmet t => t.modQu c q fun y => { y with waitOk := false, readyAt := none }
  | .halted t => t

/-- A WAIT stands at the head of a queue, and its words have not been found met. -/
def State.waitsAt (s : State) (c q : Nat) : Bool :=
  let x := s.qu c q
  (s.cx c).state != .free && (s.cx c).state != .halted && x.hasHead && s.cmdOp x == 3 && s.cmdOk x && !x.waitOk

/-- After a signal write the command processors read the words of every WAIT at a head again (R354). -/
def State.rereadWaits (s : State) : State :=
  (s.ctxs.flatMap fun p => (mkeys p.2.queues).map fun q => (p.1, q)).foldl (fun t h =>
    if t.waitsAt h.1 h.2 then t.pollWait h.1 h.2 (t.qu h.1 h.2) id else t) s

/-- What a write of a signal word comes to. -/
inductive SignalEnd where
  | done (s : State)
  | wait (s : State)
  | halted (s : State)

/-- Write a signal word as a release, and have every waiting word read again (R354, R363). -/
def State.putSignal (s : State) (c va : Nat) (v : Word64) : SignalEnd :=
  match s.wordPlace c va { w := true } with
  | .ok t p => .done (t.placeWrite p 8 v.toNat).rereadWaits
  | .wait t => .wait t
  | .bad t => .halted (t.cmdErr c va)

/-- The completion interrupt of a queue (R352, R417). -/
def State.endIrq (s : State) (c q : Nat) : State :=
  let v := (s.qu c q).cvec
  if v = 0 then s else s.raiseIrq (s.cx c).fn (2 + v)

/-! ## NOP, WAIT, SIGNAL -/

/-- R353. -/
def execNopCommand (ctx queue : Nat) (s : State) : Out :=
  .next (s.onChosen ctx queue 0 fun s _ => s.startHead ctx queue)

/-- R354. -/
def execWaitCommand (ctx queue : Nat) (s : State) : Out :=
  .next (s.onHead ctx queue 3 fun s x => s.pollWait ctx queue x fun s =>
    if s.chosenHead (s.cx ctx).partition = some (ctx, queue) then s.startHead ctx queue else s)

/-- R354: the words are read again; while the context is saved, too (R373). -/
def execWaitCommandPoll (ctx queue : Nat) (s : State) : Out :=
  .next (
    let x := s.qu ctx queue
    let c := (s.cx ctx).state
    if c = .free ∨ c = .halted ∨ !x.hasHead ∨ s.cmdOp x ≠ 3 ∨ !s.cmdOk x then s
    else s.pollWait ctx queue x id)

/-- R354: every earlier command of the queue has ended. -/
def execSignal (ctx queue : Nat) (s : State) : Out :=
  .next (s.onChosen ctx queue 4 fun s x =>
    match s.putSignal ctx (s.cmdWord x 1).toNat (s.cmdWord x 2) with
    | .done t => (t.startHead ctx queue).endIrq ctx queue
    | .wait t => t
    | .halted t => t)

end Sys2Proof.Machine
end

