-- ==== Sys2Proof/Machine/LaunchCmd.lean ====
section
/-! DEFINITION. Launch packets (R356, R357), pass descriptors (R255), and the LAUNCH and DRAW commands (R354, R256,
R268, R437). -/
namespace Sys2Proof.Machine

/-! ## Reading a packet -/

/-- Some 64-bit words at a virtual address: read, not yet to be had, or not to be had at all. -/
inductive WordsXl where
  | ok (s : State) (ws : List Word64)
  | wait (s : State)
  | bad (s : State)

def State.readWords (s : State) (c va : Nat) : Nat → WordsXl
  | 0 => .ok s []
  | n + 1 =>
    match s.wordPlace c va { r := true } with
    | .wait t => .wait t
    | .bad t => .bad t
    | .ok t p =>
      let (t, v) := t.placeRead p 8
      match t.readWords c (va + 8) n with
      | .ok u ws => .ok u (BitVec.ofNat 64 v :: ws)
      | r => r

/-- Word i of a block, as a 64-bit word. -/
def blkWord (ws : List Word64) (i : Nat) : Word64 := (ws[i]?).getD 0

/-- What a packet is for: a LAUNCH, a draw's mesh teams, its pixel groups. -/
inductive PacketUse where
  | compute | mesh | pixel
  deriving DecidableEq, Repr

/-- A launch packet that keeps R356; a mesh packet's and a pixel packet's ignored fields are at their defaults (R437,
R268). -/
def packetOf (use : PacketUse) (ws : List Word64) : Option Packet :=
  let w := blkWord ws
  let f (i hi lo : Nat) : Nat := field (w i) hi lo
  let p : Packet :=
    { entry := (w 0).setWidth 32, gridX := f 0 63 32, gridY := f 1 31 0, gridZ := f 1 63 32, team := f 2 4 0 + 1,
      producer := f 2 12 8, clw := f 2 18 16 + 1, clh := f 2 22 20 + 1, depth := f 2 26 24 + 1, azero := bit (w 2) 28,
      cls := f 2 30 29, inter := bit (w 2) 31, abuf := f 2 47 32, wbuf := f 2 63 48, acc := f 3 15 0, slots := f 3 21 16,
      cores := f 3 25 24, args := w 4, sigAddr := w 5, sigVal := w 6 }
  let zeros := f 0 15 14 == 0 && f 2 7 5 == 0 && f 2 15 13 == 0 && !bit (w 2) 19 && !bit (w 2) 23 && !bit (w 2) 27
    && f 3 23 22 == 0 && f 3 31 26 == 0 && f 3 63 32 == 0 && w 7 == 0
  let demands := decide (p.abuf ≤ 12288 ∧ p.wbuf ≤ 3072 ∧ p.acc ≤ 1536 ∧ 1 ≤ p.slots ∧ p.slots ≤ 60)
  let q : Packet := match use with
    | .compute => p
    | .mesh => { p with gridX := 1, gridY := 1, gridZ := 1, clw := 1, clh := 1, cores := 1, sigAddr := 0, sigVal := 0 }
    | .pixel => { p with gridX := 1, gridY := 1, gridZ := 1, clw := 1, clh := 1, cores := 0, sigAddr := 0, sigVal := 0,
                         team := 1, producer := 0 }
  let shape := decide (1 ≤ q.gridX ∧ 1 ≤ q.gridY ∧ 1 ≤ q.gridZ ∧ q.gridX * q.gridY * q.gridZ ≤ 2 ^ 32 ∧ q.producer < q.team
    ∧ q.clh ≤ 6 ∧ q.clw * q.clh ≤ 12 ∧ q.cores ≠ 3 ∧ (q.cores = 0 ∨ q.clw * q.clh = 1) ∧ q.sigAddr.toNat % 8 = 0)
  if zeros && demands && shape then some q else none

/-- Rows a team takes (R358). -/
def Packet.rows (p : Packet) : Nat := p.team * (64 + 40 * (p.depth - 1))

/-- The kinds of die a packet permits (R356). -/
def Packet.kinds (p : Packet) : List Nat := if p.cores = 0 then [2] else if p.cores = 1 then [1] else [1, 2]

/-- Stack bytes of a group. -/
def Ctx.stackBlock (x : Ctx) : Nat := 32 * x.stackSz

/-- A team's demands fit an empty core of a kind (R357, R358). -/
def Packet.fitsEmpty (p : Packet) (x : Ctx) (quota kind : Nat) : Bool :=
  decide (p.rows ≤ 6144 ∧ p.slots ≤ quota ∧ p.team * x.stackBlock ≤ x.stackPoolSz)
  && if kind = 1 then decide (256 * p.abuf ≤ 0x300000 ∧ p.wbuf = 0 ∧ 1024 * p.acc ≤ x.shadowSz)
     else decide (256 * p.abuf ≤ 0x240000 ∧ 256 * p.wbuf ≤ wbufSize ∧ p.acc ≤ 1536)

/-- The refusals of R357 beyond the packet's layout. -/
def State.packetAllowed (s : State) (c : Nat) (p : Packet) : State × Bool :=
  let x := s.cx c
  let (s, h) := s.ovHeader cmdCore c
  let id := pcId p.entry
  let (s, entry) : State × Bool :=
    if sysId ≤ id then (s, s.overlays.any fun o => o.id == id && o.ctx == sysCtx)
    else
      let (s, e) := s.ovEntry cmdCore c id
      (s, e.isSome)
  (s, p.inter == x.inter && !(p.inter && decide (p.acc ≠ 0 ∨ 1024 < p.abuf)) && entry
      && p.kinds.any fun k => p.fitsEmpty x h.quota k)

/-- Load and check a packet. -/
inductive PacketXl where
  | ok (s : State) (p : Packet)
  | wait (s : State)
  | refused (s : State)

def State.loadPacket (s : State) (c va : Nat) (use : PacketUse) : PacketXl :=
  if va % 64 ≠ 0 then .refused s
  else match s.readWords c va 8 with
    | .wait t => .wait t
    | .bad t => .refused t
    | .ok t ws =>
      match packetOf use ws with
      | none => .refused t
      | some p =>
        let (t, wait) := t.ovWaits cmdCore c (pcId p.entry)
        if wait then .wait t
        else
        let (t, ok) := t.packetAllowed c p
        if ok then .ok t p else .refused t

/-! ## LAUNCH -/

/-- The start of a launch or a draw is an acquire: what other agents have written since is seen by its loads, on pages of every class
(R312, R316). -/
def State.launchAcquire (s : State) (part : Nat) : State := s.flushUntracked (s.diesOf part 1 ++ s.diesOf part 2) 2

/-- Put a launch into the distributor's table; ids rise in the order of starting. -/
def State.addLaunch (s : State) (l : Launch) : State :=
  let s := s.launchAcquire (s.cx l.ctx).partition
  { s.fresh with launches := mset {} s.launches s.nextId l }

/-- R354, R357. -/
def execLaunch (ctx queue : Nat) (s : State) : Out :=
  .next (s.onChosen ctx queue 1 fun s x =>
    let va := (s.cmdWord x 1).toNat
    match s.loadPacket ctx va .compute with
    | .wait t => t
    | .refused t => t.cmdErr ctx va
    | .ok t p => (t.startHead ctx queue).addLaunch { live := true, ctx := ctx, queue := queue, packet := p, cls := s.effClass ctx queue })

/-! ## DRAW -/

/-- A pass descriptor that keeps R255. -/
def passOf (ws : List Word64) : Option Pass :=
  let w := blkWord ws
  let nrt := field (w 2) 10 8
  let zmode := field (w 2) 1 0
  let targets := (List.range nrt).map fun t =>
    (field (w (3 + t)) 1 0, field (w (3 + t)) 4 2, BitVec.ofNat 64 ((w (3 + t)).toNat / 4096 * 4096))
  let ok := decide (nrt ≤ 4) && field (w 2) 7 2 == 0 && field (w 2) 15 11 == 0 && field (w 2) 31 16 == 0
    && field (w 2) 47 46 == 0 && field (w 2) 63 62 == 0 && w 7 == 0 && (w 1).toNat % 4096 == 0 && (w 1 != 0 || zmode == 0)
    && ((List.range nrt).all fun t => field (w (3 + t)) 11 5 == 0)
    && targets.all fun t => t.1 != 3 && decide (t.2.1 ≤ 4) && (t.2.1 != 4 || t.1 == 0)
  if ok then
    some { pixlp := w 0, depth := w 1, zmode := zmode, nrt := nrt, width := field (w 2) 45 32 + 1,
           height := field (w 2) 61 48 + 1, targets := targets }
  else none

/-- Start a draw (R256): its number, its mesh teams, its pixel groups, and the beacons that its arrival raises. -/
def State.startDraw (s : State) (c q cls : Nat) (pass : Pass) (mesh pix : Packet) (n : Nat) (sigAddr sigVal : Word64) : State :=
  let x := s.cx c
  let id := s.nextId
  let d : Draw := { live := true, ctx := c, queue := q, number := x.drawNext, pass := pass, mesh := mesh, pix := pix, n := n,
                    gdies := s.diesOf x.partition 1, sigAddr := sigAddr, sigVal := sigVal }
  let s := { s.fresh with draws := mset {} s.draws id d }
  let s := s.modCx c fun y => { y with drawNext := (y.drawNext + 1) % 2 ^ 24 }
  let s := s.addLaunch { live := true, ctx := c, queue := q, packet := { mesh with gridX := n }, draw := some id, cls := cls }
  let s := s.addLaunch { live := true, ctx := c, queue := q, packet := pix, draw := some id, pixel := true, cls := cls }
  s.sendBeacons c

/-- R256, R255, R437, R268. -/
def execDraw (ctx queue : Nat) (s : State) : Out :=
  .next (s.onChosen ctx queue 2 fun s x =>
    let w := s.cmdWord x
    let part := (s.cx ctx).partition
    let bad (t : State) : State := t.cmdErr ctx (w 1).toNat
    if (s.diesOf part 1).isEmpty ∨ (s.diesOf part 2).isEmpty then bad s
    else if !s.drawFree ctx then s
    else match s.readWords ctx (w 1).toNat 8 with
    | .wait t => t
    | .bad t => bad t
    | .ok t ws =>
      match passOf ws with
      | none => bad t
      | some pass =>
        match t.loadPacket ctx (w 2).toNat .mesh with
        | .wait t => t
        | .refused t => bad t
        | .ok t mesh =>
          match t.loadPacket ctx pass.pixlp.toNat .pixel with
          | .wait t => t
          | .refused t => bad t
          | .ok t pix =>
            (t.startHead ctx queue).startDraw ctx queue (s.effClass ctx queue) pass mesh pix (field (w 3) 31 0) (w 4) (w 5))

end Sys2Proof.Machine
end

