-- ==== Sys2Proof/Machine/Scalar.lean ====
section
/-! DEFINITION. Scalar arithmetic and logic, majors 0x08 to 0x0B (R121-R124, R70). -/
namespace Sys2Proof.Machine

/-- All ones or zero. -/
def ones (b : Bool) : Word64 := if b then BitVec.allOnes 64 else 0

/-- Bits 127:64 of the signed product (R122). -/
def mulHigh (x y : Word64) : Word64 := BitVec.ofInt 64 (x.toInt * y.toInt / 2 ^ 64)

/-- R123: all ones by zero, the minimum by -1 wraps. -/
def sDiv (x y : Word64) : Word64 := if y = 0 then BitVec.allOnes 64 else BitVec.ofInt 64 (x.toInt.tdiv y.toInt)

/-- R123. -/
def sRem (x y : Word64) : Word64 := if y = 0 then x else BitVec.ofInt 64 (x.toInt.tmod y.toInt)

/-- Leading zeros of a w-bit number (R122, R127). -/
def clz (w x : Nat) : Nat := if x = 0 then w else w - 1 - Nat.log2 x

/-- Bit reversal (R122). -/
def brev (x : Word64) : Word64 := ofBits 64 fun i => bit x (63 - i)

/-- R122. -/
def execSadd (e : Bool) (d a b : BitVec 5) (s : State) : Out :=
  issue s fun s => s.scal2 e d a b (.linS d.toNat a.toNat b.toNat false) fun x y => x + y

/-- R122. -/
def execSsub (e : Bool) (d a b : BitVec 5) (s : State) : Out :=
  issue s fun s => s.scal2 e d a b (.linS d.toNat a.toNat b.toNat true) fun x y => x - y

/-- R122. -/
def execSmul (e : Bool) (d a b : BitVec 5) (s : State) : Out :=
  issue s fun s => s.scal2 e d a b .conc fun x y => x * y

/-- R122. -/
def execSmulh (e : Bool) (d a b : BitVec 5) (s : State) : Out :=
  issue s fun s => s.scal2 e d a b .conc fun x y => mulHigh x y

/-- R123. -/
def execSdiv (e : Bool) (d a b : BitVec 5) (s : State) : Out :=
  issue s fun s => s.scal2 e d a b .conc fun x y => sDiv x y

/-- R123. -/
def execSrem (e : Bool) (d a b : BitVec 5) (s : State) : Out :=
  issue s fun s => s.scal2 e d a b .conc fun x y => sRem x y

/-- R122. -/
def execSand (e : Bool) (d a b : BitVec 5) (s : State) : Out :=
  issue s fun s => s.scal2 e d a b .conc fun x y => x &&& y

/-- R122. -/
def execSor (e : Bool) (d a b : BitVec 5) (s : State) : Out :=
  issue s fun s => s.scal2 e d a b .conc fun x y => x ||| y

/-- R122. -/
def execSxor (e : Bool) (d a b : BitVec 5) (s : State) : Out :=
  issue s fun s => s.scal2 e d a b .conc fun x y => x ^^^ y

/-- R122. -/
def execSshl (e : Bool) (d a b : BitVec 5) (s : State) : Out :=
  issue s fun s => s.scal2 e d a b .conc fun x y => x <<< (y.toNat % 64)

/-- R122. -/
def execSshr (e : Bool) (d a b : BitVec 5) (s : State) : Out :=
  issue s fun s => s.scal2 e d a b .conc fun x y => x >>> (y.toNat % 64)

/-- R122. -/
def execSsra (e : Bool) (d a b : BitVec 5) (s : State) : Out :=
  issue s fun s => s.scal2 e d a b .conc fun x y => x.sshiftRight (y.toNat % 64)

/-- R122. -/
def execSmin (e : Bool) (d a b : BitVec 5) (s : State) : Out :=
  issue s fun s => s.scal2 e d a b .conc fun x y => if x.sle y then x else y

/-- R122. -/
def execSmax (e : Bool) (d a b : BitVec 5) (s : State) : Out :=
  issue s fun s => s.scal2 e d a b .conc fun x y => if x.sle y then y else x

/-- R122. -/
def execSminn (e : Bool) (d a b : BitVec 5) (s : State) : Out :=
  issue s fun s => s.scal2 e d a b .conc fun x y => if x ≤ y then x else y

/-- R122. -/
def execSmaxn (e : Bool) (d a b : BitVec 5) (s : State) : Out :=
  issue s fun s => s.scal2 e d a b .conc fun x y => if x ≤ y then y else x

/-- R122. -/
def execScmpEq (e : Bool) (d a b : BitVec 5) (s : State) : Out :=
  issue s fun s => s.scal2 e d a b (.cmpS d.toNat a.toNat b.toNat 0 true) fun x y => ones (x == y)

/-- R122. -/
def execScmpNe (e : Bool) (d a b : BitVec 5) (s : State) : Out :=
  issue s fun s => s.scal2 e d a b (.cmpS d.toNat a.toNat b.toNat 1 true) fun x y => ones (x != y)

/-- R122. -/
def execScmpLt (e : Bool) (d a b : BitVec 5) (s : State) : Out :=
  issue s fun s => s.scal2 e d a b (.cmpS d.toNat a.toNat b.toNat 2 true) fun x y => ones (x.slt y)

/-- R122. -/
def execScmpLe (e : Bool) (d a b : BitVec 5) (s : State) : Out :=
  issue s fun s => s.scal2 e d a b (.cmpS d.toNat a.toNat b.toNat 3 true) fun x y => ones (x.sle y)

/-- R122. -/
def execScmpLtn (e : Bool) (d a b : BitVec 5) (s : State) : Out :=
  issue s fun s => s.scal2 e d a b (.cmpS d.toNat a.toNat b.toNat 2 false) fun x y => ones (x.ult y)

/-- R122. -/
def execScmpLen (e : Bool) (d a b : BitVec 5) (s : State) : Out :=
  issue s fun s => s.scal2 e d a b (.cmpS d.toNat a.toNat b.toNat 3 false) fun x y => ones (x.ule y)

/-- R122. -/
def execSnot (e : Bool) (d a : BitVec 5) (s : State) : Out :=
  issue s fun s => s.scal1 e d a .conc fun x => ~~~ x

/-- R122. -/
def execSmov (e : Bool) (d a : BitVec 5) (s : State) : Out :=
  issue s fun s => s.scal1 e d a (.movS d.toNat a.toNat) fun x => x

/-- R122. -/
def execSpopc (e : Bool) (d a : BitVec 5) (s : State) : Out :=
  issue s fun s => s.scal1 e d a .conc fun x => BitVec.ofNat 64 (popc x)

/-- R122. -/
def execSclz (e : Bool) (d a : BitVec 5) (s : State) : Out :=
  issue s fun s => s.scal1 e d a .conc fun x => BitVec.ofNat 64 (clz 64 x.toNat)

/-- R122. -/
def execSbrev (e : Bool) (d a : BitVec 5) (s : State) : Out :=
  issue s fun s => s.scal1 e d a .conc fun x => brev x

/-- R70: wraps. -/
def execSaddi (e : Bool) (d a : BitVec 5) (i : BitVec 15) (s : State) : Out :=
  issue s fun s => s.scal1 e d a (.immS d.toNat a.toNat (i.signExtend 64)) fun x => x + i.signExtend 64

/-- R70. -/
def execSli (e : Bool) (d : BitVec 5) (i : BitVec 15) (s : State) : Out :=
  issue s fun s => s.form e { ds := [d.toNat] } .conc fun s => s.sset s.cur d.toNat (i.signExtend 64)

/-- R70: the immediate is unsigned. -/
def execSlih (e : Bool) (d a : BitVec 5) (i : BitVec 15) (s : State) : Out :=
  issue s fun s => s.scal1 e d a .conc fun x => (x <<< 15) ||| i.setWidth 64

end Sys2Proof.Machine
end

