-- ==== Sys2Proof/Machine/VectorInt.lean ====
section
/-! DEFINITION. Vector integer arithmetic, majors 0x0C to 0x0E (R125-R128). -/
namespace Sys2Proof.Machine

/-- VDIV per element (R123, R127): by zero all ones; the minimum by -1 wraps, or is the maximum under SAT. -/
def vDiv (t : Nat) (sat : Bool) (x y : Int) : Int :=
  if y = 0 then -1
  else if elSigned t && decide (x = elMin true (elW t)) && decide (y = -1) && sat then elMax true (elW t)
  else x.tdiv y

/-- A form of two sources. -/
def State.vec2 (s : State) (e ok : Bool) (d a b : BitVec 6) (tag : TagRule)
    (f : Word64 → Word64 → Word64 → Word64) : State :=
  s.vec e ok d.toNat [a.toNat, b.toNat] tag fun s l => f (s.opnd a.toNat l) (s.opnd b.toNat l) 0

/-- A form of two sources that reads the old destination too. -/
def State.vec3 (s : State) (e ok : Bool) (d a b : BitVec 6) (f : Word64 → Word64 → Word64 → Word64) : State :=
  s.vec e ok d.toNat [a.toNat, b.toNat, d.toNat] .conc fun s l =>
    f (s.opnd a.toNat l) (s.opnd b.toNat l) (s.opnd d.toNat l)

/-- A form of one source. -/
def State.vec1 (s : State) (e ok : Bool) (d a : BitVec 6) (tag : TagRule) (f : Word64 → Word64) : State :=
  s.vec e ok d.toNat [a.toNat] tag fun s l => f (s.opnd a.toNat l)

/-- R127. -/
def execVadd (e : Bool) (d a b : BitVec 6) (s : State) : Out :=
  issue s fun s => s.vec2 e (clsI64 s.ty) d a b (if s.tagTypes then .linV d.toNat a.toNat b.toNat false s.wide else .conc) (mapInt s.ty s.sat (fun x y _ => x + y))

/-- R127. -/
def execVsub (e : Bool) (d a b : BitVec 6) (s : State) : Out :=
  issue s fun s => s.vec2 e (clsI64 s.ty) d a b (if s.tagTypes then .linV d.toNat a.toNat b.toNat true s.wide else .conc) (mapInt s.ty s.sat (fun x y _ => x - y))

/-- R127. -/
def execVmul (e : Bool) (d a b : BitVec 6) (s : State) : Out :=
  issue s fun s => s.vec2 e (clsI s.ty) d a b .conc (mapInt s.ty s.sat (fun x y _ => x * y))

/-- R127. -/
def execVmulh (e : Bool) (d a b : BitVec 6) (s : State) : Out :=
  issue s fun s => s.vec2 e (clsI s.ty) d a b .conc (mapInt s.ty false (fun x y _ => x * y / 2 ^ elW s.ty))

/-- R127. -/
def execVand (e : Bool) (d a b : BitVec 6) (s : State) : Out :=
  issue s fun s => s.vec2 e true d a b .conc (mapEl s.ty (fun x y _ => x &&& y))

/-- R127. -/
def execVor (e : Bool) (d a b : BitVec 6) (s : State) : Out :=
  issue s fun s => s.vec2 e true d a b .conc (mapEl s.ty (fun x y _ => x ||| y))

/-- R127. -/
def execVxor (e : Bool) (d a b : BitVec 6) (s : State) : Out :=
  issue s fun s => s.vec2 e true d a b .conc (mapEl s.ty (fun x y _ => x ^^^ y))

/-- R127. -/
def execVshl (e : Bool) (d a b : BitVec 6) (s : State) : Out :=
  issue s fun s => s.vec2 e (clsI64 s.ty) d a b .conc (mapEl s.ty (fun x y _ => x <<< (y % elW s.ty)))

/-- R127. -/
def execVshr (e : Bool) (d a b : BitVec 6) (s : State) : Out :=
  issue s fun s => s.vec2 e (clsI64 s.ty) d a b .conc (mapEl s.ty (fun x y _ => x >>> (y % elW s.ty)))

/-- R127. -/
def execVsra (e : Bool) (d a b : BitVec 6) (s : State) : Out :=
  issue s fun s => s.vec2 e (clsI64 s.ty) d a b .conc (mapEl s.ty (fun x y _ => wrapTo (elW s.ty) (elInt true (elW s.ty) x / 2 ^ (y % elW s.ty))))

/-- R127. -/
def execVmin (e : Bool) (d a b : BitVec 6) (s : State) : Out :=
  issue s fun s => s.vec2 e (clsI s.ty) d a b .conc (mapInt s.ty false (fun x y _ => min x y))

/-- R127. -/
def execVmax (e : Bool) (d a b : BitVec 6) (s : State) : Out :=
  issue s fun s => s.vec2 e (clsI s.ty) d a b .conc (mapInt s.ty false (fun x y _ => max x y))

/-- R127. -/
def execVavg (e : Bool) (d a b : BitVec 6) (s : State) : Out :=
  issue s fun s => s.vec2 e (clsI s.ty) d a b .conc (mapInt s.ty false (fun x y _ => (x + y + 1) / 2))

/-- R127. -/
def execVdiv (e : Bool) (d a b : BitVec 6) (s : State) : Out :=
  issue s fun s => s.vec2 e (clsI s.ty) d a b .conc (mapInt s.ty false (fun x y _ => vDiv s.ty s.sat x y))

/-- R127. -/
def execVrem (e : Bool) (d a b : BitVec 6) (s : State) : Out :=
  issue s fun s => s.vec2 e (clsI s.ty) d a b .conc (mapInt s.ty false (fun x y _ => if y = 0 then x else x.tmod y))

/-- R127. -/
def execVmad (e : Bool) (d a b : BitVec 6) (s : State) : Out :=
  issue s fun s => s.vec3 e (clsI s.ty) d a b (mapInt s.ty s.sat (fun x y z => x * y + z))

/-- R127. -/
def execVbsel (e : Bool) (d a b : BitVec 6) (s : State) : Out :=
  issue s fun s => s.vec3 e true d a b (mapEl s.ty (fun x y z => (z &&& x) ||| ((2 ^ elW s.ty - 1 - z) &&& y)))

/-- R127. -/
def execVnot (e : Bool) (d a : BitVec 6) (s : State) : Out :=
  issue s fun s => s.vec1 e true d a .conc fun x => mapEl s.ty (fun x _ _ => 2 ^ elW s.ty - 1 - x) x 0 0

/-- R127. -/
def execVabs (e : Bool) (d a : BitVec 6) (s : State) : Out :=
  issue s fun s => s.vec1 e (clsI s.ty) d a .conc fun x => mapInt s.ty s.sat (fun x _ _ => if x < 0 then -x else x) x 0 0

/-- R127. -/
def execVneg (e : Bool) (d a : BitVec 6) (s : State) : Out :=
  issue s fun s => s.vec1 e (clsI s.ty) d a .conc fun x => mapInt s.ty s.sat (fun x _ _ => -x) x 0 0

/-- R127. -/
def execVmov (e : Bool) (d a : BitVec 6) (s : State) : Out :=
  issue s fun s => s.vec1 e true d a (.movV d.toNat a.toNat s.wide) fun x => x

/-- R127. -/
def execVpopc (e : Bool) (d a : BitVec 6) (s : State) : Out :=
  issue s fun s => s.vec1 e (clsI s.ty) d a .conc fun x => mapEl s.ty (fun x _ _ => popc (BitVec.ofNat 32 x)) x 0 0

/-- R127. -/
def execVclz (e : Bool) (d a : BitVec 6) (s : State) : Out :=
  issue s fun s => s.vec1 e (clsI s.ty) d a .conc fun x => mapEl s.ty (fun x _ _ => clz (elW s.ty) x) x 0 0

/-- R128: the exact signed immediate in every element. -/
def execVaddi (e : Bool) (d a : BitVec 6) (i : BitVec 13) (s : State) : Out :=
  issue s fun s => s.vec1 e (clsI64 s.ty) d a
    (if s.tagTypes then .immV d.toNat a.toNat (i.signExtend 64) s.wide else .conc)
    fun x => mapInt s.ty s.sat (fun x _ _ => x + i.toInt) x 0 0

/-- R128. -/
def execVli (e : Bool) (d : BitVec 6) (i : BitVec 13) (s : State) : Out :=
  issue s fun s => s.vec e true d.toNat [] .conc fun s _ => mapEl s.ty (fun _ _ _ => wrapTo (elW s.ty) i.toInt) 0 0 0

end Sys2Proof.Machine
end

