-- ==== Sys2Proof/Machine/Permute.lean ====
section
/-! DEFINITION. Permute and cross-lane forms, major 0x0F (R129-R133). -/
namespace Sys2Proof.Machine

/-- Types of the bit-field forms (R129). -/
def clsBf (t : Nat) : Bool := t == 0 || t == 1 || t == 2

/-- Position, length and mask of a bit field (R130). -/
def bfPos (b : Nat) : Nat := b % 32
def bfLen (b : Nat) : Nat := min (b / 256 % 64) 32

/-- VBFE of one lane (R130). -/
def bfe (signed : Bool) (a b : Nat) : Nat :=
  let x := (a >>> bfPos b) % 2 ^ bfLen b
  if signed && decide (1 ≤ bfLen b) then wrapTo 32 (elInt true (bfLen b) x) else x

/-- VBFI of one lane (R130). -/
def bfi (d a b : Nat) : Nat :=
  let m := (2 ^ bfLen b - 1) <<< bfPos b
  ((d &&& (2 ^ 64 - 1 - m)) ||| ((a % 2 ^ bfLen b) <<< bfPos b)) % 2 ^ 32

/-- R130. -/
def execVbfe (e : Bool) (d a b : BitVec 6) (s : State) : Out :=
  issue s fun s => s.vec2 e (clsBf s.ty) d a b .conc fun x y _ => BitVec.ofNat 64 (bfe (s.ty == 1) x.toNat y.toNat)

/-- R130. -/
def execVbfi (e : Bool) (d a b : BitVec 6) (s : State) : Out :=
  issue s fun s => s.vec3 e (clsBf s.ty) d a b fun x y z => BitVec.ofNat 64 (bfi z.toNat x.toNat y.toNat)

/-- One byte of VPRMT: nibble n picks a byte of b:a, or its sign eight times (R131). -/
def prmtByte (ab n : Nat) : Nat :=
  let j := (ab >>> (8 * (n % 8))) % 256
  if n < 8 then j else if j < 128 then 0 else 255

/-- VPRMT of one lane (R131). -/
def prmt (d a b : Nat) : Nat :=
  (List.range 4).foldl (fun acc i => acc + prmtByte (a + 2 ^ 32 * b) (d >>> (4 * i) % 16) * 256 ^ i) 0

/-- R131. -/
def execVprmt (e : Bool) (d a b : BitVec 6) (s : State) : Out :=
  issue s fun s => s.vec3 e (s.ty != 15) d a b fun x y z => BitVec.ofNat 64 (prmt z.toNat x.toNat y.toNat)

/-- A row read in any lane of the group: zero in a lane that has exited (R132). -/
def State.crossGet (s : State) (k n l : Nat) : Word32 :=
  if bit (s.gr (gidOf k)).exited l then 0 else s.vget k n l

/-- R132. -/
def execVshuf (e : Bool) (d a b : BitVec 6) (s : State) : Out :=
  issue s fun s =>
    if s.ty = 15 then s.undef
    else
      let from' (s : State) (l : Nat) : Nat := (s.vget s.cur b.toNat l).toNat % 32
      s.form e { sv := [a.toNat, b.toNat], dv := [d.toNat], cross := true,
                 also := (s.glanes s.cur).flatMap fun l => [(a.toNat, from' s l), (b.toNat, l)] } .conc fun s =>
        s.putLanes d.toNat false fun l => (s.crossGet s.cur a.toNat (from' s l)).setWidth 64

/-- VPACKB's scalar (R132). -/
def State.packBits (s : State) (a : Nat) : Word64 :=
  let n := elN s.ty
  let w := elW s.ty
  BitVec.ofNat 64 ((s.glanes s.cur).foldl (fun acc l => (List.range n).foldl (fun acc i =>
    acc + (el w (s.opnd a l) i % 2) * 2 ^ (n * l + i)) acc) 0)

/-- R132: the scalar keeps its value when G is empty. -/
def execVpackb (e : Bool) (d : BitVec 5) (a : BitVec 6) (s : State) : Out :=
  issue s fun s =>
    if 7 < s.ty then s.undef
    else s.form e { sv := [a.toNat], ds := [d.toNat], ifAny := true } .conc fun s =>
      if s.guard s.cur = 0 then s else s.sset s.cur d.toNat (s.packBits a.toNat)

/-- R132. -/
def execVbcast (e : Bool) (d : BitVec 6) (a : BitVec 5) (s : State) : Out :=
  issue s fun s =>
    if s.wide && decide (d.toNat % 2 = 1) then s.undef
    else s.form e { ss := [a.toNat], dv := regs s.wide d.toNat } .conc fun s =>
      let v := s.sget s.cur a.toNat
      s.putLanes d.toNat s.wide fun _ => v

/-- R132. -/
def execVext (e : Bool) (d : BitVec 5) (a : BitVec 6) (b : BitVec 5) (s : State) : Out :=
  issue s fun s =>
    if s.wide && decide (a.toNat % 2 = 1) then s.undef
    else s.form e { sv := regs s.wide a.toNat, ds := [d.toNat], cross := true, ifAny := true,
                    also := if s.guard s.cur = 0 then [] else (regs s.wide a.toNat).map fun n => (n, b.toNat) } .conc fun s =>
      let v := if s.wide then pair64 (s.crossGet s.cur (a.toNat + 1) b.toNat) (s.crossGet s.cur a.toNat b.toNat)
               else (s.crossGet s.cur a.toNat b.toNat).setWidth 64
      if s.guard s.cur = 0 then s else s.sset s.cur d.toNat v

/-- One step of a scan on element codes (R133). -/
def scanOp (t : Nat) (sat : Bool) (op x y : Nat) : Nat :=
  let i := elInt (elSigned t) (elW t)
  match op with
  | 0 => fitEl sat (elSigned t) (elW t) (i x + i y)
  | 1 => if i y < i x then y else x
  | 2 => if i x < i y then y else x
  | 3 => x &&& y
  | 4 => x ||| y
  | _ => x ^^^ y

/-- The inclusive prefixes over the guard lanes, lowest first (R133). -/
def State.scan (s : State) (a op : Nat) : List (Nat × Word64) :=
  (((s.glanes s.cur).foldl (fun (acc : List (Nat × Word64) × Option Word64) l =>
    let x := s.opnd a l
    let v := match acc.2 with
      | none => x
      | some y => mapEl s.ty (fun p q _ => scanOp s.ty s.sat op p q) y x 0
    (acc.1 ++ [(l, v)], some v)) ([], none)).1)

/-- R133. -/
def execVscan (e : Bool) (d a : BitVec 6) (o : BitVec 3) (s : State) : Out :=
  issue s fun s => s.vec e (clsI s.ty) d.toNat [a.toNat] .conc fun s l => (afind (s.scan a.toNat o.toNat) l).getD 0

/-- R133. -/
def execVreduce (e : Bool) (d a : BitVec 6) (o : BitVec 3) (s : State) : Out :=
  issue s fun s => s.vec e (clsI s.ty) d.toNat [a.toNat] .conc fun s _ =>
    match (s.scan a.toNat o.toNat).getLast? with
    | some p => p.2
    | none => 0

end Sys2Proof.Machine
end

