-- ==== Sys2Proof/Machine/Texture.lean ====
section
/-! DEFINITION. Major 0x25: texture and image access (R273-R279). The block of descriptors is read at issue, the
texels as the units of one access. -/
namespace Sys2Proof.Machine

/-- Coordinate rows of a form: 0 TEX 1 TEXL 2 TEXG 3 IMG.LD 4 IMG.ST (R273). -/
def texCoords (form : Nat) : Nat := if form = 0 then 2 else if form = 2 then 6 else 3

/-- Destination rows of a form; IMG.ST reads one. -/
def texRows (form : Nat) : Nat := if form < 3 then 4 else 1

/-- The type, the register groups and the pair of R273 are kept. -/
def texDefined (form ty d a b : Nat) : Bool :=
  ty == (if form < 3 then 3 else 0) && b % 2 == 0 && decide (d + texRows form ≤ 64 ∧ a + texCoords form ≤ 64)

/-- Where the BASE of an image may lie: in the global or the ABUF aperture (R274). One in WBUF is left to IMG.ST, which takes PERM there
(R278; log entry 92). -/
def State.imageBase (s : State) (core form base : Nat) : Bool :=
  decide (base < 2 ^ 56 ∨ (abufBase ≤ base ∧ base < abufBase + s.abufSize core)
    ∨ (form = 4 ∧ wbufBase ≤ base ∧ base < wbufBase + wbufSize))

/-- What a lane samples or names: the texel format and its texels with weights; none where it returns zero and
writes nothing (R275-R278). `lies` says which BASE may stand. -/
def texTaps (lies : Nat → Bool) (form blk : Nat) (xs grads : List Nat) : Option (Nat × List (Nat × Nat)) :=
  let x (i : Nat) : Nat := (xs[i]?).getD 0
  match imageOf blk, samplerOf blk with
  | some i, some p =>
    if ¬ lies i.base then none
    else if form = 0 then some (i.fmt, sampleTaps i p (x 0) (x 1) (lodOf i grads))
    else if form = 1 then some (i.fmt, sampleTaps i p (x 0) (x 1) (x 2))
    else if form = 2 then some (i.fmt, sampleTaps i p (x 0) (x 1) (lodOf i (xs.drop 2)))
    else
      let m := x 2 % 16
      if m < i.levels ∧ x 0 < i.lw m ∧ x 1 < i.lh m then some (3, [(i.texel m (x 0) (x 1), 0)]) else none
  | _, _ => none

/-- The differences of TEX within the quad of lane l (R276). -/
def State.quadGrads (s : State) (k a l : Nat) : List Nat :=
  let at' (r i : Nat) : Nat := (s.crossGet k r (l / 4 * 4 + i)).toNat
  let diff (r i : Nat) : Nat := (texCtx.sub (at' r i) (at' r 0)).1
  [diff a 1, diff (a + 1) 1, diff a 2, diff (a + 1) 2]

/-- What the lanes of a texture form have come to. -/
structure TexAcc where
  chk : Checked := {}
  units : List MUnit := []
  tex : List TexLane := []
  /-- lanes whose descriptors came with an uncorrectable error -/
  bad : List Nat := []
  deriving DecidableEq, Repr

/-- A failed check of a lane. -/
def TexAcc.put (c : TexAcc) (l va : Nat) (x : Xl) : TexAcc :=
  let failed (cause : Nat) (w : Word64) : TexAcc :=
    { c with chk := { c.chk with fail := c.chk.fail ++ [{ lane := l, va := va, cause := cause, entry := w }] } }
  match x with
  | .fault cause w => failed cause w
  | .absent w => failed cXlate w
  | .wait => { c with chk := { c.chk with wait := true } }
  | .contained => { c with chk := { c.chk with dead := true, gone := c.chk.gone ++ [{ lane := l, va := va, cause := cContain, entry := 0 }] } }
  | .ok _ _ => c

/-- One texel of a lane: its units join the access; a texel outside the apertures an image may lie in takes
APERT. -/
def State.texTap (s : State) (k l form v : Nat) (mine : List (Nat × Nat)) (c : TexAcc) (t : TexLane) (p : Nat × Nat) :
    State × TexAcc × TexLane × List (Nat × Nat) × Bool :=
  let store := form == 4
  let n := if store then 4 else 8
  let va := p.1 / n * n
  let half := decide (p.1 % n ≠ 0)
  match afind mine va with
  | some i => (s, c, { t with taps := t.taps ++ [(i, half, p.2)] }, mine, true)
  | none =>
    match s.piecesOf k l va n (if store then needStore else needLoad) with
    | (s, .ok [q]) =>
      let u : MUnit := { lane := l, place := q.1, size := n, off := 0, va := va, value := if store then BitVec.ofNat 64 v else 0 }
      (s, { c with units := c.units ++ [u] }, { t with taps := t.taps ++ [(c.units.length, half, p.2)] },
        (va, c.units.length) :: mine, true)
    | (s, .ok _) => (s, c.put l p.1 (.fault cApert 0), t, mine, false)
    | (s, .error x) => (s, c.put l p.1 x, t, mine, false)

/-- All texels of a lane, up to the first that fails. -/
def State.texAll (s : State) (k l form v : Nat) : List (Nat × Nat) → List (Nat × Nat) → TexAcc → TexLane → State × TexAcc × Option TexLane
  | [], _, c, t => (s, c, some t)
  | p :: ps, mine, c, t =>
    match s.texTap k l form v mine c t p with
    | (s, c, t, mine, true) => s.texAll k l form v ps mine c t
    | (s, c, _, _, false) => (s, c, none)

/-- Bytes that a form reads at its issue, as loads of the split at a scope: none while they may not be read yet, else their value and
whether it came with an uncorrectable error (R269, R279). -/
def State.readBlock (s : State) (k l va scope : Nat) (ps : List Piece) : State × Option (Nat × Bool) :=
  let o : MemOp := { id := s.nextId, splits := [k], gid := gidOf k, ctx := (s.gr (gidOf k)).ctx, core := coreOf (gidOf k), kind := .load,
                     units := unitsOf l va ps 0, scope := scope }
  if o.units.any fun u => !s.mayPerform o 0 u then (s, none)
  else
    match o.units.foldlM (m := Except State) (fun (acc : State × Nat × Bool) u =>
        (acc.1.doUnit o 0 u).map fun r => (r.1, acc.2.1 + r.2.1.toNat * 256 ^ u.off, acc.2.2 || r.2.2)) (s, 0, false) with
    | .ok r => (r.1, some r.2)
    | .error t => (t, none)

/-- One lane of a texture form. -/
def State.texLane (s : State) (k form d a b : Nat) (c : TexAcc) (l : Nat) : State × TexAcc :=
  let va := (s.vget64 k b l).toNat
  match s.piecesOf k l va 64 needLoad with
  | (s, .error x) => (s, c.put l va x)
  | (s, .ok ps) =>
    if ps.any fun p => s.placeLost p.1 then (s, c.put l va .contained)
    else
      match s.readBlock k l va 0 ps with
      | (s, none) => (s, c.put l va .wait)
      | (s, some (blk, bad)) =>
        let xs := (List.range (texCoords form)).map fun i => (s.vget k (a + i) l).toNat
        let grads := if form = 0 then s.quadGrads k a l else []
        let pass (c : TexAcc) (t : TexLane) : TexAcc :=
          { c with chk := { c.chk with pass := c.chk.pass ++ [(l, [])] }, tex := c.tex ++ [t] }
        if bad then (s, { pass c { lane := l, fmt := 4, taps := [] } with bad := c.bad ++ [l] })
        else
          match texTaps (s.imageBase (coreOf (gidOf k)) form) form blk xs grads with
          | none => (s, pass c { lane := l, fmt := 4, taps := [] })
          | some (fmt, taps) =>
            match s.texAll k l form (s.vget k d l).toNat taps [] c { lane := l, fmt := fmt, taps := [] } with
            | (s, c, some t) => (s, pass c t)
            | (s, c, none) => (s, c)

/-- A texture form (R273-R279). -/
def State.texForm (s : State) (e : Bool) (form d a b : Nat) : State :=
  let k := s.cur
  let rows := (List.range (texRows form)).map fun i => d + i
  let store := form == 4
  let acc := if store then 2 else 1
  if !texDefined form s.ty d a b then s.undef
  else if s.inRegion then s.barred abEngine 0x25
  else
    let u : Uses := { sv := ((List.range (texCoords form)).map fun i => a + i) ++ [b, b + 1] ++ (if store then rows else []),
                      dv := if store then [] else rows, cross := form == 0 }
    if s.stalled k u then s.stall
    else
      let (t, c) := (s.glanes k).foldl (fun (x : State × TexAcc) l => x.1.texLane k form d a b x.2 l) (s, {})
      if c.chk.wait then t.stall
      else if c.chk.dead then t.trap k (t.goneTrap k acc c.chk.gone)
      else if ¬ c.chk.pass.isEmpty ∧ s.full (!store) then t.stall
      else
        let lanes := maskOf (c.chk.pass.map fun p => p.1)
        let gone := c.chk.fail.map fun f => f.lane
        let op : MemOp :=
          { id := 0, splits := [k], gid := s.cg, ctx := s.grp.ctx, core := s.cc, kind := if store then .store else .tex form,
            units := c.units.map fun v => if gone.contains v.lane then { v with done := true } else v,
            rows := if store then [] else rows.map (s.row k), lanes := lanes, tex := c.tex, pc := s.me.pc }
        let t := if c.chk.pass.isEmpty then t else t.startOp op
        let t := if c.bad.isEmpty then t else t.putEccu k s.me.pc (some (maskOf c.bad))
        t.settleLanes e acc c.chk.fail

/-- R276, R277. -/
def execTex (e : Bool) (d a b : BitVec 6) (s : State) : Out := issue s fun s => s.texForm e 0 d.toNat a.toNat b.toNat

/-- R276, R277. -/
def execTexl (e : Bool) (d a b : BitVec 6) (s : State) : Out := issue s fun s => s.texForm e 1 d.toNat a.toNat b.toNat

/-- R276, R277. -/
def execTexg (e : Bool) (d a b : BitVec 6) (s : State) : Out := issue s fun s => s.texForm e 2 d.toNat a.toNat b.toNat

/-- R278. -/
def execImgLd (e : Bool) (d a b : BitVec 6) (s : State) : Out := issue s fun s => s.texForm e 3 d.toNat a.toNat b.toNat

/-- R278. -/
def execImgSt (e : Bool) (d a b : BitVec 6) (s : State) : Out := issue s fun s => s.texForm e 4 d.toNat a.toNat b.toNat

end Sys2Proof.Machine
end

