-- ==== Sys2Proof/Machine/Pixel.lean ====
section
/-! DEFINITION. Major 0x24 on an S-die: rasterisation and depth (R267, R268), the pixel forms (R269-R271), the
blend unit (R270, R272). -/
namespace Sys2Proof.Machine

/-! ## Memory accesses of a die's own units -/

/-- The core number under which a die's raster engine and blend unit translate: no core has it. -/
def unitCore (die : Nat) : Nat := 64 * die + 63

/-- A 4-byte word of a target can be read and written now: no copy claims its granule, no test keeps it, and it stands without an
uncorrectable error (R242, R340, R411). -/
def State.wordReady (s : State) (core : Nat) (p : Place) : Tried Unit :=
  if s.copies.any fun c => c.claims.contains p.granule then .error s
  else if s.placeTested core p 4 then .error s
  else if s.placeBad p then .error (s.meetPlace core p)
  else match p with
  | .mem pa cls home => if uncached cls home then .ok (s, ()) else (s.exclusive core (pa / 64) cls home true).map fun r => (r.1, ())
  | _ => .ok (s, ())

/-- Read a word and write what `f` makes of it, if anything; returns what was read. -/
def State.wordRmw (s : State) (core : Nat) (p : Place) (f : Nat → Option Nat) : State × Nat :=
  match p with
  | .mem pa cls home =>
    let sec := pa / 64
    match s.atomSector core sec cls home fun x =>
        match f (sectorPart x sec pa 4) with
        | some v => (sectorMask sec pa 4, sectorImage sec pa 4 v)
        | none => (0, x) with
    | .ok (t, x) => (t, sectorPart x sec pa 4)
    | .error t => (t, 0)
  | q =>
    let (t, x) := s.placeRead q 4
    (match f x with | some v => t.placeWrite q 4 v | none => t, x)

/-- What a unit's translation of a target comes to: the place, or a page request, or the end of the context. -/
inductive UnitXl where
  | ok (s : State) (p : Place)
  | wait (s : State)
  | away (s : State)
  | halt (s : State) (cause : Nat)

def State.unitPlace (s : State) (die c va : Nat) (need : Need) : UnitXl :=
  if 2 ^ 56 ≤ va then .halt s cPagefail
  else match s.translate (unitCore die) c va need with
    | (t, .ok p _) =>
      (match p with
       | .mem pa _ home => if t.lost (pa / 64) home then .halt t cContain else .ok t p
       | _ => .ok t p)
    | (t, .wait) => .wait t
    | (t, .contained) => .halt t cContain
    | (t, .absent _) => .away t
    | (t, .fault cause _) => if cause = cXlate then .away t else .halt t cause

/-- A unit's page request (R267, R272, R388): posted, to be posted when the queue has room, or failed at once. -/
def State.unitAsk (s : State) (c va die core : Nat) (who : Requester) : State :=
  match s.post { ctx := c, va := va, kind := 1, src := 3, die := die, core := core, who := who } with
  | (t, .posted) => t
  | (t, .full) => t.modCx c fun x => { x with prqPoll := x.prqPoll ++ [(va, 1, 3, who)] }
  | (t, .off) => t.haltCtx c { cause := cPagefail, core := 64 * die + core, addr := va }

/-- The launch of a draw's pixel groups. -/
def State.pixLaunch (s : State) (draw : Nat) : Nat :=
  match s.launches.find? fun l => l.2.draw == some draw && l.2.pixel with
  | some l => l.1
  | none => 0

/-- The address of a pixel's word in a target (R272). -/
def pixelAddr (base w x y : Nat) : Nat :=
  base + (y / 32 * ((w + 31) / 32) + x / 32) * 4096 + (y % 32 * 32 + x % 32) * 4

/-! ## Coverage (R267) -/

/-- The edge function opposite vertex i at a centre in 16.8; its ratio to the area is λi. -/
def Prim.edge (p : Prim) (i : Nat) (cx cy : Int) : Int :=
  let (xj, yj, _) := p.at ((i + 1) % 3)
  let (xk, yk, _) := p.at ((i + 2) % 3)
  (xk - xj) * (cy - yj) - (yk - yj) * (cx - xj)

/-- The edge opposite vertex i is a top edge or a left edge. -/
def Prim.topLeft (p : Prim) (i : Nat) : Bool :=
  let (_, yi, _) := p.at i
  let (_, yj, _) := p.at ((i + 1) % 3)
  let (_, yk, _) := p.at ((i + 2) % 3)
  if yj = yk then decide (yj < yi) else decide (0 < -(yk - yj) * (if p.area < 0 then -1 else 1))

/-- Numerator of λi over |area|. -/
def Prim.lam (p : Prim) (i x y : Nat) : Int :=
  p.edge i (256 * x + 128) (256 * y + 128) * (if p.area < 0 then -1 else 1)

/-- The centre of pixel (x, y) is covered. -/
def Prim.covers (p : Prim) (x y : Nat) : Bool :=
  (List.range 3).all fun i =>
    let e := p.lam i x y
    decide (0 < e) || (e == 0 && p.topLeft i)

/-- Zp (R267). -/
def Prim.depthAt (p : Prim) (x y : Nat) : Nat :=
  let n := (List.range 3).foldl (fun (acc : Int) i => acc + p.lam i x y * ((p.at i).2.2.1 : Int)) 0
  (rneInt n p.area.natAbs).toNat

/-- The quads of a primitive's tiles in order (R268): the pixel at the origin of each. -/
def quadsOf (v : VPacket) (p : Prim) : List (Nat × Nat) :=
  ((List.range 16).filter fun i => bit p.cover i).flatMap fun t =>
    (List.range 4).flatMap fun j => (List.range 4).map fun i =>
      (32 * v.rx + 8 * (t % 4) + 2 * i, 32 * v.ry + 8 * (t / 4) + 2 * j)

/-- The pixel of lane j of a quad (R268). -/
def quadPixel (q : Nat × Nat) (j : Nat) : Nat × Nat := (q.1 + j % 2, q.2 + j / 2)

/-- A quad on its way into a group: its primitive, its origin, which of its four pixels are covered. -/
structure Quad4 where
  prim : Prim
  at' : Nat × Nat
  cov : List Bool

/-- The quads of a packet that have a covered centre; a primitive's pixels lie in its rectangle, which R261 clips to the
target of w × h pixels. -/
def VPacket.quads (v : VPacket) (w h : Nat) : List Quad4 :=
  v.prims.flatMap fun p => (quadsOf v p).filterMap fun q =>
    let cov := (List.range 4).map fun j =>
      let xy := quadPixel q j
      decide (xy.1 < w ∧ xy.2 < h) && p.covers xy.1 xy.2
    if cov.any id then some { prim := p, at' := q, cov := cov } else none

/-! ## Depth (R267) -/

/-- The test of a ZMODE: passes, and writes. -/
def depthTest (zmode z stored : Nat) : Bool × Bool :=
  match zmode with
  | 0 => (true, false)
  | 1 => (decide (z < stored), decide (z < stored))
  | 2 => (decide (z ≤ stored), decide (z ≤ stored))
  | _ => (decide (z < stored), false)

/-- Test one quad; its pixels that fail are not covered. -/
def State.depthQuad (s : State) (core : Nat) (place : Nat → Nat → Place) (zmode : Nat) (q : Quad4) : State × Quad4 :=
  let r := q.cov.zipIdx.foldl (fun (acc : State × List Bool) c =>
    if !c.1 then (acc.1, acc.2 ++ [false])
    else
      let (x, y) := quadPixel q.at' c.2
      let z := q.prim.depthAt x y
      let (t, old) := acc.1.wordRmw core (place x y) fun m => if (depthTest zmode z (m % 2 ^ 24)).2 then some z else none
      (t, acc.2 ++ [(depthTest zmode z (old % 2 ^ 24)).1])) (s, [])
  (r.1, { q with cov := r.2 })

/-- All sectors of the words are at hand; otherwise those that are missing are asked for. -/
def State.wordsReady (s : State) (core : Nat) (ps : List Place) : State × Bool :=
  ps.foldl (fun (acc : State × Bool) p =>
    match acc.1.wordReady core p with
    | .ok (t, _) => (t, acc.2)
    | .error t => (t, false)) (s, true)

/-! ## Pixel groups (R268) -/

/-- Put a quad into the forming group, or close that group and begin another. -/
def gather (gs : List (List Quad4)) (q : Quad4) : List (List Quad4) :=
  match gs with
  | [] => [[q]]
  | g :: rest => if g.length < 8 && !(g.any fun x => x.at' == q.at') then (g ++ [q]) :: rest else [q] :: g :: rest

/-- The pixel group of some quads. -/
def groupOf (id sdie : Nat) (v : VPacket) (qs : List Quad4) : PixGroup :=
  { id := id, gid := none, sdie := sdie, packet := v, draw := v.draw
    pixels := qs.zipIdx.flatMap fun q => (List.range 4).map fun j =>
      let xy := quadPixel q.1.at' j
      (4 * q.2 + j, xy.1, xy.2, q.1.prim)
    covered := maskOf (qs.zipIdx.flatMap fun q =>
      ((List.range 4).filter fun j => (q.1.cov[j]?).getD false).map fun j => 4 * q.2 + j) }

/-- The next packet of an S-die to rasterise, by its place: packets of one region keep their order, a parked region
waits. -/
def State.nextRaster (s : State) (sdie : Nat) : Option (Nat × VPacket) :=
  (s.released.zipIdx.find? fun q => q.1.1 == sdie && !q.1.2.parked && (s.cx (s.streamOf q.1.2)).state == .running
    && !((s.released.take q.2).any fun r => r.1 == sdie && s.sameRegion r.2 q.1.2)).map fun q => (q.2, q.1.2)

/-- Launch the groups of a packet's quads and finish the packet. -/
def State.launchQuads (s : State) (sdie i : Nat) (v : VPacket) (qs : List Quad4) : State :=
  let gs := ((qs.filter fun q => q.cov.any id).foldl gather []).reverse
  let s := { s with released := s.released.eraseIdx i }
  gs.foldl (fun t g => { t.fresh with pix := t.pix ++ [groupOf t.nextId sdie v g] }) s

/-- Park the raster engine of a packet's region, or let it go on. -/
def State.parkRaster (s : State) (i : Nat) (b : Bool) : State :=
  { s with released := s.released.modify i fun r => (r.1, { r.2 with parked := b }) }

/-- R267, R268: a released packet is tested and its pixel groups are formed. -/
def execRasterisePacket (sdie : Nat) (s : State) : Out :=
  .next (
    if (s.di sdie).state ≠ 1 then s
    else match s.nextRaster sdie with
    | none => s
    | some (i, v) =>
      let d := s.dr v.draw
      let qs := v.quads d.pass.width d.pass.height
      if d.pass.zmode = 0 ∨ qs.isEmpty then s.launchQuads sdie i v qs
      else
        let at' (x y : Nat) : Nat := pixelAddr d.pass.depth.toNat d.pass.width x y
        let base := at' (32 * v.rx) (32 * v.ry)
        match s.unitPlace sdie d.ctx base { r := true, w := true } with
        | .wait t => t
        | .halt t cause => t.haltCtx d.ctx { cause := cause, core := unitCore sdie, addr := base }
        | .away t => (t.parkRaster i true).unitAsk d.ctx base sdie 63 (.depth sdie base)
        | .ok t p =>
          let place (x y : Nat) : Place := p.plus (at' x y - base)
          let ps := (qs.flatMap fun q => (q.cov.zipIdx.filter fun c => c.1).map fun c =>
            let xy := quadPixel q.at' c.2; place xy.1 xy.2).dedup
          let (t, ready) := t.wordsReady (unitCore sdie) ps
          if !ready then t
          else
            let t := ps.foldl (fun t p => t.noteOwn (t.pixLaunch v.draw) p) t
            let r := qs.foldl (fun (acc : State × List Quad4) q =>
              let (u, q') := acc.1.depthQuad (unitCore sdie) place d.pass.zmode q
              (u, acc.2 ++ [q'])) (t, [])
            r.1.launchQuads sdie i v r.2)

/-! ## The pixel forms (R269-R271) -/

/-- The pixel group of the issuing team (R268, R284). -/
def State.myPix (s : State) : Option PixGroup :=
  match s.team.pix with
  | some id => s.pix.find? fun p => p.id == id
  | none => none

/-- A lane's pixel and primitive. -/
def PixGroup.pixel (p : PixGroup) (l : Nat) : Option (Nat × Nat × Prim) :=
  (p.pixels.find? fun x => x.1 == l).map fun x => x.2

/-- The earlier groups of the region (R268). -/
def State.pixBefore (s : State) (p : PixGroup) : List PixGroup :=
  (s.pix.takeWhile fun q => q.id != p.id).filter fun q => s.sameRegion q.packet p.packet

/-- μi: λi rounded (R269). -/
def Prim.mu (p : Prim) (x y i : Nat) : Nat :=
  let n := p.lam i x y
  (roundTo .fp32 0 false false (decide (n < 0)) n.natAbs p.area.natAbs).1

/-- βi of a mode: 0 perspective, else linear (R269). -/
def Prim.beta (p : Prim) (x y mode i : Nat) : Nat :=
  if mode = 0 then
    let w (j : Nat) : Nat := (texCtx.mul (p.mu x y j) (p.at j).2.2.2.toNat).1
    let t := (texCtx.add (texCtx.add (w 0) (w 1)).1 (w 2)).1
    (texCtx.div (w i) t).1
  else p.mu x y i

/-- A system value of PIX.ATTR (R269). -/
def PixGroup.system (p : PixGroup) (l n x y : Nat) (q : Prim) : Nat :=
  match n with
  | 0x800 => x + 2 ^ 16 * y
  | 0x801 => if bit p.covered l && !bit p.killed l then 1 else 0
  | 0x802 => q.beta x y 0 1
  | 0x803 => q.beta x y 0 2
  | 0x804 => q.primIdx + if q.back then 2 ^ 8 else 0
  | 0x805 => p.packet.token % 2 ^ 24
  | 0x806 => p.packet.token / 2 ^ 24
  | _ => 0

/-- The interpolated value of three attribute words (R269). -/
def interpolate (q : Prim) (x y mode : Nat) (ws : List Nat) : Nat :=
  let a (i : Nat) : Nat := (ws[i]?).getD 0
  if mode = 2 then a 0
  else
    let t (i : Nat) : Nat := (texCtx.mul (q.beta x y mode i) (a i)).1
    (texCtx.add (texCtx.add (t 0) (t 1)).1 (t 2)).1

/-- What PIX.ATTR has found so far: checks, values, lanes whose words came with an uncorrectable error. -/
structure AttrAcc where
  chk : Checked := {}
  vals : List (Nat × Word32) := []
  bad : List Nat := []

/-- Read the attribute words of one lane at dev scope, up to the first that fails. -/
def State.attrWords (s : State) (k l : Nat) : List Nat → State × Except (Nat × Xl) (List Nat × Bool)
  | [] => (s, .ok ([], false))
  | va :: vs =>
    match s.piecesOf k l va 4 needLoad with
    | (s, .error x) => (s, .error (va, x))
    | (s, .ok ps) =>
      if ps.any fun p => s.placeLost p.1 then (s, .error (va, .contained))
      else
        match s.readBlock k l va 4 ps with
        | (s, none) => (s, .error (va, .wait))
        | (s, some (v, bad)) =>
          match s.attrWords k l vs with
          | (s, .ok (ws, b)) => (s, .ok (v :: ws, b || bad))
          | r => r

/-- One lane of PIX.ATTR. -/
def State.attrLane (s : State) (p : PixGroup) (k a b : Nat) (c : AttrAcc) (l : Nat) : State × AttrAcc :=
  let n := (s.vget k a l).toNat % 4096
  let m := (s.vget k b l).toNat % 4
  let mode := if m = 3 then 1 else m
  let put (c : AttrAcc) (v : Nat) : AttrAcc :=
    { c with chk := { c.chk with pass := c.chk.pass ++ [(l, [])] }, vals := c.vals ++ [(l, BitVec.ofNat 32 v)] }
  match p.pixel l with
  | none => (s, put c 0)
  | some (x, y, q) =>
    if 0x800 ≤ n then (s, put c (p.system l n x y q))
    else if p.packet.nattr ≤ n then (s, put c 0)
    else
      let at' (i : Nat) : Nat := (p.packet.attr.toNat + 4 * (i * p.packet.nattr + n)) % 2 ^ 64
      match s.attrWords k l ((if mode = 2 then q.idx.take 1 else q.idx).map at') with
      | (s, .ok (ws, bad)) => (s, if bad then { put c 0 with bad := c.bad ++ [l] } else put c (interpolate q x y mode ws))
      | (s, .error (va, x)) =>
        let t : TexAcc := ({ chk := c.chk } : TexAcc).put l va x
        (s, { c with chk := t.chk })

/-- R269. -/
def execPixAttr (e : Bool) (d a b : BitVec 6) (s : State) : Out :=
  issue s fun s => s.gfxForm s.myPix.isSome { sv := [a.toNat, b.toNat], dv := [d.toNat] } fun s =>
    match s.myPix with
    | none => s
    | some p =>
      let k := s.cur
      let (t, c) := (s.glanes k).foldl (fun (x : State × AttrAcc) l => x.1.attrLane p k a.toNat b.toNat x.2 l) (s, {})
      if c.chk.wait then t.stall
      else if c.chk.dead then t.trap k (t.goneTrap k 1 c.chk.gone)
      else
        let t := c.vals.foldl (fun t v => t.vset k d.toNat v.1 v.2) t
        let t := if c.bad.isEmpty then t else t.putEccu k s.me.pc (some (maskOf c.bad))
        t.settleLanes e 1 c.chk.fail

/-- Change a pixel group. -/
def State.modPix (s : State) (id : Nat) (f : PixGroup → PixGroup) : State :=
  { s with pix := updWhere s.pix (fun p => p.id == id) f }

/-- R270. -/
def execPixOut (e : Bool) (t : BitVec 2) (a : BitVec 6) (s : State) : Out :=
  issue s fun s => s.gfxForm s.myPix.isSome { sv := [a.toNat] } fun s =>
    match s.myPix with
    | none => s
    | some p =>
      let k := s.cur
      let ls := lanesOf (s.guard k &&& p.covered &&& ~~~ p.killed)
      if ls.isEmpty ∨ (s.dr p.draw).pass.nrt ≤ t.toNat then s.advance e
      else if s.full false then s.stall
      else
        let outs := ls.map fun l => (s.nextId, t.toNat, l, s.vget k a.toNat l)
        let s := (s.fresh.modPix p.id fun q => { q with outs := q.outs ++ outs }).modGr s.cg fun g => { g with stc := g.stc + 1 }
        s.advance e

/-- R271. -/
def execPixKill (e : Bool) (s : State) : Out :=
  issue s fun s => s.gfxForm s.myPix.isSome { sq := [gGuard s.me.gmode] } fun s =>
    match s.myPix with
    | none => s
    | some p => (s.modPix p.id fun q => { q with killed := q.killed ||| s.guard s.cur }).advance e

/-- R271: an acquire at die scope once every earlier group of the region has retired. -/
def execPixOrd (e : Bool) (s : State) : Out :=
  issue s fun s => s.gfxForm s.myPix.isSome {} fun s =>
    match s.myPix with
    | none => s
    | some p =>
      if !(s.pixBefore p).isEmpty then s.stall
      else (s.fenceWith [s.cur] [s.cur] [s.cc] true false false 3).advance e

/-! ## The blend unit (R270, R272) -/

/-- One element under a blend of floats. -/
def blendFloat (f : Fmt) (op x m : Nat) : Nat :=
  let c : FCtx := { f := f, mode := 0, sat := false, ftz := false }
  match op with
  | 1 => (c.add x m).1
  | 2 => (c.minmax false x m).1
  | 3 => (c.minmax true x m).1
  | _ => x

/-- One byte under a blend; `al` is byte 3 of the source. -/
def blendByte (op al x m : Nat) : Nat :=
  match op with
  | 1 => min (x + m) 255
  | 2 => min x m
  | 3 => max x m
  | 4 => (rneInt ((x * al + m * (255 - al) : Nat) : Int) 255).toNat
  | _ => x

/-- The word a target takes: source over stored (R270). -/
def blendWord (fmt op x m : Nat) : Nat :=
  match fmt with
  | 0 => (List.range 4).foldl (fun acc i =>
      acc + blendByte op (x / 2 ^ 24 % 256) (x / 256 ^ i % 256) (m / 256 ^ i % 256) * 256 ^ i) 0
  | 1 => blendFloat .fp16 op (x % 65536) (m % 65536) + 65536 * blendFloat .fp16 op (x / 65536) (m / 65536)
  | _ => blendFloat .fp32 op x m

/-- An out whose pixel no earlier group of the region covers any more, after the outs of its lane before it. -/
def State.nextOut (s : State) (p : PixGroup) : Option (Nat × Nat × Nat × Word32) :=
  let before := s.pixBefore p
  p.outs.find? fun o =>
    match p.pixel o.2.2.1 with
    | none => true
    | some (x, y, _) => !(before.any fun q => q.pixels.any fun z => z.2.1 == x && z.2.2.1 == y && bit q.covered z.1)

/-- An out is applied: it leaves the group, and the last of its instruction lowers STC. -/
def State.outDone (s : State) (p : PixGroup) (o : Nat × Nat × Nat × Word32) : State :=
  let rest := p.outs.erase o
  let s := s.modPix p.id fun q => { q with outs := rest }
  if rest.any fun r => r.1 == o.1 then s
  else match p.gid with
    | some g => (s.modGr g fun r => { r with stc := r.stc - 1 }).wake
    | none => s

/-- Apply one out: the state, and whether the unit goes on. -/
def State.applyOut (s : State) (p : PixGroup) (o : Nat × Nat × Nat × Word32) : State × Bool :=
  let d := s.dr p.draw
  match p.pixel o.2.2.1, d.pass.targets[o.2.1]? with
  | some (x, y, _), some (fmt, op, base) =>
    let va := pixelAddr base.toNat d.pass.width x y
    let core := match p.gid with | some g => coreOf g % 64 | none => 63
    match s.unitPlace p.sdie d.ctx va { w := true } with
    | .wait t => (t, false)
    | .halt t cause => (t.haltCtx d.ctx { cause := cause, core := 64 * p.sdie + core, addr := va }, false)
    | .away t => ((t.modPix p.id fun q => { q with parked := true }).unitAsk d.ctx va p.sdie core (.blend p.id core va), false)
    | .ok t pl =>
      match t.wordReady (unitCore p.sdie) pl with
      | .error u => (u, false)
      | .ok (u, _) =>
        let (u, _) := u.wordRmw (unitCore p.sdie) pl fun m => some (blendWord fmt op o.2.2.2.toNat m)
        ((u.noteOwn (u.pixLaunch p.draw) pl).outDone p o, true)
  | _, _ => (s.outDone p o, true)

/-- Apply the outs of a group that may be applied; the last argument bounds them. -/
def State.applyOuts (s : State) (id : Nat) : Nat → State
  | 0 => s
  | n + 1 =>
    match s.pix.find? fun p => p.id == id with
    | none => s
    | some p =>
      if p.parked then s
      else match s.nextOut p with
        | none => s
        | some o =>
          match s.applyOut p o with
          | (t, true) => State.applyOuts t id n
          | (t, false) => t

/-- R270, R272. -/
def execBlendApply (group : Nat) (s : State) : Out :=
  .next (match s.pix.find? fun p => p.id == group with
    | none => s
    | some p => if (s.di p.sdie).state = 1 ∧ p.gid.isSome then s.applyOuts group p.outs.length else s)

end Sys2Proof.Machine
end

