-- ==== Sys2Proof/Machine/Place.lean ====
section
/-! DEFINITION. The work distributor (R358-R360, R451): where a team or a cluster fits, reservations, and what a team is
given when it is placed. -/
namespace Sys2Proof.Machine

/-! ## What a core has left (R358) -/

/-- The lowest offset at which `size` fits below `limit` beside the used runs (offset, size). -/
def fitRun (used : List (Nat × Nat)) (size limit : Nat) : Option Nat :=
  if size = 0 then some 0
  else
    let ok (o : Nat) : Bool := decide (o + size ≤ limit) && used.all fun u => u.2 == 0 || decide (o + size ≤ u.1 ∨ u.1 + u.2 ≤ o)
    (((0 :: used.map fun u => u.1 + u.2).filter ok).foldl (fun (m : Option Nat) o =>
      match m with | none => some o | some x => some (min x o)) none)

/-- Banks of a core that are mapped out, as runs: `n` banks from number `from0`, each `size` long. -/
def State.banksOut (s : State) (core from0 n size : Nat) : List (Nat × Nat) :=
  ((List.range n).filter fun b => s.unitOut (dieOf core) 0 (128 * (core % 64) + from0 + b)).map fun b => (size * b, size)

/-- Cores of a die kind (R359). -/
def coresOf (kind : Nat) : Nat := if kind = 1 then 32 else if kind = 2 then 48 else 0

/-- A core that may take teams: in service and not under test (R359, R411). -/
def State.coreUp (s : State) (core : Nat) : Bool :=
  let d := dieOf core
  (s.di d).state == 1 && !s.unitOut d 3 (core % 64) && !(s.di d).tests.contains (3, core % 64)

/-- Teams placed on a core. -/
def State.teamsOn (s : State) (core : Nat) : List Team := (s.teams.filter fun p => p.2.live && p.2.core == core).map fun p => p.2

/-- Bytes of ABUF open to placement: uncarved, and not asked for by a pending CARVE (R47, R191). -/
def State.abufOpen (s : State) (core : Nat) : Nat :=
  let c := s.co core
  s.abufSize core - 49152 * (if c.pending then max c.carved c.target else c.carved)

/-- Slots the context cannot give up on a core: pinned overlays and fills; and slots that others use (R358, R248). -/
def State.slotsHeld (s : State) (core c : Nat) : Nat × Nat :=
  let mine := ((s.overlays.filter fun o => o.core == core && o.ctx == c && s.pinned o).foldl (fun n o => n + o.slots.length) 0)
    + ((s.fills.filter fun f => f.core == core && f.ctx == c).foldl (fun n f => n + f.slots.length) 0)
  let other := ((s.overlays.filter fun o => o.core == core && o.ctx != c && o.ctx != sysCtx).foldl (fun n o => n + o.slots.length) 0)
    + ((s.fills.filter fun f => f.core == core && f.ctx != c).foldl (fun n f => n + f.slots.length) 0)
  (mine, other)

/-- What a placed team is given: offsets, and its group slots. -/
structure Alloc where
  abuf : Nat
  wbuf : Nat
  tiles : Nat
  stack : List Nat
  shadow : Nat
  slots : List Nat
  deriving DecidableEq, Repr

/-- The teams of a context that hold blocks of its pools: those on cores, and the saved ones. -/
def State.poolTeams (s : State) (c : Nat) : List Team :=
  (((s.teams.filter fun p => p.2.live && !p.2.retired).map fun p => p.2) ++ (s.saves.filter fun x => !x.inPlace).map fun x => x.info).filter
    fun t => t.ctx == c

/-- Stack blocks in use in a context's pool; a saved team keeps its own. -/
def State.stackUsed (s : State) (c : Nat) : List (Nat × Nat) :=
  (s.poolTeams c).flatMap fun t => t.stackOffs.map fun o => (o, (s.cx c).stackBlock)

/-- Shadow blocks in use in a context's pool (R299). -/
def State.shadowUsed (s : State) (c : Nat) : List (Nat × Nat) :=
  (s.poolTeams c).filterMap fun t => t.shadow.map fun a => (a.toNat - (s.cx c).shadowBase.toNat, 1024 * t.accCount)

/-- n free blocks of one size, each at the lowest free offset (R358). -/
def fitBlocks (used : List (Nat × Nat)) (size limit : Nat) : Nat → Option (List Nat)
  | 0 => some []
  | n + 1 => do
    let o ← fitRun used size limit
    let os ← fitBlocks ((o, size) :: used) size limit n
    return o :: os

/-- A team of a context fits on a core: what it is given (R358). -/
def State.fit (s : State) (c : Nat) (p : Packet) (quota core : Nat) : Option Alloc :=
  let x := s.cx c
  let ts := s.teamsOn core
  let run := ts.filter fun t => !t.retired
  let g := s.isG core
  let free := (List.range 32).filter fun i => !(s.gr (32 * core + i)).live
  let rows := (run.filter fun t => !t.inPlace).foldl (fun n t => n + t.rows) 0
  let inter := (ts.filter fun t => t.ctx == c).foldl (fun n t => n + t.abufSize) 0
  let held := s.slotsHeld core c
  if free.length < p.team ∨ 6144 < rows + p.rows ∨ (x.inter ∧ 0x40000 < inter + 256 * p.abuf)
      ∨ quota < held.1 + p.slots ∨ 60 < held.1 + held.2 + p.slots ∨ (g ∧ p.wbuf ≠ 0) then none
  else do
    let abuf ← fitRun (ts.map (fun t => (t.abufOff, t.abufSize)) ++ s.banksOut core 0 64 49152) (256 * p.abuf) (s.abufOpen core)
    let wbuf ← fitRun (run.map (fun t => (t.wbufOff, t.wbufSize)) ++ s.banksOut core 64 16 49152) (256 * p.wbuf) wbufSize
    let tiles ← if g then some 0 else
      fitRun (run.map (fun t => (t.accFirst, t.accCount)) ++ s.banksOut core 96 16 96) p.acc 1536
    let stack ← fitBlocks (s.stackUsed c) x.stackBlock x.stackPoolSz p.team
    let shadow ← if g then fitRun (s.shadowUsed c) (1024 * p.acc) x.shadowSz else some 0
    return { abuf := abuf, wbuf := wbuf, tiles := tiles, stack := stack, shadow := shadow, slots := free.take p.team }

/-! ## Putting a team on a core (R360, R50) -/

/-- Everything a group's registers hold, gone. -/
def State.clearGroup (s : State) (g : Nat) : State :=
  let s := s.dropGroup g
  { s with vreg := s.vreg.filter (fun p => p.1 / 16384 != g), sreg := s.sreg.filter (fun p => p.1 / 128 != g),
           preg := s.preg.filter (fun p => p.1 / 32 != g), omap := s.omap.filter (fun p => p.1 / 8 != g),
           link := s.link.filter (fun p => p.1 / 256 != g), flags := s.flags.filter fun p => p.1 / 32 != g }

/-- The tiles lo to hi - 1 of a core read zero (R48). -/
def State.zeroTiles (s : State) (core lo hi : Nat) : State :=
  { s with tiles := s.tiles.filter (fun p => !decide ((core * 2048 + lo) * 256 ≤ p.1 ∧ p.1 < (core * 2048 + hi) * 256)),
           poison := s.poison.filter fun k => !decide (poisonKey core 2 (256 * lo) ≤ k ∧ k < poisonKey core 2 (256 * hi)) }

/-- Zero n blocks of 64 bytes at a virtual address; a block that does not translate is left out (log entry 52). -/
def State.zeroVirtual (s : State) (core c va : Nat) : Nat → State
  | 0 => s
  | n + 1 => ((s.vaWrite core c va 64 0).getD s).zeroVirtual core c (va + 64) n

/-- A team's table entry on a core with an allocation. -/
def State.teamEntry (s : State) (c launch core : Nat) (p : Packet) (a : Alloc) : Team :=
  let g := s.isG core
  { live := true, launch := launch, ctx := c, core := core, groups := a.slots.map fun i => 32 * core + i, producer := p.producer,
    abufOff := a.abuf, abufSize := 256 * p.abuf, wbufOff := a.wbuf, wbufSize := if g then 0 else 256 * p.wbuf,
    accFirst := a.tiles, accCount := p.acc, slots := p.slots, rows := p.rows, stackOffs := a.stack,
    shadow := if g && p.acc != 0 then some (BitVec.ofNat 64 ((s.cx c).shadowBase.toNat + a.shadow)) else none }

/-- The address of a stack block (R29, R360). -/
def State.stackAt (s : State) (c off : Nat) : Word64 := BitVec.ofNat 64 ((s.cx c).stackPool.toNat + off)

/-- The blocks of a range of a context's own space wait for a translation or for a sector. -/
def State.rangeWaits (s : State) (core c va : Nat) : Nat → State × Bool
  | 0 => (s, false)
  | n + 1 =>
    let (t, w) := s.vaWaits core c va { w := true }
    let (t, r) := t.rangeWaits core c (va + 64) n
    (t, w || r)

/-- The shadow block of a team that is placed cannot be zeroed yet: the team waits unplaced (R299, R386). -/
def State.shadowWaits (s : State) : List Team → State × Bool
  | [] => (s, false)
  | t :: ts =>
    let (s, w) := match t.shadow with | some a => s.rangeWaits t.core t.ctx a.toNat (16 * t.accCount) | none => (s, false)
    let (s, r) := s.shadowWaits ts
    (s, w || r)

/-- The steps of R360 before the entry overlay: shadow block, tiles, ABUF. -/
def State.prepare (s : State) (t : Team) (azero : Bool) : State :=
  let s := match t.shadow with | some a => s.zeroVirtual t.core t.ctx a.toNat (16 * t.accCount) | none => s
  let s := if s.isG t.core then s else s.zeroTiles t.core t.accFirst (t.accFirst + t.accCount)
  if azero then s.zeroAbuf t.core t.abufOff (t.abufOff + t.abufSize) else s

/-- A fresh group with its one split (R50, R268). -/
def State.startGroup (s : State) (g : Nat) (r : Group) (entry mask : BitVec 32) : State :=
  let s := (s.clearGroup g).setGr g { r with exited := ~~~ mask }
  (s.setSp (4 * g) { valid := true, pc := entry, mask := mask, readySince := s.stepNo }).ensureCode (4 * g)

/-- Place team `t` of a context with packet p: its groups start (R360). -/
def State.startTeam (s : State) (t : Team) (p : Packet) (mask : BitVec 32) : State :=
  let id := s.nextId
  let s := (s.fresh.setTm id t).prepare t p.azero
  let s := s.modCx t.ctx fun x => if x.state = .idle ∨ x.state = .ready then { x with state := .running, since := s.stepNo } else x
  t.groups.zipIdx.foldl (fun u q =>
    if (u.cx t.ctx).state = .halted then u
    else u.startGroup q.1 { live := true, ctx := t.ctx, team := id, index := q.2, cls := p.cls, depth := p.depth,
                            stackBase := u.stackAt t.ctx ((t.stackOffs[q.2]?).getD 0) } p.entry mask) s

/-! ## What waits to be placed -/

/-- What a launch places next: from team index `first`, `count` teams on the cores of one of `dies`, for a pixel group
or not. -/
structure Job where
  first : Nat
  count : Nat
  dies : List Nat
  pix : Option PixGroup := none
  deriving DecidableEq, Repr

/-- Tokens from the start of the oldest draw of a context's stream to meshlet m of a draw. -/
def State.streamPos (s : State) (c draw m : Nat) : Nat :=
  ((s.draws.filter fun p => p.2.live && p.2.ctx == c && decide (p.1 < draw)).foldl (fun n p => n + p.2.n) 0) + m

/-- The position of a context's lowest frontier (R266). -/
def State.lowestPos (s : State) (c : Nat) : Nat :=
  match (s.draws.filter fun p => p.2.live && p.2.ctx == c).findSome? fun p =>
      ((p.2.gdies.filterMap fun g => p.2.firstOpen g).foldl (fun (m : Option Nat) x =>
        match m with | none => some x | some y => some (min x y)) none).map fun m => (p.1, m) with
  | some (d, m) => s.streamPos c d m
  | none => s.streamPos c s.nextId 0

/-- The team, cluster or pixel groups that a launch may place next; saved teams of the launch go first (R372). -/
def State.jobsOf (s : State) (id : Nat) (l : Launch) : List Job :=
  let part := (s.cx l.ctx).partition
  if s.saves.any fun x => x.info.launch == id then []
  else match l.draw with
  | none =>
    let total := l.packet.gridX * l.packet.gridY * l.packet.gridZ
    let k := l.packet.clw * l.packet.clh
    if l.next < total then
      [{ first := l.next, count := min k (total - l.next), dies := (l.packet.kinds.flatMap (s.diesOf part)) }]
    else []
  | some d =>
    let dr := s.dr d
    if l.pixel then
      ((s.diesOf part 2).filterMap fun sd => (s.pix.find? fun p => p.draw == d && p.gid.isNone && p.sdie == sd).map fun p =>
        { first := l.next, count := 1, dies := [sd], pix := some p })
    else if l.next < dr.n ∧ s.streamPos l.ctx d l.next < s.lowestPos l.ctx + field (s.pa part).w1 12 0 then
      match dr.gdies[l.next % dr.gdies.length]? with
      | some g => [{ first := l.next, count := 1, dies := [g] }]
      | none => []
    else []

/-! ## Reservations (R359) -/

/-- Dies a saved team may return to: those its launch permits; a meshlet's G-die; a pixel group's S-die. -/
def State.homeDies (s : State) (x : SavedTeam) : List Nat :=
  let part := (s.cx x.info.ctx).partition
  match x.info.pix, x.info.draw with
  | some p, _ => (s.pix.filter fun y => y.id == p).map fun y => y.sdie
  | none, some (d, m) => let gd := (s.dr d).gdies; (gd[m % gd.length]?).toList
  | none, none => (s.la x.info.launch).packet.kinds.flatMap (s.diesOf part)

/-- The saved teams of one cluster. -/
def State.savedOf (s : State) (launch cluster : Nat) : List SavedTeam :=
  s.saves.filter fun x => x.info.launch == launch && x.info.cluster == cluster

/-- Teams of a launch. -/
def Launch.total (l : Launch) : Nat := l.packet.gridX * l.packet.gridY * l.packet.gridZ

/-- The place that a saved cluster returns to: a rectangle of the same shape, or a core (R372). -/
def State.savedJob (s : State) (x : SavedTeam) : Job :=
  let l := s.la x.info.launch
  let k := l.packet.clw * l.packet.clh
  { first := x.info.cluster * k, count := if k = 1 then 1 else min k (l.total - x.info.cluster * k), dies := s.homeDies x }

/-- What a launch waits to place: of one whose saved teams return, the first of their clusters (R359, R372). -/
def State.waitJobs (s : State) (id : Nat) (l : Launch) : List Job :=
  if (s.cx l.ctx).state = .running then
    match s.saves.find? fun x => x.info.launch == id with
    | some x => [s.savedJob x]
    | none => s.jobsOf id l
  else s.jobsOf id l

/-- The state in which the teams that satisfy `p` have retired, their groups and program pins with them. -/
def State.withoutTeams (s : State) (p : Team → Bool) : State :=
  let out := s.teams.filter fun t => p t.2
  { s with teams := s.teams.filter (fun t => !p t.2),
           groups := s.groups.filter fun g => !(out.any fun t => t.2.groups.contains g.1),
           splits := s.splits.filter fun k => !(out.any fun t => t.2.groups.contains (gidOf k.1)),
           overlays := s.overlays.map fun o => if out.any fun t => t.2.core == o.core && t.2.ctx == o.ctx then { o with pins := 0 } else o }

/-- Cores of a die that may take teams, in scan order. -/
def State.coresUp (s : State) (die : Nat) : List Nat :=
  ((List.range (coresOf (s.di die).kind)).map fun i => 64 * die + i).filter s.coreUp

/-- The rectangles of an S-die for n teams of a cluster (R359, R451): the cores of each, its origins by y, then x. -/
def State.rectangles (s : State) (p : Packet) (die n : Nat) : List (List Nat) :=
  let all := (List.range (7 - p.clh)).flatMap fun y => (List.range (9 - p.clw)).map fun x =>
    (List.range n).map fun j => 64 * die + 8 * (y + j / p.clw) + x + j % p.clw
  all.filter fun r => r.all s.coreUp

/-- The places a job may take, in scan order: lists of cores, one for each team. -/
def State.sites (s : State) (p : Packet) (j : Job) : List (List Nat) :=
  if p.clw * p.clh = 1 then (j.dies.flatMap s.coresUp).map fun c => [c]
  else j.dies.flatMap fun d => if (s.di d).kind = 2 then s.rectangles p d j.count else []

/-- Demands of a packet on a core: group slots, rows, ABUF, WBUF, tiles, Chuck slots. -/
def Packet.demand (p : Packet) (g : Bool) : List Nat :=
  [p.team, p.rows, 256 * p.abuf, 256 * p.wbuf, if g then 0 else p.acc, p.slots]

/-- A team fits on a core beside waiting teams that reserve it, and beside what later launches hold there. -/
def State.beside (s : State) (core : Nat) (waiting : List (Nat × Packet)) (p : Packet) : Bool :=
  if waiting.isEmpty then true
  else
    let g := s.isG core
    let later := (s.teamsOn core).filter fun t => waiting.any fun w => decide (w.1 < t.launch)
    let all := (waiting.map fun w => w.2.demand g) ++ (later.map fun t => (s.la t.launch).packet.demand g) ++ [p.demand g]
    let sum (i : Nat) : Nat := all.foldl (fun n d => n + (d[i]?).getD 0) 0
    decide (sum 0 ≤ 32 ∧ sum 1 ≤ 6144 ∧ sum 2 ≤ s.abufOpen core ∧ sum 3 ≤ wbufSize ∧ sum 4 ≤ 1536 ∧ sum 5 ≤ 60)

/-! ## TEAM_PLACEMENT -/

/-- The launches of a partition that have something to place, saved teams among it, in the order of starting. -/
def State.waitingLaunches (s : State) (part : Nat) : List (Nat × Launch) :=
  s.launches.filter fun p => p.2.live && (s.cx p.2.ctx).partition == part && s.serves p.2.ctx && !(s.waitJobs p.1 p.2).isEmpty

/-- The table entry of team `first + i` of a launch (R359, R451). -/
def State.nthTeam (s : State) (id : Nat) (l : Launch) (j : Job) (i core : Nat) (a : Alloc) : Team :=
  let p := l.packet
  let n := j.first + i
  let k := p.clw * p.clh
  let t := s.teamEntry l.ctx id core p a
  let t := if l.pixel then { t with pix := j.pix.map (fun x => x.id), cluster := n }
    else { t with x := n % p.gridX, y := n / p.gridX % p.gridY, z := n / (p.gridX * p.gridY), index := n, cluster := n / k,
                  cx := n % k % p.clw, cy := n % k / p.clw }
  match l.draw with
  | some d => if l.pixel then t else { t with mesh := some {}, draw := some (d, n) }
  | none => t

/-- Lanes a group starts with (R268). -/
def Job.mask (j : Job) : BitVec 32 :=
  match j.pix with
  | some p => maskOf (p.pixels.map fun x => x.1)
  | none => BitVec.allOnes 32

/-- Take a place for every team of a job, or for none; the teams with their allocations are returned. -/
def State.takeSite (s : State) (id : Nat) (l : Launch) (quota : Nat) (j : Job) (i : Nat) : List Nat → Option (State × List Team)
  | [] => some (s, [])
  | c :: cs =>
    match s.fit l.ctx l.packet quota c with
    | none => none
    | some a =>
      let t := s.nthTeam id l j i c a
      -- the entry stands under a number of its own while the rest of the cluster is tried
      let s' := { s.fresh with teams := mset {} s.teams s.nextId t,
                               groups := t.groups.foldl (fun m g => mset {} m g { s.gr g with live := true }) s.groups }
      match s'.takeSite id l quota j (i + 1) cs with
      | none => none
      | some (_, ts) => some (s, t :: ts)

/-- The cores a waiting job reserves: the first place that would hold all of it if every team there retired; of saved teams that kept
their buffers, their own cores (R372). -/
def State.reserves (s : State) (id : Nat) (l : Launch) (quota : Nat) (j : Job) : List Nat :=
  let stay := (s.saves.filter fun x => x.info.launch == id && x.inPlace && decide (j.first ≤ x.info.index ∧ x.info.index < j.first + j.count)).map
    fun x => x.info.core
  if !stay.isEmpty then stay
  else
  ((s.sites l.packet j).find? fun cs => ((s.withoutTeams fun t => cs.contains t.core).takeSite id l quota j 0 cs).isSome).getD []

/-- The first place that takes a job, beside the reservations of earlier launches. -/
def State.findSite (s : State) (id : Nat) (l : Launch) (quota : Nat) (j : Job) (res : List (Nat × Packet × List Nat)) : Option (List Team) :=
  (s.sites l.packet j).findSome? fun cs =>
    if cs.all fun c => s.beside c ((res.filter fun r => r.2.2.contains c).map fun r => (r.1, r.2.1)) l.packet then
      (s.takeSite id l quota j 0 cs).map fun r => r.2
    else none

/-- The job of a launch that can be placed now, with its teams. -/
def State.placeable (s : State) (id : Nat) (l : Launch) (quota : Nat) (res : List (Nat × Packet × List Nat)) : Option (Job × List Team) :=
  (s.jobsOf id l).findSome? fun j => (s.findSite id l quota j res).map fun ts => (j, ts)

/-- The reservations of launches, and the first of them that could be placed at once. -/
def State.scanWaiting (s : State) : List (Nat × Launch) → List (Nat × Packet × List Nat) → State × List (Nat × Packet × List Nat) × Option Nat
  | [], res => (s, res, none)
  | (id, l) :: rest, res =>
    let (s, h) := s.ovHeader cmdCore l.ctx
    match s.placeable id l h.quota res with
    | some _ => (s, res, some id)
    | none =>
      let mine := ((s.waitJobs id l).map fun j => (id, l.packet, s.reserves id l h.quota j))
      s.scanWaiting rest (res ++ mine)

/-- What some waiting launches reserve (R359). -/
def State.reservations (s : State) (ls : List (Nat × Launch)) : List (Nat × Packet × List Nat) :=
  ls.flatMap fun p =>
    (s.waitJobs p.1 p.2).map fun j => (p.1, p.2.packet, s.reserves p.1 p.2 (s.ovHeader cmdCore p.2.ctx).2.quota j)

/-- R358-R360: the next team, cluster or pixel group of a launch takes its place. A launch that started earlier and
could be placed goes first. -/
def State.placement (s : State) (id : Nat) : State :=
  let l := s.la id
  let part := (s.cx l.ctx).partition
  if !l.live ∨ !s.serves l.ctx then s
  else
    let before := (s.waitingLaunches part).filter fun p => decide (p.1 < id)
    match s.scanWaiting before [] with
    | (s, _, some _) => s
    | (s, res, none) =>
      let (s, h) := s.ovHeader cmdCore l.ctx
      match s.placeable id l h.quota res with
      | none => s
      | some (j, ts) =>
        let (s, wait) := s.shadowWaits ts
        if wait then s
        else
        let s := s.modLa id fun x => { x with next := x.next + j.count }
        let s := match j.pix, ts.head?.bind fun t => t.groups.head? with
          | some p, some g => s.modPix p.id fun x => { x with gid := some g }
          | _, _ => s
        ts.foldl (fun u t => if (u.cx l.ctx).state = .halted then u else u.startTeam t l.packet j.mask) s

/-- R359. -/
def execTeamPlacement (launchId : Nat) (s : State) : Out := .next (s.placement launchId)

end Sys2Proof.Machine
end

