-- ==== Sys2Proof/Machine/EndOf.lean ====
section
/-! DEFINITION. The flush at the end of a launch and of a draw, their signal words and interrupts (R363, R364). -/
namespace Sys2Proof.Machine

/-- The OWN blocks that a command's cores wrote (R363). -/
def State.ownWritten (s : State) (p : Launch → Bool) : List Nat := ((s.launches.filter fun l => p l.2).flatMap fun l => l.2.wrote).dedup

/-- The flush of a partition at the end of a command: every untracked sector is written back and dropped, and the OWN blocks that its
cores wrote are written back and released (R363). -/
def State.flush (s : State) (part : Nat) (blocks : List Nat) : State :=
  let s := s.flushUntracked (s.diesOf part 1 ++ s.diesOf part 2) 1
  blocks.foldl (fun t b => t.releaseBlock b) s

/-- The steps of R363: flush of what the launches of the command wrote, signal word, then `f` ends the command. -/
def State.finishWork (s : State) (c q : Nat) (sigAddr sigVal : Word64) (p : Launch → Bool)
    (f : State → State) : State :=
  let s := s.flush (s.cx c).partition (s.ownWritten p)
  if sigAddr = 0 then (f s).endIrq c q
  else match s.putSignal c sigAddr.toNat sigVal with
    | .done t => (f t).endIrq c q
    | .wait t => t
    | .halted t => t

/-- R363. -/
def execEndOfLaunch (launchId : Nat) (s : State) : Out :=
  .next (
    let l := s.la launchId
    if !l.live ∨ l.draw.isSome ∨ l.retired ≠ l.total then s
    else s.finishWork l.ctx l.queue l.packet.sigAddr l.packet.sigVal (fun x => x == l) fun t =>
      { t with launches := mset {} t.launches launchId {} })

/-- Nothing of a draw is left to do (R364). -/
def State.drawDone (s : State) (id : Nat) : Bool :=
  let d := s.dr id
  d.live && decide (d.finished.length = d.n)
  && (s.launches.all fun p => !(p.2.draw == some id && !p.2.pixel) || decide (p.2.retired = d.n))
  && !(s.faceplate.any fun m => match m.2.2 with | .packet p => p.draw == id | _ => false)
  && !(s.held.any fun p => p.2.draw == id) && !(s.released.any fun p => p.2.draw == id)
  && !(s.pix.any fun p => p.draw == id)

/-- R364. -/
def execDrawEnd (drawId : Nat) (s : State) : Out :=
  .next (
    let d := s.dr drawId
    if !s.drawDone drawId then s
    else s.finishWork d.ctx d.queue d.sigAddr d.sigVal (fun x => x.draw == some drawId) fun t =>
      { t with draws := mset {} t.draws drawId {}, launches := t.launches.filter fun p => p.2.draw != some drawId })

end Sys2Proof.Machine
end

