-- ==== Sys2Proof/Machine/Ray.lean ====
section
/-! DEFINITION. Major 0x26: ray queries (R280-R283). The traversal is exact, in rational numbers. -/
namespace Sys2Proof.Machine

/-! ## Exact numbers -/

/-- A finite FP32 code as a rational. -/
def ratOf (x : Nat) : Option Rat :=
  if Fmt.fp32.isNan x ∨ Fmt.fp32.isInf x then none else some (mkRat (Fmt.fp32.signed x) (2 ^ 149))

/-- Rounded once, to nearest even. -/
def ratRound (q : Rat) : Word32 := BitVec.ofNat 32 (roundTo .fp32 0 false false (decide (q.num < 0)) q.num.natAbs q.den).1

/-- Three coordinates. -/
structure Vec3 where
  x : Rat
  y : Rat
  z : Rat
  deriving DecidableEq, Repr

def Vec3.sub (a b : Vec3) : Vec3 := { x := a.x - b.x, y := a.y - b.y, z := a.z - b.z }
def Vec3.dot (a b : Vec3) : Rat := a.x * b.x + a.y * b.y + a.z * b.z
def Vec3.cross (a b : Vec3) : Vec3 :=
  { x := a.y * b.z - a.z * b.y, y := a.z * b.x - a.x * b.z, z := a.x * b.y - a.y * b.x }

/-- Three FP32 codes, none unless all are finite. -/
def vecOf (x y z : Nat) : Option Vec3 :=
  match ratOf x, ratOf y, ratOf z with
  | some a, some b, some c => some { x := a, y := b, z := c }
  | _, _, _ => none

/-- A ray: origin, direction, and the ends of its interval, none for an infinite end; whether it meets nothing. -/
structure RayIn where
  o : Vec3
  d : Vec3
  tmin : Option Rat
  tmax : Option Rat
  void : Bool := false
  deriving DecidableEq, Repr

/-- The ray in eight words; none where a row is a NaN or the direction zero (R282). A ray meets nothing where its origin or direction
has no exact value, or its interval no finite point (log entry 46). -/
def rayIn (ws : List Word32) : Option RayIn :=
  let w (i : Nat) : Nat := ((ws[i]?).getD 0).toNat
  let zero : Vec3 := { x := 0, y := 0, z := 0 }
  if (List.range 8).any fun i => Fmt.fp32.isNan (w i) then none
  else
    let past := (Fmt.fp32.isInf (w 6) && !Fmt.fp32.neg (w 6)) || (Fmt.fp32.isInf (w 7) && Fmt.fp32.neg (w 7))
    match vecOf (w 0) (w 1) (w 2), vecOf (w 3) (w 4) (w 5) with
    | some o, some d => if d = zero then none else some { o := o, d := d, tmin := ratOf (w 6), tmax := ratOf (w 7), void := past }
    | none, some d => if d = zero then none else some { o := zero, d := d, tmin := none, tmax := none, void := true }
    | _, none => some { o := zero, d := zero, tmin := none, tmax := none, void := true }

/-! ## Nodes and leaves (R281) -/

def scaleOf (e : Nat) : Rat := if 127 ≤ e then mkRat (2 ^ (e - 127) : Nat) 1 else mkRat 1 (2 ^ (127 - e))

/-- Low and high corner of the box of child c, none where the origin is not finite. -/
def childBox (n c : Nat) : Option (Vec3 × Vec3) :=
  match vecOf (blockField n 0 4) (blockField n 4 4) (blockField n 8 4) with
  | none => none
  | some o =>
    let s (i : Nat) : Rat := scaleOf (blockField n (12 + i) 1)
    let q (i : Nat) : Rat := mkRat (blockField n (16 + 6 * c + i) 1) 1
    some ({ x := o.x + q 0 * s 0, y := o.y + q 1 * s 1, z := o.z + q 2 * s 2 },
          { x := o.x + (q 3 + 1) * s 0, y := o.y + (q 4 + 1) * s 1, z := o.z + (q 5 + 1) * s 2 })

/-- The interval of t clipped by one slab, closed at both ends; none when it is empty. -/
def clipSlab (iv : Option Rat × Option Rat) (o d lo hi : Rat) : Option (Option Rat × Option Rat) :=
  if d = 0 then (if lo ≤ o ∧ o ≤ hi then some iv else none)
  else
    let a := (lo - o) / d
    let b := (hi - o) / d
    let (p, q) := if a ≤ b then (a, b) else (b, a)
    let l := match iv.1 with | none => p | some x => if x ≤ p then p else x
    let h := match iv.2 with | none => q | some x => if q ≤ x then q else x
    if l ≤ h then some (some l, some h) else none

/-- The box of child c is entered: the slab interval meets [tmin, tbest] (R282). -/
def entersBox (r : RayIn) (best : Option Rat) (n c : Nat) : Bool :=
  match childBox n c with
  | none => false
  | some (lo, hi) =>
    !r.void && (((clipSlab (r.tmin, best) r.o.x r.d.x lo.x hi.x).bind fun iv => clipSlab iv r.o.y r.d.y lo.y hi.y).bind
      fun iv => clipSlab iv r.o.z r.d.z lo.z hi.z).isSome

/-- A hit: t, PRIMID, the leaf's address, u and v. -/
structure RayHit where
  t : Rat
  prim : Nat
  leaf : Nat
  u : Rat
  v : Rat
  deriving DecidableEq, Repr

/-- The triangle test (R282). -/
def hitLeaf (r : RayIn) (best : Option Rat) (n leaf : Nat) : Option RayHit :=
  let f (i : Nat) : Nat := blockField n (4 * i) 4
  match vecOf (f 0) (f 1) (f 2), vecOf (f 3) (f 4) (f 5), vecOf (f 6) (f 7) (f 8) with
  | some v0, some v1, some v2 =>
    let e1 := v1.sub v0
    let e2 := v2.sub v0
    let h := r.d.cross e2
    let det := h.dot e1
    if det = 0 ∨ ((blockField n 40 1) % 2 = 1 ∧ det < 0) then none
    else
      let s := r.o.sub v0
      let q := s.cross e1
      let u := s.dot h / det
      let v := r.d.dot q / det
      let t := e2.dot q / det
      let above : Bool := match r.tmin with | none => true | some x => decide (x ≤ t)
      let below : Bool := match best with | none => true | some x => decide (t ≤ x)
      if decide (0 ≤ u ∧ 0 ≤ v ∧ u + v ≤ 1) && above && below then some { t := t, prim := f 9, leaf := leaf, u := u, v := v } else none
  | _, _, _ => none

/-- The better of two hits: least t, then lowest PRIMID, then lowest leaf address. -/
def betterHit (a : Option RayHit) (b : RayHit) : RayHit :=
  match a with
  | none => b
  | some a =>
    if b.t < a.t ∨ (b.t = a.t ∧ (b.prim < a.prim ∨ (b.prim = a.prim ∧ b.leaf < a.leaf))) then b else a

/-! ## Reading (R283) -/

/-- The address of the 64-byte unit at an offset from the base. -/
def Ray.unitAt (r : Ray) (off : Nat) : Nat := (r.base.toNat + 64 * off) % 2 ^ 64

/-- The place of a 64-byte unit. -/
def State.rayPlace (s : State) (r : Ray) (va : Nat) : Except CopyStep (State × Place) :=
  match s.aperture r.core va 64 with
  | some 0 => s.copyPlace r.core r.ctx va needLoad false
  | some 1 => if s.badBuffer r.core va 64 (s.tm r.team) then .error (.ends s cBufrange) else .ok (s, .wbuf r.core (va - wbufBase))
  | some _ => if s.badBuffer r.core va 64 (s.tm r.team) then .error (.ends s cBufrange) else .ok (s, .abuf r.core (va - abufBase))
  | none => .error (.ends s cApert)

/-- Read a 64-byte unit as plain loads of the split. -/
def State.rayRead (s : State) (r : Ray) (off : Nat) : Except CopyStep (State × Nat) := do
  let (s, p) ← s.rayPlace r (r.unitAt off)
  let us := unitsOf 0 (r.unitAt off) ((List.range 8).map fun i => (p.plus (8 * i), 8, 8 * i)) 0
  let o : MemOp := { id := r.id, splits := r.splits, gid := r.gid, ctx := r.ctx, core := r.core, kind := .load, units := us, scope := 4 }
  if us.any fun u => !s.mayPerform o 0 u then throw (.wait s)
  s.engineRead r.core r.id p 64

/-! ## Traversal (R282) -/

/-- Where a lane stands: nodes with the slots still to visit, innermost first; the best hit; box nodes visited. -/
structure Trav where
  levels : List (Nat × List Nat) := []
  best : Option RayHit := none
  nodes : Nat := 0
  deriving DecidableEq, Repr

/-- How a lane's traversal ends. -/
inductive TravEnd where
  | done (s : State) (t : Trav)
  /-- at a limit (R283) -/
  | stopped (s : State) (t : Trav)
  | away (x : CopyStep) (nodes : Nat)

/-- The valid slots of a node. -/
def validSlots (n : Nat) : List Nat := (List.range 4).filter fun c => n.testBit (120 + c)

/-- Box nodes a lane may visit, and levels of pending children it may hold. -/
def nodeLimit : Nat := 1048576
def levelLimit : Nat := 64

/-- Visit a box node. -/
def State.visitNode (s : State) (r : Ray) (t : Trav) (off : Nat) : Except TravEnd (State × Trav) :=
  match s.rayRead r off with
  | .error x => .error (.away x t.nodes)
  | .ok (s, n) =>
    let slots := validSlots n
    let t' := { t with nodes := t.nodes + 1 }
    if nodeLimit ≤ t'.nodes then .error (.stopped s t')
    else if slots.isEmpty then .ok (s, t')
    else if levelLimit ≤ t.levels.length then .error (.stopped s t')
    else .ok (s, { t' with levels := (n, slots) :: t.levels })

/-- Test the leaves of a leaf child from one on, in address order. -/
def State.visitLeaves (s : State) (r : Ray) (q : RayIn) (t : Trav) (off : Nat) : Nat → Except TravEnd (State × Trav)
  | 0 => .ok (s, t)
  | n + 1 =>
    match s.rayRead r off with
    | .error x => .error (.away x t.nodes)
    | .ok (s, x) =>
      let lim := match t.best with | some h => some h.t | none => q.tmax
      match hitLeaf q lim x (r.unitAt off) with
      | none => s.visitLeaves r q t (off + 1) n
      | some h =>
        let t := { t with best := some (betterHit t.best h) }
        if r.first then .error (.done s t) else s.visitLeaves r q t (off + 1) n

/-- Take the next pending slot; the last argument bounds the slots. -/
def State.traverse (s : State) (r : Ray) (q : RayIn) (t : Trav) : Nat → TravEnd
  | 0 => .stopped s t
  | fuel + 1 =>
    match t.levels with
    | [] => .done s t
    | (_, []) :: rest => s.traverse r q { t with levels := rest } fuel
    | (n, c :: cs) :: rest =>
      let t := { t with levels := if cs.isEmpty then rest else (n, cs) :: rest }
      let lim := match t.best with | some h => some h.t | none => q.tmax
      let p := blockField n (40 + 4 * c) 4
      if !entersBox q lim n c then s.traverse r q t fuel
      else if n.testBit (124 + c) then
        match s.visitLeaves r q t (p % 2 ^ 28) (p / 2 ^ 28 + 1) with
        | .error x => x
        | .ok (s, t) => s.traverse r q t fuel
      else
        match s.visitNode r t (p % 2 ^ 28) with
        | .error x => x
        | .ok (s, t) => s.traverse r q t fuel

/-- What a lane that missed receives, and one that stopped, with its index. -/
def missWords : List Word32 := [0x7F800000, 0xFFFFFFFF, 0, 0]
def stopWords (index : Word32) : List Word32 := [0x7FC00000, index, 0, 0]

def hitWords (h : Option RayHit) : List Word32 :=
  match h with
  | none => missWords
  | some h => [ratRound h.t, BitVec.ofNat 32 h.prim, ratRound h.u, ratRound h.v]

/-- Trace one lane from the root. -/
def State.traceLane (s : State) (r : Ray) (q : RayIn) : TravEnd :=
  match s.visitNode r {} 0 with
  | .error x => x
  | .ok (s, t) => s.traverse r q t (2 ^ 23)

/-! ## The query -/

def State.setRay (s : State) (id : Nat) (f : Ray → Ray) : State :=
  { s with rays := updWhere s.rays (fun r => r.id == id) f }

/-- Lanes still to finish. -/
def Ray.todo (r : Ray) : List (Nat × List Word32) := r.rays.filter fun p => !r.results.any fun q => q.1 == p.1

/-- The query ends with a cause: its unfinished lanes receive the stopped-lane values. -/
def State.failRay (s : State) (id cause : Nat) : State :=
  s.setRay id fun r =>
    { r with cause := cause, parked := false, results := r.results ++ r.todo.map fun p => (p.1, stopWords 0xFFFFFFFF) }

/-- Park a query on a page and ask for it (R283, R388). -/
def State.parkRay (s : State) (r : Ray) (va : Nat) : State :=
  let s := s.setRay r.id fun x => { x with parked := true }
  match s.post { ctx := r.ctx, va := va, kind := 0, src := 2, die := dieOf r.core, core := r.core % 64, who := .ray r.id } with
  | (s, .posted) => s
  | (s, .full) => s.modCx r.ctx fun x => { x with prqPoll := x.prqPoll ++ [(va, 0, 2, .ray r.id)] }
  | (s, .off) => s.failRay r.id cXlate

/-- Trace the lanes of a list, up to the first that cannot finish. -/
def State.traceLanes (s : State) (r : Ray) : List (Nat × List Word32) → State
  | [] => s
  | p :: ps =>
    let put (s : State) (ws : List Word32) (n : Nat) (lim : Bool) : State :=
      s.setRay r.id fun x => { x with results := x.results ++ [(p.1, ws)], nodes := x.nodes + n, overrun := x.overrun || lim }
    match rayIn p.2 with
    | none => (put s missWords 0 false).traceLanes r ps
    | some q =>
      match s.traceLane r q with
      | .done s t => (put s (hitWords t.best) t.nodes false).traceLanes r ps
      | .stopped s t => (put s (stopWords 0xFFFFFFFE) t.nodes true).traceLanes r ps
      | .away x n =>
        let add (s : State) : State := s.setRay r.id fun y => { y with nodes := y.nodes + n }
        match x with
        | .wait t => t
        | .done t => t
        | .fault t va _ => (add t).parkRay r va
        | .ends t cause => (add t).failRay r.id cause

/-- The token of a finished query (R283). -/
def Ray.tokenWord (r : Ray) : Word64 :=
  BitVec.ofNat 64 (1 + (if r.overrun then 2 else 0) + 256 * r.cause + 2 ^ 24 * min r.nodes (2 ^ 40 - 1))

/-- The rows are written, then the token. -/
def State.endRay (s : State) (r : Ray) : State :=
  let s := r.results.foldl (fun t p => (r.rows.zip p.2).foldl (fun t q => t.rowSet r.gid q.1 p.1 q.2) t) s
  let s := { s with rays := s.rays.filter (fun x => x.id != r.id), pendV := s.pendV.filter fun p => p.2 != r.id + 1 }
  (s.writeToken r.token r.id r.tokenWord).wake

/-- R283: the lanes are traced, and the query ends once every one has finished. -/
def execRayQueryComplete (query : Nat) (s : State) : Out :=
  .next (match s.rays.find? fun r => r.id == query with
    | none => s
    | some r =>
      if r.parked then s
      else
        let t := s.traceLanes r r.todo
        match t.rays.find? fun x => x.id == query with
        | some x => if x.todo.isEmpty ∧ ¬ x.parked then t.endRay x else t
        | none => t)

/-- RAY and RAYH (R280, R284). -/
def State.rayForm (s : State) (e first : Bool) (d a b : Nat) : State :=
  let k := s.cur
  let rows := (List.range 4).map fun i => b + i
  if 24 < b then s.undef
  else if s.inRegion then s.barred abEngine 0x26
  else if s.stalled k { ss := [a], ds := [d], sv := (List.range 8).map (fun i => b + i), dv := rows } then s.stall
  else if (s.sget k a).toNat % 64 ≠ 0 then s.trapU cAlign
  else if s.guard k = 0 then (s.sset k d 1).advance e
  else if 64 ≤ (s.rays.filter fun r => r.core == s.cc).length then s.stall
  else
    let id := s.nextId
    let r : Ray :=
      { id := id, gid := s.cg, splits := [k], team := s.grp.team, ctx := s.grp.ctx, core := s.cc,
        token := if d = 0 then 0 else s.scalarKey k d + 1, base := s.sget k a, first := first, rows := rows.map (s.row k),
        rays := (s.glanes k).map fun l => (l, (List.range 8).map fun i => s.vget k (b + i) l) }
    let s := { s.fresh with rays := s.rays ++ [r] }
    let s := { s with pendV := r.rows.foldl (fun m x => mset 0 m (rowKey r.gid x) (id + 1)) s.pendV }
    (s.takeToken k d id).advance e

/-- R280, R282. -/
def execRay (e : Bool) (d a b : BitVec 5) (s : State) : Out :=
  issue s fun s => s.rayForm e false d.toNat a.toNat b.toNat

/-- R280, R282. -/
def execRayh (e : Bool) (d a b : BitVec 5) (s : State) : Out :=
  issue s fun s => s.rayForm e true d.toNat a.toNat b.toNat

end Sys2Proof.Machine
end

