-- ==== Sys2Proof/Machine/OverlayOps.lean ====
section
/-! DEFINITION. Major 0x23: overlays and the Chuck (R247-R252), and the end of a fill. -/
namespace Sys2Proof.Machine

/-- The id a form names. -/
def State.ovId (s : State) (a : BitVec 5) : Nat := field (s.sget s.cur a.toNat) 15 0

/-- The prelude of the overlay forms: in a region they abort with ENGINE (R253). -/
def State.ovForm (s : State) (u : Uses) (f : State → State) : State :=
  if s.inRegion then s.barred abEngine 0x23 else s.whenFree u f

/-- R250. -/
def execOvlLd (e : Bool) (d a : BitVec 5) (s : State) : Out :=
  issue s fun s => s.ovForm { ss := [a.toNat], ds := [d.toNat] } fun s =>
    let k := s.cur
    match s.startFill s.cc s.grp.ctx (s.ovId a) (if d = 0 then [] else [s.scalarKey k d.toNat]) with
    | (t, .resident) => (t.sset k d.toNat 1).advance e
    | (t, .filling f) => (t.takeToken k d.toNat f).advance e
    | (t, .failed c) => (t.sset k d.toNat (copyToken c 0)).advance e
    | (t, .wait) => t.stall

/-- R250: a hint that fails is dropped. -/
def execOvlHint (e : Bool) (a : BitVec 5) (s : State) : Out :=
  issue s fun s => s.ovForm { ss := [a.toNat] } fun s =>
    match s.startFill s.cc s.grp.ctx (s.ovId a) [] with
    | (t, .wait) => t.stall
    | (t, _) => t.advance e

/-- Change the entry that holds a context's program pins on an overlay of a core. -/
def State.modPins (s : State) (core c id : Nat) (f : Nat → Nat) : State :=
  if id < sysId then
    { s with overlays := updWhere s.overlays (fun o => o.core == core && o.ctx == c && o.id == id) fun o => { o with pins := f o.pins } }
  else
    let n := match s.overlays.find? fun o => o.core == core && o.ctx == c && o.id == id with | some o => o.pins | none => 0
    let rest := s.overlays.filter fun o => !(o.core == core && o.ctx == c && o.id == id)
    { s with overlays := if f n = 0 then rest else rest ++ [{ core := core, ctx := c, id := id, slots := [], pins := f n }] }

/-- Program pins of a context on an overlay (R251). -/
def State.pinsHeld (s : State) (core c id : Nat) : Nat :=
  match s.overlays.find? fun o => o.core == core && o.ctx == c && o.id == id with | some o => o.pins | none => 0

/-- R251: a fill in progress completes first. -/
def execOvlEv (e : Bool) (a : BitVec 5) (s : State) : Out :=
  issue s fun s => s.ovForm { ss := [a.toNat] } fun s =>
    let id := s.ovId a
    let core := s.cc
    let c := s.grp.ctx
    if sysId ≤ id then s.trapU cPriv
    else if s.fills.any fun f => f.core == core && f.ctx == c && f.ovl == id && !f.waitsEvict then s.stall
    else
      let mine (o : Overlay) : Bool := o.core == core && o.ctx == c && o.id == id
      ({ s with overlays := (s.overlays.filter fun o => !(mine o && !s.pinned o)).map fun o =>
          if mine o then { o with evp := true } else o }).advance e

/-- Resident and not evict-pending, as a system overlay always is (R248). -/
def State.stays (s : State) (core c id : Nat) : Bool :=
  decide (sysId ≤ id) || match s.overlayOf core c id with | some o => !o.evp | none => false

/-- R251. -/
def execOvlPin (e : Bool) (d a : BitVec 5) (s : State) : Out :=
  issue s fun s => s.ovForm { ss := [a.toNat], ds := [d.toNat] } fun s =>
    let id := s.ovId a
    let c := s.grp.ctx
    if !s.stays s.cc c id then (s.sset s.cur d.toNat 0).advance e
    else if 255 ≤ s.pinsHeld s.cc c id then (s.sset s.cur d.toNat 2).advance e
    else ((s.modPins s.cc c id fun n => n + 1).sset s.cur d.toNat 1).advance e

/-- R251. -/
def execOvlUnpin (e : Bool) (a : BitVec 5) (s : State) : Out :=
  issue s fun s => s.ovForm { ss := [a.toNat] } fun s =>
    (s.modPins s.cc s.grp.ctx (s.ovId a) fun n => n - 1).advance e

/-- The word OVL.Q writes (R252). -/
def State.ovQuery (s : State) (core c id : Nat) : State × Word64 :=
  let (s, h) := s.ovHeader core c
  let o := s.overlayOf core c id
  let f := s.fills.find? fun f => f.core == core && f.ctx == c && f.ovl == id
  let len : Nat := match o, f with | some o, _ => o.slots.length | none, some f => f.len | none, none => 0
  (s, BitVec.ofNat 64 ((if o.isSome || decide (sysId ≤ id) then 1 else 0) + (if (o.map fun o => o.evp) = some true then 2 else 0)
    + (if f.isSome then 4 else 0) + (if sysId ≤ id then 8 else 0) + 2 ^ 8 * (len - 1)
    + 2 ^ 16 * s.pinsHeld core c id + 2 ^ 32 * s.slotsUsed core c + 2 ^ 40 * h.quota))

/-- R252. -/
def execOvlQ (e : Bool) (d a : BitVec 5) (s : State) : Out :=
  issue s fun s => s.ovForm { ss := [a.toNat], ds := [d.toNat] } fun s =>
    let (s, wait) := s.ovWaits s.cc s.grp.ctx sysId
    if wait then s.stall
    else
    let (t, v) := s.ovQuery s.cc s.grp.ctx (s.ovId a)
    (t.sset t.cur d.toNat v).advance e

/-- Put a filled overlay into its slots (R52, R250). -/
def State.placeOverlay (s : State) (f : Fill) : State :=
  let base (i : Nat) : Nat := (f.core * 64 + (f.slots[i / 1024]?).getD 0) * 1024 + i % 1024
  let kept := s.chuck.filter fun p => !(f.slots.any fun t => p.1 / 1024 == f.core * 64 + t)
  { s with chuck := f.words.foldl (fun m w => mset 0 m (base w.1) w.2) kept,
           overlays := s.overlays ++ [{ core := f.core, ctx := f.ctx, id := f.ovl, slots := f.slots, order := f.id }] }

/-- Splits that waited for a fill issue again (R115). -/
def State.fillOver (s : State) (id : Nat) : State :=
  { s with splits := s.splits.map fun p =>
      (p.1, if p.2.wait = .fill id then { p.2 with wait := .none, readySince := s.stepNo, aged := false } else p.2) }

/-- R250: the last word is in its slot, or the fill fails. -/
def execOverlayFillComplete (fill : Nat) (s : State) : Out :=
  .next (match s.fills.find? fun f => f.id == fill with
    | none => s
    | some f =>
      if f.waitsEvict then s
      else
        let s := { s with fills := s.fills.filter fun x => x.id != f.id }
        let s := if f.failed = 0 then s.placeOverlay f else s
        let v := if f.failed = 0 then 1 else copyToken f.failed 0
        let s := f.tokens.foldl (fun t key => { t with sreg := mset 0 t.sreg key v }) s
        (({ s with pendS := s.pendS.filter fun p => p.2 != f.id + 1 } : State).fillOver f.id).wake)

end Sys2Proof.Machine
end

