-- ==== Sys2Proof/Machine/Settle.lean ====
section
/-! DEFINITION. What follows at once from a step: fences that are met (R186, R316), retirement (R98), barriers and SYNCs
that complete (R193, R194), fusion (R19), evictions (R114), and the states of contexts and queue heads (R351, R355). -/
namespace Sys2Proof.Machine

/-! ## Fences -/

/-- An access that a fence still waits for. -/
def FenceMark.waits (m : FenceMark) (x : MemOp) : Bool :=
  decide (x.id < m.upto) && share x.splits m.src && ((m.acq && x.isLoad) || (m.rel || m.both) && (x.isStore || x.isLoad))

/-- What a fence does to the L1s once nothing before it is outstanding. -/
def State.meetFence (s : State) (m : FenceMark) : State :=
  m.cores.foldl (fun t c =>
    let t := if m.wb then t.cleanAllL1 c else t
    if m.drop = 0 then t else t.dropCleanL1 c m.drop) s

/-- A fence still waits for an access, or for a ray query that it orders. -/
def State.fenceOpen (s : State) (m : FenceMark) : Bool :=
  s.ops.any m.waits || (m.rays && s.rays.any fun r => decide (r.id < m.upto) && share r.splits m.src && (m.acq || m.rel))

/-- Fences that are met leave the table. -/
def State.settleFences (s : State) : State :=
  let met := s.fences.filter fun m => !s.fenceOpen m
  if met.isEmpty then s
  else
    let s := { s with fences := s.fences.filter s.fenceOpen }
    (met.foldl (fun t m => t.meetFence m) s).wake

/-! ## Retirement (R98) -/

/-- Nothing of a group is left to do. -/
def State.mayRetire (s : State) (g : Nat) : Bool :=
  let r := s.gr g
  r.live && !r.retired && r.exited == BitVec.allOnes 32 && r.ldc == 0 && r.stc == 0 && r.cpc == 0
  && !(s.pendS.any fun p => p.1 / 128 == g) && r.unclosed.isEmpty && r.batches.all fun b => b.ops.isEmpty

/-- Groups that have just finished. -/
def State.retireGroups (s : State) : State :=
  (s.groups.filter fun p => s.mayRetire p.1).foldl (fun t p => t.modGr p.1 fun r => { r with retired := true }) s

/-- Every group of a team has retired. -/
def State.teamOver (s : State) (t : Team) : Bool :=
  t.live && !t.retired && !t.inPlace && t.groups.all fun g => !(s.gr g).live || (s.gr g).retired

/-- A core closes the record of a mesh team that retires without MSH.CLOSE (R258). -/
def MeshRec.closeByCore (r : MeshRec) : MeshRec := if r.closed then r else { r with closed := true, nattr := 0, attr := 0 }

/-- A team of the cluster is still to retire. -/
def State.clusterOpen (s : State) (t : Team) : Bool :=
  (s.teams.any fun p => p.2.live && !p.2.retired && p.2.launch == t.launch && p.2.cluster == t.cluster)
  || s.saves.any fun x => x.info.launch == t.launch && x.info.cluster == t.cluster

/-- A mesh team whose meshlet is still with the compressor. -/
def State.meshOpen (s : State) (t : Team) : Bool :=
  match t.mesh, t.draw with
  | some _, some (d, m) => (s.dr d).live && !(s.dr d).finished.contains m
  | _, _ => false

/-- Program pins are held while the context has a team on the core (R251). -/
def State.dropPins (s : State) (core c : Nat) : State :=
  if (s.teamsOn core).any fun t => t.ctx == c && !t.retired then s
  else { s with overlays := (s.overlays.filter fun o => !(o.core == core && o.ctx == c && sysId ≤ o.id)).map fun o =>
    if o.core = core ∧ o.ctx = c then { o with pins := 0 } else o }

/-- A team retires: it counts once, and all but its ABUF is released (R98, R363). -/
def State.retireTeam (s : State) (id : Nat) : State :=
  let t := s.tm id
  let s := t.groups.foldl (fun u g => if (u.gr g).live && (u.gr g).team == id then u.dropGroup g else u) s
  let s := s.modTm id fun x => { x with retired := true, mesh := x.mesh.map MeshRec.closeByCore, groups := [], wbufSize := 0, accCount := 0,
                                        rows := 0, shadow := none, stackOffs := [] }
  let s : State := { s with lastSaves := s.lastSaves.filter fun x => x.team != id }
  let s := s.modLa t.launch fun l => { l with retired := l.retired + 1 }
  let s := match t.pix with | some p => { s with pix := s.pix.filter fun x => x.id != p } | none => s
  (s.dropPins t.core t.ctx).wake

/-- The ABUF of a retired team goes with the last team of its cluster (R98); its entry stays while the compressor has its meshlet. -/
def State.dropTeams (s : State) : State :=
  if s.teams.any fun p => p.2.retired then
    let ended (t : Team) : Bool := t.retired && !s.clusterOpen t
    { s with teams := (s.teams.filter fun p => !ended p.2 || s.meshOpen p.2).map fun p =>
               (p.1, if ended p.2 then { p.2 with abufSize := 0 } else p.2) }
  else s

def State.settleTeams (s : State) : State :=
  let s := s.retireGroups
  let done := (s.teams.filter fun p => s.teamOver p.2).map fun p => p.1
  (done.foldl State.retireTeam s).dropTeams

/-! ## Rendezvous and fusion -/

/-- The groups on the part that have not retired. -/
def State.liveGroups (s : State) : List Nat := (s.groups.filter fun p => p.2.live && !p.2.retired).map fun p => p.1

def State.settleSplits (s : State) : State :=
  let ts := (s.teams.filter fun p => p.2.live && !p.2.retired).map fun p => p.1
  let s := ts.foldl (fun t i => (t.barIds i).foldl (fun u b => u.settleBarrier i b) t) s
  let s := ts.foldl (fun t i => (List.range 4).foldl (fun u b => u.settleCbar i b) t) s
  s.liveGroups.foldl (fun t g =>
    let t := t.settleSync g
    let t := t.fuseAll g (t.fuseFuel g)
    t.settleStuck g) s

/-! ## Contexts and queues (R351, R355) -/

/-- A context has a team on the part, or a launch or draw that has not ended. -/
def State.ctxBusy (s : State) (c : Nat) : Bool :=
  (s.teams.any fun p => p.2.live && p.2.ctx == c) || (s.launches.any fun p => p.2.live && p.2.ctx == c)
  || (s.draws.any fun p => p.2.live && p.2.ctx == c)

/-- A team of the context is resident, or saved and on its way back (R351; log entry 55). -/
def State.resident (s : State) (c : Nat) : Bool :=
  (s.teams.any fun p => p.2.live && p.2.ctx == c && !p.2.retired) || s.saves.any fun x => x.info.ctx == c

/-- Mark when heads became ready. -/
def State.markHeads (s : State) (c : Nat) : State :=
  (mkeys (s.cx c).queues).foldl (fun t q =>
    let r := t.headReady c q
    let x := t.qu c q
    if r && x.readyAt.isNone then t.modQu c q fun y => { y with readyAt := some t.stepNo }
    else if !r && x.readyAt.isSome then t.modQu c q fun y => { y with readyAt := none }
    else t) s

def State.settleCtx (s : State) (c : Nat) : State :=
  let s := s.markHeads c
  let x := s.cx c
  let ready := (mkeys x.queues).any fun q => s.headReady c q
  match x.state with
  | .idle => if ready then s.modCx c fun y => { y with state := .ready } else s
  | .ready => if ready ∨ s.ctxBusy c then s else s.modCx c fun y => { y with state := .idle }
  | .running => if ready ∨ s.resident c then s else s.modCx c fun y => { y with state := .idle }
  | _ => s

/-- What follows at once from a step. -/
def State.settle (s : State) : State :=
  let s := s.settleFences
  let s := s.settleTeams
  let s := s.settleSplits
  let s := s.settleChuck
  (mkeys s.ctxs).foldl State.settleCtx s

end Sys2Proof.Machine
end

