-- ==== Sys2Proof/Machine/Save.lean ====
section
/-! DEFINITION. Pre-emption (R365-R374, R376): save requests, the forced save, what a save keeps, and the return of saved
teams. -/
namespace Sys2Proof.Machine

/-! ## Requests (R365, R369, R376) -/

/-- The cores of two requests together; none stands for every core. -/
def allCores (a b : Option (List Nat)) : Option (List Nat) :=
  match a, b with
  | some x, some y => some (x ++ y).dedup
  | _, _ => none

/-- A save request; `cores` are those whose batch teams are saved whole (R369), none for every core. A second request is merged into
the first (R373). -/
def State.requestSave (s : State) (c : Nat) (cores : Option (List Nat)) : State :=
  if (s.cx c).state = .running then s.modCx c fun x => { x with state := .saving, saveWhole := cores, forced := false, since := s.stepNo }
  else if (s.cx c).state = .saving then s.modCx c fun x => { x with saveWhole := allCores x.saveWhole cores }
  else s

/-- The state in which a context's batch teams have been saved in place, for the test of R369. -/
def State.asideOf (s : State) (c : Nat) : State :=
  { s with teams := s.teams.map (fun p =>
             (p.1, if p.2.ctx = c then { p.2 with inPlace := true, groups := [], rows := 0, wbufSize := 0 } else p.2)),
           groups := s.groups.filter fun p => p.2.ctx != c }

/-- The class of a context's work: the highest effective class among its commands that have started and not ended (R355). -/
def State.workClass (s : State) (c : Nat) : Nat :=
  (s.launches.filter fun p => p.2.live && p.2.ctx == c).foldl (fun n p => max n p.2.cls) 0

/-- Launches of other contexts of a partition that satisfy `p` and cannot be placed, with their contexts' quotas (R365, R376). -/
def State.kept (s : State) (c : Nat) (p : Launch → Bool) : List (Nat × Launch × Nat) :=
  let ws := (s.waitingLaunches (s.cx c).partition).filter fun l => l.2.ctx != c && p l.2
  ws.filterMap fun l =>
    let (t, wait) := s.ovWaits cmdCore l.2.ctx sysId
    let (t, h) := t.ovHeader cmdCore l.2.ctx
    if wait || (t.placeable l.1 l.2 h.quota []).isSome then none else some (l.1, l.2, h.quota)

/-- The cores a launch takes once the teams of context c are put aside, none while it finds no place all the same: [] when their
buffers may stay, for the launch fits beside them (R369). -/
def State.takesFrom (s : State) (c : Nat) (l : Nat × Launch × Nat) : Option (List Nat) :=
  if ((s.asideOf c).placeable l.1 l.2.1 l.2.2 []).isSome then some []
  else ((s.withoutTeams fun t => t.ctx == c).placeable l.1 l.2.1 l.2.2 []).map fun r => r.2.map fun t => t.core

/-- The cores whose teams of a context must be saved whole for one of some launches: for the first that its save lets be placed;
with none of them, its teams keep their buffers in place (R369). -/
def State.needed (s : State) (c : Nat) (ls : List (Nat × Launch × Nat)) : List Nat := (ls.findSome? (s.takesFrom c)).getD []

/-- The waiting launches of higher class that want for a context's resources (R365): its own save lets one of them be placed, or
only the saves of all contexts of lower class do. -/
def State.wants (s : State) (c : Nat) : List (Nat × Launch × Nat) :=
  (s.kept c fun k => decide (s.workClass c < k.cls)).filter fun l =>
    let lower := (s.ctxs.filter fun x => x.2.state == .running && x.2.partition == (s.cx c).partition && decide (s.workClass x.1 < l.2.1.cls)).map
      fun x => x.1
    (s.takesFrom c l).isSome
      || (lower.all fun d => (s.takesFrom d l).isNone) && ((s.withoutTeams fun t => lower.contains t.ctx).placeable l.1 l.2.1 l.2.2 []).isSome

/-- The command processor raises a save request of its own (R365, R376). -/
def State.saveWanted (s : State) (c : Nat) : Bool := (s.cx c).state == .running && !(s.wants c).isEmpty

/-- R365: the request of the command processor or of the PF driver. Of a batch team that no waiting launch of higher class wants the
core of, the buffers stay in place (R369). -/
def State.askSave (s : State) (c : Nat) : State :=
  let ls := s.wants c
  let alone := ls.any fun l => (s.takesFrom c l).isSome
  s.requestSave c (if ls.isEmpty || alone then some (s.needed c ls) else none)

/-- R365. -/
def execSaveRequest (ctx : Nat) (s : State) : Out := .next (s.askSave ctx)

/-- A launch of equal or higher class, of a context that is READY, waits for the cores of a context (R376). -/
def State.sliceKept (s : State) (c : Nat) : List (Nat × Launch × Nat) :=
  s.kept c fun k => decide (s.workClass c ≤ k.cls) && ((s.cx k.ctx).state == .ready || (s.cx k.ctx).state == .idle)

/-- The time of R376 has come: the context has run for SLICE µs of its die's 2.1 GHz, and another waits. -/
def State.sliceOver (s : State) (c : Nat) : Bool :=
  let x := s.cx c
  x.state == .running && !(s.sliceKept c).isEmpty
    && decide (2100 * field (s.pa x.partition).w4 19 0 ≤ cyclesIn 0 x.since (s.stepNo - x.since))

/-- R376: the time slice ends while a context of equal or higher class waits for the cores. -/
def State.endSlice (s : State) (c : Nat) : State :=
  if (s.cx c).state ≠ .running then s
  else
    let ls := s.sliceKept c
    if ls.isEmpty then s
    else s.requestSave c (if ls.any fun l => (s.takesFrom c l).isSome then some (s.needed c ls) else none)

/-- R376. -/
def execTimeSliceExpiry (ctx : Nat) (s : State) : Out := .next (s.endSlice ctx)

/-! ## Stopping (R366, R368) -/

/-- A split that counts as stopped. -/
def Split.stopped (p : Split) : Bool :=
  p.mode != .region && (match p.wait with
    | .stopped | .sync _ | .bar _ _ | .phase _ | .cbar _ | .waitv _ _ | .fill _ => true
    | _ => false)

/-- A forced stop of one split: a region aborts with PREEMPT; MSH.CLOSE ends first. -/
def State.forceStop (s : State) (k : Nat) : State :=
  let p := s.sp k
  if !p.valid ∨ p.stopped then s
  else match p.wait with
    | .close => s
    | _ =>
      let s := if p.mode = .region then s.regAbort k { code := abPreempt } else s
      s.modSp k fun q => { q with wait := .stopped, stopLive := none }

/-- The time of R368 has come: 20 µs after the request some split has not stopped. -/
def State.forceDue (s : State) (c : Nat) : Bool :=
  let x := s.cx c
  x.state == .saving && !x.forced && (s.groupsOf c).any (fun g => !(s.gr g).retired && (s.valids g).any fun k => !(s.sp k).stopped)
    && decide (42000 ≤ cyclesIn 0 x.since (s.stepNo - x.since))

/-- R368: every split not yet stopped stops at its next boundary. -/
def State.forceSave (s : State) (c : Nat) : State :=
  if (s.cx c).state ≠ .saving then s
  else (s.groupsOf c).foldl (fun t g => (entries g).foldl State.forceStop t) (s.modCx c fun x => { x with forced := true })

/-- R368. -/
def execForcedSave (ctx : Nat) (s : State) : Out := .next (s.forceSave ctx)

/-- What the command processors do by themselves about saves, as soon as its time has come: R365 and R376's requests for a waiting
command, the end of a time slice, and R368's stop. -/
def State.settleSaves (s : State) : State :=
  let cs := mkeys s.ctxs
  let s := cs.foldl (fun t c => if t.saveWanted c then t.askSave c else t) s
  let s := cs.foldl (fun t c => if t.sliceOver c then t.endSlice c else t) s
  cs.foldl (fun t c => if t.forceDue c then t.forceSave c else t) s

/-- A split of a context counts as stopped (R366); after a forced save, so does one that has come to an instruction boundary since:
no split of the context issues any more (R368). -/
def State.hasStopped (s : State) (c k : Nat) : Bool := (s.sp k).stopped || ((s.cx c).forced && (s.sp k).wait == .none)

/-! ## What is kept (R367, R254) -/

/-- The group is saved in full: a split stopped elsewhere than at a safe point, or a parked path. -/
def State.fullSave (s : State) (g : Nat) : Bool :=
  !(s.gr g).park.isEmpty || (s.valids g).any fun k => (s.sp k).stopLive.isNone

/-- A live-mask bit that some split of the group lists. -/
def State.lists (s : State) (g b : Nat) : Bool :=
  s.fullSave g || (s.valids g).any fun k => match (s.sp k).stopLive with | some w => bit w b | none => true

/-- The physical rows a live-mask word lists for a split. -/
def State.liveRows (s : State) (k : Nat) (w : BitVec 32) : List Nat :=
  ((List.range 64).filter fun n => bit w (24 + n / 8)).map (s.row k)

/-- A row of a lane is kept; `r` is row * 32 + lane. -/
def State.keepsV (s : State) (g : Nat) : Nat → Bool :=
  if s.fullSave g then fun _ => true
  else
    let ls := (s.valids g).map fun k => ((s.sp k).mask, s.liveRows k ((s.sp k).stopLive.getD 0))
    fun r => ls.any fun p => bit p.1 (r % 32) && p.2.contains (r / 32)

/-- The entries of n keys from `lo` on, keyed from 0. -/
def slice {α : Type} (m : Map α) (lo n : Nat) : List (Nat × α) :=
  (m.filter fun p => decide (lo ≤ p.1 ∧ p.1 < lo + n)).map fun p => (p.1 - lo, p.2)

/-- The registers of group g kept, under team index i: kind 0 rows, 1 scalars, 2 predicates, 3 flags. -/
def State.keptRegs (s : State) (g i : Nat) : List (Nat × Nat × Word64) :=
  let keep := s.keepsV g
  ((slice s.vreg (g * 16384) 16384).filter fun p => keep p.1).map (fun p => (8 * i, p.1, p.2.setWidth 64))
  ++ ((slice s.sreg (g * 128) 128).filter fun p => decide (32 ≤ p.1) || s.lists g (16 + p.1 / 4)).map (fun p => (8 * i + 1, p.1, p.2))
  ++ ((slice s.preg (g * 32) 32).filter fun p => decide (8 ≤ p.1) || s.lists g (8 + p.1)).map (fun p => (8 * i + 2, p.1, p.2.setWidth 64))
  ++ (slice s.flags (g * 32) 32).map fun p => (8 * i + 3, p.1, p.2.setWidth 64)

/-- A team's buffers: kind 0 ABUF bytes, 1 tile words, 2 and 3 the poisoned words of each. -/
def State.keptBytes (s : State) (t : Team) (abuf tiles : Bool) : List (Nat × Nat × Word64) :=
  let a := t.core * 2 ^ 22 + t.abufOff
  let w := (t.core * 2048 + t.accFirst) * 256
  let marks (space lo n kind : Nat) : List (Nat × Nat × Word64) :=
    let b := poisonKey t.core space lo
    (s.poison.filter fun x => decide (b ≤ x ∧ x < b + n)).map fun x => (kind, x - b, 1)
  (if abuf then (slice s.abuf a t.abufSize).map (fun p => (0, p.1, p.2.setWidth 64)) ++ marks 0 (t.abufOff / 4) (t.abufSize / 4) 2 else [])
  ++ (if tiles then (slice s.tiles w (256 * t.accCount)).map (fun p => (1, p.1, p.2.setWidth 64))
        ++ marks 2 (256 * t.accFirst) (256 * t.accCount) 3 else [])

/-- A group as it is saved: batches are complete, or gone. -/
def State.keptGroup (s : State) (g : Nat) : Group :=
  let r := s.gr g
  if s.lists g 5 then r
  else { r with tbc := 0, batchCount := 0, unclosed := [], unclosedTiles := [], unclosedFlags := [], batches := [] }

/-- A team as it is saved. -/
def State.keptTeam (s : State) (id : Nat) : SavedTeam :=
  let t := s.tm id
  let gs := t.groups.zipIdx
  let whole := (s.cx t.ctx).inter || match (s.cx t.ctx).saveWhole with | none => true | some cs => cs.contains t.core
  let aside := !whole
  let acct := t.groups.any fun g => s.lists g 7
  { team := id, info := t, inPlace := aside, acct := acct,
    groups := gs.map fun p => (p.2, s.keptGroup p.1),
    splits := gs.flatMap fun p => ((List.range 4).filter fun j => (s.sp (4 * p.1 + j)).valid).map fun j => (4 * p.2 + j, s.sp (4 * p.1 + j)),
    regs := gs.flatMap fun p => s.keptRegs p.1 p.2,
    bytes := if aside then [] else s.keptBytes t true acct,
    links := gs.flatMap fun p => (slice s.link (p.1 * 256) 256).map fun q => (p.2 * 256 + q.1, q.2),
    maps := gs.flatMap fun p => (slice s.omap (p.1 * 8) 8).map fun q => (p.2 * 8 + q.1, q.2),
    copies := s.copies.filter fun c => t.groups.contains c.gid,
    rays := s.rays.filter fun r => t.groups.contains r.gid }

/-! ## The save (R366, R370) -/

/-- Meshlets of a context that the compressor still has, and messages of its stream on the Faceplate. -/
def State.meshBusy (s : State) (c : Nat) : Bool :=
  (s.teams.any fun p => p.2.ctx == c && (match p.2.mesh with | some r => r.closed | none => false) && s.meshOpen p.2)
  || s.faceplate.any fun m => match m.2.2 with | .packet p => s.streamOf p == c | .beacon x _ => x == c | .stale => false

/-- Every split has stopped, and every access and engine operation that the save waits for is over. -/
def State.saveReady (s : State) (c : Nat) : Bool :=
  let gs := (s.groupsOf c).filter fun g => !(s.gr g).retired
  (gs.all fun g => !(s.valids g).isEmpty && (s.valids g).all fun k => s.hasStopped c k)
  && !(s.ops.any fun o => gs.contains o.gid)
  && !(s.passes.any fun p => p.ops.any fun q => gs.contains q.gid)
  && !(s.fills.any fun f => f.ctx == c && !f.tokens.isEmpty)
  && !(s.copies.any fun x => gs.contains x.gid && !s.lists x.gid 6)
  && !(s.rays.any fun x => gs.contains x.gid && !s.fullSave x.gid)
  && !s.meshBusy c

/-- Tokens of copies that a live-mask word does not list are discarded; the copies run to their end (R254). -/
def State.dropTokens (s : State) (c : Nat) : State :=
  let cs := s.copies.filter fun x => x.ctx == c && x.token != 0 && !s.lists x.gid 6
  cs.foldl (fun t x => { t.writeToken x.token x.id 0 with
    copies := updWhere t.copies (fun y => y.id == x.id) fun y => { y with token := 0 } }) s

/-- The engine work of a saved team leaves the engines, its claims released (R254, R368). -/
def State.parkWork (s : State) (x : SavedTeam) : State :=
  let cs := x.copies.map fun c => c.id
  let rs := x.rays.map fun r => r.id
  let s := cs.foldl (fun t i => t.releaseHeld 3 i) s
  let s := { s with copies := s.copies.filter (fun c => !cs.contains c.id), rays := s.rays.filter (fun r => !rs.contains r.id),
                    reqs := s.reqs.filter fun q => !(q.who == 1 && cs.contains q.holder) }
  s.modCx x.info.ctx fun y => { y with prqPoll := y.prqPoll.filter fun e => match e.2.2.2 with
    | .copy i => !cs.contains i
    | .ray i => !rs.contains i
    | _ => true }

/-- A saved team leaves its core, or keeps its buffers there (R369). -/
def State.leave (s : State) (x : SavedTeam) : State :=
  let s := (s.parkWork x)
  let s := x.info.groups.foldl State.clearGroup s
  let s := match x.info.pix with | some p => s.modPix p fun y => { y with gid := none } | none => s
  if x.inPlace then
    s.modTm x.team fun t => { t with inPlace := true, groups := [], rows := 0, wbufSize := 0 }
  else ({ s with teams := mset {} s.teams x.team {} } : State).dropPins x.info.core x.info.ctx

/-- The save block of a core (R370): 5 MiB at SAVEBASE + 5 MiB x its scan index, in a layout that is Dramund's own. -/
def State.writeSave (s : State) (c core : Nat) : State :=
  s.writeOpen ((s.cx c).saveBase.toNat + 5 * 2 ^ 20 * s.scanIndex (s.cx c).partition core) (5 * 2 ^ 20)

/-- The graphics state of a context goes to its partition's spill area (R374). -/
def State.spillGraphics (s : State) (c : Nat) : State :=
  let p := s.pa (s.cx c).partition
  if s.draws.any fun d => d.2.live && d.2.ctx == c then s.writeOpen p.w2.toNat p.w3.toNat else s

/-- Save every team of a context: what it wrote is performed at dev scope (R319), its teams leave, the save is written. -/
def State.saveAll (s : State) (c : Nat) : State :=
  let s := s.flush (s.cx c).partition (s.ownWritten fun l => l.ctx == c)
  let ids := (s.teams.filter fun p => p.2.live && p.2.ctx == c && !p.2.retired && !p.2.inPlace).map fun p => p.1
  let xs := ids.map s.keptTeam
  let s := xs.foldl State.leave s
  let s := ((xs.map fun x => x.info.core).dedup.foldl (fun t k => t.writeSave c k) s).spillGraphics c
  ({ s with saves := s.saves ++ xs } : State).modCx c fun x => { x with state := .saved, forced := false }

/-- R370: a context that is SAVING becomes SAVED once nothing keeps it. -/
def execSaveComplete (ctx : Nat) (s : State) : Out :=
  .next (
    if (s.cx ctx).state ≠ .saving then s
    else
      let stopped := (s.groupsOf ctx).all fun g => (s.gr g).retired || (s.valids g).all fun k => s.hasStopped ctx k
      let s := if stopped then s.dropTokens ctx else s
      if s.saveReady ctx then s.saveAll ctx else s)

/-! ## Resume (R372, R374) -/

/-- The new key of a split, group or token of a saved team. -/
def SavedTeam.newGroup (x : SavedTeam) (gs : List Nat) (g : Nat) : Nat :=
  match x.info.groups.findIdx? fun h => h == g with
  | some i => (gs[i]?).getD g
  | none => g

/-- Put a list of saved entries back from key `lo` on. -/
def putBack {α β : Type} [DecidableEq β] (d : β) (m : Map β) (lo : Nat) (f : α → β) (l : List (Nat × α)) : Map β :=
  l.foldl (fun m p => mset d m (lo + p.1) (f p.2)) m

/-- The registers, links and maps of a saved team, into its new groups. -/
def State.putRegs (s : State) (x : SavedTeam) (gs : List Nat) : State :=
  let of (kind i : Nat) : List (Nat × Word64) := (x.regs.filter fun r => r.1 == 8 * i + kind).map fun r => r.2
  gs.zipIdx.foldl (fun t p =>
    let g := p.1
    let i := p.2
    { t with vreg := putBack 0 t.vreg (g * 16384) (fun v => v.setWidth 32) (of 0 i),
             sreg := putBack 0 t.sreg (g * 128) id (of 1 i),
             preg := putBack 0 t.preg (g * 32) (fun v => v.setWidth 32) (of 2 i),
             flags := putBack 0 t.flags (g * 32) (fun v => v.setWidth 5) (of 3 i),
             link := putBack 0 t.link (g * 256) id (slice x.links (i * 256) 256),
             omap := putBack 0 t.omap (g * 8) id (slice x.maps (i * 8) 8) }) s

/-- The words of a shadow block (R299). -/
def State.shadowWords (s : State) (core c va : Nat) (n : Nat) : State × List (Nat × Word64) :=
  (List.range n).foldl (fun (r : State × List (Nat × Word64)) i =>
    let (t, v) := r.1.vaRead core c (va + 4 * i) 4
    (t, r.2 ++ [(i, BitVec.ofNat 64 (v.getD 0))])) (s, [])

/-- The accumulator of a saved team on a core of the other kind: tiles become a shadow block, a shadow block tiles (R299, R372). -/
def State.moveTiles (s : State) (x : SavedTeam) (t : Team) : State :=
  match x.info.shadow, t.shadow with
  | some a, none =>
    let (s, ws) := s.shadowWords t.core t.ctx a.toNat (256 * t.accCount)
    { s with tiles := putBack 0 s.tiles ((t.core * 2048 + t.accFirst) * 256) (fun v => v.setWidth 32) ws }
  | none, some a =>
    let s := s.zeroVirtual t.core t.ctx a.toNat (16 * t.accCount)
    (x.bytes.filter fun b => b.1 == 1).foldl (fun u b => (u.vaWrite t.core t.ctx (a.toNat + 4 * b.2.1) 4 b.2.2.toNat).getD u) s
  | _, _ => s

/-- The buffers of a saved team, into its new place; tiles that no group listed read +0.0 (R254), and those of a team that stayed in
place too. -/
def State.putBytes (s : State) (x : SavedTeam) (t : Team) : State :=
  if x.inPlace then (if x.acct || s.isG t.core then s else s.zeroTiles t.core t.accFirst (t.accFirst + t.accCount))
  else if s.isG t.core then
    let s := s.zeroAbuf t.core t.abufOff (t.abufOff + t.abufSize)
    let of (kind : Nat) : List (Nat × Word64) := (x.bytes.filter fun b => b.1 == kind).map fun b => b.2
    ({ s with abuf := putBack 0 s.abuf (t.core * 2 ^ 22 + t.abufOff) (fun v => v.setWidth 8) (of 0),
              poison := (s.poison ++ (of 2).map fun p => poisonKey t.core 0 (t.abufOff / 4) + p.1).dedup } : State).moveTiles x t
  else
    let s := s.zeroAbuf t.core t.abufOff (t.abufOff + t.abufSize)
    let s := (s.zeroTiles t.core t.accFirst (t.accFirst + t.accCount)).moveTiles x t
    let of (kind : Nat) : List (Nat × Word64) := (x.bytes.filter fun b => b.1 == kind).map fun b => b.2
    { s with abuf := putBack 0 s.abuf (t.core * 2 ^ 22 + t.abufOff) (fun v => v.setWidth 8) (of 0),
             tiles := putBack 0 s.tiles ((t.core * 2048 + t.accFirst) * 256) (fun v => v.setWidth 32) (of 1),
             poison := (s.poison ++ (of 2).map (fun p => poisonKey t.core 0 (t.abufOff / 4) + p.1)
                         ++ (of 3).map fun p => poisonKey t.core 2 (256 * t.accFirst) + p.1).dedup }

/-- Copies and ray queries return to their engines; their tokens and rows become pending again (R254, R368). -/
def State.putWork (s : State) (x : SavedTeam) (gs : List Nat) (core : Nat) : State :=
  let key (g tok : Nat) : Nat := if tok = 0 then 0 else tok - 1 - 128 * g + 128 * x.newGroup gs g + 1
  let pend (t : State) (tok id : Nat) : State := if tok = 0 then t else { t with pendS := mset 0 t.pendS (tok - 1) (id + 1) }
  let s := x.copies.foldl (fun t c =>
    let d : Copy := { c with gid := x.newGroup gs c.gid, core := core, token := key c.gid c.token, after := [], parked := false,
                             claims := [], granted := [], got := [], spec := c.committed,
                             splits := c.splits.map fun k => if k < 2 ^ 20 then 4 * x.newGroup gs (gidOf k) + k % 4 else k }
    pend { t with copies := t.copies ++ [d] } d.token d.id) s
  x.rays.foldl (fun t r =>
    let g := x.newGroup gs r.gid
    let q : Ray := { r with gid := g, core := core, token := key r.gid r.token, parked := false, results := [],
                            splits := r.splits.map fun k => if k < 2 ^ 20 then 4 * x.newGroup gs (gidOf k) + k % 4 else k }
    let t := pend { t with rays := t.rays ++ [q] } q.token q.id
    { t with pendV := q.rows.foldl (fun m w => mset 0 m (rowKey g w) (q.id + 1)) t.pendV }) s

/-- The claims of the copies of restored teams are taken again, once every team of the cluster stands on its core (R254). -/
def State.reclaim (s : State) (xs : List SavedTeam) : State :=
  (xs.flatMap fun x => x.copies).foldl (fun t c => match t.copies.find? fun d => d.id == c.id with
    | some d => t.claimAll d.id d.form d.core d.ctx d.desc d.targets d.committed
    | none => t) s

/-- The barriers of a saved team: the arrivals of groups are counted anew as their splits issue again. -/
def SavedTeam.barriers (x : SavedTeam) (gs : List Nat) : Map Barrier :=
  x.info.barriers.map fun p =>
    (p.1, { p.2 with arrived := [], lanes := p.2.lanes.map fun q => (x.newGroup gs q.1, q.2) })

/-- A saved team returns to a core. -/
def State.putTeam (s : State) (x : SavedTeam) (core : Nat) (a : Alloc) : State :=
  let gs := a.slots.map fun i => 32 * core + i
  let t : Team := { x.info with core := core, groups := gs, wbufOff := a.wbuf, inPlace := false, barriers := x.barriers gs,
                                abufOff := if x.inPlace then x.info.abufOff else a.abuf,
                                accFirst := if x.inPlace then x.info.accFirst else a.tiles,
                                shadow := if s.isG core then (if x.info.shadow.isSome || x.info.accCount == 0 then x.info.shadow
                                    else some (BitVec.ofNat 64 ((s.cx x.info.ctx).shadowBase.toNat + a.shadow))) else none }
  let s := if x.inPlace ∨ core = x.info.core then s else (s.cleanAllL1 core).dropCleanL1 core 2
  let s := gs.foldl State.clearGroup s
  let s := s.setTm x.team t
  let s := x.groups.foldl (fun u p => u.setGr ((gs[p.1]?).getD 0)
    { p.2 with restoring := true, park := p.2.park.map fun q => { q with stop := none } }) s
  let s := x.splits.foldl (fun u p => u.setSp (4 * (gs[p.1 / 4]?).getD 0 + p.1 % 4)
    { p.2 with wait := .none, stopLive := none, readySince := u.stepNo, aged := false }) s
  let s := ((s.putRegs x gs).putBytes x t).putWork x gs core
  match x.info.pix, gs.head? with
  | some p, some g => s.modPix p fun y => { y with gid := some g }
  | _, _ => s

/-- The members of a cluster with the cores of a rectangle: each at its own position. -/
def onSite (clw : Nat) (xs : List SavedTeam) (cs : List Nat) : Option (List (SavedTeam × Nat)) :=
  xs.mapM fun x => match cs[x.info.cy * clw + x.info.cx]? with
    | some c => if x.inPlace ∧ c ≠ x.info.core then none else some (x, c)
    | none => none

/-- A set of saved teams takes its places one by one: the allocation of each; a team that kept its buffers needs only its rows, its
group slots and what its packet asks beside them, which its own entry no longer takes (R369, R372). -/
def State.allocAll (s : State) (c : Nat) (p : Packet) (quota : Nat) : List (SavedTeam × Nat) → Option (List (SavedTeam × Nat × Alloc))
  | [] => some []
  | (x, core) :: rest => do
    let a ← s.fit c p quota core
    let g := s.isG core
    let t : Team := { x.info with core := core, groups := a.slots.map fun i => 32 * core + i, wbufOff := a.wbuf, inPlace := false,
                                  abufOff := if x.inPlace then x.info.abufOff else a.abuf,
                                  accFirst := if x.inPlace then x.info.accFirst else a.tiles,
                                  shadow := if g ∧ x.info.shadow.isNone ∧ x.info.accCount ≠ 0 then
                                      some (BitVec.ofNat 64 ((s.cx c).shadowBase.toNat + a.shadow)) else x.info.shadow }
    let s' : State := { s.setTm x.team t with groups := t.groups.foldl (fun m g => mset {} m g { s.gr g with live := true }) s.groups }
    let r ← s'.allocAll c p quota rest
    return (x, core, a) :: r

/-- Launch and cluster numbers in ascending order, of which `p` is put into its place. -/
def putInOrder (p : Nat × Nat) : List (Nat × Nat) → List (Nat × Nat)
  | [] => [p]
  | q :: l => if p.1 < q.1 ∨ (p.1 = q.1 ∧ p.2 ≤ q.2) then p :: q :: l else q :: putInOrder p l

/-- The pairs in ascending order. -/
def inOrder (l : List (Nat × Nat)) : List (Nat × Nat) := l.foldr putInOrder []

/-- Restore the saved teams of one cluster, if a place has room for them all beside what earlier launches reserve (R359, R372). -/
def State.restoreCluster (s : State) (quota launch cluster : Nat) (res : List (Nat × Packet × List Nat)) : Option State :=
  let p := (s.la launch).packet
  let xs := s.savedOf launch cluster
  xs.head?.bind fun x0 =>
    let free : State := { s with saves := s.saves.filter (fun x => !(x.info.launch == launch && x.info.cluster == cluster)),
                                 teams := s.teams.filter fun q => !(xs.any fun x => x.team == q.1) }
    let try' (cs : List Nat) : Option (List (SavedTeam × Nat × Alloc)) :=
      if cs.all fun c => s.beside c ((res.filter fun r => decide (r.1 < launch) && r.2.2.contains c).map fun r => (r.1, r.2.1)) p then
        (onSite p.clw xs cs).bind (free.allocAll x0.info.ctx p quota)
      else none
    ((s.sites p (s.savedJob x0)).findSome? try').map fun ps =>
      let t := (ps.foldl (fun t q => t.putTeam q.1 q.2.1 q.2.2) free).reclaim xs
      { t with lastSaves := t.lastSaves.filter (fun y => !(xs.any fun x => x.team == y.team)) ++ xs.filter fun x => !x.inPlace }

/-- Restore the saved clusters of a context in the order of their launches and of their numbers. One that finds no place reserves its
cores, and later clusters of its launch wait for it; what earlier launches of other contexts reserve stands too (R359). -/
def State.restoreAll (s : State) (quota : Nat) : List (Nat × Nat) → List (Nat × Packet × List Nat) → State
  | [], _ => s
  | (l, k) :: rest, res =>
    if res.any fun r => r.1 == l then s.restoreAll quota rest res
    else match s.restoreCluster quota l k res with
      | some t => t.restoreAll quota rest res
      | none =>
        let cs := match (s.savedOf l k).head? with | some x => s.reserves l (s.la l) quota (s.savedJob x) | none => []
        s.restoreAll quota rest (res ++ [(l, (s.la l).packet, cs)])

/-- The graphics state of a stream on the dies that are in service now (R374): every S-die has the frontiers it had, and a die that
was not there those that are valid now. -/
def State.reloadStream (s : State) (c : Nat) : State :=
  let part := (s.cx c).partition
  let gd := s.diesOf part 1
  let mine (d : Nat) : Bool := (s.dr d).live && (s.dr d).ctx == c
  let owner (d o : Nat) (p : VPacket) : Nat := if mine d then (s.ownerDie part p.rx p.ry).getD o else o
  let s : State := { s with draws := s.draws.map fun p => (p.1, if p.2.live ∧ p.2.ctx = c then ({ p.2 with gdies := gd } : Draw) else p.2) }
  let s : State := { s with held := s.held.map (fun q => (owner q.2.draw q.1 q.2, q.2)),
                            released := s.released.map (fun q => (owner q.2.draw q.1 q.2, q.2)),
                            pix := s.pix.map fun q => { q with sdie := owner q.draw q.sdie q.packet } }
  let old := s.frontier
  let put (t : State) (g : Nat) : State :=
    let f := t.frontierF c g
    let saved (d : Nat) : Nat := match old.find? fun p => p.1 == frontKey c d g with | some p => p.2 | none => f
    { t with sentF := mset 0 t.sentF (c * 32 + g) f,
             frontier := (t.diesOf part 2).foldl (fun m d => mset 0 m (frontKey c d g) (saved d)) t.frontier }
  let s := gd.foldl put { s with frontier := s.frontier.filter (fun p => p.1 / 1024 != c), sentF := s.sentF.filter fun p => p.1 / 32 != c }
  (s.diesOf part 2).foldl (fun t d => t.releaseAll d t.held.length) s

/-- The command processor chooses the context's commands again: none of a higher effective class waits, at a head of the partition's
queues or for its teams to be placed (R355, R372). -/
def State.chosenAgain (s : State) (c : Nat) : Bool :=
  let part := (s.cx c).partition
  let mine := ((mkeys (s.cx c).queues).filter fun q => (s.qu c q).readyAt.isSome).foldl (fun n q => max n (s.effClass c q)) (s.workClass c)
  ((s.readyHeads part).all fun h => h.1 == c || decide (s.effClass h.1 h.2 ≤ mine))
    && (s.waitingLaunches part).all fun l => l.2.ctx == c || decide (l.2.cls ≤ mine)

/-- R372: a SAVED context resumes, or a running one places more of its saved teams. -/
def State.resume (s : State) (c : Nat) : State :=
  let x := s.cx c
  let mine (t : State) : List SavedTeam := t.saves.filter fun y => y.info.ctx == c
  if !((x.state == .saved && s.chosenAgain c) || (x.state == .running && !(mine s).isEmpty)) || !bit (s.pa x.partition).w0 31 || (s.pa x.partition).want.isSome then s
  else
    let (s, wait) := s.ovWaits cmdCore c sysId
    if wait then s
    else
    let u := if x.state = .saved ∧ s.draws.any (fun p => p.2.live && p.2.ctx == c) then s.reloadStream c else s
    let (u, h) := u.ovHeader cmdCore c
    let n := (mine u).length
    let others := u.reservations ((u.waitingLaunches x.partition).filter fun l => l.2.ctx != c)
    let u := u.restoreAll h.quota (inOrder ((mine u).map fun y => (y.info.launch, y.info.cluster)).dedup) others
    if n = 0 ∨ (mine u).length < n then
      u.modCx c fun y => { y with state := .running, since := if x.state = .running then y.since else s.stepNo }
    else s

/-- A saved context can come back, or more of its teams can. -/
def State.mayResume (s : State) (c : Nat) : Bool :=
  let mine (t : State) : Nat := (t.saves.filter fun y => y.info.ctx == c).length
  ((s.cx c).state == .saved || ((s.cx c).state == .running && mine s != 0))
    && (let t := s.resume c; (t.cx c).state == .running && ((s.cx c).state == .saved || decide (mine t < mine s)))

/-- R372. -/
def execContextResume (ctx : Nat) (s : State) : Out := .next (s.resume ctx)

/-! ## The first issue after a restore -/

/-- Fill the overlays that a restored group's PCs and links name; a fill that cannot be made halts the context with
RESTORE (R120, R372, R450). -/
def State.fillRestored (s : State) (g : Nat) : List Nat → State × Bool
  | [] => (s, true)
  | id :: ids =>
    if (s.overlayOf (coreOf g) (s.gr g).ctx id).isSome then s.fillRestored g ids
    else
    match s.startFill (coreOf g) (s.gr g).ctx id [] with
    | (t, .resident) => t.fillRestored g ids
    | (t, .failed _) =>
      let vs := s.valids g
      let k := (vs.find? fun k => (s.splitIds g (s.sp k).pc (s.sp k).mask (s.sp k).cwp (s.sp k).resident).contains id).getD (vs.headD 0)
      (t.haltCtx (s.gr g).ctx { cause := cRestore, pc := (s.sp k).pc, core := coreOf g }, false)
    | (t, _) => let r := t.fillRestored g ids; (r.1, false)

/-- The restored groups of a context that have not issued yet. -/
def State.restored (s : State) (c : Nat) : List Nat := (s.groups.filter fun p => p.2.live && p.2.ctx == c && p.2.restoring).map fun p => p.1

/-- A restored group may issue: before any split of the context's restored groups issues, the claims of all of them are taken
and the overlays of all of them resident (R120, R372). -/
def State.restoreDone (s : State) (g : Nat) : State × Bool :=
  if !(s.gr g).restoring then (s, true)
  else
    let gs := s.restored (s.gr g).ctx
    if s.copies.any fun c => (gs.any fun h => c.team == (s.gr h).team) && s.claimsOut c.id then (s, false)
    else
      match gs.foldl (fun (r : State × Bool) h =>
          if (r.1.gr h).restoring then let x := r.1.fillRestored h (r.1.pinsOf h).dedup; (x.1, r.2 && x.2) else r) (s, true) with
      | (t, true) => (gs.foldl (fun t h => t.modGr h fun r => { r with restoring := false }) t, true)
      | (t, false) => (t, false)

end Sys2Proof.Machine
end

