-- ==== Sys2Proof/Machine/Host.lean ====
section
/-! DEFINITION. What the host does to a running part: the context table (R349, R350), invalidations (R384), page requests
(R386-R389), interrupts (R417), registers (R399), the memory windows (R418), and Function Level Resets (R419). -/
namespace Sys2Proof.Machine

def State.modTail (s : State) (f : Tail → Tail) : State := { s with tail := f s.tail }

/-! ## The context table (R349, R350) -/

/-- Word i of context n's descriptor. -/
def State.descWord (s : State) (n i : Nat) : Word64 := s.physWord (s.tail.ctxTab.toNat + 512 * n + 8 * i)

/-- A descriptor keeps its layout (R349, R344). -/
def State.descGood (s : State) (n : Nat) : Bool :=
  let w := s.descWord n
  let stack := field (w 5) 20 0
  bit (w 0) 0 && field (w 0) 7 3 == 0 && field (w 0) 15 13 == 0 && field (w 0) 63 20 == 0
  && (w 1).toNat % 65536 == 0 && (w 2).toNat % 4096 == 0 && (w 3).toNat % 4096 == 0 && (w 4).toNat % 4096 == 0
  && field (w 5) 63 21 == 0 && stack % 4096 == 0 && decide (4096 ≤ stack ∧ stack ≤ 0x100000)
  && (w 6).toNat % 65536 == 0 && (w 8).toNat % 65536 == 0 && (w 9).toNat % 1024 == 0 && (w 11).toNat % 512 == 0
  && ((List.range 20).all fun i => w (12 + i) == 0)
  && (List.range 16).all fun i => field (w (32 + 2 * i)) 15 1 == 0 && field (w (33 + 2 * i)) 15 0 == 0

/-- The context a descriptor describes. -/
def State.descCtx (s : State) (n : Nat) : Ctx :=
  let w := s.descWord n
  { state := .idle, carve := bit (w 0) 1, inter := bit (w 0) 2, fn := field (w 0) 12 8, partition := field (w 0) 19 16,
    root := w 1, vt := w 2, prq := w 3, ovt := w 4, stackSz := field (w 5) 20 0, stackPool := w 6, stackPoolSz := (w 7).toNat,
    saveBase := w 8, shadowBase := w 9, shadowSz := (w 10).toNat, queuesAt := w 11,
    ranges := (List.range 16).map fun i => (w (32 + 2 * i), w (33 + 2 * i)) }

/-- CTXSTAT after a command (R350). -/
def State.ctxStat (s : State) (refused : Bool) : State := s.modTail fun t => { t with ctxRefused := refused, ctxErr := false }

/-- The load of a context (R350). -/
def State.loadCtx (s : State) (ctx : Nat) : State :=
  if !s.up ∨ 64 ≤ ctx then s
  else if (s.cx ctx).state ≠ .free ∨ !s.descGood ctx then s.ctxStat true
  else (s.modCx ctx fun _ => s.descCtx ctx).ctxStat false

/-- R350. -/
def execContextLoad (ctx : Nat) (s : State) : Out := .next (s.loadCtx ctx)

/-- A context's work is gone and it is FREE. -/
def State.freeCtx (s : State) (c : Nat) : State :=
  let s := s.dropWork c
  { s with ctxs := mset {} s.ctxs c {} }

/-- The release of a context (R350). -/
def State.releaseCtx (s : State) (ctx : Nat) : State :=
  if !s.up ∨ 64 ≤ ctx then s
  else match (s.cx ctx).state with
    | .free => s.ctxStat false
    | .halted | .idle | .saved => (s.freeCtx ctx).ctxStat false
    | _ => s.ctxStat true

/-- R350. -/
def execContextRelease (ctx : Nat) (s : State) : Out := .next (s.releaseCtx ctx)

/-- A write of CTXTAB (R350). -/
def State.putCtxtab (s : State) (value : BitVec 64) : State :=
  if !s.up then s
  else if s.ctxs.any fun p => p.2.state != .free then s.modTail fun t => { t with ctxErr := true }
  else s.modTail fun t => { t with ctxTab := BitVec.ofNat 64 (field value 55 15 * 2 ^ 15) }

/-- R350. -/
def execCtxtabWrite (value : BitVec 64) (s : State) : Out := .next (s.putCtxtab value)

/-! ## Invalidation (R384, R386) -/

/-- An entry of a TLB maps an address, or is of the context if none is named. -/
def tlbMaps (c : Nat) (va : Option Nat) (e : TlbEntry) : Bool :=
  e.ctx == c && match va with | some va => e.page == va / pageBytes e.level | none => true

/-- An entry of a walk cache is on the way to it. -/
def walkMaps (c : Nat) (va : Option Nat) (key : Nat) : Bool :=
  key / 2 ^ 42 % 64 == c && match va with
    | some va => key % 2 ^ 40 == va / levelSpan (key / 2 ^ 40 % 4) % 2 ^ 40
    | none => true

/-- The lists of a map without the entries that satisfy `p`. -/
def pruneLists {α : Type} (m : Map (List α)) (p : α → Bool) : Map (List α) :=
  (m.map fun q => (q.1, q.2.filter fun x => !p x)).filter fun q => !q.2.isEmpty

/-- The ATS answers of some contexts, for one host unit or for all, leave the L2 TLBs; one that is on its way is discarded when it comes
(R384, R386). -/
def State.dropAts (s : State) (mine : Nat → Bool) (unit : Option Nat) : State :=
  let of (u : Nat) : Bool := match unit with | some v => u == v | none => true
  { s with ats := s.ats.filter (fun p => !(mine (p.1 / 2 ^ 52 % 64) && of (p.1 % 2 ^ 52))),
           funcs := (s.funcs.map fun p =>
             (p.1, { p.2 with atsAsked := p.2.atsAsked.filter fun a => !(mine (a.1 % 64) && of a.2) })).filter fun p => decide (p.2 ≠ ({} : Func)) }

/-- The entries that map an address of a context, or all of the context, leave every TLB and walk cache; with them the ATS answers of the
context, which are kept by host address (R384). -/
def State.dropMaps (s : State) (c : Nat) (va : Option Nat) : State :=
  ({ s with tlb := pruneLists s.tlb (tlbMaps c va), walks := pruneLists s.walks fun e => walkMaps c va e.1,
            l0 := pruneLists s.l0 (tlbMaps c va) } : State).dropAts (fun x => x == c) none

/-- INVCTL on a context that is loaded (R384). -/
def State.invalidate (s : State) (c : Nat) (va : Option Nat) : State :=
  if !s.up ∨ 64 ≤ c ∨ (s.cx c).state = .free then s
  else if (s.cx c).invBusy then s.modCx c fun x => { x with invErr := true }
  else (s.dropMaps c va).modCx c fun x => { x with invBusy := true, invErr := false, invUpto := s.nextId }

/-- R384. -/
def execInvalidatePage (ctx : Nat) (s : State) : Out :=
  .next (s.invalidate ctx (some (field (s.cx ctx).invAddr 55 16 * 65536)))

/-- R384. -/
def execInvalidateContext (ctx : Nat) (s : State) : Out := .next (s.invalidate ctx none)

/-- An access before `upto` of contexts that satisfy `p` is still to be performed, or a region that opened before it holds inputs or
stores at the places it translated. -/
def State.opsBefore (s : State) (upto : Nat) (p : Nat → Bool) : Bool :=
  (s.ops.any fun o => decide (o.id < upto) && p o.ctx)
    || s.regions.any fun r => p (s.gr (gidOf r.1)).ctx && match r.2 with
      | some r => decide (r.since ≤ upto) && !(r.inputs.isEmpty && r.stores.isEmpty)
      | none => false

/-- What a PRIV page's stores have left in the L1s goes to the L2 of their die, their domain (R316, R384). -/
def State.cleanCores (s : State) : State :=
  ((s.l1.map fun p => p.1 / 2 ^ 52).dedup).foldl State.cleanAllL1 s

/-- R384: every access that used a removed translation is performed; an ATS invalidation of the function ends the same
way (R386). -/
def execInvalidationComplete (ctx : Nat) (s : State) : Out :=
  .next (
    let x := s.cx ctx
    let s := if x.invBusy && !s.opsBefore x.invUpto fun c => c == ctx then s.cleanCores.modCx ctx fun x => { x with invBusy := false } else s
    match (s.fn x.fn).atsInvalid with
    | upto :: rest =>
      if s.opsBefore upto fun c => (s.cx c).fn == x.fn then s else s.cleanCores.modFn x.fn fun f => { f with atsInvalid := rest }
    | [] => s)

/-- R386. -/
def execAtsTranslationCompletion (fn unit : Nat) (r w : Bool) (s : State) : Out :=
  .next (
    let asked := (s.fn fn).atsAsked.filter fun u => u.2 == unit
    if !s.up ∨ asked.isEmpty then s
    else
      let s := s.modFn fn fun f => { f with atsAsked := f.atsAsked.filter fun u => u.2 != unit }
      ({ s with ats := asked.foldl (fun m u => mset none m (u.1 * 2 ^ 52 + unit) (some (r, w))) s.ats } : State).wake)

/-- R386: each request is answered by its own completion. -/
def execAtsInvalidateRequest (fn unit : Nat) (s : State) : Out :=
  .next (
    if !s.up then s
    else ((s.dropAts (fun c => (s.cx c).fn == fn) (some unit)).modFn fn fun f => { f with atsInvalid := f.atsInvalid ++ [s.nextId] }).wake)

/-! ## Page requests (R387-R389) -/

/-- A requester translates again. -/
def State.unpark (s : State) (c : Nat) : Requester → State
  | .pageq => s
  | .copy id => { s with copies := updWhere s.copies (fun x => x.id == id) fun x => { x with parked := false } }
  | .ray id => s.setRay id fun x => { x with parked := false }
  | .blend id _ _ => s.modPix id fun x => { x with parked := false }
  | .depth sdie _ =>
    { s with released := updWhere s.released (fun q => q.1 == sdie && s.streamOf q.2 == c) fun q => (q.1, { q.2 with parked := false }) }

/-- A requester's request has failed (R389). -/
def State.failWaiter (s : State) (c : Nat) : Requester → State
  | .pageq => s
  | .copy id => s.failCopy id cXlate
  | .ray id => if s.rays.any fun r => r.id == id then s.failRay id cXlate else s
  | .blend _ core va => s.haltCtx c { cause := cPagefail, core := core, addr := va }
  | .depth sdie va => s.haltCtx c { cause := cPagefail, core := unitCore sdie, addr := va }

/-- The outstanding request of a context that satisfies `p` is answered. -/
def State.answerPage (s : State) (c : Nat) (p : PageReq → Bool) (failed : Bool) : State :=
  match (s.cx c).requests.find? p with
  | none => s
  | some r =>
    let s := s.modCx c fun x => { x with requests := x.requests.erase r }
    (r.waiters.foldl (fun t w => if failed then t.failWaiter c w else t.unpark c w) s).wake

/-- R389: PRQRESP with FAIL = 0. -/
def execPageRequestGrant (ctx : Nat) (tag : BitVec 16) (s : State) : Out :=
  .next (if s.up then s.answerPage ctx (fun r => !r.host && r.tag == tag) false else s)

/-- R389: PRQRESP with FAIL = 1. -/
def execPageRequestFail (ctx : Nat) (tag : BitVec 16) (s : State) : Out :=
  .next (if s.up then s.answerPage ctx (fun r => !r.host && r.tag == tag) true else s)

/-- R388: engines parked on a full queue read the header again; with room they translate and post again. Those that wait for room among
the function's PRI requests try again with it (R189, R387). -/
def execPrqRptrPoll (ctx : Nat) (s : State) : Out :=
  .next (
    let x := s.cx ctx
    let a := x.prq.toNat
    let (en, size) := s.prqHeader ctx
    let used := (field (s.physWord (a + 8)) 31 0 + 2 ^ 32 - field (s.physWord (a + 16)) 31 0) % 2 ^ 32
    let host (e : Nat × Nat × Nat × Requester) : Bool := (s.hostUnit ctx e.1).isSome
    let room := decide ((s.fn x.fn).priOutstanding.length < (s.fn x.fn).priAlloc) || (s.fn x.fn).priStopped
    let full := en && decide (2 ^ size ≤ used)
    let stays (e : Nat × Nat × Nat × Requester) : Bool := if host e then !room else full
    let go := x.prqPoll.filter fun e => !stays e
    if go.isEmpty then s
    else
      let s := s.modCx ctx fun y => { y with prqPoll := y.prqPoll.filter stays }
      (go.foldl (fun t e => if en || host e then t.unpark ctx e.2.2.2 else t.failWaiter ctx e.2.2.2) s).wake)

/-- The first element that satisfies `p` leaves a list. -/
def dropFirst {α : Type} (p : α → Bool) : List α → List α
  | [] => []
  | x :: xs => if p x then xs else x :: dropFirst p xs

/-- R387: code 0 is Success, 1 Invalid Request, 2 and 3 Response Failure. The oldest request for the unit is answered; the answer that
the L2 TLBs hold for the unit is asked for again. -/
def execPrgResponse (fn unit : Nat) (code : BitVec 2) (s : State) : Out :=
  .next (
    match (s.fn fn).priOutstanding.find? fun u => u.1 == unit with
    | none => s
    | some (_, write) =>
      if !s.up then s
      else
        let s := s.modFn fn fun f =>
          { f with priOutstanding := dropFirst (fun u => u.1 == unit) f.priOutstanding, priStopped := f.priStopped || decide (2 ≤ code.toNat) }
        let cs := (s.ctxs.filter fun p => p.2.state != .free && p.2.fn == fn).map fun p => p.1
        let s := s.dropAts (fun c => cs.contains c) (some unit)
        cs.foldl (fun t c => t.answerPage c (fun r => r.host && r.page == unit && (r.kind == 1) == write) (code != 0)) s)

/-- R387. -/
def execPriReenable (fn : Nat) (s : State) : Out := .next (s.modFn fn fun f => { f with priStopped := false })

/-! ## Interrupts (R417) -/

/-- A write of IRQCAUSE clears the bits that are 1 (R417). -/
def State.clearIrq (s : State) (fn : Nat) (bits : BitVec 64) : State :=
  if s.fnUp fn then s.modFn fn fun f => { f with irq := f.irq &&& ~~~ (bits.setWidth 8) } else s

/-- R417. -/
def execIrqcauseClear (fn : Nat) (bits : BitVec 64) (s : State) : Out := .next (s.clearIrq fn bits)

/-- R417: the message of a pending vector goes; before Ready the write is discarded (R403). -/
def execMsiXVectorUnmask (fn vector : Nat) (s : State) : Out :=
  .next (
    if 8 ≤ vector ∨ !s.fnUp fn then s
    else s.modFn fn fun f =>
      let b : BitVec 8 := (1 : BitVec 8) <<< vector
      if bit f.pending vector then { f with mask := f.mask &&& ~~~ b, pending := f.pending &&& ~~~ b, sent := vector :: f.sent }
      else { f with mask := f.mask &&& ~~~ b })

/-! ## The memory windows (R418) -/

/-- The device address behind an offset of a function's BAR 4. -/
def State.windowAt (s : State) (fn offset n : Nat) : Option Nat :=
  let w := (s.fn fn).window
  if !s.fnUp fn then none
  else if fn = 0 then (if offset + n ≤ 2 ^ 28 then some (field w 55 28 * 2 ^ 28 + offset) else none)
  else if bit w 0 && decide (offset + n ≤ 2 ^ 26) then some (field w 55 26 * 2 ^ 26 + offset) else none

/-- Write the bytes of one sector as the host does: a lost sector takes a whole one only, which leaves it in X on the writer's die, the
B-die (R346; log entry 86). -/
def State.hostSector (s : State) (a n v : Nat) : State :=
  let sec := a / 64
  let home := s.homeOf 0 a
  if !s.homeUp home then s
  else if (s.dirAt sec).state = 6 then
    if n = 64 then
      let t := ({ s with badSecs := s.badSecs.filter fun x => x != sec } : State).setDir sec { s.dirAt sec with state := 0 }
      let t := t.devWrite home a n v
      t.setDir sec { t.dirAt sec with state := 2, owner := 0, home := home }
    else s
  else s.devWrite home a n v

/-- Write a list of bytes, sector by sector. -/
def State.hostBytes (s : State) (a : Nat) (bs : List Byte) : State :=
  (sectorsOf a bs.length).foldl (fun t sec =>
    let lo := max a (64 * sec)
    let hi := min (a + bs.length) (64 * sec + 64)
    let part := (bs.drop (lo - a)).take (hi - lo)
    t.hostSector lo (hi - lo) (part.foldr (fun b v => b.toNat + 256 * v) 0)) s

/-- An uncorrectable sector that the host is the first to read is lost, and its unit is tested (R340, R411). -/
def State.hostMeets (s : State) (sec : Nat) : State :=
  if s.badSecs.contains sec then s.meetBad ((s.holders sec).headD 0) sec (s.homeOf 0 (64 * sec)) else s

/-- Read bytes as the host does; a sector that is lost answers with no data (R346). -/
def State.hostFetch (s : State) (a n : Nat) : State × List Byte :=
  let s := (sectorsOf a n).foldl State.hostMeets s
  if (sectorsOf a n).any fun sec => s.lost sec (s.homeOf 0 (64 * sec)) then (s, [])
  else
    (List.range n).foldl (fun (r : State × List Byte) i =>
      let (t, v) := r.1.devRead (s.homeOf 0 (a + i)) (a + i) 1
      (t, r.2 ++ [BitVec.ofNat 8 v])) (s, [])

/-- The value of a list of bytes, lowest first, and the n bytes of a value. -/
def leValue (bs : List Byte) : Nat := bs.foldr (fun b v => b.toNat + 256 * v) 0
def leList (v : Nat) : Nat → List Byte
  | 0 => []
  | n + 1 => BitVec.ofNat 8 v :: leList (v / 256) n

/-- What an AtomicOp of n bytes writes (R416). -/
def hostAtomic (op : HostAtomic) (n old value : Nat) : Nat :=
  match op with
  | .fetchAdd => (old + value) % 256 ^ n
  | .swap => value % 256 ^ n
  | .cas c => if old = c.toNat % 256 ^ n then value % 256 ^ n else old

/-- What a read returns stands in the Tailstock's record of the last completion. -/
def State.answerRead (s : State) (bs : List Byte) : State := s.modTail fun y => { y with hostRead := bs }

/-- Update n bytes as one access from outside; nothing is written where the read brings no data. -/
def State.hostUpdate (s : State) (a n : Nat) (f : Nat → Nat) : State × List Byte :=
  let (t, bs) := s.hostFetch a n
  (if bs.isEmpty then t else (t.hostBytes a (leList (f (leValue bs)) n)).wake, bs)

/-- The bytes of device memory that a request touches. -/
def HostReq.span : HostReq → Nat × Nat
  | .write a bs => (a, bs.length)
  | .read a n => (a, n)
  | .atomic a n _ _ => (a, n)
  | .reduce a op ty _ => (a, atomWidth op ty / 8)
  | .doorbell _ _ _ _ => (0, 0)

/-- Perform one request from outside. -/
def State.hostDo (s : State) : HostReq → State
  | .write a bs => (s.hostBytes a bs).wake
  | .read a n => let (t, bs) := s.hostFetch a n; t.answerRead bs
  | .atomic a n op v => let (t, bs) := s.hostUpdate a n fun old => hostAtomic op n old v.toNat; t.answerRead bs
  | .reduce a op ty v => (s.hostUpdate a (atomWidth op ty / 8) fun old => atomOp op ty old v.toNat 0).1
  | .doorbell fn ctx queue wptr => s.takeDoorbell fn ctx queue wptr

/-- Nothing keeps a request from being performed: no directory holds a sector of it, no test its unit (R336, R411). -/
def State.hostReady (s : State) (a n : Nat) : Bool :=
  (sectorsOf a n).all fun sec => s.secNow sec && !s.homeTested (s.homeOf 0 (64 * sec)) sec

/-- Perform the accesses from outside to device memory in their order, as far as nothing keeps the next one (R317, R336). -/
def State.hostTurns (s : State) : List HostReq → State
  | [] => { s with hostQueue := [] }
  | x :: rest => if s.hostReady x.span.1 x.span.2 then (s.hostDo x).hostTurns rest else { s with hostQueue := x :: rest }

/-- An access from outside takes its place behind those that wait. -/
def State.hostSend (s : State) (x : HostReq) : State := s.hostTurns (s.hostQueue ++ [x])

/-- The accesses of the host that waited for their sectors. -/
def State.settleHost (s : State) : State := if s.hostQueue.isEmpty then s else s.hostTurns s.hostQueue

/-- R418. -/
def execHostMemoryWrite (fn offset : Nat) (bytes : List (BitVec 8)) (s : State) : Out :=
  .next (match s.windowAt fn offset bytes.length with
    | some a => s.hostSend (.write a bytes)
    | none => s)

/-- An AtomicOp has the size and the alignment of its operand, 4 or 8 bytes (R416). -/
def atomicGood (offset len : Nat) : Bool := (len == 4 || len == 8) && offset % len == 0

/-- R418; an AtomicOp (R416) reads and updates the bytes as one access. -/
def execHostMemoryRead (fn offset : Nat) (ask : HostAsk) (s : State) : Out :=
  .next (match ask with
    | .bytes len => (match s.windowAt fn offset len with
      | some a => s.hostSend (.read a len)
      | none => s.answerRead (List.replicate len 0))
    | .atomic n op v => (match s.windowAt fn offset n with
      | some a => if atomicGood offset n then s.hostSend (.atomic a n op v) else s.answerRead []
      | none => s.answerRead (List.replicate n 0)))

/-! ## Function Level Reset (R419) -/

/-- Loaded contexts of a function. -/
def State.ctxsOf (s : State) (fn : Nat) : List Nat := (s.ctxs.filter fun p => p.2.state != .free && p.2.fn == fn).map fun p => p.1

/-- The steps of R419 on a function. -/
def State.resetFn (s : State) (fn : Nat) : State :=
  let s := (s.ctxsOf fn).foldl (fun t c => (t.freeCtx c).dropAts (fun x => x == c) none) s
  (s.modFn fn fun f => { window := f.window, sent := f.sent, vfEn := f.vfEn }).wake

/-- R419. -/
def execFunctionLevelReset (vf : Nat) (s : State) : Out := .next (if 1 ≤ vf ∧ vf ≤ 31 then s.resetFn vf else s)

/-- VF Enable is cleared for a VF: the steps of R419, and it answers no more. -/
def State.clearVf (s : State) (vf : Nat) : State := (s.resetFn vf).modFn vf fun f => { f with vfEn := false }

/-- R419. -/
def execVfEnableClear (vf : Nat) (s : State) : Out := .next (if 1 ≤ vf ∧ vf ≤ 31 then s.clearVf vf else s)

/-- R419. -/
def execPfFunctionLevelReset (s : State) : Out :=
  .next (
    let s := (List.range 31).foldl (fun t i => t.clearVf (i + 1)) s
    let s := (s.resetFn 0).modFn 0 fun f => { f with window := 0 }
    let off : Map Partition := s.partitions.map fun p => (p.1, ({ p.2 with w0 := p.2.w0 &&& 0xFFFFFFFF7FFFFFFF, want := none } : Partition))
    let s : State := { s with partitions := off }
    s.modTail fun t => { t with ctxTab := 0 })

end Sys2Proof.Machine
end

