-- ==== Sys2Proof/Machine/Reset.lean ====
section
/-! DEFINITION. Partitions (R375, R377), resets (R408-R410), power (R421) and bring-up (R400-R406). -/
namespace Sys2Proof.Machine

/-! ## What a reset of a die clears (R408) -/

/-- Die sites of the B-die, and the end of a site's hybrid-bond link at the Faceplate (R400). -/
def siteCount : Nat := 31
def faceEnd : Nat := 255

/-- The contents of the maps whose keys belong to cores of a die: `size` keys to a core. -/
def dieDrop {α : Type} (size die : Nat) (m : Map α) : Map α := m.filter fun p => dieOf (p.1 / size) != die

/-- A warm reset: engines, queues, schedulers, split state and TLBs of the die are cleared. What a contained die has sent stays on its
way (R347), and what an S-die holds of a context that is SAVED lies in its spill area (R374). -/
def State.warmDie (s : State) (die : Nat) : State :=
  let gs := (s.groups.filter fun p => dieOf (coreOf p.1) == die).map fun p => p.1
  let s := gs.foldl State.clearGroup s
  let dead := (s.copies.filter fun c => dieOf c.core == die).map fun c => c.id
  let s := dead.foldl (fun t i => t.releaseHeld 3 i) s
  let gone := (s.di die).state == 3
  let stays (sdie draw : Nat) : Bool := sdie != die || (s.cx (s.dr draw).ctx).state == .saved
  let s := { s with
    teams := s.teams.filter fun p => dieOf p.2.core != die
    ops := s.ops.filter fun o => dieOf o.core != die
    copies := s.copies.filter fun c => dieOf c.core != die
    passes := s.passes.filter fun p => dieOf p.core != die
    rays := s.rays.filter fun r => dieOf r.core != die
    fills := s.fills.filter fun f => dieOf f.core != die
    reqs := s.reqs.filter fun q => gone || q.die != die
    faceplate := s.faceplate.filter fun m => (gone || m.1 != die) && m.2.1 != die
    l0 := s.l0.filter fun p => dieOf p.1 != die
    held := s.held.filter fun p => stays p.1 p.2.draw
    released := s.released.filter fun p => stays p.1 p.2.draw
    pix := s.pix.filter fun p => stays p.sdie p.draw
    tlb := s.tlb.filter fun p => p.1 / 1024 != die
    walks := s.walks.filter fun p => p.1 != die
    ats := s.ats.filter fun p => p.1 / 2 ^ 58 != die }
  s.modDi die fun d => { d with tests := [] }

/-- A die with no unit mapped out; its cores are in service if it is (R4, R413). The droop log and its cap stay while the condition
does (R415). -/
def Die.fresh (d : Die) (now : Nat) : Die :=
  { kind := d.kind, state := d.state, incarn := d.incarn, site := d.site, ord := d.ord, clock := d.clock, cycleBase := now,
    coresIn := if d.state = 1 then coresOf d.kind else 0, dropping := d.dropping, droop := if d.dropping then d.droop else 0 }

/-- The port of a site and the side links of its die are trained anew; which of them do train is open (R400, R408; log entry 88). -/
def State.trainSite (s : State) (site : Nat) : State :=
  let ok (l : Nat × Nat) : Bool := Config.linkTrains s.freeCtr l
  let ends : List (Nat × Nat) := ((List.range siteCount).filter fun x => x != site).map fun x => (min x site, max x site)
  ({ s with freeCtr := s.freeCtr + 1 } : State).modTail fun t =>
    { t with ports := t.ports.filter (fun x => x != site) ++ if ok (site, faceEnd) then [site] else [],
             sides := t.sides.filter (fun l => l.1 != site && l.2 != site) ++ ends.filter ok }

/-- A link leads to the die of a site: its port, or a side link (R400). -/
def State.linked (s : State) (site : Nat) : Bool :=
  s.tail.ports.contains site || s.tail.sides.any fun l => l.1 == site || l.2 == site

/-- The home M-die of a byte of local memory, as far as it has been written (R330, R332). -/
def State.homeOfByte (s : State) (pa : Nat) : Nat :=
  let h := mget 0 s.homes (pa / 4096)
  if h = 0 then s.physHome pa else h - 1

/-- A cold reset: the warm reset, and caches, buffers, tiles and an M-die's memory are cleared, its links trained
anew, CYCLES restarts. -/
def State.coldDie (s : State) (die : Nat) : State :=
  let s := s.warmDie die
  let mine (pa : Nat) : Bool := (s.di die).kind == 3 && decide (pa < 2 ^ 48) && s.homeOfByte pa == die
  let s := { s with
    abuf := dieDrop (2 ^ 22) die s.abuf
    wbuf := dieDrop (2 ^ 22) die s.wbuf
    tiles := dieDrop (2048 * 256) die s.tiles
    poison := s.poison.filter fun k => dieOf (k / 2 ^ 22 / 4) != die
    soft := s.soft.filter fun k => dieOf (k / 2 ^ 22 / 4) != die
    badSecs := s.badSecs.filter fun sec => !mine (64 * sec)
    chuck := dieDrop (64 * 1024) die s.chuck
    overlays := s.overlays.filter fun o => dieOf o.core != die
    cores := s.cores.filter fun p => dieOf p.1 != die
    l1 := s.l1.filter fun p => dieOf (p.1 / 2 ^ 52) != die
    l1Ways := s.l1Ways.filter fun p => dieOf (p.1 / 192) != die
    l2 := s.l2.filter fun p => p.1 / 2 ^ 52 != die
    l2Ways := s.l2Ways.filter fun p => p.1 / (256 * 64) != die
    llcWays := s.llcWays.filter fun p => p.1 / (64 * 1024) != die
    filter := s.filter.filter fun p => (s.dirAt p.1).home != die
    views := s.views.filter fun p => p.1 / 2 ^ 52 != die
    formats := s.formats.filter fun p => p.1 / 32 != die
    mem := s.mem.filter fun c => !mine c.1
    homes := s.homes.filter fun p => p.2 != die + 1
    dir := s.dir.filter fun p => p.2.home != die
    sharers := s.sharers.filter fun p => !mine (256 * p.1) }
  (s.modDi die fun d => d.fresh s.stepNo).trainSite (s.di die).site

/-! ## System overlays (R248, R400) -/

/-- The system overlay of the window handler on a core. -/
def sysOverlay (core : Nat) : Overlay := { core := core, ctx := sysCtx, id := sysId, slots := [60] }

/-- Its words in slot 60. -/
def sysWords (core : Nat) : Map (BitVec 32) :=
  (Config.windowHandler.zipIdx.map fun p => ((core * 64 + 60) * 1024 + p.2, p.1)).filter fun p => p.2 != 0

/-- Fill the system overlays of every core of a die. -/
def State.fillSystem (s : State) (die : Nat) : State :=
  (List.range (coresOf (s.di die).kind)).foldl (fun t i =>
    { t with overlays := t.overlays ++ [sysOverlay (64 * die + i)],
             chuck := (sysWords (64 * die + i)).foldl (fun m p => mset 0 m p.1 p.2) t.chuck }) s

/-! ## RESETCTL (R409, R410) -/

/-- A die is named by the masks of an enabled partition. -/
def State.inPartition (s : State) (die : Nat) : Bool :=
  let d := s.di die
  s.partitions.any fun p => bit p.2.w0 31 && bit p.2.w0 ((if d.kind = 1 then 16 else 0) + d.ord)

/-- The reset of a die is refused (R409). -/
def State.resetRefused (s : State) (die : Nat) : Bool :=
  let d := s.di die
  die == 0 || d.state == 0
  || (d.kind == 3 && d.state != 3)
  || ((d.kind == 1 || d.kind == 2) && d.state != 3 && s.inPartition die)

/-- A cold reset of a die is still waiting for its self-test: BUSY (R409). -/
def State.resetBusy (s : State) : Bool := s.dies.any fun p => p.2.coldPending

/-- A reset that RESETCTL asks for: ERR while BUSY, else REFUSED or `f`. -/
def State.askReset (s : State) (refused : Bool) (f : State → State) : State :=
  if !s.up then s
  else if s.resetBusy then s.modTail fun t => { t with resetErr := true }
  else
    let s := s.modTail fun t => { t with resetRefused := refused, resetErr := false }
    if refused then s else f s

/-- A warm reset of a die is asked for. -/
def State.askWarm (s : State) (die : Nat) : State := s.askReset (s.resetRefused die) fun s => (s.warmDie die).wake

/-- A cold reset of a die is asked for; the bring-up self-test ends it (R410). -/
def State.askCold (s : State) (die : Nat) : State :=
  s.askReset (s.resetRefused die) fun s => ((s.coldDie die).modDi die fun d => { d with coldPending := true }).wake

/-- R408. -/
def execWarmDieReset (die : Nat) (s : State) : Out := .next (s.askWarm die)

/-- R408, R410. -/
def execColdDieReset (die : Nat) (s : State) : Out := .next (s.askCold die)

/-- The command processors are cleared: no command, launch or draw is left of a loaded context. -/
def State.clearCommands (s : State) (c : Nat) : State :=
  if (s.cx c).state = .free ∨ (s.cx c).state = .halted then s
  else (s.dropWork c).modCx c fun x => { x with state := .idle, queues := [], drawNext := 0, prqPoll := [] }

/-- A warm package reset: every die but the B-die, and the command processors (R408). -/
def State.askWarmPackage (s : State) : State :=
  s.askReset false fun s =>
    let s := (mkeys s.ctxs).foldl State.clearCommands s
    let s := ((mkeys s.dies).filter fun d => d != 0).foldl State.warmDie s
    ({ s with partitions := s.partitions.map fun p => (p.1, { p.2 with rr := 0 }) } : State).wake

/-- R408. -/
def execWarmPackageReset (s : State) : Out := .next s.askWarmPackage

/-! ## The package: cold reset and power (R400, R421) -/

/-- The machine at the start of the ROM. What lies outside the part, and its flash and one-time storage, stays. -/
def State.coldPackage (s : State) : State :=
  { State.reset with
    agenda := s.agenda, stepNo := s.stepNo, freeCtr := s.freeCtr, nextId := s.nextId, part := s.part, peers := s.peers,
    hostMem := s.hostMem, mem := s.mem.filter fun c => decide (2 ^ 48 ≤ c.1),
    tail := { power := s.tail.power, edKey := s.tail.edKey, mlKey := s.tail.mlKey, fwA := s.tail.fwA, fwB := s.tail.fwB, rollback := s.tail.rollback } }

/-- R400; what has been written to a firmware slot takes effect with it (R406). -/
def execColdPackageReset (s : State) : Out := .next (s.askReset false State.coldPackage)

/-- R421. -/
def execPowerOn (s : State) : Out :=
  .next (if s.tail.power then s else (s.modTail fun t => { t with power := true }).coldPackage)

/-- R421: no part of the device runs; nothing but flash and one-time storage outlasts it. -/
def execPowerOff (s : State) : Out := .next (s.coldPackage.modTail fun t => { t with power := false })

/-! ## Bring-up (R400-R405) -/

/-- The kind of die that the record names for a site, and its ORD: G-dies, then S-dies, then M-dies from site 0. -/
def Part.siteKind (p : Part) (site : Nat) : Option (Nat × Nat) :=
  if site < p.g then some (1, site)
  else if site < p.g + p.s then some (2, site - p.g)
  else if site < p.g + p.s + p.m then some (3, site - p.g - p.s)
  else none

/-- Bring-up stops with a failure code (R402, R403). -/
def State.bootFails (s : State) (code : Nat) : State := s.modTail fun t => { t with phase := 15, failCode := code }

/-- Phase 1: the ROM trains the links of every site. With no port of the Faceplate trained no die can be reached, and bring-up fails
(R400, R403; log entry 88). -/
def State.trainLinks (s : State) : State :=
  let t := ((List.range siteCount).foldl State.trainSite s).modTail fun t => { t with phase := 1 }
  if t.tail.ports.isEmpty then t.bootFails 0x01 else t

/-- The ROM's first work after a reset of the package. -/
def State.settleBoot (s : State) : State := if s.tail.power && s.tail.phase == 0 then s.trainLinks else s

/-- An EXPLORE reaches a die by this port: the Faceplate's, or the side link to a die that has answered (R400). -/
def Tail.reaches (t : Tail) (site port : Nat) : Bool :=
  if port = 0 then t.ports.contains site
  else t.sides.contains (min site (port - 1), max site (port - 1)) && t.found.any fun f => f.1 == port - 1

/-- R400: a die's first EXPLORE is answered, with its kind and its site, and the port it came by is recorded; later ones are ignored. -/
def execExplore (site : Nat) (answer : Nat × Nat) (s : State) : Out :=
  .next (
    if !s.tail.power ∨ s.tail.phase = 0 ∨ 3 ≤ s.tail.phase ∨ !s.tail.reaches site answer.2 then s
    else if s.tail.found.any fun f => f.1 == site then s
    else s.modTail fun t => { t with phase := 2, found := t.found ++ [(site, answer)] })

/-- The header's magic (R404). -/
def fwMagic : BitVec 64 := 0x56574F464D524444

/-- Both signatures verify, each under the key whose hash the one-time storage holds, and the body has its hash (R404). -/
def Tail.accepts (t : Tail) (x : FwImage) : Bool :=
  x.magic == fwMagic && x.zeros && x.edKey == t.edKey && x.mlKey == t.mlKey && x.hash == x.digest

/-- The refusal code of a firmware slot, 0 if it is accepted (R404, R405). -/
def Tail.slotCode (t : Tail) (x : FwImage) : Nat := if !t.accepts x then 0x10 else if x.svn < t.rollback then 0x11 else 0

/-- The die-table entry of a site (R401, R402). -/
def State.siteDie (s : State) (site : Nat) : Option Die :=
  (s.part.siteKind site).map fun k =>
    if (s.tail.found.any fun f => f.1 == site) && !s.tail.badDies.contains (site + 1) then
      { kind := k.1, state := 1, incarn := 1, site := site, ord := k.2, coresIn := coresOf k.1, cycleBase := s.stepNo }
    else { kind := k.1, state := 2, site := site, ord := k.2 }

/-- The die table (R401). -/
def State.dieTable (s : State) : Map Die :=
  (0, { kind := 0, state := 1, incarn := 1, cycleBase := s.stepNo })
    :: (List.range (s.part.g + s.part.s + s.part.m)).filterMap fun i => (s.siteDie i).map fun d => (i + 1, d)

/-- Some die of a kind is in service. -/
def hasKind (t : Map Die) (kind : Nat) : Bool := t.any fun p => p.2.kind == kind && p.2.state == 1

/-- Load and Ready, with the firmware of a slot (R400, R405). -/
def State.loadReady (s : State) (slot svn : Nat) : State :=
  let s := { s with dies := s.dieTable }
  let s := (mkeys s.dies).foldl (fun t d => if (t.di d).state = 1 then t.fillSystem d else t) s
  s.modTail fun t => { t with phase := 5, slot := some slot, fwSvn := svn, rollback := max t.rollback svn }

/-- R400, R402, R404, R405: verify, load, ready. -/
def execExploreEnd (s : State) : Out :=
  .next (
    let t := s.tail
    if !t.power ∨ t.phase = 0 ∨ 3 ≤ t.phase then s
    else if t.badDies.contains 0 then s.bootFails 0x30
    else if t.found.any fun f => (match s.part.siteKind f.1 with | some k => k.1 != f.2.1 | none => true) then s.bootFails 0x21
    else if !hasKind s.dieTable 2 || !hasKind s.dieTable 3 then s.bootFails 0x21
    else
      let a := t.slotCode t.fwA
      let b := t.slotCode t.fwB
      if a = 0 then s.loadReady 0 t.fwA.svn else if b = 0 then s.loadReady 1 t.fwB.svn else s.bootFails b)

/-- R402, R410: during bring-up it decides the die's entry; after a cold reset of the die, whether it returns, which it cannot without a
link (R408). -/
def execBringUpSelfTestDone (die : Nat) (pass : Bool) (s : State) : Out :=
  .next (
    if !s.tail.power then s
    else if s.tail.phase < 3 then
      s.modTail fun t => { t with badDies := if pass then t.badDies.filter (fun d => d != die) else (t.badDies ++ [die]).dedup }
    else
      let d := s.di die
      if !d.coldPending then s
      else if pass && s.linked d.site then
        -- a contained die rejoins with the next incarnation, skipping 0; what it sent before is stale (R347)
        let s := if d.state = 3 then
            { s with faceplate := s.faceplate.map fun m => if m.1 = die then (m.1, m.2.1, FpMsg.stale) else m }
          else s
        let s := s.modDi die fun d =>
          if d.state = 3 then
            { d with coldPending := false, state := 1, coresIn := coresOf d.kind, incarn := if d.incarn = 255 then 1 else d.incarn + 1 }
          else { d with coldPending := false }
        if (s.di die).state = 1 then (s.fillSystem die).wake else s
      else
        let s := s.modDi die fun d => { d with coldPending := false, state := 2, coresIn := 0 }
        if d.state = 1 then s.errorIrq else s)

/-! ## Partitions (R375, R377) -/

/-- Dies a W0 names. -/
def State.maskDies (s : State) (w0 : Word64) : List Nat :=
  (s.dies.filter fun p => (p.2.kind == 2 && bit w0 p.2.ord) || (p.2.kind == 1 && bit w0 (16 + p.2.ord))).map fun p => p.1

/-- A setting of partition n is good (R375). -/
def State.partGood (s : State) (n : Nat) (w0 : Word64) : Bool :=
  let p := s.pa n
  let ds := s.maskDies w0
  let named := popc (BitVec.ofNat 20 (field w0 19 0))
  field w0 30 20 == 0 && field w0 63 32 == 0 && field w0 15 0 != 0
  && ds.length == named && (ds.all fun d => (s.di d).state == 1)
  && (s.partitions.all fun q => q.1 == n || !bit q.2.w0 31 || (q.2.w0 &&& w0 &&& 0xFFFFF) == 0)
  && decide (64 ≤ p.w1.toNat ∧ p.w1.toNat ≤ 4096) && p.w2.toNat % 65536 == 0 && decide (2 ^ 24 ≤ p.w3.toNat)
  && decide (100 ≤ p.w4.toNat ∧ p.w4.toNat ≤ 1000000) && p.w5 == 0 && p.w6 == 0 && p.w7 == 0

/-- A write of EN = 1 to the word 0 of a partition that is not enabled (R375). -/
def State.enablePart (s : State) (n : Nat) (w0 : BitVec 64) : State :=
  if !s.up ∨ 16 ≤ n ∨ bit (s.pa n).w0 31 ∨ !bit w0 31 ∨ (s.pa n).want.isSome then s
  else if s.partGood n w0 then s.modPa n fun p => { p with w0 := w0 }
  else s

/-- R375. -/
def execPartitionEnable (n : Nat) (w0 : BitVec 64) (s : State) : Out := .next (s.enablePart n w0)

/-- Contexts of a partition that are loaded. -/
def State.ctxsIn (s : State) (n : Nat) : List Nat := (s.ctxs.filter fun p => p.2.state != .free && p.2.partition == n).map fun p => p.1

/-- Teams kept in place are saved whole (R377). -/
def State.saveWhole (s : State) (c : Nat) : State :=
  let xs := s.saves.filter fun x => x.info.ctx == c && x.inPlace
  let f (x : SavedTeam) : SavedTeam :=
    if x.info.ctx = c ∧ x.inPlace then { x with inPlace := false, bytes := s.keptBytes x.info true true } else x
  { s with saves := s.saves.map f, teams := s.teams.filter fun p => !(xs.any fun x => x.team == p.1) }

/-- Steps 2 and 3 of R377, once no context of the partition runs. -/
def State.applyWant (s : State) (n : Nat) : State :=
  match (s.pa n).want with
  | none => s
  | some w0 =>
    let cs := s.ctxsIn n
    if cs.any fun c => (s.cx c).state == .running || (s.cx c).state == .saving then s
    else
      let s := cs.foldl State.saveWhole s
      let s := (s.maskDies (s.pa n).w0).foldl State.warmDie s
      (s.modPa n fun p => { p with w0 := w0, want := none }).wake

/-- Another setting of a partition: its contexts are asked to save; the setting takes effect when they have. A change to masks that R375 refuses has
no effect; of a partition that is not enabled the masks are stored, as long as EN stays 0 (R375). -/
def State.changePart (s : State) (n : Nat) (w0 : BitVec 64) : State :=
  let old := (s.pa n).w0
  if !s.up ∨ 16 ≤ n ∨ (s.pa n).want.isSome ∨ old = w0 then s
  else if !bit old 31 then (if bit w0 31 then s else s.modPa n fun p => { p with w0 := w0 &&& 0xFFFFF })
  else if bit w0 31 && !s.partGood n w0 then s
  else
    let s := (s.ctxsIn n).foldl (fun t c => t.requestSave c none) s
    (s.modPa n fun p => { p with want := some w0 }).applyWant n

/-- R377. -/
def execPartitionReconfigure (n : Nat) (w0 : BitVec 64) (s : State) : Out := .next (s.changePart n w0)

end Sys2Proof.Machine
end

