-- ==== Sys2Proof/Machine/Errors.lean ====
section
/-! DEFINITION. Self-tests and the error log (R411-R413), power and droop (R414, R415), attestation (R407), format-region
control (R341) and the Vreldo links (R420). -/
namespace Sys2Proof.Machine

/-! ## Self-tests (R411, R412) -/

/-- A count that saturates. -/
def satInc (x : BitVec 32) : BitVec 32 := if x = BitVec.allOnes 32 then x else x + 1

/-- A team leaves its core with nothing kept: its groups, accesses and engine operations end. -/
def State.loseTeam (s : State) (id : Nat) : State :=
  let t := s.tm id
  let out (g : Nat) : Bool := t.groups.contains g
  let s := (s.copies.filter fun x => out x.gid).foldl (fun u x => u.releaseHeld 3 x.id) s
  let cids := (s.copies.filter fun x => out x.gid).map fun x => x.id
  let s := t.groups.foldl State.clearGroup s
  let s : State := { s with teams := mset {} s.teams id {}, ops := s.ops.filter (fun o => !out o.gid),
                            copies := s.copies.filter (fun x => !out x.gid), rays := s.rays.filter (fun x => !out x.gid),
                            passes := s.passes.map (fun p => { p with ops := p.ops.filter fun q => !out q.gid }),
                            reqs := s.reqs.filter fun q => !(q.who == 1 && cids.contains q.holder) }
  s.dropPins t.core t.ctx

/-- The teams of a context that go with a core: those on it, and the others of their clusters. -/
def State.lostWith (s : State) (c core : Nat) : List (Nat × Team) :=
  let here := s.teams.filter fun p => p.2.live && p.2.ctx == c && p.2.core == core && (!p.2.retired || p.2.inPlace)
  s.teams.filter fun p => p.2.live && (!p.2.retired || p.2.inPlace) && here.any fun q => q.2.launch == p.2.launch && q.2.cluster == p.2.cluster

/-- A core is lost (R377): the teams of each context that had one there go back to their last save, to be restored elsewhere, a cluster
as a whole; where one of them has no save, the context halts with CONTAIN (R346). -/
def State.coreLost (s : State) (core : Nat) : State :=
  let cs := ((s.teams.filter fun p => p.2.live && p.2.core == core && (!p.2.retired || p.2.inPlace)).map fun p => p.2.ctx).dedup
  cs.foldl (fun t c =>
    let ids := (t.lostWith c core).map fun p => p.1
    let xs := t.lastSaves.filter fun x => ids.contains x.team
    if xs.length = ids.length ∧ (ids.all fun i => !(t.tm i).inPlace) then
      let u := ids.foldl State.loseTeam t
      { u with saves := u.saves ++ xs, lastSaves := u.lastSaves.filter fun x => !ids.contains x.team }
    else t.haltCtx c { cause := cContain, core := core }) s

/-- A die of a kind has the unit (R5, R46, R326, R340, R412, R420): a bank of ABUF, WBUF or the accumulator store, an L2 slice, an LLC
slice, a core, a lane of a link port, one of the 12 channels of an M-die. -/
def unitExists (die kind number : Nat) : Bool :=
  let compute := die == 1 || die == 2
  let k := number % 128
  match kind with
  | 0 => compute && decide (number / 128 < coresOf die)
      && (if die = 1 then decide (k < 64) else decide (k < 48 ∨ (64 ≤ k ∧ k < 80) ∨ (96 ≤ k ∧ k < 112)))
  | 1 => compute && decide (number < 256)
  | 2 => die == 3 && decide (number < 64)
  | 3 => compute && decide (number < coresOf die)
  | 4 => die == 0 && decide (number < 512)
  | 5 => die == 3 && decide (number < 12)
  | _ => false

/-- The lines of an L2 slice leave it, their dirty sectors written back (R411). -/
def State.emptySlice (s : State) (die n : Nat) : State :=
  let mine (k : Nat) : Bool := k / 64 == die * 256 + n
  let lines := (s.l2Ways.filter fun p => mine p.1).flatMap fun p => p.2.lines.map fun w => w.2
  let s := (lines.flatMap lineSecs).foldl (fun t sec => t.evictSector die sec) s
  { s with l2Ways := s.l2Ways.filter fun p => !mine p.1 }

/-- A lane of a port is mapped out: the port goes on at half width, and none is left after the second one. Its traffic moves to the other
ports to the peer; with none of them left the peer is lost (R346, R411, R420). -/
def State.loseLane (s : State) (port : Nat) : State :=
  let p : Port := mget {} s.ports port
  let s := { s with ports := mset {} s.ports port { p with lanes := p.lanes - 1 } }
  if 1 < p.lanes ∨ ((List.range 8).any fun i => let q : Port := mget {} s.ports i; q.peer == p.peer && q.lanes != 0) then s
  else s.losePeer p.peer

/-- A unit is mapped out (R411): a channel takes its M-die with it, a core its teams. -/
def State.mapOut (s : State) (die kind number : Nat) : State :=
  let d := s.di die
  if d.mappedOut.contains (kind, number) then s
  else
    let s := s.modDi die fun x =>
      { x with mappedOut := x.mappedOut ++ [(kind, number)], unitsOut := x.unitsOut + 1,
               coresIn := if kind = 3 then x.coresIn - 1 else x.coresIn }
    match kind with
    | 1 => s.emptySlice die number
    | 3 => s.coreLost (64 * die + number)
    | 2 => s.llcMove die number
    | 4 => s.loseLane (number / 64)
    | 5 => s.contain die
    | _ => s

/-- R411: the test of a unit ends. Of a unit that is not under test the event is an error that the unit itself detects: its test starts
(R412; log entry 93). -/
def execSelfTestComplete (die kind number : Nat) (pass : Bool) (s : State) : Out :=
  .next (
    let d := s.di die
    if !s.up ∨ d.state ≠ 1 ∨ !unitExists d.kind kind number ∨ s.unitOut die kind number then s
    else if ¬ s.testing die kind number then s.startTest die kind number
    else
      let s := s.modDi die fun x =>
        { x with tests := x.tests.filter fun u => u != (kind, number),
                 errLast := errWord0 kind number (if pass then 1 else 2),
                 errSoft := if pass then satInc x.errSoft else x.errSoft,
                 errHard := if pass then x.errHard else satInc x.errHard }
      let s := if pass then s else s.mapOut die kind number
      (s.errorIrq).wake)

/-! ## Power (R414, R415) -/

/-- R415: what the monitor finds, an excess in units of 0.1 mV: above 10 mV an abnormal static drop, else the condition is gone. -/
def execDroopEvent (die : Nat) (excess : BitVec 16) (s : State) : Out :=
  .next (
    if !s.up ∨ (s.di die).state ≠ 1 then s
    else if excess.toNat ≤ 100 then s.modDi die fun d => { d with dropping := false }
    else (s.modDi die fun d =>
      { d with dropping := true, droop := BitVec.ofNat 64 (1 + 65536 * excess.toNat), clock := min d.clock 8 }).errorIrq)

/-- R414: the clock is 2.1 GHz x n / 16, n from 4 to 16, at most 8 under a droop cap. -/
def execPowerLimitAdjust (die n : Nat) (s : State) : Out :=
  .next (
    if (s.di die).state = 0 ∨ n < 4 ∨ 16 < n then s
    else s.modDi die fun d => { d with clock := if bit d.droop 0 then min n 8 else n })

/-! ## Attestation (R407) -/

/-- A write of 1 starts the signing over the nonce in the mailbox (R407). -/
def State.askReport (s : State) (value : BitVec 64) : State :=
  if !s.up ∨ value ≠ 1 then s
  else s.modTail fun t => { t with signing := true, signNonce := t.nonce, reportDone := false }

/-- R407. -/
def execAttestationRequest (value : BitVec 64) (s : State) : Out := .next (s.askReport value)

/-- The low n bytes of a number, lowest first. -/
def leBytes (v : Nat) : Nat → List Byte
  | 0 => []
  | n + 1 => BitVec.ofNat 8 v :: leBytes (v / 256) n

/-- IDENT0 (R403): the configuration number in BCD and the B-die size. -/
def State.ident0 (s : State) : Nat :=
  let p := s.part
  p.g * 4096 + p.s / 10 * 256 + p.s % 10 * 16 + p.m + if p.g ≤ 2 ∧ p.s ≤ 8 ∧ p.m ≤ 4 then 0 else 65536

/-- IDENT2 (R403). -/
def State.ident2 (s : State) : Nat := Config.romRevision.toNat + 2 ^ 32 * (s.tail.fwSvn % 2 ^ 32)

/-- A die-table entry as two words (R401). -/
def Die.words (d : Die) : Nat × Nat :=
  (d.kind + 4 * d.state + 256 * (d.incarn % 256) + 2 ^ 16 * (d.site % 256) + 2 ^ 24 * (d.ord % 16),
   d.unitsOut % 256 + 256 * (d.coresIn % 256))

/-- The measurement: SHA-384 of the body that runs (R407). -/
def Tail.measurement (t : Tail) : BitVec 384 :=
  match t.slot with
  | some 0 => t.fwA.digest
  | some _ => t.fwB.digest
  | none => 0

/-- The report (R407): nonce, identity, measurement, die table, then the two signatures, bytes of which nothing is known. -/
def State.makeReport (s : State) : List Byte :=
  leBytes s.tail.signNonce.toNat 32 ++ leBytes s.ident0 8 ++ leBytes Config.serialNumber.toNat 8 ++ leBytes s.ident2 8
  ++ leBytes s.tail.measurement.toNat 48
  ++ ((List.range 32).flatMap fun d => leBytes (s.di d).words.1 8 ++ leBytes (s.di d).words.2 8)
  ++ (List.range 3373).map fun i => Config.attestationByte (48 + 4096 * s.stepNo + i)

/-- R407. -/
def execAttestationReportDone (s : State) : Out :=
  .next (if s.tail.signing then s.modTail fun t => { t with signing := false, reportDone := true, report := s.makeReport } else s)

/-! ## Format regions (R341) -/

/-- Bytes of memory of one M-die: 96 GB. -/
def dieBytes : Nat := 96000000000

/-- The three ranges of a region: first byte and length. -/
def Region341.ranges (r : Region341) : List (Nat × Nat) := [(r.view, r.viewLen), (r.store, r.storeLen), (r.scale, r.scaleLen)]

def rangesMeet (a b : Nat × Nat) : Bool := decide (a.1 < b.1 + b.2 ∧ b.1 < a.1 + a.2)

/-- No two of a list of ranges rangesMeet. -/
def apart : List (Nat × Nat) → Bool
  | [] => true
  | a :: r => r.all (fun b => !rangesMeet a b) && apart r

/-- EN = 1 is accepted (R341). -/
def State.fmtGood (s : State) (die : Nat) (r : Region341) : Bool :=
  decide (r.sfmt ≤ 4 ∧ r.pfmt ≤ 2 ∧ 1 ≤ r.nblk) && (r.ranges.all fun x => decide (x.1 + x.2 ≤ dieBytes)) && apart r.ranges
  && (s.fmtOn die).all fun q => q.ranges.all fun x => r.ranges.all fun y => !rangesMeet x y

def State.setFmt0 (s : State) (die n : Nat) (en err : Bool) : State :=
  let w := (s.fmtWord die n 0) &&& ~~~ (0x41 : Word64)
  { s with formats := mset 0 s.formats ((die * 8 + n) * 4) (w ||| (if en then 1 else 0) ||| if err then 0x40 else 0) }

/-- A region is enabled, or refused (R341). -/
def State.enableFmt (s : State) (die n : Nat) : State :=
  if !s.up ∨ (s.di die).kind ≠ 3 ∨ (s.di die).state = 0 ∨ 8 ≤ n ∨ bit (s.fmtWord die n 0) 0 then s
  else if s.fmtGood die (s.fmtRegion die n) then s.setFmt0 die n true false
  else s.setFmt0 die n false true

/-- R341. -/
def execFormatRegionEnable (die n : Nat) (s : State) : Out := .next (s.enableFmt die n)

/-- Dirty view sectors are re-encoded, then every view sector is dropped (R341, R343). -/
def State.disableFmt (s : State) (die n : Nat) : State :=
  if !s.up ∨ (s.di die).kind ≠ 3 ∨ (s.di die).state = 0 ∨ 8 ≤ n ∨ !bit (s.fmtWord die n 0) 0 then s
  else
    let r := s.fmtRegion die n
    let mine (sec : Nat) : Bool := decide (r.view ≤ 64 * sec ∧ 64 * sec < r.view + r.viewLen)
    let dirty : List Nat := (s.views.filter fun p => p.1 / 2 ^ 52 == die).map fun p => p.1 % 2 ^ 52
    let held : List Nat := (s.l2.filter fun p => p.2.home == die && p.2.state != 0).map fun p => p.1 % 2 ^ 52
    let secs : List Nat := (dirty ++ held).filter mine
    (secs.dedup.foldl (fun t sec => t.reencode die sec r) s).setFmt0 die n false false

/-- R341, R343. -/
def execFormatRegionDisable (die n : Nat) (s : State) : Out := .next (s.disableFmt die n)

/-! ## Vreldo links (R320, R345, R347, R420) -/

/-- A peer's request joins the sector's queue at its home. -/
def State.peerAsks (s : State) (peer kind sec : Nat) : State :=
  { s with reqs := s.reqs ++ [{ kind := kind, die := switchDie, sector := sec, home := s.homeOf 0 (64 * sec),
                                cls := if (s.ownerOf sec).isSome then 3 else 2, who := 5, holder := peer, inc := s.peerInc peer }] }

/-- A peer writes a sector back: it answers a recall that it crosses (R337); of a sector that the peer owns the data go to the LLC; on an
OWN block that has an owner they merge there (R336, R338). -/
def State.peerWrites (s : State) (peer sec : Nat) (data : BitVec 512) (dirty : BitVec 64) : State :=
  let d := s.dirAt sec
  let home := s.homeOf 0 (64 * sec)
  let s := { s with filter := s.filter.erase (sec, peer) }
  if d.busy.isSome then
    { s with recalls := updWhere s.recalls (Recall.awaits switchDie sec) (Recall.give (some data) dirty 0) }
  else if d.state = 2 ∧ d.owner = switchDie then
    let s := s.homeMerge home sec dirty data
    (s.setDir sec { s.dirAt sec with state := 0 }).wake
  else if (s.ownerOf sec).isSome then (s.homeMerge home sec dirty data).wake
  else s

/-- The switch's filter evicts a sector: it is recalled from the dies of this package, if a peer homes it; of local memory no peer holds
it in S any more (R345). -/
def State.filterEvicts (s : State) (sec : Nat) : State :=
  let home := s.homeOf 0 (64 * sec)
  if 32 ≤ home then { s with reqs := s.reqs ++ [{ kind := 8, die := switchDie, sector := sec, home := home, who := 6 }] }
  else if (s.dirAt sec).state = 1 then { s with filter := s.filter.filter fun p => p.1 != sec }
  else s

/-- The switch answers a recall (R345). -/
def State.peerAnswers (s : State) (sec : Nat) (data : Option (BitVec 512)) (dirty : BitVec 64) : State :=
  let inval := s.recalls.any fun r => r.inval && r.awaits switchDie sec
  { s with recalls := updWhere s.recalls (Recall.awaits switchDie sec) (Recall.give data dirty 0),
           filter := if inval then s.filter.filter fun p => p.1 != sec else s.filter }

/-- A peer joins, or returns with its next incarnation, skipping 0 (R347); the port leads to it. -/
def State.peerJoins (s : State) (port peer : Nat) : State :=
  let p : Port := mget {} s.ports port
  let s := { s with ports := mset {} s.ports port { p with peer := peer } }
  match mget none s.peers peer with
  | none => s.setPeer peer {}
  | some x => if x.up then s else s.setPeer peer { up := true, incarn := if x.incarn = 255 then 1 else x.incarn + 1 }

/-- What an accepted flit does; what is answered to this package, and management, is kept as it came. -/
def State.takeMsg (s : State) (port channel peer : Nat) : LinkMsg → State
  | .request kind sec => if kind ≤ 2 then s.peerAsks peer kind sec else s
  | .writeBack sec data dirty => s.peerWrites peer sec data dirty
  | .evict sec => s.filterEvicts sec
  | .answer sec data dirty => s.peerAnswers sec data dirty
  | .write a bs => if a < 2 ^ 48 then s.hostSend (.write a bs) else s
  | .reduce a op ty v => if a < 2 ^ 48 ∧ atomType op ty then s.hostSend (.reduce a op ty v) else s
  | .join => s.peerJoins port peer
  | .other payload =>
    let p : Port := mget {} s.ports port
    { s with ports := mset {} s.ports port { p with received := p.received ++ [(channel, payload)] } }

/-- A port is retrained: a test of its links (R411, R420). -/
def State.retrain (s : State) (port : Nat) : State :=
  let p : Port := mget {} s.ports port
  State.startTest { s with ports := mset {} s.ports port { p with retrains := p.retrains + 1 } } 0 4 (64 * port + (2 - p.lanes))

/-- R320, R420: a flit with a bad CRC is replayed, in its channel; when 16 replays of it have failed, the port is retrained. One that has
been applied already is dropped, and so is a message of another incarnation of the peer (R347). -/
def execLinkFlit (port channel : Nat) (seq : BitVec 16) (crcOk : Bool) (payload : Flit) (s : State) : Out :=
  .next (
    let p : Port := mget {} s.ports port
    let bad := (p.replays[channel]?).getD 0
    let put (q : Port) : State := { s with ports := mset {} s.ports port q }
    if !s.up ∨ 8 ≤ port ∨ 6 ≤ channel ∨ p.lanes = 0 ∨ (s.di 0).tests.any (fun t => t.1 == 4 && t.2 / 64 == port) then s
    else if !crcOk then
      if 16 ≤ bad then (put { p with replays := p.replays.set channel 0 }).retrain port
      else put { p with replays := p.replays.set channel (bad + 1) }
    else
      let q := { p with replays := p.replays.set channel 0 }
      if seq.toNat ≠ (p.next[channel]?).getD 0 then put q
      else
        let t := put { q with next := p.next.set channel ((seq.toNat + 1) % 65536) }
        if payload.msg = .join ∨ (t.peerUp payload.peer ∧ payload.inc = t.peerInc payload.peer) then t.takeMsg port channel payload.peer payload.msg
        else t)

end Sys2Proof.Machine
end

