-- ==== Sys2Proof/Machine/HostWrite.lean ====
section
/-! DEFINITION. What a write of a register by the host does (R399): those that only store, and those whose fields ask for an operation
that has an event of its own. -/
namespace Sys2Proof.Machine

/-- A write of CTXCMD (R350). -/
def State.writeCtxcmd (s : State) (v : Word64) : State :=
  if !bit v 63 then s
  else if field v 7 6 != 0 || field v 62 10 != 0 || decide (2 ≤ field v 9 8) then s.modTail fun t => { t with ctxErr := true }
  else if bit v 8 then s.releaseCtx (field v 5 0)
  else s.loadCtx (field v 5 0)

/-- A write to the page of a context that answers: doorbells, PRQRESP, INVADDR, INVCTL (R352, R384, R389). -/
def State.ctxPageWrite (s : State) (fn c o : Nat) (v : Word64) : State :=
  if !s.ownsCtx fn c then s
  else if o < 0x80 ∧ o % 8 = 0 then s.ringDoorbell fn c (o / 8) (v.setWidth 32)
  else if o = 0x80 then s.answerPage c (fun r => !r.host && r.tag == BitVec.ofNat 16 (field v 15 0)) (bit v 16)
  else if o = 0x100 then s.modCx c fun x => { x with invAddr := BitVec.ofNat 64 (field v 63 16 * 65536) }
  else if o = 0x108 ∧ bit v 63 then
    s.invalidate c (if bit v 0 then none else some (field (s.cx c).invAddr 55 16 * 65536))
  else s

/-- A write to a function's BAR 0. -/
def State.bar0Write (s : State) (fn offset : Nat) (v : Word64) : State :=
  if 0x10000 ≤ offset then s.ctxPageWrite fn ((offset - 0x10000) / 0x1000) ((offset - 0x10000) % 0x1000) v
  else if offset = 0x60 then s.clearIrq fn v
  else if fn ≠ 0 then s
  else if offset = 0x30 then s.putCtxtab v
  else if offset = 0x38 then s.writeCtxcmd v
  else if offset = 0x48 then s.modFn 0 fun f => { f with window := BitVec.ofNat 64 (field v 55 28 * 2 ^ 28) }
  else if 0x408 ≤ offset ∧ offset < 0x500 ∧ offset % 8 = 0 then
    s.modFn ((offset - 0x400) / 8) fun f => { f with window := BitVec.ofNat 64 (field v 0 0 + field v 55 26 * 2 ^ 26) }
  else s

/-- A write of RESETCTL (R409): die-table index, cold, package-wide, start. -/
def State.writeResetctl (s : State) (v : Word64) : State :=
  if !bit v 63 then s
  else match bit v 9, bit v 8 with
    | true, true => s.askReset false State.coldPackage
    | true, false => s.askWarmPackage
    | false, true => s.askCold (field v 7 0)
    | false, false => s.askWarm (field v 7 0)

/-- A write of a word of a format region (R341): the fields while EN = 0, then EN. -/
def State.writeFmt (s : State) (d n w : Nat) (v : Word64) : State :=
  let w0 := s.fmtWord d n 0
  if bit w0 0 then (if w = 0 ∧ !bit v 0 then s.disableFmt d n else s)
  else
    let keep : Nat := match w with
      | 0 => field v 5 1 * 2 + field w0 6 6 * 64 + field v 63 16 * 65536
      | 1 => field v 31 0
      | _ => field v 63 8 * 256
    let t := { s with formats := mset 0 s.formats ((d * 8 + n) * 4 + w) (BitVec.ofNat 64 keep) }
    if w = 0 ∧ bit v 0 then t.enableFmt d n else t

/-- A write of a word of a partition (R375, R377). -/
def State.writePart (s : State) (n w : Nat) (v : Word64) : State :=
  match w with
  | 0 => if bit v 31 && !bit (s.pa n).w0 31 then s.enablePart n v else s.changePart n v
  | 1 => s.modPa n fun p => { p with w1 := v }
  | 2 => s.modPa n fun p => { p with w2 := v }
  | 3 => s.modPa n fun p => { p with w3 := v }
  | 4 => s.modPa n fun p => { p with w4 := v }
  | 5 => s.modPa n fun p => { p with w5 := v }
  | 6 => s.modPa n fun p => { p with w6 := v }
  | _ => s.modPa n fun p => { p with w7 := v }

/-- A write to the request counters of a die (R333). -/
def State.writeCounts (s : State) (d o : Nat) (v : Word64) : State :=
  s.modDi d fun y => match o with
    | 0x400 => { y with cntctl := v &&& 0xF }
    | 0x408 => { y with lreq := v.setWidth 48 }
    | 0x410 => { y with xreq := v.setWidth 48 }
    | 0x418 => { y with staleDrop := v.setWidth 32 }
    | _ => y

/-- A write to the B-die's own registers. -/
def State.bDieWrite (s : State) (o : Nat) (v : Word64) : State :=
  if o = 0x3000 then s.writeResetctl v
  else if 0x3800 ≤ o ∧ o < 0x3820 ∧ o % 8 = 0 then
    let i := (o - 0x3800) / 8
    s.modTail fun t => { t with nonce := (t.nonce &&& ~~~ ((BitVec.allOnes 64).setWidth 256 <<< (64 * i))) ||| (v.setWidth 256 <<< (64 * i)) }
  else if o = 0x3820 then s.askReport v
  else if 0x8000 ≤ o ∧ o < 0x8400 ∧ o % 8 = 0 then s.writePart ((o - 0x8000) / 64) (o % 64 / 8) v
  else s

/-- A write to the window of die d in the PF's BAR 2. -/
def State.bar2Write (s : State) (d o : Nat) (v : Word64) : State :=
  let x := s.di d
  if x.state = 0 then s
  else if (x.kind = 1 ∨ x.kind = 2) ∧ o < 0x800 then s.writeCounts d o v
  else if x.kind = 3 ∧ 0x1000 ≤ o ∧ o < 0x1100 ∧ o % 8 = 0 then s.writeFmt d ((o - 0x1000) / 32) (o % 32 / 8) v
  else if d = 0 then s.bDieWrite o v
  else s

/-- 64-bit word i of a 384-bit value. -/
def put384 (x : BitVec 384) (i : Nat) (v : Word64) : BitVec 384 :=
  (x &&& ~~~ ((BitVec.allOnes 64).setWidth 384 <<< (64 * i))) ||| (v.setWidth 384 <<< (64 * i))

/-- Eight bytes of a firmware image written at an offset: the header's bytes 0-63 as R404 lays them out; from 64, 112 and 168 on the
hashes that stand for the two signatures and the body, and at 160 whether the zero bytes are zero (log entry 9). -/
def putImage (x : FwImage) (o : Nat) (v : Word64) : FwImage :=
  if o % 8 ≠ 0 then x
  else if o = 0 then { x with magic := v }
  else if o = 8 then { x with svn := v.toNat % 2 ^ 32, len := v.toNat / 2 ^ 32 }
  else if o < 64 then { x with hash := put384 x.hash ((o - 16) / 8) v }
  else if o < 112 then { x with edKey := put384 x.edKey ((o - 64) / 8) v }
  else if o < 160 then { x with mlKey := put384 x.mlKey ((o - 112) / 8) v }
  else if o = 160 then { x with zeros := bit v 0 }
  else if o < 216 then { x with digest := put384 x.digest ((o - 168) / 8) v }
  else x

/-- An update is written to the slot that does not run (R406). -/
def Tail.update (t : Tail) (o : Nat) (v : Word64) : Tail :=
  match t.slot with
  | some 0 => { t with fwB := putImage t.fwB o v }
  | some _ => { t with fwA := putImage t.fwA o v }
  | none => t

/-- R399. BAR number 7 stands for a VF's part of the PCIe configuration space, where a 1 in bit 0 sets its VF Enable (R403, R416; log
entry 94), and BAR number 8 of the PF for the flash, where an update is written (R406; log entry 9). -/
def execRegisterWrite (fn bar offset : Nat) (value : BitVec 64) (s : State) : Out :=
  .next (
    if !s.up then s
    else if bar = 7 then (if 1 ≤ fn ∧ fn ≤ 31 ∧ bit value 0 then s.modFn fn fun f => { f with vfEn := true } else s)
    else if bar = 8 ∧ fn = 0 then s.modTail fun t => t.update offset value
    else if !s.fnUp fn then s
    else if bar = 0 then s.bar0Write fn offset value
    else if bar = 2 ∧ fn = 0 ∧ offset < 2 ^ 25 then s.bar2Write (offset / 2 ^ 20) (offset % 2 ^ 20) value
    else s)

end Sys2Proof.Machine
end

