-- ==== Sys2Proof/Machine/Matrix.lean ====
section
/-! DEFINITION. Major 0x21: the matrix engine (R223-R235) and its passes. -/
namespace Sys2Proof.Machine

/-! ## Operand maps (R230-R232) -/

/-- Word i of an operand map. -/
def mapWord (m : BitVec 256) (i : Nat) : Word64 := (m >>> (64 * i)).setWidth 64

/-- The layout of R230 is kept. -/
def mapOk (m : BitVec 256) : Bool :=
  let w0 := mapWord m 0
  let w1 := mapWord m 1
  let w2 := mapWord m 2
  let tail := mapWord m 3 == 0 && field w2 63 32 == 0 && field w0 7 2 == 0 && field w2 15 0 != 0
  match field w0 1 0 with
  | 1 => tail && field w0 63 32 == 0 && field w1 63 24 == 0 && field w1 1 0 == 0 && field w2 31 16 == 0
  | 2 =>
    tail && field w0 47 32 != 0 && field w0 63 48 != 0 && field w1 15 0 != 0 && field w1 19 16 != 0 && field w1 23 20 != 0
      && field w1 27 24 != 0 && field w1 31 28 != 0 && field w1 35 32 != 0 && field w1 39 36 != 0 && field w1 63 48 != 0
      && field w2 17 16 == 0
  | _ => false

def isUnfold (m : BitVec 256) : Bool := field (mapWord m 0) 1 0 == 2
def mapBase (m : BitVec 256) : Nat := field (mapWord m 0) 31 8
def mapPitch (m : BitVec 256) : Nat := field (mapWord m 1) 23 0
def mapRows (m : BitVec 256) : Nat := field (mapWord m 2) 15 0
def mapH (m : BitVec 256) : Nat := field (mapWord m 0) 47 32
def mapW (m : BitVec 256) : Nat := field (mapWord m 0) 63 48
def mapC (m : BitVec 256) : Nat := field (mapWord m 1) 15 0
def mapPstride (m : BitVec 256) : Nat := field (mapWord m 2) 31 16

/-- K elements of a chunk (R223). -/
def kcOf (ty : Nat) : Nat := 256 / elW ty

/-- An element of an operand: the byte that holds it, and whether it is the high nibble of a 4-bit type. -/
abbrev Elem := Nat × Bool

/-- Element n of a packed row of w-bit elements that starts at a byte. -/
def elemOf (w at' n : Nat) : Elem := (at' + n * w / 8, w == 4 && n % 2 == 1)

/-- A(r, k) of an unfold map, none for padding (R232). -/
def unfoldAt (m : BitVec 256) (w kc r k : Nat) : Option Elem :=
  let w1 := mapWord m 1
  let c := mapC m
  let cp := (c + kc - 1) / kc * kc
  let ow := field w1 63 48
  let ch := k % cp
  let pos := k / cp
  let kw := field w1 23 20
  let y : Int := (r / ow * field w1 27 24 : Nat) - (field w1 43 40 : Int) + (pos / kw * field w1 35 32 : Nat)
  let x : Int := (r % ow * field w1 31 28 : Nat) - (field w1 47 44 : Int) + (pos % kw * field w1 39 36 : Nat)
  if field (mapWord m 2) 15 0 * ow ≤ r ∨ field w1 19 16 * kw ≤ pos ∨ c ≤ ch ∨ y < 0 ∨ (mapH m : Int) ≤ y ∨ x < 0
      ∨ (mapW m : Int) ≤ x then none
  else some (elemOf w (mapBase m + morton (mapW m) (mapH m) x.toNat y.toNat * mapPstride m) ch)

/-- A(r, k) of a map, none for padding (R231, R232). -/
def mapAt (m : BitVec 256) (w kc r k : Nat) : Option Elem :=
  if isUnfold m then unfoldAt m w kc r k
  else if mapRows m ≤ r then none
  else some (elemOf w (mapBase m + r * mapPitch m) k)

/-- The A range a quarter-op reaches: first byte, rows, their distance and length (R231, R232). -/
def mapRange (m : BitVec 256) (ty row0 k0 nch : Nat) : Nat × Nat × Nat × Nat :=
  if isUnfold m then (mapBase m, 1, 0, mortonSize (mapW m) (mapH m) * mapPstride m)
  else
    let lo := k0 * kcOf ty * elW ty / 8
    let hi := (k0 + nch + 1) * kcOf ty * elW ty / 8
    (mapBase m + row0 * mapPitch m + lo, min 16 (mapRows m - row0), mapPitch m, hi - lo)

/-! ## OMAP -/

/-- R230. -/
def execOmap (e : Bool) (n : BitVec 3) (a : BitVec 5) (s : State) : Out :=
  issue s fun s =>
    let k := s.cur
    if 29 ≤ a.toNat then s.undef
    else
      let rs := if a = 0 then [] else (List.range 4).map fun i => a.toNat + i
      if s.stalled k { ss := rs } then s.stall
      else
        let m : BitVec 256 := BitVec.ofNat 256 (rs.zipIdx.foldl (fun acc p => acc + (s.sget k p.1).toNat * 2 ^ (64 * p.2)) 0)
        if a ≠ 0 ∧ ¬ mapOk m then s.undef
        else if s.inRegion then s.barred abEngine 0x21
        else ({ s with omap := mset 0 s.omap (s.cg * 8 + n.toNat) m }).advance e

/-! ## Issue (R224, R227-R229) -/

/-- The types of a form (R223). -/
def matTypes (sparse : Bool) : List Nat := if sparse then [6, 7, 8, 9, 10, 11] else [6, 7, 8, 9, 10, 11, 12, 13, 14]

/-- Bytes of a B chunk. -/
def chunkBytes (sparse : Bool) : Nat := if sparse then 320 else 512

/-- One quarter of an issuing MMA (R224). -/
structure Quarter where
  tile : Nat
  ovw : Bool
  map : BitVec 256
  row0 : Nat
  k0 : Nat
  boff : Nat
  nch : Nat
  lanes : BitVec 32
  deriving DecidableEq, Repr

/-- The quarters with a lane in G and a map that is not zero (R35, R224). -/
def State.quarters (s : State) (d a b : Nat) : List Quarter :=
  (List.range 4).filterMap fun q =>
    let m := s.guard s.cur &&& ((0xFF : BitVec 32) <<< (8 * q))
    let x (r : Nat) : Nat := (s.crossGet s.cur r (8 * q)).toNat
    let map := mget 0 s.omap (s.cg * 8 + x a % 8)
    if m = 0 ∨ map = 0 then none
    else some { tile := x d % 2 ^ 16, ovw := (x d).testBit 16, map := map, row0 := x a / 2 ^ 4 % 2 ^ 16, k0 := x a / 2 ^ 20,
                boff := x b % 2 ^ 20, nch := x b / 2 ^ 20 % 256, lanes := m }

/-- Active rows (R224). -/
def activeRows (m : BitVec 32) (q : Nat) : BitVec 16 := ofBits 16 fun i => bit m (8 * q + i / 2)

/-- The first check of R227 a quarter fails. -/
def State.quarterCheck (s : State) (sparse : Bool) (q : Quarter) : Option Nat :=
  let tm := s.team
  let bhi := q.boff + (q.nch + 1) * chunkBytes sparse
  let (alo, rows, pitch, len) := mapRange q.map s.ty q.row0 q.k0 q.nch
  let ahi := alo + (rows - 1) * pitch + len
  if !tm.ownsTiles q.tile 1 then some cAccrange
  else if q.boff % (if sparse then 64 else 512) ≠ 0 then some cAlign
  else if q.boff < tm.wbufOff ∨ tm.wbufOff + tm.wbufSize < bhi then some cBufrange
  else if isUnfold q.map ∧ 8 * mapPstride q.map < mapC q.map * elW s.ty then some cBufrange
  else if 0 < rows ∧ 0 < len ∧ (alo < tm.abufOff ∨ tm.abufOff + tm.abufSize < ahi ∨ s.abufLeft s.cc < ahi) then some cBufrange
  else none

/-- Quarter-ops in a core's matrix queue. -/
def State.queued (s : State) (core : Nat) : Nat :=
  (s.passes.filter fun p => p.core == core).foldl (fun n p => n + p.ops.length) 0

/-- The oldest pass a quarter-op may join (R228). -/
def joinAt (now core : Nat) (sparse : Bool) (ty : Nat) (q : Quarter) : List MPass → Option Nat
  | [] => none
  | p :: rest =>
    if p.core == core && !p.started && decide (p.ops.length < 4) && p.boff == q.boff && p.nch == q.nch && p.sparse == sparse
        && p.ty == ty && decide (cyclesIn (dieOf core) p.opened (now - p.opened) ≤ 4)
        && !(rest.any fun x => x.core == core && x.ops.any fun o => o.tile == q.tile) then some p.id
    else joinAt now core sparse ty q rest

/-- Queue one quarter-op (R228, R229). -/
def State.enqueue (s : State) (sparse : Bool) (q : Quarter) : State :=
  let (alo, rows, pitch, len) := mapRange q.map s.ty q.row0 q.k0 q.nch
  let o : QOp := { id := s.nextId, gid := s.cg, team := s.grp.team, tile := q.tile, ovw := q.ovw, map := q.map, row0 := q.row0,
                   k0 := q.k0, rows := activeRows q.lanes (lowLane q.lanes / 8), lanes := q.lanes, after := s.storesOf s.cur,
                   alo := alo, arows := rows, apitch := pitch, alen := len, blo := q.boff,
                   bhi := q.boff + (q.nch + 1) * chunkBytes sparse }
  let p : MPass := { id := s.nextId, core := s.cc, sparse := sparse, boff := q.boff, nch := q.nch, ty := s.ty, ops := [o],
                     opened := s.stepNo }
  let passes := match joinAt s.stepNo s.cc sparse s.ty q s.passes with
    | some id => updWhere s.passes (fun x => x.id == id) fun x => { x with ops := x.ops ++ [o] }
    | none => s.passes ++ [p]
  ({ s.fresh with passes := passes }).modGr s.cg fun g =>
    { g with unclosed := g.unclosed ++ [o.id], unclosedTiles := (g.unclosedTiles ++ [o.tile]).dedup }

/-- MMA and MMAS (R224-R229). -/
def State.mma (s : State) (e sparse : Bool) (d a b : Nat) : State :=
  if !(matTypes sparse).contains s.ty then s.undef
  else if s.inRegion then s.barred abEngine 0x21
  else if s.stalled s.cur { sv := [d, a, b], cross := true } then s.stall
  else
    let qs := s.quarters d a b
    match qs.findSome? fun q => (s.quarterCheck sparse q).map fun c => (q, c) with
    | some (q, c) => s.trap s.cur (s.guardTrap c q.lanes)
    | none =>
      if 256 < s.queued s.cc + qs.length then s.stall
      else (qs.foldl (fun t q => t.enqueue sparse q) s).advance e

/-- R225. -/
def execMma (e : Bool) (d a b : BitVec 6) (s : State) : Out := issue s fun s => s.mma e false d.toNat a.toNat b.toNat

/-- R226. -/
def execMmas (e : Bool) (d a b : BitVec 6) (s : State) : Out := issue s fun s => s.mma e true d.toNat a.toNat b.toNat

/-! ## MFENCE and MERRQ (R233, R235) -/

/-- R233. -/
def execMfence (e : Bool) (d : BitVec 5) (s : State) : Out :=
  issue s fun s =>
    if s.inRegion then s.barred abEngine 0x21
    else if 62 ≤ s.grp.tbc then s.stall
    else s.form e { ds := [d.toNat] } .conc fun s =>
      let n := (s.grp.batchCount + 1) % 2 ^ 16
      let s := s.modGr s.cg fun g =>
        { g with batchCount := n, tbc := if g.unclosed.isEmpty then g.tbc else g.tbc + 1,
                 batches := g.batches ++ [{ num := n, ops := g.unclosed, tiles := g.unclosedTiles, flags := g.unclosedFlags }],
                 unclosed := [], unclosedTiles := [], unclosedFlags := [] }
      s.sset s.cur d.toNat (BitVec.ofNat 64 n)

/-- What MERRQ writes, and the log it leaves. -/
def State.merrq (s : State) : State × Nat :=
  let core := s.cc
  let c := s.grp.ctx
  let co := s.co core
  let extra := (if s.team.me then 2 ^ 61 else 0)
  let mark := if co.marks.contains c then 2 ^ 62 else 0
  let s := s.modCo core fun x => { x with marks := x.marks.filter fun i => i != c }
  match co.errlog.find? fun x => x.ctx == c with
  | none => (s, extra + mark)
  | some x => (s.modCo core fun y => { y with errlog := y.errlog.erase x },
               (x.word ||| BitVec.ofNat 64 mark).toNat + extra)

/-- R235. -/
def execMerrq (e : Bool) (d : BitVec 5) (s : State) : Out :=
  issue s fun s =>
    if s.inRegion then s.barred abEngine 0x21
    else s.form e { ds := [d.toNat] } .conc fun s =>
      let (t, v) := s.merrq
      t.sset t.cur d.toNat (BitVec.ofNat 64 v)

/-! ## Products (R225, R226) -/

/-- A stored element's code. -/
def State.elemGet (s : State) (core w : Nat) (wb : Bool) (x : Elem) : Nat :=
  let v := s.flatRead (if wb then .wbuf core x.1 else .abuf core x.1) (max 1 (w / 8))
  if x.2 then v / 16 else v % 2 ^ w

/-- The terms of column j of chunk c: k within the chunk, and the B element. -/
def State.terms (s : State) (p : MPass) (j c : Nat) : List (Nat × Elem) :=
  let w := elW p.ty
  let kc := kcOf p.ty
  let at' := p.boff + c * chunkBytes p.sparse
  if p.sparse then
    let o := at' + 256 + 4 * j
    let meta' := if s.poisoned p.core 1 o 4 then Config.metadataOpen p.id o else s.flatRead (.wbuf p.core o) 4
    (List.range (kc / 2)).map fun t => (4 * (t / 2) + meta' / 2 ^ (2 * t) % 4, elemOf w (at' + 16 * j) t)
  else (List.range kc).map fun k => (k, elemOf w (at' + 32 * j) k)

/-- An operand element holds an error: space 0 ABUF, 1 WBUF. -/
def State.elemBad (s : State) (core w space : Nat) (x : Elem) : Bool := s.poisoned core space x.1 (max 1 (w / 8))

/-- The products of row r and column j in chunk c: k within the chunk, A and B elements; padding is left out. -/
def State.products (s : State) (p : MPass) (q : QOp) (i j c : Nat) : List (Nat × Elem × Elem) :=
  let kc := kcOf p.ty
  (s.terms p j c).filterMap fun t =>
    (mapAt q.map (elW p.ty) kc (q.row0 + i) ((q.k0 + c) * kc + t.1)).map fun a => (t.1, a, t.2)

/-- The sum of a chunk's products and the accumulator, rounded once (R225, R161). -/
def chunkSum (ty : Nat) (ps : List (Nat × Nat)) (acc : Nat) : FRes :=
  let c : FCtx := { f := .fp32, mode := 0, sat := false, ftz := false }
  match fmtOf ty with
  | some f => c.dot f ps acc
  | none =>
    if Fmt.fp32.isNan acc ∨ Fmt.fp32.isInf acc then c.dot .fp16 [] acc
    else
      let sum := ps.foldl (fun x p => x + elInt (elSigned ty) (elW ty) p.1 * elInt (elSigned ty) (elW ty) p.2) (0 : Int)
      c.roundZ (Fmt.fp32.neg acc && ps.isEmpty) (Fmt.fp32.signed acc * 2 ^ 149 + sum * 2 ^ 298) 298

/-- One element of D and its flags: chunks in increasing order, products with a bad element left out (R225, R234). -/
def State.dotElem (s : State) (p : MPass) (q : QOp) (i j : Nat) : FRes :=
  let w := elW p.ty
  let old := if q.ovw ∨ s.poison.contains (poisonKey p.core 2 (256 * q.tile + 16 * i + j)) then 0
    else (s.tileGet p.core q.tile (16 * i + j)).toNat
  (List.range (p.nch + 1)).foldl (fun (acc : FRes) c =>
    let ps := (s.products p q i j c).filter fun t => !(s.elemBad p.core w 0 t.2.1 || s.elemBad p.core w 1 t.2.2)
    let r := chunkSum p.ty (ps.map fun t => (s.elemGet p.core w false t.2.1, s.elemGet p.core w true t.2.2)) acc.1
    (r.1, acc.2 ||| r.2)) (old, 0)

/-- The positions of D a quarter-op writes. -/
def QOp.cells (q : QOp) : List (Nat × Nat) :=
  ((List.range 16).filter fun i => bit q.rows i).flatMap fun i => (List.range 16).map fun j => (i, j)

/-! ## Errors (R234) -/

def BadElem.same (x y : BadElem) : Bool :=
  x.src == y.src && x.off == y.off && x.hi == y.hi && (x.src != 2 || (x.kpos == y.kpos && x.idx == y.idx))

/-- The bad elements a quarter-op reads, each once. -/
def State.badElems (s : State) (p : MPass) (q : QOp) : List BadElem :=
  if s.poison.isEmpty then []
  else
    let w := elW p.ty
    let all := q.cells.flatMap fun ij =>
      (if !q.ovw && s.poison.contains (poisonKey p.core 2 (256 * q.tile + 16 * ij.1 + ij.2)) then
        [({ src := 2, off := q.tile, hi := false, kpos := ij.2, idx := ij.1 } : BadElem)] else [])
      ++ (List.range (p.nch + 1)).flatMap fun c => (s.products p q ij.1 ij.2 c).flatMap fun t =>
        (if s.elemBad p.core w 0 t.2.1 then [({ src := 1, off := t.2.1.1, hi := t.2.1.2, kpos := t.1, idx := ij.1 } : BadElem)] else [])
        ++ (if s.elemBad p.core w 1 t.2.2 then [({ src := 0, off := t.2.2.1, hi := t.2.2.2, kpos := t.1, idx := ij.2 } : BadElem)] else [])
    all.foldl (fun acc x => if acc.any (BadElem.same x) then acc else acc ++ [x]) []

/-- Add an entry to a core's error log (R234). -/
def State.logErr (s : State) (core c : Nat) (w : Word64) : State :=
  s.modCo core fun x =>
    if x.errlog.length < 16 then { x with errlog := x.errlog ++ [{ ctx := c, word := w }] }
    else
      match (x.errlog.zipIdx.filter fun p => p.1.ctx == c).getLast? with
      | some (_, i) => { x with errlog := x.errlog.modify i fun y => { y with word := y.word ||| ((1 : Word64) <<< 62) } }
      | none => { x with marks := (x.marks ++ [c]).dedup }

/-- The entry of an element (R235), less ME. -/
def errWord (x : BadElem) (tile uses : Nat) : Word64 :=
  BitVec.ofNat 64 (x.off % 2 ^ 20 + 2 ^ 20 * (x.kpos % 64) + 2 ^ 26 * (x.idx % 16) + 2 ^ 30 * x.src + 2 ^ 32 * (tile % 2 ^ 16)
    + 2 ^ 48 * min 63 uses + 2 ^ 63)

/-- Log the bad elements that the quarter-ops of a pass read, one entry for each element once the whole pass has run (R234). -/
def State.logBad (s : State) (core : Nat) (each : List (BadElem × Nat × Nat)) : State :=
  let first := each.foldl (fun (acc : List (BadElem × Nat × Nat)) x => if acc.any fun y => y.1.same x.1 then acc else acc ++ [x]) []
  let s := first.foldl (fun t x =>
    t.logErr core (t.tm x.2.2).ctx (errWord x.1 x.2.1 (each.filter fun y => y.1.same x.1).length)) s
  first.foldl (fun t x => if x.1.src = 2 then t.detect core 2 (256 * x.1.off) else t.detect core (1 - x.1.src) x.1.off) s

/-- Correctable errors in what a quarter-op reads are corrected in place and noted (R322, R411). -/
def State.correctReads (s : State) (p : MPass) (q : QOp) : State :=
  if s.soft.isEmpty then s
  else
    let w := elW p.ty
    let n := max 1 (w / 8)
    let s := if q.ovw then s else s.correctTile p.core q.tile
    let s := (List.range (p.nch + 1)).foldl (fun t c => if p.sparse then t.correct p.core 1 (p.boff + c * chunkBytes true + 256) 64 else t) s
    let es := q.cells.flatMap fun ij => (List.range (p.nch + 1)).flatMap fun c => (s.products p q ij.1 ij.2 c).map fun t => (t.2.1.1, t.2.2.1)
    es.foldl (fun t x => (t.correct p.core 0 x.1 n).correct p.core 1 x.2 n) s

/-! ## A pass -/

/-- A copy that came before, or a store of its own split, has still to write a byte the quarter-op reads (R229,
R318). -/
def State.opHeld (s : State) (core : Nat) (q : QOp) : Bool :=
  (s.copies.any fun c => decide (c.id < q.id) && c.claims.any fun g =>
      (g.1 == 2 + 2 * core && q.readsA (256 * g.2) 256)
      || (g.1 == 3 + 2 * core && decide (256 * g.2 < q.bhi ∧ q.blo < 256 * g.2 + 256)))
  || s.storeMeets q.after (.wbuf core q.blo) (q.bhi - q.blo)
  || ((List.range q.arows).any fun i => s.storeMeets q.after (.abuf core (q.alo + i * q.apitch)) q.alen)
  || s.underTest core 2 (256 * q.tile) 256 || s.underTest core 1 q.blo (q.bhi - q.blo)
  || (List.range q.arows).any fun i => s.underTest core 0 (q.alo + i * q.apitch) q.alen

/-- The group takes note of a finished quarter-op and its flags (R36, R49, R233). -/
def State.opDone (s : State) (q : QOp) (fl : Flags) : State :=
  s.modGr q.gid fun g =>
    let more := if fl = 0 then [] else [(q.lanes, fl)]
    if g.unclosed.contains q.id then
      { g with unclosed := g.unclosed.filter fun i => i != q.id, unclosedFlags := g.unclosedFlags ++ more }
    else
      let batches := g.batches.map fun b =>
        if b.ops.contains q.id then { b with ops := b.ops.filter fun i => i != q.id, flags := b.flags ++ more } else b
      let ended := (g.batches.filter fun b => b.counted && b.ops == [q.id]).length
      { g with batches := batches, tbc := g.tbc - ended }

/-- Execute one quarter-op. -/
def State.runOp (s : State) (p : MPass) (q : QOp) : State :=
  let s := s.correctReads p q
  let rs := q.cells.map fun ij => (ij, s.dotElem p q ij.1 ij.2)
  let t := rs.foldl (fun t r => t.tileSet p.core q.tile (16 * r.1.1 + r.1.2) (BitVec.ofNat 32 r.2.1)) s
  t.opDone q (rs.foldl (fun x r => x ||| r.2.2) 0)

/-- Execute the quarter-ops of a pass that nothing holds up, in order; returns those that ran, with their bad
elements. -/
def State.runOps (s : State) (p : MPass) (before : List Nat) : List QOp → State × List (QOp × List BadElem)
  | [] => (s, [])
  | q :: qs =>
    if before.contains q.tile ∨ s.opHeld p.core q then s.runOps p (q.tile :: before) qs
    else
      let bad := s.badElems p q
      let (t, rest) := (s.runOp p q).runOps p before qs
      (t, (q, bad) :: rest)

/-- Tiles of the quarter-ops queued on a core before a pass. -/
def State.tilesBefore (s : State) (core pass : Nat) : List Nat :=
  ((s.passes.takeWhile fun p => p.id != pass).filter fun p => p.core == core).flatMap fun p => p.ops.map fun q => q.tile

/-- Some quarter-op of a pass is held up by nothing. -/
def State.opsFree (s : State) (core : Nat) (before : List Nat) : List QOp → Bool
  | [] => false
  | q :: qs => if before.contains q.tile ∨ s.opHeld core q then s.opsFree core (q.tile :: before) qs else true

/-- R225, R228, R229, R234: a pass of a core's queue; quarter-ops on one tile keep the order they were queued in. -/
def execMatrixPass (core pass : Nat) (s : State) : Out :=
  .next (match s.passes.find? fun p => p.id == pass && p.core == core with
    | none => s
    | some p =>
      let (t, ran) := s.runOps p (s.tilesBefore core pass) p.ops
      if ran.isEmpty then s
      else
        let ids := ran.map fun r => r.1.id
        let bad := ran.flatMap fun r => r.2.map fun x => (x, r.1.tile, r.1.team)
        let t := bad.foldl (fun t b => t.modTm b.2.2 fun x => { x with me := true }) t
        let left := p.ops.filter fun q => !ids.contains q.id
        if left.isEmpty then
          (({ t with passes := t.passes.filter fun x => x.id != p.id } : State).logBad core (p.used ++ bad)).wake
        else
          ({ t with passes := updWhere t.passes (fun x => x.id == p.id) fun x =>
              { x with ops := left, started := true, used := x.used ++ bad } } : State).wake)

end Sys2Proof.Machine
end

