-- ==== Sys2Proof/Machine/Memory.lean ====
section
/-! DEFINITION. Majors 0x17 to 0x1C: loads, stores and atomics (R172-R184, R202). -/
namespace Sys2Proof.Machine

/-! ## Per-lane loads -/

/-- Registers from v on that a size occupies (R61). -/
def dataRegs (v size : Nat) : List Nat := (List.range (max 1 (size / 4))).map fun i => v + i

/-- The operation of a vector load over its passing lanes, whose addresses `va` gives. -/
def State.loadOp (s : State) (v size scope : Nat) (acq : Bool) (va : Nat → Nat) (pass : List (Nat × List Piece)) : MemOp :=
  { id := 0, splits := [s.cur], gid := s.cg, ctx := s.grp.ctx, core := s.cc, kind := .load,
    units := pass.flatMap fun p => unitsOf p.1 (va p.1) p.2 0,
    rows := (dataRegs v size).map (s.row s.cur), lanes := maskOf (pass.map fun p => p.1),
    size := size, signed := s.ty == 1, scope := scope, acq := acq, pc := s.me.pc }

/-- Lanes whose load is not made read zero, and p7 says which lanes are resident (R176). -/
def State.markResident (s : State) (v size : Nat) (here away : List Nat) : State :=
  let s := (dataRegs v size).foldl (fun t r => t.vsets t.cur r away fun _ => 0) s
  s.pset s.cur 7 ((s.pget s.cur 7 ||| maskOf here) &&& ~~~ maskOf away)

/-- The tags a lane's destination takes. -/
def State.laneTags (s : State) (k v l size : Nat) (t : Option Tag) : List (TagLoc × Tag) :=
  match loadTag size t with
  | some x => s.destTags k v l (size == 8) x x.c
  | none => []

/-- What a region's load found so far: values to write at once, lanes to read, tags. -/
structure RegLoad where
  now : List (Nat × Nat) := []
  mem : List (Nat × List Piece) := []
  inputs : List (Nat × Nat) := []
  tags : List (TagLoc × Tag) := []
  deriving DecidableEq, Repr

/-- One lane of a region's load; none when it must wait. -/
def State.regionLane (s : State) (k v size : Nat) (va : Nat → Nat) (acc : RegLoad) (p : Nat × List Piece) :
    Except State (State × Option RegLoad) :=
  (s.regionRead k p.1 (inStack (va p.1)) p.2 size).map fun r =>
    match r with
    | (t, none) => (t, none)
    | (t, some (.memory none)) => (t, some { acc with mem := acc.mem ++ [p] })
    | (t, some (.memory (some x))) =>
      (t, some { acc with mem := acc.mem ++ [p], inputs := acc.inputs ++ [(p.1, x)],
                          tags := acc.tags ++ t.laneTags k v p.1 size (some { k := x, c := 0, part := 0 }) })
    | (t, some (.value w tag)) =>
      (t, some { acc with now := acc.now ++ [(p.1, w.toNat)], tags := acc.tags ++ t.laneTags k v p.1 size tag })

/-- All lanes of a region's load. -/
def State.regionLanes (s : State) (k v size : Nat) (va : Nat → Nat) : List (Nat × List Piece) → RegLoad → Except State (State × Option RegLoad)
  | [], acc => .ok (s, some acc)
  | p :: ps, acc =>
    match s.regionLane k v size va acc p with
    | .error t => .error t
    | .ok (t, none) => .ok (t, none)
    | .ok (t, some a) => t.regionLanes k v size va ps a

/-- A vector load inside a region (R202, R208-R213); it waits for room in its counter (R36). LDN acts as LD there, and its
lanes are all resident: its p7 says so, once the region has saved it (R176, R217; log entry 72). An acq order has no further effect
there (R210). -/
def State.regionLoad (s : State) (e : Bool) (u : Uses) (addr : List Nat) (v size : Nat) (ldn : Bool) (va : Nat → Nat) (c : Checked) : State :=
  let k := s.cur
  let ls := s.glanes k
  let r : Except State (State × Option RegLoad) := do
    let s ← s.countIssue k
    let s ← s.saveDests k u
    let (s, _) ← s.tagWork k { u with sv := addr } .conc
    s.regionLanes k v size va c.pass {}
  match r with
  | .error t => t
  | .ok (_, none) => s.stall
  | .ok (t, some a) =>
    if ¬ a.mem.isEmpty ∧ s.full true then s.stall else
    let t := if ldn then t.pset k 7 (t.pget k 7 ||| t.guard k) else t
    let t := t.retag k ls u a.tags
    let t := a.now.foldl (fun t p =>
      ((dataRegs v size).zip (loadWords size (s.ty == 1) p.2)).foldl (fun t q => t.vset k q.1 p.1 q.2) t) t
    let o := t.loadOp v size 4 false va a.mem
    let t := if a.mem.isEmpty then t else t.startOp { o with inRegion := true, inputs := a.inputs }
    t.advance e

/-- LD and LDN (R173-R178). -/
def State.loadVec (s : State) (e : Bool) (v a o z scope order : Nat) (ldn : Bool) : State :=
  let k := s.cur
  let size := 2 ^ z
  let u : Uses := { ss := [a], sv := addrRegs a o, dv := dataRegs v size, dq := if ldn then [7] else [] }
  if s.stalled k u then s.stall
  else
    let va := s.laneAddr k a o
    let (t, c) := s.checkLanes k size needLoad false true ((s.glanes k).map fun l => (l, va l))
    let fails := if ldn then c.fail else c.fail ++ c.away
    if c.wait then t.stall
    else if c.dead then t.trap k (t.goneTrap k 1 c.gone)
    else if s.inRegion then
      if ¬ fails.isEmpty then t.trap k (t.laneTrap k 1 fails)
      else if ¬ c.away.isEmpty then
        t.regAbort k { code := abFault, detail := 0x91, lane := (c.away.head?.map fun f => f.lane).getD 0 }
      else
        t.regionLoad e u (addrRegs a o) v size ldn va c
    else if ¬ c.pass.isEmpty ∧ s.full true then t.stall
    else
      let op := t.loadOp v size scope (order == 1) va c.pass
      let t := if ldn then t.markResident v size (c.pass.map fun p => p.1) (c.away.map fun f => f.lane) else t
      let t := if c.pass.isEmpty then t else t.startOp op
      t.settleLanes e 1 fails

/-- R172, R174. -/
def execLd (e : Bool) (v : BitVec 6) (a : BitVec 5) (o : BitVec 6) (z c : BitVec 3) (r : BitVec 2) (s : State) : Out :=
  issue s fun s => s.loadVec e v.toNat a.toNat o.toNat z.toNat c.toNat r.toNat false

/-- R176. -/
def execLdn (e : Bool) (v : BitVec 6) (a : BitVec 5) (o : BitVec 6) (z c : BitVec 3) (r : BitVec 2) (s : State) : Out :=
  issue s fun s => s.loadVec e v.toNat a.toNat o.toNat z.toNat c.toNat r.toNat true

/-! ## Per-lane stores -/

/-- The operation of a vector store. -/
def State.storeOp (s : State) (v size scope : Nat) (rel : Bool) (va : Nat → Nat) (pass : List (Nat × List Piece)) : MemOp :=
  { id := 0, splits := [s.cur], gid := s.cg, ctx := s.grp.ctx, core := s.cc, kind := .store,
    units := pass.flatMap fun p => unitsOf p.1 (va p.1) p.2 (s.rowsVal s.cur v (max 1 (size / 4)) p.1),
    size := size, scope := scope, rel := rel, pc := s.me.pc }

/-- The tag of a store's data (R211): of a 4-byte or 8-byte store of a tagged row or pair; any other tagged data
is concretised. -/
def State.storeTag (s : State) (k v l size : Nat) : Except State (State × Option Tag) :=
  match (if size = 4 ∨ size = 8 then s.operandTag k v l (size == 8) else none) with
  | some t => .ok (s, some t)
  | none => (s.concAll k ((dataRegs v size).map fun r => s.locV k r l)).map fun t => (t, none)

/-- A vector store inside a region (R213). -/
def State.regionStore (s : State) (e : Bool) (u : Uses) (addr : List Nat) (v size : Nat) (va : Nat → Nat) (c : Checked) : State :=
  let k := s.cur
  let r : RegStep := do
    let s ← s.countIssue k
    let (s, _) ← s.tagWork k { u with sv := addr } .conc
    c.pass.foldlM (fun s p => do
      let (s, tag) ← s.storeTag k v p.1 size
      s.regionWrite k p.1 (inStack (va p.1)) p.2 size (BitVec.ofNat 256 (s.rowsVal k v (max 1 (size / 4)) p.1 % 256 ^ size)) tag) s
  match r with
  | .error t => t
  | .ok t => t.advance e

/-- R172, R173, R175, R177, R178. -/
def execSt (e : Bool) (v : BitVec 6) (a : BitVec 5) (o : BitVec 6) (z c : BitVec 3) (r : BitVec 2) (s : State) : Out :=
  issue s fun s =>
    let k := s.cur
    let size := 2 ^ z.toNat
    let u : Uses := { ss := [a.toNat], sv := addrRegs a.toNat o.toNat ++ dataRegs v.toNat size }
    if s.stalled k u then s.stall
    else
      let va := s.laneAddr k a.toNat o.toNat
      let (t, c') := s.checkLanes k size needStore (decide (size < 4)) true ((s.glanes k).map fun l => (l, va l))
      let fails := c'.fail ++ c'.away
      if c'.wait then t.stall
      else if c'.dead then t.trap k (t.goneTrap k 2 c'.gone)
      else if s.inRegion then
        if ¬ fails.isEmpty then t.trap k (t.laneTrap k 2 fails)
        else t.regionStore e u (addrRegs a.toNat o.toNat) v.toNat size va c'
      else if ¬ c'.pass.isEmpty ∧ s.full false then t.stall
      else
        let op := t.storeOp v.toNat size c.toNat (r == 2) va c'.pass
        let t := if c'.pass.isEmpty then t else t.startOp op
        t.settleLanes e 2 fails

/-! ## Scalar loads and stores (R179) -/

/-- The checks of a scalar access: ALIGN, then APERT for STACK, then those of R173. -/
def State.checkScal (s : State) (k va size : Nat) (need : Need) : State × Checked :=
  if va % size = 0 ∧ inStack va then (s, { fail := [{ lane := 0, va := va, cause := cApert, entry := 0 }] })
  else s.checkLane k size need false true {} 0 va

/-- What a tag of the scalar work names now: its input's observed value plus c (R211). -/
def State.tagNow (s : State) (k : Nat) (t : Tag) : Word64 :=
  match s.region k with
  | some r => ((r.inputs.find? fun x => x.slot == scalSlot && x.k == t.k).map fun x => x.observed.setWidth 64 + t.c).getD t.c
  | none => t.c

/-- The tag that a forwarded or reused SLD gives its scalar. A tag names 64 bits; an SLD.b32 of a buffered SST.b32 whose tagged
value needs more than 32 bits cannot carry it, and concretises it (R211-R213; log entry 73). -/
def State.forward (s : State) (k v : Nat) (tag : Option Tag) : Except State (State × Option Tag) :=
  match tag with
  | none => .ok (s, none)
  | some x =>
    if (s.tagNow k x).toNat = v then .ok (s, some x)
    else (s.concretise k scalSlot x.k).map fun t => (t, none)

/-- A scalar load (R179). -/
def State.loadScal (s : State) (e : Bool) (d a b size : Nat) (acq : Bool) : State :=
  let k := s.cur
  let u : Uses := { ss := [a, b], ds := [d] }
  if s.stalled k u then s.stall
  else
    let va := (s.sget k a + s.sget k b).toNat
    let (t, c) := s.checkScal k va size needLoad
    if c.wait then t.stall
    else if c.dead then t.trap k (t.scalTrap k 1 { lane := 0, va := va, cause := cContain, entry := 0 })
    else
      match c.fail ++ c.away with
      | f :: _ => t.trap k (t.scalTrap k 1 f)
      | [] =>
        let ps := (c.pass.head?.map fun p => p.2).getD []
        let o : MemOp := { id := 0, splits := [k], gid := t.cg, ctx := t.grp.ctx, core := t.cc, kind := .sload,
                           units := unitsOf 0 va ps 0, sreg := if d = 0 then 0 else t.scalarKey k d + 1,
                           size := size, scope := 4, acq := acq, pc := t.me.pc }
        if s.inRegion then
          let r : Except State (State × Option Got) := do
            let t ← t.countIssue k
            let t ← t.saveDests k u
            let (t, _) ← t.tagWork k u .conc
            t.regionRead k scalSlot false ps size
          match r with
          | .error t => t
          | .ok (_, none) => s.stall
          | .ok (t, some (.memory i)) =>
            if s.full true then s.stall else
            let t := t.retag k [] u ((i.toList).map fun x => (t.locS k d, { k := x, c := 0, part := 0 }))
            (t.startOp { o with inRegion := true, inputs := (i.toList).map fun x => (scalSlot, x) }).advance e
          | .ok (t, some (.value v tag)) =>
            match t.forward k (v.toNat % 256 ^ size) tag with
            | .error t => t
            | .ok (t, tag) =>
              let t := t.retag k [] u (tag.toList.map fun x => (t.locS k d, x))
              (t.sset k d (BitVec.ofNat 64 (v.toNat % 256 ^ size))).advance e
        else if s.full true then t.stall
        else (t.startOp o).advance e

/-- A scalar store (R179). -/
def State.storeScal (s : State) (e : Bool) (d a b size : Nat) (rel : Bool) : State :=
  let k := s.cur
  let u : Uses := { ss := [a, b, d] }
  if s.stalled k u then s.stall
  else
    let va := (s.sget k a + s.sget k b).toNat
    let (t, c) := s.checkScal k va size needStore
    if c.wait then t.stall
    else if c.dead then t.trap k (t.scalTrap k 2 { lane := 0, va := va, cause := cContain, entry := 0 })
    else
      match c.fail ++ c.away with
      | f :: _ => t.trap k (t.scalTrap k 2 f)
      | [] =>
        let ps := (c.pass.head?.map fun p => p.2).getD []
        let v := (t.sget k d).toNat % 256 ^ size
        if s.inRegion then
          let r : RegStep := do
            let t ← t.countIssue k
            let (t, _) ← t.tagWork k { u with ss := [a, b] } .conc
            t.regionWrite k scalSlot false ps size (BitVec.ofNat 256 v) (t.tagAt k (t.locS k d))
          match r with
          | .error t => t
          | .ok t => t.advance e
        else if s.full false then t.stall
        else
          let o : MemOp := { id := 0, splits := [k], gid := t.cg, ctx := t.grp.ctx, core := t.cc, kind := .store,
                             units := unitsOf 0 va ps v, size := size, scope := 4, rel := rel, pc := t.me.pc }
          (t.startOp o).advance e

/-- R179. -/
def execSldB32 (e : Bool) (d a b : BitVec 5) (s : State) : Out :=
  issue s fun s => s.loadScal e d.toNat a.toNat b.toNat 4 false

/-- R179. -/
def execSldB64 (e : Bool) (d a b : BitVec 5) (s : State) : Out :=
  issue s fun s => s.loadScal e d.toNat a.toNat b.toNat 8 false

/-- R179. -/
def execSstB32 (e : Bool) (d a b : BitVec 5) (s : State) : Out :=
  issue s fun s => s.storeScal e d.toNat a.toNat b.toNat 4 false

/-- R179. -/
def execSstB64 (e : Bool) (d a b : BitVec 5) (s : State) : Out :=
  issue s fun s => s.storeScal e d.toNat a.toNat b.toNat 8 false

/-- R179; in a region it aborts (R202). -/
def execSldB32Acq (e : Bool) (d a b : BitVec 5) (s : State) : Out :=
  issue s fun s => if s.inRegion then s.barred abFault 0x90 else s.loadScal e d.toNat a.toNat b.toNat 4 true

/-- R179; in a region it aborts (R202). -/
def execSldB64Acq (e : Bool) (d a b : BitVec 5) (s : State) : Out :=
  issue s fun s => if s.inRegion then s.barred abFault 0x90 else s.loadScal e d.toNat a.toNat b.toNat 8 true

/-- R179; in a region it aborts (R202). -/
def execSstB32Rel (e : Bool) (d a b : BitVec 5) (s : State) : Out :=
  issue s fun s => if s.inRegion then s.barred abFault 0x90 else s.storeScal e d.toNat a.toNat b.toNat 4 true

/-- R179; in a region it aborts (R202). -/
def execSstB64Rel (e : Bool) (d a b : BitVec 5) (s : State) : Out :=
  issue s fun s => if s.inRegion then s.barred abFault 0x90 else s.storeScal e d.toNat a.toNat b.toNat 8 true

/-! ## ATOM and RED (R180-R184) -/

/-- HOST pages take add, xchg and cas (R184). -/
def atomHost (op : Nat) : Bool := op == 0 || op == 8 || op == 9

/-- The units of an atomic in one lane: f2add is two of 16 bits (R182). -/
def State.atomUnits (s : State) (k v op wide l va : Nat) (ps : List Piece) : List MUnit :=
  let n := wide / 4
  let x := s.rowsVal k (if op = 9 then v + n else v) n l
  let c := s.rowsVal k v n l
  match ps with
  | [p, q] => [{ lane := l, place := p.1, size := 8, off := 0, va := va, value := BitVec.ofNat 64 x, cmp := BitVec.ofNat 64 c, hi := some q.1 }]
  | _ =>
  ps.flatMap fun p =>
    if op = 11 then
      [{ lane := l, place := p.1, size := 2, off := 0, va := va, value := BitVec.ofNat 64 (x % 65536) },
       { lane := l, place := p.1.plus 2, size := 2, off := 2, va := va, value := BitVec.ofNat 64 (x / 65536) }]
    else
      [{ lane := l, place := p.1, size := p.2.1, off := p.2.2, va := va, value := BitVec.ofNat 64 (x / 256 ^ p.2.2 % 256 ^ p.2.1),
         cmp := BitVec.ofNat 64 (c / 256 ^ p.2.2 % 256 ^ p.2.1) }]

/-- ATOM (`returns`) or RED. -/
def State.atomic (s : State) (e : Bool) (v a o op scope : Nat) (rel returns : Bool) : State :=
  let k := s.cur
  let ty := s.ty
  let wide := if ty = 15 then 8 else 4
  let n := wide / 4
  let count := if op = 9 then 2 * n else n
  if !atomType op ty || decide (63 < v + count - 1) || (ty == 15 && v % 2 == 1) then s.undef
  else if s.inRegion then s.barred abFault 0x90
  else
    let srcs := (List.range count).map fun i => v + i
    let dsts := if returns then (List.range n).map fun i => v + i else []
    let u : Uses := { ss := [a], sv := addrRegs a o ++ srcs, dv := dsts }
    if s.stalled k u then s.stall
    else
      let (t, c) := s.checkLanes k wide needAtomic true (atomHost op) ((s.glanes k).map fun l => (l, s.laneAddr k a o l))
      let fails := c.fail ++ c.away
      if c.wait then t.stall
      else if c.dead then t.trap k (t.goneTrap k 3 c.gone)
      else if ¬ c.pass.isEmpty ∧ s.full returns then t.stall
      else
        let op' : MemOp :=
          { id := 0, splits := [k], gid := t.cg, ctx := t.grp.ctx, core := t.cc, kind := .atom op ty returns,
            units := c.pass.flatMap fun p => t.atomUnits k v op wide p.1 (s.laneAddr k a o p.1) p.2,
            rows := dsts.map (t.row k), lanes := maskOf (c.pass.map fun p => p.1), size := wide, scope := scope,
            acq := rel && returns, rel := rel, pc := t.me.pc }
        let t := if c.pass.isEmpty then t else t.startOp op'
        t.settleLanes e 3 fails

/-- R180, R181. -/
def execAtom (e : Bool) (v : BitVec 6) (a : BitVec 5) (o : BitVec 6) (p : BitVec 4) (c : BitVec 3) (l : BitVec 1)
    (s : State) : Out :=
  issue s fun s => s.atomic e v.toNat a.toNat o.toNat p.toNat c.toNat (l == 1) true

/-- R180, R181. -/
def execRed (e : Bool) (v : BitVec 6) (a : BitVec 5) (o : BitVec 6) (p : BitVec 4) (c : BitVec 3) (l : BitVec 1)
    (s : State) : Out :=
  issue s fun s => s.atomic e v.toNat a.toNat o.toNat p.toNat c.toNat (l == 1) false

end Sys2Proof.Machine
end

