-- ==== Sys2Proof/Machine/Predicate.lean ====
section
/-! DEFINITION. Predicate instructions, major 0x10 (R136). -/
namespace Sys2Proof.Machine

/-- A form that writes a whole predicate from predicates. -/
def State.pform (s : State) (e : Bool) (d : BitVec 3) (srcs : List (BitVec 3)) (v : State → BitVec 32) : State :=
  s.form e { sq := srcs.map BitVec.toNat, dq := [d.toNat] } .conc fun s => s.pset s.cur d.toNat (v s)

/-- The lowest set bit alone (R136). -/
def lowestBit (x : BitVec 32) : BitVec 32 := x &&& (-x)

/-- R136. -/
def execPand (e : Bool) (d a b : BitVec 3) (s : State) : Out :=
  issue s fun s => s.pform e d [a, b] fun s => s.pget s.cur a.toNat &&& s.pget s.cur b.toNat

/-- R136. -/
def execPor (e : Bool) (d a b : BitVec 3) (s : State) : Out :=
  issue s fun s => s.pform e d [a, b] fun s => s.pget s.cur a.toNat ||| s.pget s.cur b.toNat

/-- R136. -/
def execPxor (e : Bool) (d a b : BitVec 3) (s : State) : Out :=
  issue s fun s => s.pform e d [a, b] fun s => s.pget s.cur a.toNat ^^^ s.pget s.cur b.toNat

/-- R136. -/
def execPnot (e : Bool) (d a : BitVec 3) (s : State) : Out :=
  issue s fun s => s.pform e d [a] fun s => ~~~ (s.pget s.cur a.toNat)

/-- R136. -/
def execPmov (e : Bool) (d a : BitVec 3) (s : State) : Out :=
  issue s fun s => s.pform e d [a] fun s => s.pget s.cur a.toNat

/-- R136. -/
def execPfirst (e : Bool) (d a : BitVec 3) (s : State) : Out :=
  issue s fun s => s.pform e d [a] fun s => lowestBit (s.pget s.cur a.toNat)

/-- R136. -/
def execPfrom (e : Bool) (d : BitVec 3) (s' : BitVec 5) (s : State) : Out :=
  issue s fun s => s.form e { ss := [s'.toNat], dq := [d.toNat] } .conc fun s =>
    s.pset s.cur d.toNat (lo32 (s.sget s.cur s'.toNat))

/-- R136. -/
def execPto (e : Bool) (a : BitVec 3) (s' : BitVec 5) (s : State) : Out :=
  issue s fun s => s.form e { sq := [a.toNat], ds := [s'.toNat] } .conc fun s =>
    s.sset s.cur s'.toNat ((s.pget s.cur a.toNat).setWidth 64)

/-- R136. -/
def execPpopc (e : Bool) (a : BitVec 3) (s' : BitVec 5) (s : State) : Out :=
  issue s fun s => s.form e { sq := [a.toNat], ds := [s'.toNat] } .conc fun s =>
    s.sset s.cur s'.toNat (BitVec.ofNat 64 (popc (s.pget s.cur a.toNat)))

end Sys2Proof.Machine
end

