-- ==== Sys2Proof/Machine/Dispatch.lean ====
section
/-! DEFINITION. One arm per constructor of Instr: the meaning each instruction has. -/
namespace Sys2Proof.Machine

def exec (i : Instr) (s : State) : Host.Outcome State Fault Refusal :=
  match i with
  | .nop e => Sys2Proof.Machine.execNop e s
  | .exit e => Sys2Proof.Machine.execExit e s
  | .ret e => Sys2Proof.Machine.execRet e s
  | .yield e => Sys2Proof.Machine.execYield e s
  | .tret e n => Sys2Proof.Machine.execTret e n s
  | .brk e => Sys2Proof.Machine.execBrk e s
  | .wspill e => Sys2Proof.Machine.execWspill e s
  | .wfill e => Sys2Proof.Machine.execWfill e s
  | .emret e n a => Sys2Proof.Machine.execEmret e n a s
  | .probe e n => Sys2Proof.Machine.execProbe e n s
  | .splq e d => Sys2Proof.Machine.execSplq e d s
  | .mode e g t r s' f => Sys2Proof.Machine.execMode e g t r s' f s
  | .rep c d a b => Sys2Proof.Machine.execRep c d a b s
  | .bra e p c t => Sys2Proof.Machine.execBra e p c t s
  | .call e t => Sys2Proof.Machine.execCall e t s
  | .callx e a => Sys2Proof.Machine.execCallx e a s
  | .brx e a => Sys2Proof.Machine.execBrx e a s
  | .callo e a => Sys2Proof.Machine.execCallo e a s
  | .jmpo e a => Sys2Proof.Machine.execJmpo e a s
  | .srd e r n => Sys2Proof.Machine.execSrd e r n s
  | .swr e r n => Sys2Proof.Machine.execSwr e r n s
  | .trap e c => Sys2Proof.Machine.execTrap e c s
  | .vsrd e r n => Sys2Proof.Machine.execVsrd e r n s
  | .wait e l s' c t => Sys2Proof.Machine.execWait e l s' c t s
  | .sadd e d a b => Sys2Proof.Machine.execSadd e d a b s
  | .ssub e d a b => Sys2Proof.Machine.execSsub e d a b s
  | .smul e d a b => Sys2Proof.Machine.execSmul e d a b s
  | .smulh e d a b => Sys2Proof.Machine.execSmulh e d a b s
  | .sdiv e d a b => Sys2Proof.Machine.execSdiv e d a b s
  | .srem e d a b => Sys2Proof.Machine.execSrem e d a b s
  | .sand e d a b => Sys2Proof.Machine.execSand e d a b s
  | .sor e d a b => Sys2Proof.Machine.execSor e d a b s
  | .sxor e d a b => Sys2Proof.Machine.execSxor e d a b s
  | .snot e d a => Sys2Proof.Machine.execSnot e d a s
  | .sshl e d a b => Sys2Proof.Machine.execSshl e d a b s
  | .sshr e d a b => Sys2Proof.Machine.execSshr e d a b s
  | .ssra e d a b => Sys2Proof.Machine.execSsra e d a b s
  | .smin e d a b => Sys2Proof.Machine.execSmin e d a b s
  | .smax e d a b => Sys2Proof.Machine.execSmax e d a b s
  | .sminn e d a b => Sys2Proof.Machine.execSminn e d a b s
  | .smaxn e d a b => Sys2Proof.Machine.execSmaxn e d a b s
  | .scmpEq e d a b => Sys2Proof.Machine.execScmpEq e d a b s
  | .scmpNe e d a b => Sys2Proof.Machine.execScmpNe e d a b s
  | .scmpLt e d a b => Sys2Proof.Machine.execScmpLt e d a b s
  | .scmpLe e d a b => Sys2Proof.Machine.execScmpLe e d a b s
  | .scmpLtn e d a b => Sys2Proof.Machine.execScmpLtn e d a b s
  | .scmpLen e d a b => Sys2Proof.Machine.execScmpLen e d a b s
  | .smov e d a => Sys2Proof.Machine.execSmov e d a s
  | .spopc e d a => Sys2Proof.Machine.execSpopc e d a s
  | .sclz e d a => Sys2Proof.Machine.execSclz e d a s
  | .sbrev e d a => Sys2Proof.Machine.execSbrev e d a s
  | .saddi e d a t => Sys2Proof.Machine.execSaddi e d a t s
  | .sli e d t => Sys2Proof.Machine.execSli e d t s
  | .slih e d a t => Sys2Proof.Machine.execSlih e d a t s
  | .vadd e d a b => Sys2Proof.Machine.execVadd e d a b s
  | .vsub e d a b => Sys2Proof.Machine.execVsub e d a b s
  | .vmul e d a b => Sys2Proof.Machine.execVmul e d a b s
  | .vmulh e d a b => Sys2Proof.Machine.execVmulh e d a b s
  | .vmad e d a b => Sys2Proof.Machine.execVmad e d a b s
  | .vand e d a b => Sys2Proof.Machine.execVand e d a b s
  | .vor e d a b => Sys2Proof.Machine.execVor e d a b s
  | .vxor e d a b => Sys2Proof.Machine.execVxor e d a b s
  | .vnot e d a => Sys2Proof.Machine.execVnot e d a s
  | .vshl e d a b => Sys2Proof.Machine.execVshl e d a b s
  | .vshr e d a b => Sys2Proof.Machine.execVshr e d a b s
  | .vsra e d a b => Sys2Proof.Machine.execVsra e d a b s
  | .vmin e d a b => Sys2Proof.Machine.execVmin e d a b s
  | .vmax e d a b => Sys2Proof.Machine.execVmax e d a b s
  | .vabs e d a => Sys2Proof.Machine.execVabs e d a s
  | .vneg e d a => Sys2Proof.Machine.execVneg e d a s
  | .vmov e d a => Sys2Proof.Machine.execVmov e d a s
  | .vbsel e d a b => Sys2Proof.Machine.execVbsel e d a b s
  | .vpopc e d a => Sys2Proof.Machine.execVpopc e d a s
  | .vclz e d a => Sys2Proof.Machine.execVclz e d a s
  | .vavg e d a b => Sys2Proof.Machine.execVavg e d a b s
  | .vdiv e d a b => Sys2Proof.Machine.execVdiv e d a b s
  | .vrem e d a b => Sys2Proof.Machine.execVrem e d a b s
  | .vaddi e d a t => Sys2Proof.Machine.execVaddi e d a t s
  | .vli e d t => Sys2Proof.Machine.execVli e d t s
  | .vbfe e d a b => Sys2Proof.Machine.execVbfe e d a b s
  | .vbfi e d a b => Sys2Proof.Machine.execVbfi e d a b s
  | .vprmt e d a b => Sys2Proof.Machine.execVprmt e d a b s
  | .vshuf e d a b => Sys2Proof.Machine.execVshuf e d a b s
  | .vpackb e d a => Sys2Proof.Machine.execVpackb e d a s
  | .vbcast e d a => Sys2Proof.Machine.execVbcast e d a s
  | .vext e d a b => Sys2Proof.Machine.execVext e d a b s
  | .vscan e d a o => Sys2Proof.Machine.execVscan e d a o s
  | .vreduce e d a o => Sys2Proof.Machine.execVreduce e d a o s
  | .pand e d a b => Sys2Proof.Machine.execPand e d a b s
  | .por e d a b => Sys2Proof.Machine.execPor e d a b s
  | .pxor e d a b => Sys2Proof.Machine.execPxor e d a b s
  | .pnot e d a => Sys2Proof.Machine.execPnot e d a s
  | .pmov e d a => Sys2Proof.Machine.execPmov e d a s
  | .pfrom e d s' => Sys2Proof.Machine.execPfrom e d s' s
  | .pto e a s' => Sys2Proof.Machine.execPto e a s' s
  | .ppopc e a s' => Sys2Proof.Machine.execPpopc e a s' s
  | .pfirst e d a => Sys2Proof.Machine.execPfirst e d a s
  | .vcmpEq e d a b => Sys2Proof.Machine.execVcmpEq e d a b s
  | .vcmpNe e d a b => Sys2Proof.Machine.execVcmpNe e d a b s
  | .vcmpLt e d a b => Sys2Proof.Machine.execVcmpLt e d a b s
  | .vcmpLe e d a b => Sys2Proof.Machine.execVcmpLe e d a b s
  | .vcmpGt e d a b => Sys2Proof.Machine.execVcmpGt e d a b s
  | .vcmpGe e d a b => Sys2Proof.Machine.execVcmpGe e d a b s
  | .vcmpUn e d a b => Sys2Proof.Machine.execVcmpUn e d a b s
  | .vcmpvEq e d a b => Sys2Proof.Machine.execVcmpvEq e d a b s
  | .vcmpvNe e d a b => Sys2Proof.Machine.execVcmpvNe e d a b s
  | .vcmpvLt e d a b => Sys2Proof.Machine.execVcmpvLt e d a b s
  | .vcmpvLe e d a b => Sys2Proof.Machine.execVcmpvLe e d a b s
  | .vcmpvGt e d a b => Sys2Proof.Machine.execVcmpvGt e d a b s
  | .vcmpvGe e d a b => Sys2Proof.Machine.execVcmpvGe e d a b s
  | .vcmpvUn e d a b => Sys2Proof.Machine.execVcmpvUn e d a b s
  | .fadd e d a b => Sys2Proof.Machine.execFadd e d a b s
  | .fsub e d a b => Sys2Proof.Machine.execFsub e d a b s
  | .fmul e d a b => Sys2Proof.Machine.execFmul e d a b s
  | .fmin e d a b => Sys2Proof.Machine.execFmin e d a b s
  | .fmax e d a b => Sys2Proof.Machine.execFmax e d a b s
  | .fabs e d a => Sys2Proof.Machine.execFabs e d a s
  | .fneg e d a => Sys2Proof.Machine.execFneg e d a s
  | .fdiv e d a b => Sys2Proof.Machine.execFdiv e d a b s
  | .fscale e d a b => Sys2Proof.Machine.execFscale e d a b s
  | .frcp e d a => Sys2Proof.Machine.execFrcp e d a s
  | .frsq e d a => Sys2Proof.Machine.execFrsq e d a s
  | .fsqrt e d a => Sys2Proof.Machine.execFsqrt e d a s
  | .fexp2 e d a => Sys2Proof.Machine.execFexp2 e d a s
  | .flog2 e d a => Sys2Proof.Machine.execFlog2 e d a s
  | .fsinp e d a => Sys2Proof.Machine.execFsinp e d a s
  | .fcosp e d a => Sys2Proof.Machine.execFcosp e d a s
  | .fma e d a b => Sys2Proof.Machine.execFma e d a b s
  | .fms e d a b => Sys2Proof.Machine.execFms e d a b s
  | .fnma e d a b => Sys2Proof.Machine.execFnma e d a b s
  | .idot e d a b => Sys2Proof.Machine.execIdot e d a b s
  | .fdot e d a b => Sys2Proof.Machine.execFdot e d a b s
  | .fcvt e d a t => Sys2Proof.Machine.execFcvt e d a t s
  | .frnd e d a t => Sys2Proof.Machine.execFrnd e d a t s
  | .fclass e d a t => Sys2Proof.Machine.execFclass e d a t s
  | .f2i e d a t => Sys2Proof.Machine.execF2i e d a t s
  | .i2f e d a t => Sys2Proof.Machine.execI2f e d a t s
  | .ld e v s' o z c r => Sys2Proof.Machine.execLd e v s' o z c r s
  | .st e v s' o z c r => Sys2Proof.Machine.execSt e v s' o z c r s
  | .ldn e v s' o z c r => Sys2Proof.Machine.execLdn e v s' o z c r s
  | .sldB32 e d a b => Sys2Proof.Machine.execSldB32 e d a b s
  | .sldB64 e d a b => Sys2Proof.Machine.execSldB64 e d a b s
  | .sstB32 e d a b => Sys2Proof.Machine.execSstB32 e d a b s
  | .sstB64 e d a b => Sys2Proof.Machine.execSstB64 e d a b s
  | .sldB32Acq e d a b => Sys2Proof.Machine.execSldB32Acq e d a b s
  | .sldB64Acq e d a b => Sys2Proof.Machine.execSldB64Acq e d a b s
  | .sstB32Rel e d a b => Sys2Proof.Machine.execSstB32Rel e d a b s
  | .sstB64Rel e d a b => Sys2Proof.Machine.execSstB64Rel e d a b s
  | .atom e v s' o p c l => Sys2Proof.Machine.execAtom e v s' o p c l s
  | .red e v s' o p c l => Sys2Proof.Machine.execRed e v s' o p c l s
  | .fence e c r => Sys2Proof.Machine.execFence e c r s
  | .cctl e n a b => Sys2Proof.Machine.execCctl e n a b s
  | .pref e n a b => Sys2Proof.Machine.execPref e n a b s
  | .pageq e d a k => Sys2Proof.Machine.execPageq e d a k s
  | .waitv e d a b => Sys2Proof.Machine.execWaitv e d a b s
  | .carve e d a => Sys2Proof.Machine.execCarve e d a s
  | .sync e a => Sys2Proof.Machine.execSync e a s
  | .bar e t a => Sys2Proof.Machine.execBar e t a s
  | .cbar e t => Sys2Proof.Machine.execCbar e t s
  | .bara e t a => Sys2Proof.Machine.execBara e t a s
  | .accLd e k a => Sys2Proof.Machine.execAccLd e k a s
  | .accSt e k a => Sys2Proof.Machine.execAccSt e k a s
  | .accZero e a => Sys2Proof.Machine.execAccZero e a s
  | .accCvt e d a b => Sys2Proof.Machine.execAccCvt e d a b s
  | .rgbeg e s' d => Sys2Proof.Machine.execRgbeg e s' d s
  | .rgend e => Sys2Proof.Machine.execRgend e s
  | .rgabt e c => Sys2Proof.Machine.execRgabt e c s
  | .rgst e s' => Sys2Proof.Machine.execRgst e s' s
  | .mma e d a b => Sys2Proof.Machine.execMma e d a b s
  | .mmas e d a b => Sys2Proof.Machine.execMmas e d a b s
  | .mfence e d => Sys2Proof.Machine.execMfence e d s
  | .omap e n a => Sys2Proof.Machine.execOmap e n a s
  | .merrq e d => Sys2Proof.Machine.execMerrq e d s
  | .cpy e d a => Sys2Proof.Machine.execCpy e d a s
  | .cpyt e d a => Sys2Proof.Machine.execCpyt e d a s
  | .cpyr e d a => Sys2Proof.Machine.execCpyr e d a s
  | .cpyg e d a => Sys2Proof.Machine.execCpyg e d a s
  | .cpyb e d a => Sys2Proof.Machine.execCpyb e d a s
  | .cpyq e d a => Sys2Proof.Machine.execCpyq e d a s
  | .ovlLd e d a => Sys2Proof.Machine.execOvlLd e d a s
  | .ovlHint e a => Sys2Proof.Machine.execOvlHint e a s
  | .ovlEv e a => Sys2Proof.Machine.execOvlEv e a s
  | .ovlPin e d a => Sys2Proof.Machine.execOvlPin e d a s
  | .ovlUnpin e a => Sys2Proof.Machine.execOvlUnpin e a s
  | .ovlQ e d a => Sys2Proof.Machine.execOvlQ e d a s
  | .mshEmit e d a b => Sys2Proof.Machine.execMshEmit e d a b s
  | .mshClose e d a b => Sys2Proof.Machine.execMshClose e d a b s
  | .pixAttr e d a b => Sys2Proof.Machine.execPixAttr e d a b s
  | .pixOut e t a => Sys2Proof.Machine.execPixOut e t a s
  | .pixKill e => Sys2Proof.Machine.execPixKill e s
  | .pixOrd e => Sys2Proof.Machine.execPixOrd e s
  | .tex e d a b => Sys2Proof.Machine.execTex e d a b s
  | .texl e d a b => Sys2Proof.Machine.execTexl e d a b s
  | .texg e d a b => Sys2Proof.Machine.execTexg e d a b s
  | .imgLd e d a b => Sys2Proof.Machine.execImgLd e d a b s
  | .imgSt e d a b => Sys2Proof.Machine.execImgSt e d a b s
  | .ray e d a b => Sys2Proof.Machine.execRay e d a b s
  | .rayh e d a b => Sys2Proof.Machine.execRayh e d a b s
  | .owrd e d n => Sys2Proof.Machine.execOwrd e d n s
  | .xregRd e d a p => Sys2Proof.Machine.execXregRd e d a p s
  | .xregWr e d a p => Sys2Proof.Machine.execXregWr e d a p s
  | .emulationEntry cause word live => Sys2Proof.Machine.execEmulationEntry cause word live s
  | .emulationLevelWaitEnd split => Sys2Proof.Machine.execEmulationLevelWaitEnd split s
  | .trapBankWaitEnd split => Sys2Proof.Machine.execTrapBankWaitEnd split s
  | .schedulerAgeThreshold split => Sys2Proof.Machine.execSchedulerAgeThreshold split s
  | .loadDataReturn op unit => Sys2Proof.Machine.execLoadDataReturn op unit s
  | .storePerformed op unit => Sys2Proof.Machine.execStorePerformed op unit s
  | .copyGranuleWrite copy => Sys2Proof.Machine.execCopyGranuleWrite copy s
  | .copyComplete copy => Sys2Proof.Machine.execCopyComplete copy s
  | .matrixPass core pass => Sys2Proof.Machine.execMatrixPass core pass s
  | .overlayFillComplete fill => Sys2Proof.Machine.execOverlayFillComplete fill s
  | .rayQueryComplete query => Sys2Proof.Machine.execRayQueryComplete query s
  | .waitvWake split => Sys2Proof.Machine.execWaitvWake split s
  | .waitvReread split => Sys2Proof.Machine.execWaitvReread split s
  | .waitvTimeout split => Sys2Proof.Machine.execWaitvTimeout split s
  | .regionCommit split => Sys2Proof.Machine.execRegionCommit split s
  | .regionSerialTimeout split => Sys2Proof.Machine.execRegionSerialTimeout split s
  | .carveComplete core => Sys2Proof.Machine.execCarveComplete core s
  | .nopCommand ctx queue => Sys2Proof.Machine.execNopCommand ctx queue s
  | .launch ctx queue => Sys2Proof.Machine.execLaunch ctx queue s
  | .draw ctx queue => Sys2Proof.Machine.execDraw ctx queue s
  | .waitCommand ctx queue => Sys2Proof.Machine.execWaitCommand ctx queue s
  | .waitCommandPoll ctx queue => Sys2Proof.Machine.execWaitCommandPoll ctx queue s
  | .signal ctx queue => Sys2Proof.Machine.execSignal ctx queue s
  | .teamPlacement launchId => Sys2Proof.Machine.execTeamPlacement launchId s
  | .endOfLaunch launchId => Sys2Proof.Machine.execEndOfLaunch launchId s
  | .drawEnd drawId => Sys2Proof.Machine.execDrawEnd drawId s
  | .saveRequest ctx => Sys2Proof.Machine.execSaveRequest ctx s
  | .forcedSave ctx => Sys2Proof.Machine.execForcedSave ctx s
  | .saveComplete ctx => Sys2Proof.Machine.execSaveComplete ctx s
  | .contextResume ctx => Sys2Proof.Machine.execContextResume ctx s
  | .timeSliceExpiry ctx => Sys2Proof.Machine.execTimeSliceExpiry ctx s
  | .doorbell fn ctx queue wptr => Sys2Proof.Machine.execDoorbell fn ctx queue wptr s
  | .contextLoad ctx => Sys2Proof.Machine.execContextLoad ctx s
  | .contextRelease ctx => Sys2Proof.Machine.execContextRelease ctx s
  | .ctxtabWrite value => Sys2Proof.Machine.execCtxtabWrite value s
  | .partitionEnable n w0 => Sys2Proof.Machine.execPartitionEnable n w0 s
  | .partitionReconfigure n w0 => Sys2Proof.Machine.execPartitionReconfigure n w0 s
  | .invalidatePage ctx => Sys2Proof.Machine.execInvalidatePage ctx s
  | .invalidateContext ctx => Sys2Proof.Machine.execInvalidateContext ctx s
  | .invalidationComplete ctx => Sys2Proof.Machine.execInvalidationComplete ctx s
  | .pageRequestGrant ctx tag => Sys2Proof.Machine.execPageRequestGrant ctx tag s
  | .pageRequestFail ctx tag => Sys2Proof.Machine.execPageRequestFail ctx tag s
  | .prqRptrPoll ctx => Sys2Proof.Machine.execPrqRptrPoll ctx s
  | .irqcauseClear fn bits => Sys2Proof.Machine.execIrqcauseClear fn bits s
  | .registerWrite fn bar offset value => Sys2Proof.Machine.execRegisterWrite fn bar offset value s
  | .atsTranslationCompletion fn unit r w => Sys2Proof.Machine.execAtsTranslationCompletion fn unit r w s
  | .atsInvalidateRequest fn unit => Sys2Proof.Machine.execAtsInvalidateRequest fn unit s
  | .prgResponse fn unit code => Sys2Proof.Machine.execPrgResponse fn unit code s
  | .hostMemoryWrite fn offset bytes => Sys2Proof.Machine.execHostMemoryWrite fn offset bytes s
  | .hostMemoryRead fn offset ask => Sys2Proof.Machine.execHostMemoryRead fn offset ask s
  | .functionLevelReset vf => Sys2Proof.Machine.execFunctionLevelReset vf s
  | .vfEnableClear vf => Sys2Proof.Machine.execVfEnableClear vf s
  | .pfFunctionLevelReset => Sys2Proof.Machine.execPfFunctionLevelReset s
  | .warmDieReset die => Sys2Proof.Machine.execWarmDieReset die s
  | .coldDieReset die => Sys2Proof.Machine.execColdDieReset die s
  | .warmPackageReset => Sys2Proof.Machine.execWarmPackageReset s
  | .coldPackageReset => Sys2Proof.Machine.execColdPackageReset s
  | .powerOn => Sys2Proof.Machine.execPowerOn s
  | .explore site answer => Sys2Proof.Machine.execExplore site answer s
  | .exploreEnd => Sys2Proof.Machine.execExploreEnd s
  | .bringUpSelfTestDone die pass => Sys2Proof.Machine.execBringUpSelfTestDone die pass s
  | .attestationRequest value => Sys2Proof.Machine.execAttestationRequest value s
  | .attestationReportDone => Sys2Proof.Machine.execAttestationReportDone s
  | .selfTestComplete die kind number pass => Sys2Proof.Machine.execSelfTestComplete die kind number pass s
  | .droopEvent die excess => Sys2Proof.Machine.execDroopEvent die excess s
  | .powerLimitAdjust die n => Sys2Proof.Machine.execPowerLimitAdjust die n s
  | .lossOfService die => Sys2Proof.Machine.execLossOfService die s
  | .coherenceTimeout die => Sys2Proof.Machine.execCoherenceTimeout die s
  | .rds die sector => Sys2Proof.Machine.execRds die sector s
  | .rdx die sector => Sys2Proof.Machine.execRdx die sector s
  | .upg die sector => Sys2Proof.Machine.execUpg die sector s
  | .rdu die sector => Sys2Proof.Machine.execRdu die sector s
  | .wrb die sector => Sys2Proof.Machine.execWrb die sector s
  | .wrc die sector => Sys2Proof.Machine.execWrc die sector s
  | .wrm die sector => Sys2Proof.Machine.execWrm die sector s
  | .wrt die sector => Sys2Proof.Machine.execWrt die sector s
  | .invalidation die sector => Sys2Proof.Machine.execInvalidation die sector s
  | .downgrade die sector => Sys2Proof.Machine.execDowngrade die sector s
  | .coherenceAck die sector => Sys2Proof.Machine.execCoherenceAck die sector s
  | .formatRegionEnable die n => Sys2Proof.Machine.execFormatRegionEnable die n s
  | .formatRegionDisable die n => Sys2Proof.Machine.execFormatRegionDisable die n s
  | .linkFlit port channel seq crcOk payload => Sys2Proof.Machine.execLinkFlit port channel seq crcOk payload s
  | .meshletCompressDone team => Sys2Proof.Machine.execMeshletCompressDone team s
  | .frontierBeacon gdie sdie => Sys2Proof.Machine.execFrontierBeacon gdie sdie s
  | .visibilityPacket gdie sdie => Sys2Proof.Machine.execVisibilityPacket gdie sdie s
  | .rasterisePacket sdie => Sys2Proof.Machine.execRasterisePacket sdie s
  | .blendApply group => Sys2Proof.Machine.execBlendApply group s
  | .powerOff => Sys2Proof.Machine.execPowerOff s
  | .priReenable fn => Sys2Proof.Machine.execPriReenable fn s
  | .msiXVectorUnmask fn vector => Sys2Proof.Machine.execMsiXVectorUnmask fn vector s

end Sys2Proof.Machine
end

