-- ==== Sys2Proof/Machine/Issue.lean ====
section
/-! DEFINITION. What stands around the meaning of an instruction in a step: fetching and classifying the next word of a
split (R51-R59, R74-R76, R449), the scheduler's choice (R361, R99), the events a part brings forth by itself (log entry 2),
and a program placed where the next step fetches it. -/
namespace Sys2Proof.Machine

/-! ## Classification (R76) -/

/-- The majors and forms a core does not have (R75). -/
def disabled (isG : Bool) (word : Word32) : Bool :=
  let w := word.toNat
  let major := w / 2 ^ 26
  if isG then [0x1F, 0x21, 0x25, 0x26].contains major || (major == 0x24 && [2, 3, 4, 5].contains (w % 2 ^ 7))
  else major == 0x24 && [0, 1].contains (w % 2 ^ 7)

/-- What a fetched word comes to: its instruction, or the emulation cause. `live` is the word after it, none when it is the
last of its overlay. -/
def classify (isG : Bool) (word : Word32) (rep : Option Rep) (live : Option Word32) : Except (BitVec 2) Instr :=
  let major := word.toNat / 2 ^ 26
  if 0x28 ≤ major ∧ major < 0x30 then .error 2
  else if 0x30 ≤ major ∧ major < 0x38 then .error 0
  else if 0x38 ≤ major then .error 3
  else if disabled isG word then .error 1
  else if bit word 25 && (match live with | none => true | some l => l.toNat % 32 != 0) then .error 0
  else
    match decode (match rep with | some r => stepWord word r | none => word) with
    | .ok i => .ok i
    | .error _ => .error 0

/-- The instruction that a word issues: itself, or the entry of the emulation handler (R76, R285). -/
def issued (isG : Bool) (word : Word32) (rep : Option Rep) (live : Option Word32) : Instr :=
  match classify isG word rep live with
  | .ok i => i
  | .error c => .emulationEntry c word (live.getD 0)

/-! ## Before the issue -/

/-- What the next issue of a split comes to: an instruction, or something that happens in its place. -/
inductive Fetched where
  | instr (i : Instr)
  | instead (s : State)


/-- The next word of split k (R51, R396, R449, R450). -/
def State.fetchNext (s : State) (k : Nat) : Fetched :=
  let g := gidOf k
  let p := s.sp k
  match s.restoreDone g with
  | (t, false) => .instead (if (t.sp k).valid then t.waitFor k .operand else t)
  | (s, true) =>
    match p.eccu with
    | some x => .instead (s.takeEccu k x)
    | none =>
      match s.overlayOf (coreOf g) (s.gr g).ctx (pcId p.pc) with
      | none => .instead (if sysId ≤ pcId p.pc then s.trap k (s.uniTrap k cApert) else s.ensureCode k)
      | some _ =>
        match s.fetch g p.pc with
        | none => .instead (s.trap k (s.uniTrap k cApert))
        | some w => .instr (issued (s.isG (coreOf g)) w p.rep (s.fetch g (pcAdd p.pc 1)))

/-- After an issue of split k, which was `was`: its age begins anew, unless it yielded or waits; while its context is being saved it
may stop here (R99, R361, R366). -/
def State.afterIssue (s : State) (k : Nat) (was : Split) : State :=
  let p := s.sp k
  let s := if p.valid && p.wait == .none && !p.yielded then s.setSp k { p with readySince := s.stepNo, aged := false } else s
  if was.mode = .normal then s.stopHere k was.pc else s

/-! ## The schedulers (R361) -/

/-- The split can issue: its group runs, its core is in service and not under test. -/
def State.mayIssue (s : State) (k : Nat) : Bool :=
  let p := s.sp k
  let g := gidOf k
  let c := s.cx (s.gr g).ctx
  let d := s.di (dieOf (coreOf g))
  p.valid && p.wait == .none && (s.gr g).live && (c.state == .running || (c.state == .saving && !c.forced))
  && d.state == 1 && !d.tests.contains (3, coreOf g % 64)

/-- The splits that can issue. -/
def State.readySplits (s : State) : List Nat := (mkeys s.splits).filter s.mayIssue

/-- The scheduler of a split: its core, and its slot modulo 4. -/
def schedOf (k : Nat) : Nat := coreOf (gidOf k) * 4 + gidOf k % 4

/-- The oldest of a list of splits. -/
def State.oldest (s : State) (ks : List Nat) : Option Nat :=
  ks.foldl (fun (m : Option Nat) k => match m with
    | none => some k
    | some j => if (s.sp k).readySince < (s.sp j).readySince then some k else some j) none

/-- The split has been ready for 224 cycles or more. -/
def State.pastAge (s : State) (k : Nat) : Bool :=
  let p := s.sp k
  p.aged || decide (224 ≤ cyclesIn (dieOf (coreOf (gidOf k))) p.readySince (s.stepNo - p.readySince))

/-- A scheduler's pick: the oldest split past the age threshold, else the oldest of the highest class, a split that has
just yielded after the others. -/
def State.pick (s : State) (ks : List Nat) : Option Nat :=
  match ks with
  | [k] => some k
  | _ =>
    match s.oldest (ks.filter s.pastAge) with
    | some k => some k
    | none =>
      let fresh := ks.filter fun k => !(s.sp k).yielded
      let ks := if fresh.isEmpty then ks else fresh
      let top := ks.foldl (fun m k => max m (s.gr (gidOf k)).cls) 0
      s.oldest (ks.filter fun k => (s.gr (gidOf k)).cls == top)

/-- The split that issues in this step: the head of `turn` if it can, else the pick of a scheduler, each in its turn (log
entry 2). -/
def State.nextSplit (s : State) : Option Nat :=
  match s.turn.head? with
  | some k => if s.mayIssue k then some k else none
  | none =>
    let ks := s.readySplits
    let scheds := (ks.map schedOf).dedup
    match scheds[s.stepNo / 2 % scheds.length]? with
    | some x => s.pick (ks.filter fun k => schedOf k == x)
    | none => none

/-- A yield has been honoured once its scheduler picks (R99). -/
def State.clearYields (s : State) (k : Nat) : State :=
  { s with splits := s.splits.map fun p =>
      (p.1, if p.2.yielded ∧ schedOf p.1 = schedOf k then { p.2 with yielded := false } else p.2) }

/-! ## What the part brings forth by itself (log entry 2) -/

/-- The events that accesses and engines in flight lead to. -/
def State.engineEvents (s : State) : List Instr :=
  (s.ops.flatMap fun o => ((o.units.zipIdx).filter fun u => !u.1.done).map fun u =>
      if o.isLoad then Instr.loadDataReturn o.id u.2 else Instr.storePerformed o.id u.2)
  ++ ((s.copies.filter fun c => !c.parked).map fun c => if c.over then Instr.copyComplete c.id else Instr.copyGranuleWrite c.id)
  ++ ((s.passes.filter fun p => s.opsFree p.core (s.tilesBefore p.core p.id) p.ops).map fun p => Instr.matrixPass p.core p.id)
  ++ ((s.fills.filter fun f => !f.waitsEvict).map fun f => Instr.overlayFillComplete f.id)
  ++ ((s.rays.filter fun r => !r.parked).map fun r => Instr.rayQueryComplete r.id)

/-- Untracked sectors that hold bytes no other agent has seen, in an L1 or in a die's L2: in time each is written back (R315, R329). -/
def State.dirtySecs (s : State) : List (Nat × Nat) :=
  let l1 := s.l1.filterMap fun p => match p.2 with
    | some x => if x.cls ≤ 1 ∧ x.dirty ≠ 0 then some (dieOf (p.1 / 2 ^ 52), p.1 % 2 ^ 52) else none
    | none => none
  let l2 := (s.l2.filter fun p => p.2.state == 3 && !p.2.tracked).map fun p => (p.1 / 2 ^ 52, p.1 % 2 ^ 52)
  ((l1 ++ l2).dedup).filter fun x => !s.reqs.any fun q => q.kind == 6 && q.die == x.1 && q.sector == x.2

/-- The coherence messages on their way, and the write-backs of which a die decides by itself. -/
def State.coherenceEvents (s : State) : List Instr :=
  (s.reqs.map fun q => match q.kind with
    | 0 => Instr.rds q.die q.sector | 1 => Instr.rdx q.die q.sector | 2 => Instr.upg q.die q.sector | 3 => Instr.rdu q.die q.sector
    | 4 => Instr.wrb q.die q.sector | 5 => Instr.wrc q.die q.sector | 6 => Instr.wrm q.die q.sector | 7 => Instr.wrt q.die q.sector
    | _ => Instr.rdx q.die q.sector)
  ++ (s.dirtySecs.map fun x => if s.ownerOf x.2 = some x.1 then Instr.wrb x.1 x.2 else Instr.wrm x.1 x.2)
  ++ (s.recalls.filter fun r => r.answered || r.die != switchDie).map fun r =>
    if r.answered then Instr.coherenceAck r.die r.sector else if r.inval then Instr.invalidation r.die r.sector else Instr.downgrade r.die r.sector

/-- What waiting splits wait for. -/
def State.splitEvents (s : State) : List Instr :=
  s.splits.flatMap fun p => match p.2.wait with
    | .emuLevel => [Instr.emulationLevelWaitEnd p.1]
    | .trapBank => [Instr.trapBankWaitEnd p.1]
    | .waitv ws v => if (s.waitvLook p.1 ws v).2 then [Instr.waitvWake p.1] else []
    | .commit => if s.splitInFlight p.1 then [] else [Instr.regionCommit p.1]
    | _ => []

/-- The command processors, the distributor and the contexts. -/
def State.commandEvents (s : State) : List Instr :=
  ((mkeys s.partitions).flatMap fun n => match s.chosenHead n with
    | some (c, q) => (match s.cmdOp (s.qu c q) with
      | 0 => [Instr.nopCommand c q] | 1 => [Instr.launch c q] | 2 => [Instr.draw c q] | 3 => [Instr.waitCommand c q] | 4 => [Instr.signal c q]
      | _ => [Instr.nopCommand c q])
    | none => [])
  ++ (s.ctxs.flatMap fun c => ((mkeys c.2.queues).filter fun q => s.waitsAt c.1 q && match s.lookWait c.1 (s.qu c.1 q) 0 (s.waitCount (s.qu c.1 q)) with
      | .unmet _ => false
      | _ => true).map fun q => Instr.waitCommandPoll c.1 q)
  ++ ((mkeys s.ctxs).filter s.mayResume).map (fun c => Instr.contextResume c)
  ++ ((mkeys s.partitions).flatMap fun n => (s.waitingLaunches n).map fun l => Instr.teamPlacement l.1)
  ++ ((s.launches.filter fun l => l.2.live && l.2.draw.isNone && l.2.retired == l.2.total).map fun l => Instr.endOfLaunch l.1)
  ++ (((mkeys s.draws).filter s.drawDone).map fun d => Instr.drawEnd d)
  ++ ((s.ctxs.filter fun c => c.2.state == .saving).map fun c => Instr.saveComplete c.1)
  ++ ((s.ctxs.filter fun c => c.2.invBusy).map fun c => Instr.invalidationComplete c.1)
  ++ (s.cores.filter fun c => c.2.pending).map fun c => Instr.carveComplete c.1

/-- The graphics units, and the Tailstock's signing. -/
def State.graphicsEvents (s : State) : List Instr :=
  ((s.teams.filter fun t => match t.2.mesh with | some r => r.closed && s.meshOpen t.2 | none => false).map fun t => Instr.meshletCompressDone t.1)
  ++ (s.faceplate.map fun m => match m.2.2 with
    | .beacon _ _ => Instr.frontierBeacon m.1 m.2.1
    | _ => Instr.visibilityPacket m.1 m.2.1)
  ++ (((s.released.filter fun q => !q.2.parked).map fun q => q.1).dedup.map fun d => Instr.rasterisePacket d)
  ++ ((s.pix.filter fun p => !p.parked && p.gid.isSome && (s.nextOut p).isSome).map fun p => Instr.blendApply p.id)
  ++ if s.tail.signing then [Instr.attestationReportDone] else []

/-- What the part may do next by itself. -/
def State.ownEvents (s : State) : List Instr :=
  s.engineEvents ++ s.coherenceEvents ++ s.splitEvents ++ s.commandEvents ++ s.graphicsEvents

/-- What time alone brings when nothing else can happen. -/
def State.idleEvents (s : State) : List Instr :=
  (s.splits.flatMap fun p => match p.2.wait with | .waitv _ _ => [Instr.waitvTimeout p.1] | _ => [])
  ++ (s.ctxs.flatMap fun c => ((c.2.queues.filter fun q => q.2.hasHead && s.cmdOp q.2 == 3).map fun q => Instr.waitCommandPoll c.1 q.1))
  ++ ((s.ctxs.filter fun c => !c.2.prqPoll.isEmpty).map fun c => Instr.prqRptrPoll c.1)
  ++ ((s.ctxs.filter fun c => c.2.state == .saved || (c.2.state == .running && s.saves.any fun x => x.info.ctx == c.1)).map fun c =>
      Instr.contextResume c.1)
  ++ s.filter.map fun p => Instr.rdx (s.dirAt p.1).home p.1

/-- One of a list of events, each in its turn; `n` steps on from one turn to the next. -/
def inTurn (n : Nat) (es : List Instr) : Option Instr := es[n % es.length]?

/-- The event of the part's own that is next: every second one is a coherence message, while there is one on its way. -/
def State.ownNext (s : State) : Option Instr :=
  let c := s.coherenceEvents
  if c.isEmpty then inTurn (s.stepNo / 2) s.ownEvents
  else inTurn (s.stepNo / 4) (if s.stepNo / 2 % 2 = 1 then c else s.ownEvents)

/-- What a step does. -/
inductive Turn where
  /-- an event happens -/
  | event (i : Instr)
  /-- a split issues -/
  | split (k : Nat)
  /-- nothing can happen -/
  | idle
  deriving DecidableEq, Repr

/-- Events of the agenda first; then splits in odd steps and the part's own events in even ones, as far as there are any
(log entry 2). Without power there is only POWER_ON. -/
def State.turnOf (s : State) : Turn :=
  if !s.tail.power then (if s.agenda.head? = some .powerOn then .event .powerOn else .idle)
  else match s.agenda.head? with
  | some i => .event i
  | none =>
    let ev := s.ownNext
    let sp := s.nextSplit
    if s.stepNo % 2 = 1 then
      match sp, ev with
      | some k, _ => .split k
      | none, some i => .event i
      | none, none => match inTurn (s.stepNo / 2) s.idleEvents with | some i => .event i | none => .idle
    else
      match ev, sp with
      | some i, _ => .event i
      | none, some k => .split k
      | none, none => match inTurn (s.stepNo / 2) s.idleEvents with | some i => .event i | none => .idle

/-- The machine at the start of a step: its number, and the agenda and the turns without what is taken from them. -/
def State.begin' (s : State) : State :=
  { s with stepNo := s.stepNo + 1, agenda := s.agenda.tail, turn := if s.agenda.isEmpty then s.turn.tail else s.turn }

/-- The machine with split k about to issue. -/
def State.serve' (s : State) (k : Nat) : State := { s.clearYields k with cur := k }

/-- What follows at once from a step, partition changes that were waiting included (R377). -/
def State.after (s : State) : State :=
  let s := s.settleBoot.settle.settleHost.settleSaves
  (mkeys s.partitions).foldl State.applyWant s

/-! ## A program in the Chuck -/

/-- Dies of the part's record, all in service. -/
def State.allDies (s : State) : Map Die :=
  (0, { kind := 0, state := 1, incarn := 1 })
    :: (List.range (s.part.g + s.part.s + s.part.m)).filterMap fun i => (s.part.siteKind i).map fun k =>
        (i + 1, ({ kind := k.1, state := 1, incarn := 1, site := i, ord := k.2, coresIn := coresOf k.1 } : Die))

/-- The first core of the first S-die, or of the first G-die for a word that only a G-core has (R75). -/
def State.placeCore (s : State) (w : Nat) : Nat := if disabled false (BitVec.ofNat 32 w) then 64 else 64 * (s.part.g + 1)

/-- One context, one launch, one team, one group with one split at offset 0 of an overlay that holds the word. -/
def State.placeWord (s : State) (w : Nat) : State :=
  let core := s.placeCore w
  let g := 32 * core
  { s with
    agenda := [], turn := [4 * g], stepNo := s.stepNo + s.stepNo % 2, nextId := s.nextId + 2,
    tail := { s.tail with power := true, phase := 5 },
    dies := s.allDies,
    ctxs := mset {} s.ctxs 0 { state := .running },
    partitions := mset {} s.partitions 0 { w0 := BitVec.ofNat 64 (2 ^ s.part.s - 1 + 2 ^ 16 * (2 ^ s.part.g - 1) + 2 ^ 31), w1 := 4096 },
    launches := mset {} s.launches s.nextId { live := true, next := 1 },
    teams := mset {} s.teams (s.nextId + 1) { live := true, launch := s.nextId, core := core, groups := [g], slots := 1, rows := 64 },
    groups := mset {} s.groups g { live := true, team := s.nextId + 1 },
    splits := mset {} s.splits (4 * g) { valid := true, mask := BitVec.allOnes 32 },
    overlays := [{ core := core, ctx := 0, id := 0, slots := [0] }],
    chuck := if BitVec.ofNat 32 w = 0 then [] else [(core * 64 * 1024, BitVec.ofNat 32 w)] }

end Sys2Proof.Machine
end

