-- ==== Sys2Proof/Machine/Step.lean ====
section
/-! DEFINITION. One step of the machine: an event happens, or a split issues its next word. -/
namespace Sys2Proof.Machine

/-- What follows at once from an outcome. -/
def finish (o : Host.Outcome State Fault Refusal) (f : State → State) : Host.Outcome State Fault Refusal :=
  match o with
  | .next t => .next (f t).after
  | .fault r => .fault r
  | .refused r => .refused r

/-- Split k issues its next word. -/
def issueOf (s : State) (k : Nat) : Host.Outcome State Fault Refusal :=
  let s := s.serve' k
  match s.fetchNext k with
  | .instead t => .next t.after
  | .instr i => finish (exec i s) fun t => t.afterIssue k (s.sp k)

/-- One step (log entry 2 says which agent moves). -/
def step (s : State) : Host.Outcome State Fault Refusal :=
  let t := s.begin'
  match ({ t with agenda := s.agenda, turn := s.turn } : State).turnOf with
  | .event i => finish (exec i t) id
  | .split k => issueOf t k
  | .idle => .next t.after

/-- The instruction whose bits are w, placed as the next that step fetches. -/
def State.withFetchWord (s : State) (nbits w : Nat) : State := s.placeWord (w % 2 ^ nbits)

end Sys2Proof.Machine
end

