-- ==== Sys2Proof/Safety.lean ====
section
/-! DEFINITION. The terms in which statements about the machine are made: when an encoded instruction may run its effect, and
what a step leaves alone. -/
namespace Sys2Proof.Machine

/-! ## When an instruction has its effect -/

/-- The issuing split is valid and in no atomic region. -/
def State.acts (s : State) : Prop := s.me.valid = true ∧ s.me.mode ≠ .region

/-- No register that an instruction uses is awaited, or held by another split's open region (R37, R174, R222). -/
def State.free (s : State) (u : Uses) : Prop := s.stalled s.cur u = false

/-! ## What a step leaves alone -/

/-- Every byte of local memory and of the host's reads as before. -/
def SameBytes (s t : State) : Prop :=
  (∀ a, byteAt t.mem a = byteAt s.mem a) ∧ (∀ a, byteAt t.hostMem a = byteAt s.hostMem a)

/-- Every byte of ABUF and WBUF, every accumulator word and every word of the Chuck reads as before. -/
def SameBuffers (s t : State) : Prop :=
  (∀ k, mget 0 t.abuf k = mget 0 s.abuf k) ∧ (∀ k, mget 0 t.wbuf k = mget 0 s.wbuf k)
  ∧ (∀ k, mget 0 t.tiles k = mget 0 s.tiles k) ∧ (∀ k, mget 0 t.chuck k = mget 0 s.chuck k)

/-- Every other split is as before, and the issuing one but for the place where it stands (PC, position in a REP, lanes
still to reissue) and what it waits for. -/
def SameSplits (s t : State) : Prop :=
  (∀ k, k ≠ s.cur → t.sp k = s.sp k)
  ∧ t.sp s.cur = { s.me with pc := (t.sp s.cur).pc, rep := (t.sp s.cur).rep, replay := (t.sp s.cur).replay,
                             wait := (t.sp s.cur).wait }

/-- Nothing differs but the split table, the register files and the sticky flags. -/
def OnlyRegisters (s t : State) : Prop :=
  t = { s with splits := t.splits, sreg := t.sreg, preg := t.preg, vreg := t.vreg, flags := t.flags }

/-- Scalars other than the one under `key` are as before. -/
def SameScalarsBut (s t : State) (key : Nat) : Prop := ∀ j, j ≠ key → mget 0 t.sreg j = mget 0 s.sreg j

/-- Predicates other than the one under `key` are as before. -/
def SamePredsBut (s t : State) (key : Nat) : Prop := ∀ j, j ≠ key → mget 0 t.preg j = mget 0 s.preg j

/-- The keys of the rows that registers `ds` of the issuing split name, in the lanes of its guard set. -/
def State.guardKeys (s : State) (ds : List Nat) : List Nat :=
  (s.glanes s.cur).flatMap fun l => ds.map fun n => vKey s.cg (s.row s.cur n) l

/-- Vector registers are as before outside the guard lanes of registers `ds` (R25). -/
def SameRowsBut (s t : State) (ds : List Nat) : Prop :=
  ∀ j, j ∉ s.guardKeys ds → mget 0 t.vreg j = mget 0 s.vreg j

/-- Sticky flags are as before outside the guard lanes. -/
def SameFlagsBut (s t : State) (ls : List Nat) : Prop :=
  ∀ j, (∀ l ∈ ls, j ≠ s.cg * 32 + l) → mget 0 t.flags j = mget 0 s.flags j

/-! ## Results of the vector forms -/

/-- The type codes of class I, I64 and A (R126), of class F (R153). -/
def typesI : List Nat := [0, 1, 2, 4, 5, 8, 9, 12, 13]
def typesI64 : List Nat := typesI ++ [15]
def typesA : List Nat := List.range 16
def typesF : List Nat := [3, 6, 7]

/-- The type is accepted, and under b64 every register named is even (R65). -/
def State.accepts (s : State) (types ns : List Nat) : Prop :=
  types.contains s.ty = true ∧ (s.wide = true → ∀ n ∈ ns, n % 2 = 0)

/-- A vector form gives register d of each guard lane the value `f` has for the lane, changes nothing else, and moves on; it
does so when its type is accepted and its registers are free. -/
def VecGives (s : State) (e : Bool) (i : Instr) (types : List Nat) (d : Nat) (srcs : List Nat) (f : Nat → Word64) : Prop :=
  s.accepts types (d :: srcs) → s.free { sv := srcs.flatMap (regs s.wide), dv := regs s.wide d } →
  exec i s = .next ((s.putLanes d s.wide f).advance e)

/-- A float form's writes: to each guard lane the words `f` gives for the registers `ds`, and its flags ORed in (R152). -/
def State.putFloat (s : State) (ds : List Nat) (f : Nat → List Word32 × Flags) : State :=
  ((s.glanes s.cur).foldl (fun t l => (ds.zip (f l).1).foldl (fun t p => t.vset t.cur p.1 l p.2) t) s).orLanes
    (s.glanes s.cur) fun l => (f l).2

/-- A float form of class `types` gives each guard lane the words and flags of `f`, and moves on. -/
def FloatGives (s : State) (e : Bool) (i : Instr) (types : List Nat) (ds srcs : List Nat) (f : Nat → List Word32 × Flags) : Prop :=
  types.contains s.ty = true → s.free { sv := srcs, dv := ds } → exec i s = .next ((s.putFloat ds f).advance e)

/-- The value of a scan over the guard lanes up to l, lowest first: the first lane's operand, then `step` (R133). -/
def State.scanUpTo (s : State) (a l : Nat) (step : Word64 → Word64 → Word64) : Word64 :=
  (((s.glanes s.cur).filter fun m => m ≤ l).foldl (fun (acc : Option Word64) m => match acc with
    | none => some (s.opnd a m)
    | some y => some (step y (s.opnd a m))) none).getD 0

/-! ## Rounding (R145-R149) -/

/-- How a rational p/q compares with n/d, and with the root of n/d. -/
def ratio (n d p q : Nat) : Ordering := compare (n * q) (p * d)
def root (n d p q : Nat) : Ordering := compare (n * q ^ 2) (p ^ 2 * d)

/-- A result r that is the value of sign `neg` whose magnitude `value` compares with every rational, rounded into a format of class F
(R145), with its flags (R146, R148) and its flush (R149): a value of the format is kept; between two neighbours the mode chooses; beyond the
largest finite value it chooses between that and the next step of the same binade, which overflows. -/
def Rounds (f : Fmt) (mode : Nat) (ftz neg : Bool) (value : Nat → Nat → Ordering) (r : FRes) : Prop :=
  let x (m : Nat) : Nat := f.exact m
  let least := 2 ^ f.mb
  let top := f.maxFin
  let away : Bool := (mode == 2 && !neg) || (mode == 3 && neg)
  let flushed : FRes := (f.put neg 0, flUF ||| flNX)
  (∀ m ≤ top, value (x m) (2 ^ 149) = .eq → r = if ftz = true ∧ 0 < m ∧ m < least then flushed else (f.put neg m, 0))
  ∧ (∀ m < top, value (x m) (2 ^ 149) = .gt → value (x (m + 1)) (2 ^ 149) = .lt →
      let mid := value (x m + x (m + 1)) (2 ^ 150)
      let up : Bool := away || (mode == 0 && (mid == .gt || (mid == .eq && m % 2 == 1))) || (mode == 4 && mid != .lt)
      let n := if up then m + 1 else m
      -- the value rounded with an unbounded exponent reaches the smallest normal
      let normal : Bool := (away && mid == .gt) || ((mode == 0 || mode == 4) && value (x m + 3 * x (m + 1)) (2 ^ 151) != .lt)
      let tiny := m + 1 < least ∨ (m + 1 = least ∧ normal = false)
      r = if ftz = true ∧ n < least then flushed else (f.put neg n, flNX ||| if tiny then flUF else 0))
  ∧ (value (x top) (2 ^ 149) = .gt →
      let beyond : Bool := away || value (2 * x top - x (top - 1)) (2 ^ 149) != .lt
        || ((mode == 0 || mode == 4) && value (3 * x top - x (top - 1)) (2 ^ 150) != .lt)
      let finite : Bool := mode == 1 || (mode == 2 && neg) || (mode == 3 && !neg)
      r = if beyond then (f.put neg (if finite then top else top + 1), flOF ||| flNX) else (f.put neg top, flNX))

/-! ## Command processors -/

/-- The head of queue q of context c is a good command with this opcode, and the command processor takes it next. -/
def State.atHead (s : State) (c q op : Nat) : Prop :=
  s.serves c = true ∧ (s.qu c q).hasHead = true ∧ s.cmdOk (s.qu c q) = true ∧ s.cmdOp (s.qu c q) = op
  ∧ s.chosenHead (s.cx c).partition = some (c, q)

/-! ## The paths of a group (R16, R17) -/

/-- The masks of a group's paths: those of the split table, and the parked ones. -/
def State.pathMasks (s : State) (g : Nat) : List (BitVec 32) := (s.valids g).map (fun k => (s.sp k).mask) ++ (s.gr g).park.map fun q => q.mask

/-- No lane is in two paths of a group. -/
def State.pathsApart (s : State) (g : Nat) : Prop := (s.pathMasks g).Pairwise fun x y => x &&& y = 0

/-! ## Memory -/

/-- The canonical form of both memories. -/
def State.memOk (s : State) : Prop := Memory.wf s.mem = true ∧ Memory.wf s.hostMem = true

end Sys2Proof.Machine
end

