-- ==== Sys2Proof/Certificates/Slice0/Obligations.lean ====
section
/-! DEFINITION. The statements for the provers. -/

section Statements
open Sys2Proof Sys2Proof.Machine

/-! ## Scalars (R121-R124, R70) -/

/-- R122, R123: the result of every form of major 0x08, and that the form completes with it: sd alone is written. -/
def Sys2Proof.Claims.ScalarResults : Prop :=
  ∀ (s : State) (e : Bool) (d a b : BitVec 5), s.acts →
    let x := s.sget s.cur a.toNat
    let y := s.sget s.cur b.toNat
    let gives (i : Instr) (v : Word64) : Prop := exec i s = .next ((s.sset s.cur d.toNat v).advance e)
    let all (p : Prop) : Word64 → Prop := fun v => (p → v = BitVec.allOnes 64) ∧ (¬ p → v = 0)
    (s.free { ss := [a.toNat, b.toNat], ds := [d.toNat] } →
      gives (.sadd e d a b) (BitVec.ofInt 64 (x.toInt + y.toInt))
      ∧ gives (.ssub e d a b) (BitVec.ofInt 64 (x.toInt - y.toInt))
      ∧ gives (.smul e d a b) (BitVec.ofInt 64 (x.toInt * y.toInt))
      ∧ gives (.smulh e d a b) (BitVec.ofInt 64 (x.toInt * y.toInt / 2 ^ 64))
      ∧ gives (.sdiv e d a b) (if y = 0 then BitVec.allOnes 64 else BitVec.ofInt 64 (x.toInt.tdiv y.toInt))
      ∧ gives (.srem e d a b) (if y = 0 then x else BitVec.ofInt 64 (x.toInt - y.toInt * x.toInt.tdiv y.toInt))
      ∧ gives (.sand e d a b) (x &&& y) ∧ gives (.sor e d a b) (x ||| y) ∧ gives (.sxor e d a b) (x ^^^ y)
      ∧ gives (.sshl e d a b) (BitVec.ofNat 64 (x.toNat * 2 ^ (y.toNat % 64)))
      ∧ gives (.sshr e d a b) (BitVec.ofNat 64 (x.toNat / 2 ^ (y.toNat % 64)))
      ∧ gives (.ssra e d a b) (BitVec.ofInt 64 (x.toInt / 2 ^ (y.toNat % 64)))
      ∧ gives (.smin e d a b) (if x.toInt ≤ y.toInt then x else y) ∧ gives (.smax e d a b) (if x.toInt ≤ y.toInt then y else x)
      ∧ gives (.sminn e d a b) (if x.toNat ≤ y.toNat then x else y) ∧ gives (.smaxn e d a b) (if x.toNat ≤ y.toNat then y else x)
      ∧ (∀ v, all (x = y) v → gives (.scmpEq e d a b) v) ∧ (∀ v, all (x ≠ y) v → gives (.scmpNe e d a b) v)
      ∧ (∀ v, all (x.toInt < y.toInt) v → gives (.scmpLt e d a b) v) ∧ (∀ v, all (x.toInt ≤ y.toInt) v → gives (.scmpLe e d a b) v)
      ∧ (∀ v, all (x.toNat < y.toNat) v → gives (.scmpLtn e d a b) v) ∧ (∀ v, all (x.toNat ≤ y.toNat) v → gives (.scmpLen e d a b) v))
    ∧ (s.free { ss := [a.toNat], ds := [d.toNat] } →
      gives (.snot e d a) (BitVec.allOnes 64 - x) ∧ gives (.smov e d a) x
      ∧ gives (.spopc e d a) (BitVec.ofNat 64 ((List.range 64).countP fun i => x.toNat.testBit i))
      ∧ (∀ n ≤ 64, x.toNat < 2 ^ (64 - n) → (n = 64 ∨ 2 ^ (63 - n) ≤ x.toNat) → gives (.sclz e d a) (BitVec.ofNat 64 n))
      ∧ (∀ v : Word64, (∀ i < 64, bit v i = bit x (63 - i)) → gives (.sbrev e d a) v))

/-- R70, R124: SADDI, SLI and SLIH. -/
def Sys2Proof.Claims.ScalarImmediates : Prop :=
  ∀ (s : State) (e : Bool) (d a : BitVec 5) (i : BitVec 15), s.acts →
    let x := s.sget s.cur a.toNat
    let gives (j : Instr) (v : Word64) : Prop := exec j s = .next ((s.sset s.cur d.toNat v).advance e)
    (s.free { ss := [a.toNat], ds := [d.toNat] } →
      gives (.saddi e d a i) (BitVec.ofInt 64 (x.toInt + i.toInt))
      ∧ gives (.slih e d a i) (BitVec.ofNat 64 (x.toNat * 2 ^ 15 + i.toNat)))
    ∧ (s.free { ds := [d.toNat] } → gives (.sli e d i) (BitVec.ofInt 64 i.toInt))

/-- R70, R122-R124: every scalar form. -/
def Obligations.ScalarForms : Prop := Claims.ScalarResults ∧ Claims.ScalarImmediates

/-- R33, R34: the scalar s0 and the predicate p0 read as constants, and a write to them is discarded; any other register
reads back what was written to it, and no other register of its kind changes. -/
def Obligations.HardwiredRegisters : Prop :=
  ∀ (s : State) (k : Nat),
    (s.sget k 0 = 0 ∧ ∀ v, s.sset k 0 v = s) ∧ (s.pget k 0 = BitVec.allOnes 32 ∧ ∀ v, s.pset k 0 v = s)
    ∧ (∀ n v, n ≠ 0 → (s.sset k n v).sget k n = v) ∧ (∀ n v, n ≠ 0 → (s.pset k n v).pget k n = v)
    ∧ (∀ n m v, n < 32 → m < 32 → n ≠ m → (s.sset k n v).sget k m = s.sget k m)
    ∧ (∀ n m v, n < 8 → m < 8 → n ≠ m → (s.pset k n v).pget k m = s.pget k m)

/-! ## Predicates (R136) -/

/-- R136: the result of every form of major 0x10; all 32 bits of the destination are written. -/
def Obligations.PredicateResults : Prop :=
  ∀ (s : State) (e : Bool) (d a b : BitVec 3) (r : BitVec 5), s.acts →
    let x := s.pget s.cur a.toNat
    let y := s.pget s.cur b.toNat
    let puts (i : Instr) (v : BitVec 32) : Prop := exec i s = .next ((s.pset s.cur d.toNat v).advance e)
    let gives (i : Instr) (v : Word64) : Prop := exec i s = .next ((s.sset s.cur r.toNat v).advance e)
    (s.free { sq := [a.toNat, b.toNat], dq := [d.toNat] } →
      puts (.pand e d a b) (x &&& y) ∧ puts (.por e d a b) (x ||| y) ∧ puts (.pxor e d a b) (x ^^^ y))
    ∧ (s.free { sq := [a.toNat], dq := [d.toNat] } →
      puts (.pnot e d a) (BitVec.allOnes 32 - x) ∧ puts (.pmov e d a) x
      ∧ (x = 0 → puts (.pfirst e d a) 0)
      ∧ ∀ n < 32, bit x n = true → (∀ m < n, bit x m = false) → puts (.pfirst e d a) (BitVec.ofNat 32 (2 ^ n)))
    ∧ (s.free { ss := [r.toNat], dq := [d.toNat] } → puts (.pfrom e d r) (BitVec.ofNat 32 (s.sget s.cur r.toNat).toNat))
    ∧ (s.free { sq := [a.toNat], ds := [r.toNat] } →
      gives (.pto e a r) (BitVec.ofNat 64 x.toNat)
      ∧ gives (.ppopc e a r) (BitVec.ofNat 64 ((List.range 32).countP fun i => x.toNat.testBit i)))

/-! ## Vector integers (R125-R128) -/

/-- R125-R128: the forms of majors 0x0C to 0x0E with the types they accept, and per element the exact value that is wrapped,
or clamped under SAT where the form is so marked. -/
def Obligations.VectorIntegerResults : Prop :=
  ∀ (s : State) (e : Bool) (d a b : BitVec 6) (i : BitVec 13), s.acts →
    let w := elW s.ty
    let x (l : Nat) := s.opnd a.toNat l
    let y (l : Nat) := s.opnd b.toNat l
    let z (l : Nat) := s.opnd d.toNat l
    let sat (f : Int → Int → Int → Int) (l : Nat) := mapInt s.ty s.sat f (x l) (y l) (z l)
    let wrap (f : Int → Int → Int → Int) (l : Nat) := mapInt s.ty false f (x l) (y l) (z l)
    let raw (f : Nat → Nat → Nat → Nat) (l : Nat) := mapEl s.ty f (x l) (y l) (z l)
    let two (j : Instr) (types : List Nat) (f : Nat → Word64) : Prop := VecGives s e j types d.toNat [a.toNat, b.toNat] f
    let three (j : Instr) (types : List Nat) (f : Nat → Word64) : Prop := VecGives s e j types d.toNat [a.toNat, b.toNat, d.toNat] f
    let one (j : Instr) (types : List Nat) (f : Nat → Word64) : Prop := VecGives s e j types d.toNat [a.toNat] f
    two (.vadd e d a b) typesI64 (sat fun p q _ => p + q) ∧ two (.vsub e d a b) typesI64 (sat fun p q _ => p - q)
    ∧ two (.vmul e d a b) typesI (sat fun p q _ => p * q) ∧ two (.vmulh e d a b) typesI (wrap fun p q _ => p * q / 2 ^ w)
    ∧ three (.vmad e d a b) typesI (sat fun p q r => p * q + r)
    ∧ two (.vand e d a b) typesA (raw fun p q _ => p &&& q) ∧ two (.vor e d a b) typesA (raw fun p q _ => p ||| q)
    ∧ two (.vxor e d a b) typesA (raw fun p q _ => p ^^^ q) ∧ one (.vnot e d a) typesA (raw fun p _ _ => 2 ^ w - 1 - p)
    ∧ two (.vshl e d a b) typesI64 (raw fun p q _ => p * 2 ^ (q % w)) ∧ two (.vshr e d a b) typesI64 (raw fun p q _ => p / 2 ^ (q % w))
    ∧ two (.vsra e d a b) typesI64 (raw fun p q _ => wrapTo w (elInt true w p / 2 ^ (q % w)))
    ∧ two (.vmin e d a b) typesI (wrap fun p q _ => if p ≤ q then p else q) ∧ two (.vmax e d a b) typesI (wrap fun p q _ => if p ≤ q then q else p)
    ∧ one (.vabs e d a) typesI (sat fun p _ _ => |p|) ∧ one (.vneg e d a) typesI (sat fun p _ _ => 0 - p)
    ∧ one (.vmov e d a) typesA x
    ∧ three (.vbsel e d a b) typesA (raw fun p q r => (r &&& p) ||| ((2 ^ w - 1 - r) &&& q))
    ∧ one (.vpopc e d a) typesI (raw fun p _ _ => (List.range 32).countP fun j => p.testBit j)
    ∧ one (.vclz e d a) typesI (raw fun p _ _ => w - if p = 0 then 0 else Nat.log2 p + 1)
    ∧ two (.vavg e d a b) typesI (wrap fun p q _ => (p + q + 1) / 2)
    ∧ two (.vdiv e d a b) typesI (wrap fun p q _ =>
        if q = 0 then -1
        else if p = elMin (elSigned s.ty) w ∧ q = -1 ∧ s.sat then elMax (elSigned s.ty) w else p.tdiv q)
    ∧ two (.vrem e d a b) typesI (wrap fun p q _ => if q = 0 then p else p - q * p.tdiv q)
    ∧ one (.vaddi e d a i) typesI64 (sat fun p _ _ => p + i.toInt)
    ∧ VecGives s e (.vli e d i) typesA d.toNat [] (fun _ => mapEl s.ty (fun _ _ _ => wrapTo w i.toInt) 0 0 0)

/-- R125: what the results above mean: element j of the value is the exact result for the elements j of the operands, clamped
to the element's range or wrapped to its width; and a masked write puts the value into each guard lane. -/
def Obligations.ElementsAndMask : Prop :=
  (∀ (t : Nat) (sat : Bool) (f : Int → Int → Int → Int) (x y z : Word64) (j : Nat), t < 16 → j < elN t →
    let w := elW t
    let v := f (elInt (elSigned t) w (el w x j)) (elInt (elSigned t) w (el w y j)) (elInt (elSigned t) w (el w z j))
    let lo := if elSigned t then -(2 ^ (w - 1) : Int) else 0
    let hi := if elSigned t then (2 ^ (w - 1) : Int) - 1 else 2 ^ w - 1
    (el w (mapInt t sat f x y z) j : Int) = (if sat = true ∧ t ≠ 15 then max lo (min hi v) else v) % 2 ^ w)
  ∧ (∀ (s : State) (n : Nat) (f : Nat → Word64) (l : Nat), l < 32 → n < 64 →
      (s.putLanes n false f).vget s.cur n l = if bit (s.guard s.cur) l then (f l).setWidth 32 else s.vget s.cur n l)
  ∧ ∀ (s : State) (n : Nat) (f : Nat → Word64) (l : Nat), l < 32 → n + 1 < 64 → n % 2 = 0 →
      (s.putLanes n true f).vget64 s.cur n l = if bit (s.guard s.cur) l then f l else s.vget64 s.cur n l

/-- R128-R133: the forms of major 0x0F. -/
def Obligations.PermuteResults : Prop :=
  ∀ (s : State) (e : Bool) (d a b : BitVec 6) (r n : BitVec 5) (o : BitVec 3), s.acts →
    let w := elW s.ty
    let x (l : Nat) := (s.vget s.cur a.toNat l).toNat
    let y (l : Nat) := (s.vget s.cur b.toNat l).toNat
    let z (l : Nat) := (s.vget s.cur d.toNat l).toNat
    let pos (l : Nat) := y l % 32
    let len (l : Nat) := min (y l / 256 % 64) 32
    -- a row as a lane of the group sees it across lanes: an exited lane reads zero
    let row (n l : Nat) : Word32 := if bit s.grp.exited l then 0 else s.vget s.cur n l
    let puts (i : Instr) (f : Nat → Word64) : Prop := exec i s = .next ((s.putLanes d.toNat s.wide f).advance e)
    let gives (i : Instr) (v : Word64) : Prop := exec i s = .next ((s.sset s.cur r.toNat v).advance e)
    -- VBFE, VBFI, VPRMT
    VecGives s e (.vbfe e d a b) [0, 1, 2] d.toNat [a.toNat, b.toNat] (fun l =>
        let v : Nat := x l / 2 ^ pos l % 2 ^ len l
        let i : Int := if s.ty = 1 ∧ 1 ≤ len l ∧ 2 ^ (len l - 1) ≤ v then (v : Int) - 2 ^ len l else v
        BitVec.ofNat 64 (i % 2 ^ 32).toNat)
    ∧ (∀ f : Nat → Word64, (∀ l, (f l).toNat < 2 ^ 32 ∧ ∀ i < 32, bit (f l) i =
        if pos l ≤ i ∧ i < pos l + len l then (x l).testBit (i - pos l) else (z l).testBit i) →
      VecGives s e (.vbfi e d a b) [0, 1, 2] d.toNat [a.toNat, b.toNat, d.toNat] f)
    ∧ (∀ f : Nat → Word64, (∀ l, (f l).toNat < 2 ^ 32 ∧ ∀ i < 4,
        let sel := z l / 16 ^ i % 16
        let byte := (x l + 2 ^ 32 * y l) / 256 ^ (sel % 8) % 256
        (f l).toNat / 256 ^ i % 256 = if sel < 8 then byte else if byte < 128 then 0 else 255) →
      VecGives s e (.vprmt e d a b) (List.range 15) d.toNat [a.toNat, b.toNat, d.toNat] f)
    -- VSHUF, VBCAST
    ∧ (s.ty ≠ 15 → s.free { sv := [a.toNat, b.toNat], dv := [d.toNat], cross := true } →
      puts (.vshuf e d a b) fun l => (row a.toNat (y l % 32)).setWidth 64)
    ∧ ((s.wide = true → d.toNat % 2 = 0) → s.free { ss := [r.toNat], dv := regs s.wide d.toNat } →
      puts (.vbcast e d r) fun _ => s.sget s.cur r.toNat)
    -- VEXT and VPACKB write nothing when G is empty
    ∧ ((s.wide = true → a.toNat % 2 = 0) → s.free { sv := regs s.wide a.toNat, ds := [r.toNat], cross := true } →
      (s.guard s.cur = 0 → exec (.vext e r a n) s = .next (s.advance e))
      ∧ (s.guard s.cur ≠ 0 → gives (.vext e r a n)
          (if s.wide then pair64 (row (a.toNat + 1) n.toNat) (row a.toNat n.toNat) else (row a.toNat n.toNat).setWidth 64)))
    ∧ (s.ty < 8 → s.free { sv := [a.toNat], ds := [r.toNat] } →
      (s.guard s.cur = 0 → exec (.vpackb e r a) s = .next (s.advance e))
      ∧ (s.guard s.cur ≠ 0 → ∀ v : Word64, (∀ i < 64, bit v i =
          (bit (s.guard s.cur) (i / elN s.ty) && (x (i / elN s.ty)).testBit (w * (i % elN s.ty)))) → gives (.vpackb e r a) v))
    -- VSCAN, VREDUCE
    ∧ (∀ step : Word64 → Word64 → Word64,
        (o.toNat = 0 → step = fun p q => mapInt s.ty s.sat (fun i j _ => i + j) p q 0) →
        (o.toNat = 1 → step = fun p q => mapInt s.ty false (fun i j _ => min i j) p q 0) →
        (o.toNat = 2 → step = fun p q => mapInt s.ty false (fun i j _ => max i j) p q 0) →
        (o.toNat = 3 → step = fun p q => mapEl s.ty (fun i j _ => i &&& j) p q 0) →
        (o.toNat = 4 → step = fun p q => mapEl s.ty (fun i j _ => i ||| j) p q 0) →
        (o.toNat = 5 → step = fun p q => mapEl s.ty (fun i j _ => i ^^^ j) p q 0) → o.toNat ≤ 5 →
      VecGives s e (.vscan e d a o) typesI d.toNat [a.toNat] (fun l => s.scanUpTo a.toNat l step)
      ∧ VecGives s e (.vreduce e d a o) typesI d.toNat [a.toNat] (fun _ => s.scanUpTo a.toNat 31 step))

/-! ## Compares (R134, R135) -/

/-- The constructors of VCMP.rel and VCMPV.rel by the number of their relation. -/
def Sys2Proof.vcmpOf (rel : Nat) : Bool → BitVec 3 → BitVec 6 → BitVec 6 → Instr :=
  match rel with
  | 0 => .vcmpEq | 1 => .vcmpNe | 2 => .vcmpLt | 3 => .vcmpLe | 4 => .vcmpGt | 5 => .vcmpGe | _ => .vcmpUn
def Sys2Proof.vcmpvOf (rel : Nat) : Bool → BitVec 6 → BitVec 6 → BitVec 6 → Instr :=
  match rel with
  | 0 => .vcmpvEq | 1 => .vcmpvNe | 2 => .vcmpvLt | 3 => .vcmpvLe | 4 => .vcmpvGt | 5 => .vcmpvGe | _ => .vcmpvUn

/-- R134: VCMP writes its bit for each guard lane and keeps the others; VCMPV writes ones or zero into each element. Relations
and flags are those of `relEl`, which the next statement describes. -/
def Sys2Proof.Claims.CompareResults : Prop :=
  ∀ (s : State) (e : Bool) (rel : Nat) (p : BitVec 3) (d a b : BitVec 6), s.acts → rel < 7 →
    let w := elW s.ty
    let r (i l : Nat) := relEl s.ty s.ftz rel (el w (s.opnd a.toNat l) i) (el w (s.opnd b.toNat l) i)
    (s.accepts [0, 1, 2, 3, 15] [a.toNat, b.toNat] →
      s.free { sv := regs s.wide a.toNat ++ regs s.wide b.toNat, dq := [p.toNat] } →
      ∀ v : BitVec 32, (∀ l < 32, bit v l = if bit (s.guard s.cur) l then (r 0 l).1 else bit (s.pget s.cur p.toNat) l) →
        exec (vcmpOf rel e p a b) s = .next (((s.pset s.cur p.toNat v).orLanes (s.glanes s.cur) fun l => (r 0 l).2).advance e))
    ∧ FloatGives s e (vcmpvOf rel e d a b) (List.range' 4 11) [d.toNat] [a.toNat, b.toNat] (fun l =>
        ([lo32 (packEl w (elN s.ty) fun i => if (r i l).1 then 2 ^ w - 1 else 0)],
         (List.range (elN s.ty)).foldl (fun f i => f ||| (r i l).2) 0))

/-- R134, R135: the relations. Integers compare by their type's signedness and set no flag. Of floats every relation but un
is false with a NaN, and un is true; subnormals compare as zero under FTZ; otherwise the values compare, -0 equal to +0, an
infinity beyond every finite value. NV is set for a signalling NaN, and for any NaN under lt, le, gt and ge. -/
def Sys2Proof.Claims.CompareRelations : Prop :=
  ∀ (t rel x y : Nat) (ftz : Bool), t < 16 → rel < 7 → x < 2 ^ elW t → y < 2 ^ elW t →
    let holds (i j : Int) : Bool := match rel with
      | 0 => decide (i = j) | 1 => decide (i ≠ j) | 2 => decide (i < j) | 3 => decide (i ≤ j) | 4 => decide (j < i) | 5 => decide (j ≤ i)
      | _ => false
    (fmtOf t = none → relEl t ftz rel x y = (holds (elInt (elSigned t) (elW t) x) (elInt (elSigned t) (elW t) y), 0))
    ∧ ∀ f, fmtOf t = some f →
      let value (x : Nat) : Int :=
        if f.isInf x then (if f.neg x then -(2 ^ 400) else 2 ^ 400) else if ftz && f.isSub x then 0 else f.signed x
      let nan := f.isNan x || f.isNan y
      (nan = true → (relEl t ftz rel x y).1 = decide (rel = 6)) ∧ (nan = false → (relEl t ftz rel x y).1 = holds (value x) (value y))
      ∧ (relEl t ftz rel x y).2 =
          if f.isSnan x ∨ f.isSnan y ∨ (nan = true ∧ 2 ≤ rel ∧ rel ≤ 5) then flNV else 0

/-- R134, R135: the compares and their relations. -/
def Obligations.Compares : Prop := Claims.CompareResults ∧ Claims.CompareRelations

/-! ## Floating point (R153-R169) -/

/-- R153-R159: the forms of majors 0x12 to 0x14 act on every element of each guard lane and OR their flags into it. -/
def Sys2Proof.Claims.FloatForms : Prop :=
  ∀ (s : State) (e : Bool) (d a b : BitVec 6), s.acts →
    let c := s.fctx
    let w := elW s.ty
    let x (l i : Nat) := el w ((s.vget s.cur a.toNat l).setWidth 64) i
    let y (l i : Nat) := el w ((s.vget s.cur b.toNat l).setWidth 64) i
    let z (l i : Nat) := el w ((s.vget s.cur d.toNat l).setWidth 64) i
    let two (j : Instr) (f : Nat → Nat → FRes) : Prop :=
      FloatGives s e j typesF [d.toNat] [a.toNat, b.toNat] fun l => mapFl s.ty fun i => f (x l i) (y l i)
    let one (j : Instr) (f : Nat → FRes) : Prop := FloatGives s e j typesF [d.toNat] [a.toNat] fun l => mapFl s.ty fun i => f (x l i)
    let three (j : Instr) (f : Nat → Nat → Nat → FRes) : Prop :=
      FloatGives s e j typesF [d.toNat] [a.toNat, b.toNat, d.toNat] fun l => mapFl s.ty fun i => f (x l i) (y l i) (z l i)
    two (.fadd e d a b) c.add ∧ two (.fsub e d a b) c.sub ∧ two (.fmul e d a b) c.mul ∧ two (.fdiv e d a b) c.div
    ∧ two (.fmin e d a b) (c.minmax false) ∧ two (.fmax e d a b) (c.minmax true)
    ∧ two (.fscale e d a b) (fun p q => c.scale p (elInt true c.f.width q))
    ∧ one (.fabs e d a) (fun p => (p % 2 ^ (c.f.width - 1), 0))
    ∧ one (.fneg e d a) (fun p => (if p < 2 ^ (c.f.width - 1) then p + 2 ^ (c.f.width - 1) else p - 2 ^ (c.f.width - 1), 0))
    ∧ one (.frcp e d a) (c.unary 0) ∧ one (.frsq e d a) (c.unary 1) ∧ one (.fsqrt e d a) (c.unary 2) ∧ one (.fexp2 e d a) (c.unary 3)
    ∧ one (.flog2 e d a) (c.unary 4) ∧ one (.fsinp e d a) (c.unary 5) ∧ one (.fcosp e d a) (c.unary 6)
    ∧ three (.fma e d a b) (c.fma false false) ∧ three (.fms e d a b) (c.fma false true) ∧ three (.fnma e d a b) (c.fma true false)

/-- R145-R149, R151, R154, R157-R159: what the rounded operations on elements give: a NaN by the rule for NaNs, the invalid result, an
infinity or a zero with its sign, and otherwise the exact result rounded once (`Rounds`). -/
def Sys2Proof.Claims.RoundedArithmetic : Prop :=
  ∀ (c : FCtx) (x y z : Nat), c.f ∈ [Fmt.fp32, .fp16, .bf16] → c.sat = false → c.mode ≤ 4 →
    x < 2 ^ c.f.width → y < 2 ^ c.f.width → z < 2 ^ c.f.width →
    let f := c.f
    -- FTZ reads a subnormal as a zero of its sign
    let read (v : Nat) : Nat := if c.ftz = true ∧ 0 < f.mag v ∧ f.mag v < 2 ^ f.mb then f.put (f.neg v) 0 else v
    let a := read x
    let b := read y
    let d := read z
    let zero (v : Nat) : Prop := f.mag v = 0
    let inf (v : Nat) : Prop := f.mag v = f.maxFin + 1
    let fin (v : Nat) : Prop := f.mag v ≤ f.maxFin
    let nan (v : Nat) : Prop := f.maxFin + 1 < f.mag v
    let invalid : FRes := (f.canon, flNV)
    let infinity (neg : Bool) : FRes := (f.put neg (f.maxFin + 1), 0)
    let nil (neg : Bool) : FRes := (f.put neg 0, 0)
    -- the first NaN of the inputs, quietened; NV where any signals
    let nans (vs : List Nat) (r : FRes) : Prop := ∀ v n w, vs = n ++ v :: w → (∀ u ∈ n, ¬ nan u) → nan v →
      r.1 = (if v.testBit (f.mb - 1) then v else v + 2 ^ (f.mb - 1))
      ∧ r.2 = if vs.any fun u => f.isNan u && !u.testBit (f.mb - 1) then flNV else 0
    let rounds (neg : Bool) (value : Nat → Nat → Ordering) (r : FRes) : Prop := Rounds f c.mode c.ftz neg value r
    let sum (v : Int) (k : Nat) (zneg : Bool) (r : FRes) : Prop :=
      (v = 0 → r = nil zneg) ∧ (v ≠ 0 → rounds (decide (v < 0)) (ratio v.natAbs (2 ^ k)) r)
    let sign (p q : Bool) : Bool := if p = q then p else c.mode == 3
    let n := f.neg a != f.neg b
    (nans [a, b] (c.add x y) ∧ nans [a, b] (c.sub x y) ∧ nans [a, b] (c.mul x y) ∧ nans [a, b] (c.div x y) ∧ nans [a] (c.scale x z)
      ∧ ∀ op < 7, nans [a] (c.unary op x))
    -- FADD and FSUB
    ∧ (¬ nan y → c.sub x y = c.add x (f.put (!f.neg y) (f.mag y)))
    ∧ (inf a → inf b → c.add x y = if f.neg a = f.neg b then infinity (f.neg a) else invalid)
    ∧ (inf a → fin b → c.add x y = infinity (f.neg a)) ∧ (fin a → inf b → c.add x y = infinity (f.neg b))
    ∧ (fin a → fin b → sum (f.signed a + f.signed b) 149 (sign (f.neg a) (f.neg b)) (c.add x y))
    -- FMUL
    ∧ ((inf a ∧ zero b) ∨ (zero a ∧ inf b) → c.mul x y = invalid)
    ∧ ((inf a ∧ ¬ zero b ∧ ¬ nan b) ∨ (inf b ∧ ¬ zero a ∧ ¬ nan a) → c.mul x y = infinity n)
    ∧ (fin a → fin b → (zero a ∨ zero b) → c.mul x y = nil n)
    ∧ (fin a → fin b → ¬ zero a → ¬ zero b → rounds n (ratio (f.exact a * f.exact b) (2 ^ 298)) (c.mul x y))
    -- FDIV
    ∧ ((inf a ∧ inf b) ∨ (zero a ∧ zero b) → c.div x y = invalid) ∧ (inf a → fin b → c.div x y = infinity n)
    ∧ (fin a → inf b → c.div x y = nil n) ∧ (fin a → ¬ zero a → zero b → c.div x y = ((infinity n).1, flDZ))
    ∧ (zero a → fin b → ¬ zero b → c.div x y = nil n)
    ∧ (fin a → ¬ zero a → fin b → ¬ zero b → rounds n (ratio (f.exact a) (f.exact b)) (c.div x y))
    -- FSCALE
    ∧ (∀ i : Int, (inf a ∨ zero a → c.scale x i = (a, 0))
        ∧ (fin a → ¬ zero a → (0 ≤ i → rounds (f.neg a) (ratio (f.exact a * 2 ^ i.natAbs) (2 ^ 149)) (c.scale x i))
          ∧ (i < 0 → rounds (f.neg a) (ratio (f.exact a) (2 ^ 149 * 2 ^ i.natAbs)) (c.scale x i))))
    -- FRCP, FRSQ and FSQRT
    ∧ (zero a → c.unary 0 x = ((infinity (f.neg a)).1, flDZ) ∧ c.unary 1 x = ((infinity (f.neg a)).1, flDZ) ∧ c.unary 2 x = (a, 0))
    ∧ (inf a → c.unary 0 x = nil (f.neg a) ∧ c.unary 1 x = (if f.neg a then invalid else nil false)
        ∧ c.unary 2 x = (if f.neg a then invalid else (a, 0)))
    ∧ (fin a → ¬ zero a → rounds (f.neg a) (ratio (2 ^ 149) (f.exact a)) (c.unary 0 x)
        ∧ (f.neg a = true → c.unary 1 x = invalid ∧ c.unary 2 x = invalid)
        ∧ (f.neg a = false → rounds false (root (2 ^ 149) (f.exact a)) (c.unary 1 x) ∧ rounds false (root (f.exact a) (2 ^ 149)) (c.unary 2 x)))
    -- FMA, FMS and FNMA
    ∧ ∀ np nd : Bool,
      let p := n != np
      let q := f.neg d != nd
      let bad := (inf a ∧ zero b) ∨ (zero a ∧ inf b)
      let r := c.fma np nd x y z
      (¬ bad → nans [a, b, d] r)
      ∧ (bad → nan d → r.2 = flNV) ∧ (bad → ¬ nan d → r = invalid)
      ∧ (¬ bad → ¬ nan a → ¬ nan b → (inf a ∨ inf b) → inf d → r = if p = q then infinity p else invalid)
      ∧ (¬ bad → ¬ nan a → ¬ nan b → (inf a ∨ inf b) → fin d → r = infinity p) ∧ (fin a → fin b → inf d → r = infinity q)
      ∧ (fin a → fin b → fin d → sum ((if p then -(f.exact a * f.exact b : Int) else f.exact a * f.exact b)
          + (if q then -(f.exact d * 2 ^ 149 : Int) else f.exact d * 2 ^ 149)) 298 (sign p q) r)

/-- R145-R149, R151, R153-R159: the float forms of majors 0x12 to 0x14, and the values of those that round. -/
def Obligations.FloatResults : Prop := Claims.FloatForms ∧ Claims.RoundedArithmetic

/-- R160, R161, R163-R169: the dot products and the conversions, with their types and register groups. -/
def Obligations.DotAndConversionResults : Prop :=
  ∀ (s : State) (e : Bool) (d a b : BitVec 6) (t : BitVec 4), s.acts →
    let src := t.toNat
    let dst := s.ty
    let k := max (elN src) (elN dst)
    let from' := (List.range (k / elN src)).map fun i => a.toNat + i
    let into := (List.range (k / elN dst)).map fun i => d.toNat + i
    let x (l i : Nat) := el (elW src) ((s.vget s.cur (a.toNat + i / elN src) l).setWidth 64) (i % elN src)
    let f := (fmtOf dst).getD .fp32
    let g := (fmtOf src).getD .fp32
    let c : FCtx := { f := f, mode := s.rnd, sat := s.sat && [6, 7, 11].contains dst, ftz := s.ftz }
    let lo : Int := if elSigned dst then -(2 ^ (elW dst - 1)) else 0
    let hi : Int := if elSigned dst then 2 ^ (elW dst - 1) - 1 else 2 ^ elW dst - 1
    -- element i of the source group becomes element i of the destination group
    let conv (j : Instr) (ok : Bool) (h : Nat → FRes) : Prop :=
      ok = true → a.toNat + k / elN src ≤ 64 → d.toNat + k / elN dst ≤ 64 → s.free { sv := from', dv := into } →
      exec j s = .next ((s.putFloat into fun l =>
        ((List.range (k / elN dst)).map fun n => lo32 (packEl (elW dst) (elN dst) fun i => (h (x l (n * elN dst + i))).1),
         (List.range k).foldl (fun fl i => fl ||| (h (x l i)).2) 0)).advance e)
    let floats : List Nat := [3, 6, 7, 10, 11, 14]
    conv (.fcvt e d a t) (floats.contains src && floats.contains dst) (c.cvt g)
    ∧ conv (.frnd e d a t) (src == dst && typesF.contains dst) s.fctx.rnd
    ∧ conv (.fclass e d a t) ([(3, 2), (6, 5), (7, 5), (10, 9), (11, 9), (14, 13)].contains (src, dst)) (fun v => (fclass g v, 0))
    ∧ conv (.f2i e d a t) (floats.contains src && typesI.contains dst) (fun v =>
        let r := f2i g s.rnd s.ftz lo hi v
        ((r.1 % 2 ^ elW dst).toNat, r.2))
    ∧ conv (.i2f e d a t) (typesI.contains src && floats.contains dst) (fun v => c.roundZ false (elInt (elSigned src) (elW src) v) 0)
    ∧ FloatGives s e (.idot e d a b) [4, 5, 8, 9, 12, 13] [d.toNat] [a.toNat, b.toNat, d.toNat] (fun l =>
        let i (v n : Nat) : Int := elInt (elSigned dst) (elW dst) (el (elW dst) ((s.vget s.cur v l).setWidth 64) n)
        let sum := (List.range (elN dst)).foldl (fun acc n => acc + i a.toNat n * i b.toNat n)
          (elInt (elSigned dst) 32 (s.vget s.cur d.toNat l).toNat)
        let lo : Int := if elSigned dst then -(2 ^ 31) else 0
        let hi : Int := if elSigned dst then 2 ^ 31 - 1 else 2 ^ 32 - 1
        ([BitVec.ofInt 32 (if s.sat then max lo (min hi sum) else sum)], 0))
    ∧ FloatGives s e (.fdot e d a b) [6, 7, 10, 11, 14] [d.toNat] [a.toNat, b.toNat, d.toNat] (fun l =>
        let v (r n : Nat) : Nat := el (elW dst) ((s.vget s.cur r l).setWidth 64) n
        let r := ({ f := .fp32, mode := s.rnd, sat := false, ftz := s.ftz } : FCtx).dot f
          ((List.range (elN dst)).map fun n => (v a.toNat n, v b.toNat n)) (s.vget s.cur d.toNat l).toNat
        ([BitVec.ofNat 32 r.1], r.2))

/-! ## Control flow (R93-R118) -/

/-- R93, R59: how an instruction that is done moves its split on: to the fall-through, or to the next iteration of its REP;
nothing else of the machine changes. -/
def Sys2Proof.Claims.MovingOn : Prop :=
  ∀ (s : State) (e : Bool),
    let p := s.me
    let next : BitVec 32 := BitVec.ofNat 32 (p.pc.toNat + if e then 2 else 1)
    let q := (s.advance e).me
    (p.rep = none → q = { p with pc := next, replay := none })
    ∧ (∀ r, p.rep = some r → r.i < r.last → q = { p with rep := some { r with i := r.i + 1 }, replay := none })
    ∧ (∀ r, p.rep = some r → r.last ≤ r.i → q = { p with rep := none, pc := next, replay := none })
    ∧ (∀ k, k ≠ s.cur → (s.advance e).sp k = s.sp k) ∧ s.advance e = { s with splits := (s.advance e).splits }

/-- R96, R99, R58, R294, R59, R102: NOP, YIELD, MODE, PROBE, REP and SPLQ. -/
def Sys2Proof.Claims.PlainControlResults : Prop :=
  ∀ (s : State) (e : Bool), s.acts →
    exec (.nop e) s = .next (s.advance e)
    ∧ exec (.yield e) s = .next ((s.modSp s.cur fun p => { p with yielded := true }).advance e)
    ∧ (∀ (g : BitVec 3) (t : BitVec 4) (r : BitVec 3) (a f : BitVec 1), exec (.mode e g t r a f) s = .next ((s.modSp s.cur fun p =>
        { p with gmode := BitVec.ofNat 12 (512 * g.toNat + 32 * t.toNat + 4 * r.toNat + 2 * a.toNat + f.toNat) }).advance e))
    ∧ (∀ n : BitVec 1, exec (.probe e n) s = .next ((if s.me.mode = .emu ∨ s.me.mode = .trap then
        s.modSp s.cur fun p => { p with ownProbe := n == 1 } else s.modGr s.cg fun g => { g with probe := n == 1 }).advance e))
    ∧ (∀ (c : BitVec 6) (d a b : BitVec 3) (w : Word32), s.fetch s.cg (pcAdd s.me.pc 1) = some w →
        let major := w.toNat / 2 ^ 26
        let barred := major ≤ 0x07 ∨ major = 0x20 ∨ (b ≠ 0 ∧ (major = 0x09 ∨ major = 0x0A ∨ major = 0x0B ∨ major = 0x0D ∨ major = 0x0E))
        (¬ barred → exec (.rep c d a b) s = .next (s.modSp s.cur fun p =>
          { p with pc := pcAdd p.pc 1, rep := some { i := 0, last := c.toNat, sd := d, sa := a, sb := b } }))
        ∧ (barred → exec (.rep c d a b) s = .next s.undef))
    ∧ ∀ d : BitVec 5, s.free { ds := [d.toNat] } → ∃ v : Word64,
        exec (.splq e d) s = .next ((s.sset s.cur d.toNat v).advance e)
        ∧ (∀ i < 4, bit v i = (s.sp (4 * s.cg + i)).valid) ∧ (s.grp.park.length < 16 → v.toNat / 2 ^ 4 % 2 ^ 4 = s.grp.park.length)
        ∧ (s.grp.park.length < 16 → v.toNat / 2 ^ 8 % 2 ^ 24 = s.cur % 4) ∧ (s.grp.park.length < 16 → hi32 v = ~~~ s.grp.exited)

/-- R58, R59, R93, R96, R99, R102, R294: moving on, and the forms that change little besides. -/
def Obligations.ControlAndNextPc : Prop := Claims.MovingOn ∧ Claims.PlainControlResults

/-- R60, R36, R233, R49: WAIT goes on once every counter it names is at most its limit, 63 naming none; a limit on TBC retires the
complete batches, whose flags are ORed into those of the lanes that they name. Otherwise the split waits and nothing else changes. -/
def Obligations.WaitCounters : Prop :=
  ∀ (s : State) (e : Bool) (l t' c t : BitVec 6), s.acts →
    let g := s.grp
    let met := (l.toNat = 63 ∨ g.ldc ≤ l.toNat) ∧ (t'.toNat = 63 ∨ g.stc ≤ t'.toNat) ∧ (c.toNat = 63 ∨ g.cpc ≤ c.toNat)
      ∧ (t.toNat = 63 ∨ g.tbc ≤ t.toNat)
    (met → t.toNat = 63 → exec (.wait e l t' c t) s = .next (s.advance e))
    ∧ (met → t.toNat ≠ 63 → exec (.wait e l t' c t) s = .next ((s.retireBatches s.cg).advance e))
    ∧ (¬ met → exec (.wait e l t' c t) s = .next (s.waitFor s.cur .operand))
    -- retiring the batches of a group
    ∧ ∀ i, let u := s.retireBatches i
      let done := (s.gr i).batches.filter fun b => b.ops == []
      u = { s with groups := u.groups, flags := u.flags } ∧ u.gr i = { s.gr i with batches := (s.gr i).batches.filter fun b => b.ops != [] }
      ∧ (∀ j, j ≠ i → u.gr j = s.gr j)
      ∧ ∀ j l k, l < 32 → k < 5 → bit (u.flag j l) k =
          (bit (s.flag j l) k || (j == i && done.any fun b => b.flags.any fun q => bit q.1 l && bit q.2 k))

/-- R39, R40: what SRD reads of a special register, by number, and the rows that VSRD writes of the two that differ by lane;
a reserved number is undefined. -/
def Sys2Proof.Claims.SpecialRegisterReads : Prop :=
  ∀ (s : State) (e : Bool) (r : BitVec 5) (v : BitVec 6) (n : BitVec 10), s.acts →
    let p := s.me
    let g := s.grp
    let t := s.team
    let k := (s.la t.launch).packet
    let core := s.cc
    let reads (m : Nat) (x : Word64) : Prop :=
      n.toNat = m → s.free { ds := [r.toNat], sq := laneGuard m p.gmode } → exec (.srd e r n) s = .next ((s.sset s.cur r.toNat x).advance e)
    let nat (x : Nat) : Word64 := BitVec.ofNat 64 x
    reads 0x001 (nat g.index) ∧ reads 0x002 (nat t.x) ∧ reads 0x003 (nat t.y) ∧ reads 0x004 (nat t.z)
    ∧ reads 0x005 (nat k.gridX) ∧ reads 0x006 (nat k.gridY) ∧ reads 0x007 (nat k.gridZ) ∧ reads 0x008 (nat t.cluster)
    ∧ reads 0x009 (nat (t.cx + 256 * t.cy)) ∧ reads 0x00A (nat (core % 64 + 256 * (core % 8) + 4096 * (core % 64 / 8)))
    ∧ reads 0x00B (nat (core / 64 + 256 * (s.di (core / 64)).kind)) ∧ reads 0x01A (nat (s.cycles (core / 64)))
    ∧ (∀ w ws, p.mode = .trap → p.traps = w :: ws → reads 0x01C (nat w.cause.toNat) ∧ reads 0x01D (nat w.pc.toNat))
    ∧ reads 0x00C (nat (g.ctx + 256 * s.ctx.fn)) ∧ reads 0x00D k.args
    ∧ reads 0x010 (nat p.gmode.toNat) ∧ reads 0x011 (nat (s.cur % 4)) ∧ reads 0x012 (nat p.mask.toNat)
    ∧ reads 0x013 (nat (p.cwp % 65536)) ∧ reads 0x014 (nat (g.depth + 16 * p.resident)) ∧ reads 0x019 (nat g.probef.toNat)
    ∧ reads 0x01B (nat (p.pc.toNat / 65536)) ∧ reads 0x020 (nat (abufBase + t.abufOff)) ∧ reads 0x021 (nat (wbufBase + t.wbufOff))
    ∧ reads 0x022 (nat (t.accFirst + 65536 * t.accCount)) ∧ reads 0x023 g.stackBase
    ∧ (s.guard s.cur = 0 → reads 0x000 0 ∧ reads 0x018 0)
    ∧ (∀ l < 32, bit (s.guard s.cur) l = true → (∀ m < l, bit (s.guard s.cur) m = false) →
        reads 0x000 (nat l) ∧ reads 0x018 (nat (s.flag s.cg l).toNat))
    ∧ (n.toNat = 0x000 → s.free { dv := [v.toNat] } →
        exec (.vsrd e v n) s = .next ((s.vsets s.cur v.toNat (s.glanes s.cur) fun l => BitVec.ofNat 32 l).advance e))
    ∧ (n.toNat = 0x018 → s.free { dv := [v.toNat] } →
        exec (.vsrd e v n) s = .next ((s.vsets s.cur v.toNat (s.glanes s.cur) fun l => (s.flag s.cg l).setWidth 32).advance e))
    ∧ ([0x00E, 0x00F, 0x015, 0x016, 0x017, 0x01E, 0x01F].contains n.toNat = true ∨ 0x024 ≤ n.toNat →
        exec (.srd e r n) s = .next s.undef ∧ exec (.vsrd e v n) s = .next s.undef ∧ exec (.swr e r n) s = .next s.undef)

/-- R40, R25, R23: SWR writes GMODE, the sticky flags of the guard lanes, and PROBEF; any other register of R39 takes PRIV. -/
def Sys2Proof.Claims.SpecialRegisterWrites : Prop :=
  ∀ (s : State) (e : Bool) (r : BitVec 5) (n : BitVec 10), s.acts →
    let x := s.sget s.cur r.toNat
    (n.toNat = 0x010 → s.free { ss := [r.toNat] } →
      ((x.toNat < 2 ^ 12 ∧ x.toNat / 4 % 8 ≤ 4) →
        exec (.swr e r n) s = .next ((s.modSp s.cur fun p => { p with gmode := BitVec.ofNat 12 x.toNat }).advance e))
      ∧ (¬ (x.toNat < 2 ^ 12 ∧ x.toNat / 4 % 8 ≤ 4) → exec (.swr e r n) s = .next s.undef))
    ∧ (n.toNat = 0x018 → s.free { ss := [r.toNat], sq := laneGuard 0x018 s.me.gmode } → ∃ t : State, exec (.swr e r n) s = .next (t.advance e)
        ∧ t = { s with flags := t.flags }
        ∧ ∀ g l, l < 32 → t.flag g l = if g = s.cg ∧ bit (s.guard s.cur) l then BitVec.ofNat 5 x.toNat else s.flag g l)
    ∧ (n.toNat = 0x019 → s.free { ss := [r.toNat] } →
        exec (.swr e r n) s = .next ((s.modGr s.cg fun g => { g with probef := BitVec.ofNat 18 x.toNat }).advance e))
    ∧ ([0, 1, 2, 3, 4, 5, 6, 7, 8, 9, 0xA, 0xB, 0xC, 0xD, 0x11, 0x12, 0x13, 0x14, 0x1A, 0x1B, 0x1C, 0x1D, 0x20, 0x21, 0x22, 0x23].contains
        n.toNat = true → exec (.swr e r n) s = .next (s.trapU cPriv))

/-- R23, R25, R39, R40: special registers, read and written. -/
def Obligations.SpecialRegisters : Prop := Claims.SpecialRegisterReads ∧ Claims.SpecialRegisterWrites

/-- R103, R104, R18, R110: BRA. No lane taken falls through; all lanes jump, if the target lies below LEN of the overlay's table
entry, and otherwise the branch takes APERT, unless the table is behind a host page whose answer is awaited; in a handler a branch that divides takes PRIV. Else the split divides: it goes on at the fall-through with
the lanes not taken, and those that are taken form a path at the target in the lowest free entry. -/
def Sys2Proof.Claims.BranchForms : Prop :=
  ∀ (s : State) (e : Bool) (p : BitVec 3) (c : BitVec 2) (i : BitVec 20), s.acts → s.free { sq := [p.toNat] } →
    let m := s.me.mask
    let on := s.pget s.cur p.toNat &&& m
    let take := match c.toNat with
      | 0 => on
      | 1 => if on = m then m else 0
      | 2 => if on = 0 then m else 0
      | _ => m
    let to' : Int := (s.me.pc.toNat % 65536 : Nat) + i.toInt
    let inside := 0 ≤ to' ∧ to' < s.nearLen
    let target : BitVec 32 := BitVec.ofNat 32 (s.me.pc.toNat / 65536 * 65536 + to'.toNat)
    let next := pcAdd s.me.pc (if e then 2 else 1)
    let handler := s.me.mode = .emu ∨ s.me.mode = .trap
    (take = 0 → exec (.bra e p c i) s = .next (s.goto next))
    ∧ (take ≠ 0 → take ≠ m → handler → exec (.bra e p c i) s = .next (s.trapU cPriv))
    ∧ (take ≠ 0 → (take = m ∨ ¬ handler) → s.lenKnown = false →
        exec (.bra e p c i) s = .next (s.ovWaits s.cc s.grp.ctx (pcId s.me.pc)).1.stall)
    ∧ (take ≠ 0 → (take = m ∨ ¬ handler) → s.lenKnown = true → ¬ inside → exec (.bra e p c i) s = .next (s.trapU cApert))
    ∧ (take ≠ 0 → take = m → s.lenKnown = true → inside → exec (.bra e p c i) s = .next (s.goto target))
    ∧ (take ≠ 0 → take ≠ m → ¬ handler → s.lenKnown = true → inside → s.roomFor s.cg 1 = false → exec (.bra e p c i) s = .next (s.trapU cSplitovf))
    ∧ ∀ j rest, take ≠ 0 → take ≠ m → ¬ handler → s.lenKnown = true → inside → s.freeEntries s.cg = j :: rest → ∃ t : State, exec (.bra e p c i) s = .next t
        ∧ (t.sp s.cur).pc = next ∧ (t.sp s.cur).mask = m &&& ~~~ take ∧ (t.sp s.cur).parent = BitVec.ofNat 3 (s.cur % 4)
        ∧ (t.sp j).valid = true ∧ (t.sp j).pc = target ∧ (t.sp j).mask = take ∧ (t.sp j).parent = BitVec.ofNat 3 (s.cur % 4)
        ∧ (t.sp j).saved = 7 ∧ (t.sp j).gmode = s.me.gmode ∧ (t.sp j).cwp = s.me.cwp ∧ (t.sp j).resident = s.me.resident

/-- R16-R20, R104: the split table: a new path takes the lowest free entry, with none the top of the park stack; the end of a path frees
its entry, which the top of the stack takes; a head whose family is gone takes its SAVED; a fusion joins two paths at one PC that agree in
PARENT, GMODE, CWP and RESIDENT. Whatever happens, no lane comes to be in two paths, and none is lost but those that end. -/
def Sys2Proof.Claims.SplitTable : Prop :=
  ∀ (s : State) (g k : Nat), k ∈ entries g →
    let p := s.sp k
    let masks (t : State) (l : Nat) : Prop := ∃ m ∈ t.pathMasks g, bit m l = true
    -- a new path of k's lanes
    (∀ stop pc m, let t := s.newPath k stop pc m
      (∀ j rest, s.freeEntries g = j :: rest → (t.sp j).valid = true ∧ (t.sp j).pc = pc ∧ (t.sp j).mask = m ∧ (t.sp j).parent = BitVec.ofNat 3 (k % 4)
        ∧ (t.gr g).park = (s.gr g).park ∧ ∀ i, i ≠ j → t.sp i = s.sp i)
      ∧ (s.freeEntries g = [] → (∀ i, t.sp i = s.sp i) ∧ ∃ q : Parked, (t.gr g).park = q :: (s.gr g).park ∧ q.pc = pc ∧ q.mask = m
        ∧ q.parent = BitVec.ofNat 3 (k % 4) ∧ q.saved = 7 ∧ q.gmode = p.gmode ∧ q.cwp = p.cwp ∧ q.resident = p.resident)
      ∧ (s.pathsApart g → (∀ x ∈ s.pathMasks g, x &&& m = 0) → t.pathsApart g))
    -- the end of a path
    ∧ (p.valid = true → let t := s.freeEntry k
      (∀ i ∈ entries g, i ≠ k → (t.sp i).valid = (s.sp i).valid ∧ (t.sp i).mask = (s.sp i).mask ∧ (t.sp i).pc = (s.sp i).pc)
      ∧ ((s.gr g).park = [] → t.sp k = {} ∧ (t.gr g).park = [])
      ∧ (∀ q rest, (s.gr g).park = q :: rest → (t.sp k).valid = true ∧ (t.sp k).pc = q.pc ∧ (t.sp k).mask = q.mask ∧ (t.sp k).gmode = q.gmode
          ∧ (t.sp k).cwp = q.cwp ∧ (t.sp k).resident = q.resident ∧ (t.gr g).park.map (fun x => x.mask) = rest.map fun x => x.mask)
      ∧ (s.pathsApart g → t.pathsApart g ∧ ∀ l, masks t l ↔ masks s l ∧ bit p.mask l = false))
    -- heads whose family is gone
    ∧ (∀ n, (s.dueHeads g = [] → s.restoreHeads g n = s)
      ∧ (s.dueHeads g = [k] → s.restoreHeads g (n + 1) = (s.modSp k fun x => { x with parent := x.saved }).restoreHeads g n))
    ∧ (k ∈ s.dueHeads g ↔ p.valid = true ∧ p.parent.toNat = k % 4 ∧ p.saved.toNat ≠ k % 4
        ∧ (∀ i ∈ entries g, i ≠ k → (s.sp i).valid = true → (s.sp i).parent.toNat ≠ k % 4) ∧ ∀ q ∈ (s.gr g).park, q.parent.toNat ≠ k % 4)
    -- fusion
    ∧ (∀ i ∈ entries g, ∀ j ∈ entries g, i ≠ j → (s.sp i).valid = true → (s.sp j).valid = true →
      let a := if j % 4 = (s.sp i).parent.toNat then j else i
      let t := s.fuse i j
      (t.sp a).valid = true ∧ (t.sp a).mask = ((s.sp i).mask ||| (s.sp j).mask) ∧ (t.sp a).pc = (s.sp a).pc ∧ (t.sp a).mode = (s.sp a).mode
      ∧ (s.pathsApart g → t.pathsApart g ∧ ∀ l, masks t l ↔ masks s l))
    ∧ (∀ q : Split, fusable p q = true → p.pc = q.pc ∧ p.parent = q.parent ∧ p.gmode = q.gmode ∧ p.cwp = q.cwp ∧ p.resident = q.resident
        ∧ p.mode = .normal ∧ q.mode = .normal ∧ p.rep = none ∧ q.rep = none)
    ∧ ∀ n, (∀ i ∈ entries g, ∀ j ∈ entries g, i < j → fusable (s.sp i) (s.sp j) = false) → s.fuseAll g n = s

/-- Branches, and the split table. -/
def Obligations.Branches : Prop := Claims.BranchForms ∧ Claims.SplitTable

/-- R107-R110, R115: calls and jumps within the overlay, and to an overlay that is resident: the target, the new frame and the
return links of the split's lanes. -/
def Obligations.CallsAndJumps : Prop :=
  ∀ (s : State) (e : Bool) (a : BitVec 5) (i : BitVec 25), s.acts →
    let base := s.me.pc.toNat / 65536 * 65536
    let x := s.sget s.cur a.toNat
    let len := s.nearLen
    -- a jump from state v: the split moves and nothing else changes
    let jumps (v : State) (j : Instr) (pc : BitVec 32) : Prop := exec j s = .next (v.goto pc)
    -- a call: the window moves on, and every lane of the split holds the return link of the new frame
    let calls (v : State) (j : Instr) (pc : BitVec 32) : Prop := ∃ t : State, exec j s = .next t
      ∧ t = { v with splits := t.splits, link := t.link } ∧ (∀ k, k ≠ v.cur → t.sp k = v.sp k)
      ∧ t.me = { v.me with pc := pc, cwp := v.me.cwp + 1, resident := v.me.resident + 1, rep := none, replay := none }
      ∧ (∀ l < 32, bit v.me.mask l = true → t.linkOf v.cg l (v.me.cwp + 1) = pcAdd v.me.pc (if e then 2 else 1))
      ∧ ∀ l < 32, ∀ c, (bit v.me.mask l = false ∨ c % 8 ≠ (v.me.cwp + 1) % 8) → t.linkOf v.cg l c = v.linkOf v.cg l c
    let near : Int := (s.me.pc.toNat % 65536 : Nat) + i.toInt
    (s.lenKnown = true →
    ((0 ≤ near ∧ near < len) → s.me.resident ≠ s.grp.depth → calls s (.call e i) (BitVec.ofNat 32 (base + near.toNat)))
    ∧ ((0 ≤ near ∧ near < len) → s.me.resident = s.grp.depth → exec (.call e i) s = .next (s.trapU cWspill))
    ∧ (¬ (0 ≤ near ∧ near < len) → exec (.call e i) s = .next (s.trapU cApert))
    ∧ (s.free { ss := [a.toNat] } → x.toNat % 2 ^ 14 < len →
        jumps s (.brx e a) (BitVec.ofNat 32 (base + x.toNat % 2 ^ 14))
        ∧ (s.me.resident ≠ s.grp.depth → calls s (.callx e a) (BitVec.ofNat 32 (base + x.toNat % 2 ^ 14)))
        ∧ (s.me.resident = s.grp.depth → exec (.callx e a) s = .next (s.trapU cWspill)))
    ∧ (s.free { ss := [a.toNat] } → len ≤ x.toNat % 2 ^ 14 →
        exec (.brx e a) s = .next (s.trapU cApert) ∧ exec (.callx e a) s = .next (s.trapU cApert)))
    -- to another overlay: its checks pass and it is resident, or it traps
    ∧ ∀ t u v : State, s.free { ss := [a.toNat] } → s.ovWaits s.cc s.grp.ctx (pcId (lo32 x)) = (t, false) →
        (t.farCheck (lo32 x) true = (u, none) →
          (u.residency (pcId (lo32 x)) 5 false = (v, none) → jumps v (.jmpo e a) (lo32 x)
            ∧ (u.me.resident ≠ u.grp.depth → calls v (.callo e a) (lo32 x)))
          ∧ (u.me.resident = u.grp.depth → exec (.callo e a) s = .next (u.trapU cWspill)))
        ∧ ∀ c, t.farCheck (lo32 x) true = (u, some c) →
          exec (.jmpo e a) s = .next (u.trapU c) ∧ exec (.callo e a) s = .next (u.trapU c)

/-- R97, R98, R111: EXIT and the return from the first frame end the split's lanes; a return to one target takes the caller's
window and goes there. -/
def Obligations.ExitAndReturn : Prop :=
  ∀ (s : State) (e : Bool), s.acts →
    let m := s.me.mask
    exec (.exit e) s = .next s.exitSplit
    ∧ (s.me.cwp = 0 → exec (.ret e) s = .next s.exitSplit)
    ∧ (s.grp.park = [] → (s.exitSplit.gr s.cg).exited = (s.grp.exited ||| m) ∧ s.exitSplit.sp s.cur = {})
    ∧ ∀ (pc : BitVec 32) (u v w : State), 1 ≤ s.me.cwp → 2 ≤ s.me.resident → (s.me.levels.all fun x => x.entryCwp != s.me.cwp) = true →
        s.returns = [(pc, m)] → s.ovAnyWaits s.cc s.grp.ctx [pcId pc] = (u, false) → u.checkAll [pc] = (v, none) →
        2 ≤ v.me.resident → v.residencies [pcId pc] 0 = (w, none) →
        ∃ t : State, exec (.ret e) s = .next t ∧ t = { w with splits := t.splits } ∧ (∀ k, k ≠ w.cur → t.sp k = w.sp k)
          ∧ t.me = { w.me with pc := pc, cwp := w.me.cwp - 1, resident := w.me.resident - 1, rep := none, replay := none }

/-! ## Traps and the emulation handler (R393-R395, R285-R293) -/

/-- R393, R394: a trap outside regions and trap handlers, with an entry in the vector table and the trap bank free: its record
is written, the state it saves, s31, GMODE, the split's own probe bit, the PC at the handler, whose overlay is then seen to. That ECCU
which awaits the split goes on waiting under another trap is the model's choice (log entry 71). -/
def Sys2Proof.Claims.TrapEntry : Prop :=
  ∀ (s u w : State) (k : Nat) (t : TrapInfo),
    let g := gidOf k
    let c := s.cx (s.gr g).ctx
    let p := s.sp k
    let h := lo32 (s.physWord (c.vt.toNat + 8 * t.cause))
    let at' := (s.physWord (c.vt.toNat + 0x108)).toNat + 64 * (128 * s.scanIndex c.partition (coreOf g) + 4 * (g % 32) + k % 4)
    let word := (u.fetch g t.pc).getD 0
    let i := match t.rep with | some r => 2 ^ 20 * r.i + 2 ^ 26 | none => 0
    let record : List Nat :=
      [t.cause + 2 ^ 8 * (t.code % 1024) + 2 ^ 18 * t.acc + i + 2 ^ 32 * word.toNat, if t.acc = 0 then 0 else t.addr,
       t.lmask.toNat + 2 ^ 32 * t.pmask.toNat, t.pc.toNat + 2 ^ 32 * t.gmode.toNat, t.word4.toNat, 0, 0, 0]
    p.mode ≠ .trap → p.mode ≠ .region → t.cause ≠ cEmudepth → t.cause ≠ cContain → t.cause < 0x20 → h ≠ 0 →
    ((t.cause = cWspill ∨ t.cause = cWfill) → 0xFF00 ≤ h.toNat / 65536) →
    (∀ j, j / 4 = g → j ≠ k → (s.sp j).valid = true → (s.sp j).mode ≠ .trap) →
    s.vaWaits (coreOf g) (s.gr g).ctx at' needStore = (u, false) → u.putWords (coreOf g) (s.gr g).ctx at' record = some w →
    ∃ b : State, s.trap k t = b.ensureCode k ∧ b = { w with splits := b.splits, sreg := b.sreg }
      ∧ (∀ j, j ≠ k → b.sp j = w.sp j)
      ∧ (b.sp k) = { w.sp k with mode := .trap, wait := .none, gmode := 0, ownProbe := false, bank := 3, rep := none, replay := none,
                                 eccu := if t.late then none else (w.sp k).eccu, pc := h, traps := (b.sp k).traps }
      ∧ (∃ x : TrapSave, (b.sp k).traps = x :: (w.sp k).traps ∧ x.cause.toNat = t.cause % 256 ∧ x.pc = t.pc ∧ x.mode = (w.sp k).mode
          ∧ x.gmode = t.gmode ∧ x.probe = (w.sp k).ownProbe ∧ x.bank = (w.sp k).bank ∧ x.rep = t.rep
          ∧ x.replay = if t.byLane then some t.pmask else (w.sp k).replay)
      ∧ b.sget k 31 = BitVec.ofNat 64 at'
      ∧ ∀ key, key ≠ sKey k 3 31 → mget 0 b.sreg key = mget 0 w.sreg key

/-- R394, R398: a trap in a trap handler and a cause that has no handler halt the context, with DOUBLE in a trap handler; one in a
region aborts it. That the lanes which a trap by lane left to reissue stay noted while the split waits for its trap bank is the
model's reading of "issue the instruction again" (log entry 24). -/
def Sys2Proof.Claims.TrapsNotTaken : Prop :=
  ∀ (s : State) (k : Nat) (t : TrapInfo),
    let g := gidOf k
    let h := lo32 (s.physWord ((s.cx (s.gr g).ctx).vt.toNat + 8 * t.cause))
    let halts (dbl : Bool) : Prop := s.trap k t =
      s.haltCtx (s.gr g).ctx { cause := t.cause, dbl := dbl || !(s.sp k).traps.isEmpty, pc := (s.sp k).pc, core := coreOf g, addr := t.addr }
    ((s.sp k).mode = .trap → halts true)
    ∧ ((s.sp k).mode = .region → s.trap k t = s.regAbort k
        { code := 3, detail := t.cause, scal := t.scal, lane := if t.scal then 0 else lowLane t.pmask })
    ∧ ((s.sp k).mode ≠ .trap → (s.sp k).mode ≠ .region →
        (t.cause = cEmudepth ∨ t.cause = cContain ∨ 0x20 ≤ t.cause ∨ h = 0
          ∨ ((t.cause = cWspill ∨ t.cause = cWfill) ∧ h.toNat / 65536 < 0xFF00)) → halts false)
    ∧ ((s.sp k).mode ≠ .trap → (s.sp k).mode ≠ .region → t.cause ≠ cEmudepth → t.cause ≠ cContain → t.cause < 0x20 → h ≠ 0 →
        ((t.cause = cWspill ∨ t.cause = cWfill) → 0xFF00 ≤ h.toNat / 65536) →
        (∃ j, j / 4 = g ∧ j ≠ k ∧ (s.sp j).valid = true ∧ (s.sp j).mode = .trap) →
        s.trap k t = s.modSp k fun p => { p with wait := .trapBank, replay := if t.byLane then some t.pmask else p.replay })

/-- R393, R394: what taking a trap does, and where it is not taken. -/
def Obligations.TakingTraps : Prop := Claims.TrapEntry ∧ Claims.TrapsNotTaken

/-- R100, R101, R395: BRK and TRAP trap; TRET in a trap handler restores what the trap saved and reissues the trapping
instruction, or steps over it; elsewhere it takes PRIV. -/
def Obligations.SoftwareTrapsAndReturn : Prop :=
  ∀ (s : State) (e : Bool) (c : BitVec 10) (n : BitVec 1), s.me.valid = true →
    let p := s.me
    exec (.brk e) s = .next (s.trap s.cur { cause := cBrkpt, lmask := p.mask, pmask := p.mask, pc := p.pc, gmode := p.gmode, rep := p.rep })
    ∧ exec (.trap e c) s = .next (s.trap s.cur
        { cause := cTrapi, lmask := p.mask, pmask := p.mask, code := c.toNat, pc := p.pc, gmode := p.gmode, rep := p.rep })
    ∧ (p.mode ≠ .trap → exec (.tret e n) s = .next (s.trapU cPriv))
    ∧ ∀ v rest, p.mode = .trap → p.traps = v :: rest → (n = 1 → p.resident ≠ 0) →
        let back : Split := { p with traps := rest, mode := v.mode, wait := .none, gmode := v.gmode, ownProbe := v.probe, bank := v.bank,
                                     pc := v.pc, rep := v.rep, replay := none }
        (n = 0 → exec (.tret e n) s = .next (s.setSp s.cur { back with replay := v.replay }))
        ∧ (n = 1 → s.ctx.state ≠ .saving → v.rep = none → exec (.tret e n) s = .next (s.setSp s.cur { back with pc := pcAdd v.pc v.fall }))
        ∧ ∀ r, n = 1 → s.ctx.state ≠ .saving → v.rep = some r → exec (.tret e n) s = .next (s.setSp s.cur
            (if r.i < r.last then { back with rep := some { r with i := r.i + 1 } } else { back with rep := none, pc := pcAdd v.pc v.fall }))

/-- R285, R287-R289: a word that is not native, met outside regions with a level free and a window to spare, opens a level:
its operand window, the new frame, GMODE 0, the level's bank, the PC at EMUPC. In a region it aborts, with ENGINE where a G-core
meets a disabled form (R222); under probe mode a word
that is not SOFT becomes a NOP that PROBEF records. -/
def Sys2Proof.Claims.EmulationEntry : Prop :=
  ∀ (s : State) (cause : BitVec 2) (word live : Word32), s.me.valid = true →
    let p := s.me
    let x := word.toNat
    let n := p.levels.length
    let pc := lo32 (s.physWord (s.ctx.vt.toNat + 0x100))
    let probe := if p.levels.isEmpty && p.traps.isEmpty then s.grp.probe else p.ownProbe
    let enters := p.mode ≠ .region ∧ (cause = 2 ∨ probe = false)
    (p.mode = .region → exec (.emulationEntry cause word live) s = .next (s.regAbort s.cur
      (if cause = 1 ∧ s.isG s.cc = true then { code := 7, detail := x / 2 ^ 26 } else { code := 3, detail := 0x80 + cause.toNat, scal := true })))
    ∧ (p.mode ≠ .region → cause ≠ 2 → probe = true → s.grp.probef.getLsbD 0 = true →
        exec (.emulationEntry cause word live) s = .next ((s.modGr s.cg id).advance (bit word 25)))
    ∧ (p.mode ≠ .region → cause ≠ 2 → probe = true → s.grp.probef.getLsbD 0 = false →
        exec (.emulationEntry cause word live) s = .next ((s.modGr s.cg fun g =>
          { g with probef := BitVec.ofNat 18 (1 + 2 * (x / 2 ^ 26) + 2 ^ 7 * probeMinor word) }).advance (bit word 25)))
    ∧ (enters → 2 ≤ n → exec (.emulationEntry cause word live) s = .next (s.haltSplit s.cur cEmudepth false 0))
    ∧ (enters → n = 0 → (∃ j, j / 4 = s.cg ∧ j ≠ s.cur ∧ (s.sp j).valid = true ∧ (s.sp j).levels ≠ []) →
        exec (.emulationEntry cause word live) s = .next (s.waitFor s.cur .emuLevel))
    ∧ (enters → n < 2 → (n = 0 → ∀ j, j / 4 = s.cg → j ≠ s.cur → (s.sp j).valid = true → (s.sp j).levels = []) →
        (p.resident = s.grp.depth → exec (.emulationEntry cause word live) s = .next (s.trapU cWspill))
        ∧ (p.resident ≠ s.grp.depth → pc ≠ 0 → ∃ b v, exec (.emulationEntry cause word live) s = .next (b.ensureCode s.cur)
          ∧ b = s.setSp s.cur { p with levels := v :: p.levels, mode := .emu, wait := .none, gmode := 0, ownProbe := false, bank := n + 1,
                                       cwp := p.cwp + 1, resident := p.resident + 1, rep := none, replay := none, pc := pc }
          ∧ v.mode = p.mode ∧ v.gmode = p.gmode ∧ v.probe = p.ownProbe ∧ v.bank = p.bank ∧ v.entryCwp = p.cwp + 1 ∧ v.rep = p.rep
          ∧ (p.rep = none → v.ow =
            [BitVec.ofNat 64 p.pc.toNat, BitVec.ofNat 64 (x + if x.testBit 25 then 2 ^ 32 * live.toNat else 0),
             BitVec.ofNat 64 (x / 2 ^ 19 % 64 + 2 ^ 8 * (x / 2 ^ 13 % 64) + 2 ^ 16 * (x / 2 ^ 7 % 64) + 2 ^ 24 * (x % 128)
               + 2 ^ 32 * (x / 2 ^ 26) + if x.testBit 25 then 2 ^ 38 else 0),
             BitVec.ofNat 64 (s.guard s.cur).toNat, BitVec.ofNat 64 p.mask.toNat, BitVec.ofNat 64 p.gmode.toNat, 0,
             BitVec.ofNat 64 (cause.toNat + 2 ^ 8 * (n + 1) + if s.isG s.cc then 2 ^ 16 else 0)])))

/-- R290-R293: the handler's own forms at the open level: OWRD, XREG and EMRET; outside a handler they take PRIV. -/
def Sys2Proof.Claims.EmulationHandlerForms : Prop :=
  ∀ (s : State) (e : Bool) (d a : BitVec 5) (n : BitVec 3) (m p : BitVec 2), s.me.valid = true →
    (s.me.mode ≠ .emu →
      exec (.owrd e d n) s = .next (s.trapU cPriv) ∧ exec (.xregRd e d a p) s = .next (s.trapU cPriv)
      ∧ exec (.xregWr e d a p) s = .next (s.trapU cPriv) ∧ (m ≠ 3 → exec (.emret e m a) s = .next (s.trapU cPriv)))
    ∧ ∀ v rest, s.me.mode = .emu → s.me.levels = v :: rest →
      let x := s.sget s.cur a.toNat
      let ow (i : Nat) : Word64 := (v.ow[i]?).getD 0
      -- how the level below names its registers
      let below : Split := { s.me with bank := v.bank }
      let lowS (i : Nat) : Nat := sKey s.cur (if 24 ≤ i then below.bank else 0) i
      let lowP (i : Nat) : Nat := pKey s.cur (if 6 ≤ i then below.bank else 0) i
      let lowRow (i : Nat) : Nat := rowOf s.grp.depth (v.entryCwp - 1) i
      let ls := lanesOf (lo32 (ow 3))
      (s.free { ds := [d.toNat] } → exec (.owrd e d n) s = .next ((s.sset s.cur d.toNat (ow n.toNat)).advance e))
      ∧ (p = 0 → s.free { ss := [a.toNat], dv := [d.toNat] } → mget 0 s.pendV (rowKey s.cg (lowRow (x.toNat % 64))) = 0 →
          exec (.xregRd e d a p) s =
            .next ((s.vsets s.cur d.toNat ls fun l => s.rowGet s.cg (lowRow (x.toNat % 64)) l).advance e))
      ∧ (p = 1 → s.free { ss := [a.toNat], ds := [d.toNat] } →
          (x.toNat % 32 = 0 → exec (.xregRd e d a p) s = .next ((s.sset s.cur d.toNat 0).advance e))
          ∧ (x.toNat % 32 ≠ 0 → mget 0 s.pendS (lowS (x.toNat % 32)) = 0 →
            exec (.xregRd e d a p) s = .next ((s.sset s.cur d.toNat (mget 0 s.sreg (lowS (x.toNat % 32)))).advance e)))
      ∧ (p = 2 → s.free { ss := [a.toNat], ds := [d.toNat] } →
          let q : BitVec 32 := if x.toNat % 8 = 0 then BitVec.allOnes 32 else mget 0 s.preg (lowP (x.toNat % 8))
          exec (.xregRd e d a p) s = .next ((s.sset s.cur d.toNat (BitVec.ofNat 64 q.toNat)).advance e))
      ∧ (p = 3 → s.free { ss := [a.toNat], ds := [d.toNat] } →
          exec (.xregRd e d a p) s = .next ((s.sset s.cur d.toNat
            (if x = 0 then s.team.shadow.getD 0 else if x = 1 then BitVec.ofNat 64 (v.entryCwp - 1) else 0)).advance e)
          ∧ exec (.xregWr e d a p) s = .next (s.trapU cPriv))
      ∧ (p = 0 → s.free { ss := [a.toNat], sv := [d.toNat] } → mget 0 s.pendV (rowKey s.cg (lowRow (x.toNat % 64))) = 0 →
          exec (.xregWr e d a p) s = .next
            ((ls.foldl (fun t l => t.rowSet s.cg (lowRow (x.toNat % 64)) l (s.vget s.cur d.toNat l)) s).advance e))
      ∧ (p = 1 → s.free { ss := [a.toNat, d.toNat] } →
          (x.toNat % 32 = 0 → exec (.xregWr e d a p) s = .next (s.advance e))
          ∧ (x.toNat % 32 ≠ 0 → mget 0 s.pendS (lowS (x.toNat % 32)) = 0 → exec (.xregWr e d a p) s =
            .next (({ s with sreg := mset 0 s.sreg (lowS (x.toNat % 32)) (s.sget s.cur d.toNat) } : State).advance e)))
      ∧ (p = 2 → s.free { ss := [a.toNat, d.toNat] } →
          (x.toNat % 8 = 0 → exec (.xregWr e d a p) s = .next (s.advance e))
          ∧ (x.toNat % 8 ≠ 0 → exec (.xregWr e d a p) s =
            .next (({ s with preg := mset 0 s.preg (lowP (x.toNat % 8)) (lo32 (s.sget s.cur d.toNat)) } : State).advance e)))
      -- EMRET closes the level
      ∧ (m ≠ 3 → s.me.cwp ≠ v.entryCwp → exec (.emret e m a) s = .next (s.trapU cPriv))
      ∧ (s.me.cwp = v.entryCwp → m ≠ 3 → (m = 2 → s.free { ss := [a.toNat] } ∧ emretCauses.contains (x.toNat % 256) = true) →
          s.me.resident ≤ 1 → exec (.emret e m a) s = .next (s.trapU cWfill))
      ∧ (s.me.cwp = v.entryCwp → 2 ≤ s.me.resident →
          let back : Split := { s.me with levels := rest, mode := v.mode, wait := .none, gmode := v.gmode, ownProbe := v.probe,
                                          bank := v.bank, cwp := s.me.cwp - 1, resident := s.me.resident - 1, rep := v.rep,
                                          replay := none, pc := lo32 (ow 0) }
          (m = 1 → exec (.emret e m a) s = .next (s.setSp s.cur back))
          ∧ (m = 0 → s.ctx.state ≠ .saving → v.rep = none → exec (.emret e m a) s =
              .next (s.setSp s.cur { back with pc := pcAdd (lo32 (ow 0)) (if bit (ow 1) 25 then 2 else 1) }))
          ∧ (m = 2 → s.free { ss := [a.toNat] } → emretCauses.contains (x.toNat % 256) = true →
              let who := if ow 3 = 0 then lo32 (ow 4) else lo32 (ow 3)
              exec (.emret e m a) s = .next ((s.setSp s.cur back).trap s.cur
                { cause := x.toNat % 256, lmask := who, pmask := who, code := if x.toNat % 256 = cTrapi then x.toNat / 256 % 1024 else 0,
                  pc := lo32 (ow 0), gmode := v.gmode, rep := v.rep })))

/-- R285-R293: the entry to the emulation handler and its own forms. -/
def Obligations.Emulation : Prop := Claims.EmulationEntry ∧ Claims.EmulationHandlerForms

/-- R113: WSPILL and WFILL in the handler of a window trap, where each of the frame's words translates (`frameLook`) and may be
accessed now, move the frame of the rule, whose rows are those that R27 gives its v8-v47, word by word between the registers and the
stack, and change RESIDENT by one; outside their conditions they take PRIV, and APERT beyond the stack. -/
def Obligations.WindowSpillAndFill : Prop :=
  ∀ (s : State) (e : Bool), s.me.valid = true →
    let p := s.me
    let f := p.cwp + 1 - p.resident
    let h := p.cwp - p.resident
    -- the words of a frame: its 40 rows and its link, in each lane of the split
    (∀ i < 40, ∀ d, 1 ≤ d → ∀ c, frameRow d c i = rowOf d c (8 + i))
    ∧ (∀ stack c, frameOffsets stack c = ((List.range 40).map fun i => (some i, stack - 160 * (c + 1) + 4 * i)) ++ [(none, 4 * c)])
    -- what moving one word does
    ∧ (∀ (u : State) (c l i : Nat) (w : Place), u.frameWord c true (l, some i, w) = u.nowWrite u.cc w 4 (u.rowGet u.cg (frameRow u.grp.depth c i) l).toNat
        ∧ u.frameWord c true (l, none, w) = u.nowWrite u.cc w 4 (u.linkOf u.cg l c).toNat
        ∧ u.frameWord c false (l, some i, w) = (u.nowRead u.cc w 4).1.rowSet u.cg (frameRow u.grp.depth c i) l (BitVec.ofNat 32 (u.nowRead u.cc w 4).2)
        ∧ u.frameWord c false (l, none, w) = (u.nowRead u.cc w 4).1.setLink u.cg l c (BitVec.ofNat 32 (u.nowRead u.cc w 4).2))
    ∧ (p.inWindowTrap = false → exec (.wspill e) s = .next (s.trapU cPriv) ∧ exec (.wfill e) s = .next (s.trapU cPriv))
    ∧ (p.resident = 0 → exec (.wspill e) s = .next (s.trapU cPriv))
    ∧ ((s.grp.depth ≤ p.resident ∨ p.cwp < p.resident) → exec (.wfill e) s = .next (s.trapU cPriv))
    ∧ (p.inWindowTrap = true → 1 ≤ p.resident →
        (s.ctx.stackSz < 164 * (f + 1) → exec (.wspill e) s = .next (s.trapU cApert))
        ∧ (164 * (f + 1) ≤ s.ctx.stackSz → (∀ i < 40, mget 0 s.pendV (rowKey s.cg (frameRow s.grp.depth f i)) = 0) →
          (∀ t, s.frameLook f true = .error t → exec (.wspill e) s = .next t)
          ∧ ∀ t moves, s.frameLook f true = .ok (t, moves) → (∀ m ∈ moves, t.nowMay t.cur true m.2.2 4 = true) →
            exec (.wspill e) s = .next (((moves.foldl (fun u m => u.frameWord f true m) t).modSp t.cur fun q =>
              { q with resident := q.resident - 1 }).advance e)))
    ∧ (p.inWindowTrap = true → p.resident < s.grp.depth → p.resident ≤ p.cwp →
        (s.ctx.stackSz < 164 * (h + 1) → exec (.wfill e) s = .next (s.trapU cApert))
        ∧ (164 * (h + 1) ≤ s.ctx.stackSz → (∀ i < 40, mget 0 s.pendV (rowKey s.cg (frameRow s.grp.depth h i)) = 0) →
          (∀ t, s.frameLook h false = .error t → exec (.wfill e) s = .next t)
          ∧ ∀ t moves, s.frameLook h false = .ok (t, moves) → (∀ m ∈ moves, t.nowMay t.cur false m.2.2 4 = true) →
            exec (.wfill e) s = .next (((moves.foldl (fun u m => u.frameWord h false m) t).modSp t.cur fun q =>
              { q with resident := q.resident + 1 }).advance e)))

/-! ## Loads, stores and atomics (R172-R184, R36) -/

/-- R173: the address of a lane, for the form with a base scalar and for the form without; an address that is no multiple of
the size takes ALIGN before anything else is looked at. -/
def Sys2Proof.Claims.LaneAddresses : Prop :=
  ∀ (s : State) (k a o l : Nat),
    (a ≠ 0 → s.laneAddr k a o l = (((s.sget k a).toNat : Int) + (s.vget k o l).toInt) % 2 ^ 64)
    ∧ (a = 0 → s.laneAddr k a o l = (s.vget k o l).toNat + 2 ^ 32 * (s.vget k (o + 1) l).toNat)
    ∧ ∀ (va size : Nat) (need : Need), va % size ≠ 0 → s.piecesOf k l va size need = (s, .error (.fault cAlign 0))

/-- R172, R174-R178, R36: a vector load or store whose guard lanes pass their checks puts one access into flight, of the
addressed places, and moves on; with no lane it only moves on. LDN takes absent pages as lanes to skip: it writes zero
there and marks the lanes in p7. -/
def Obligations.VectorLoadsAndStores : Prop :=
  ∀ (s t : State) (c : Checked) (e : Bool) (v o : BitVec 6) (a : BitVec 5) (z g : BitVec 3) (r : BitVec 2), s.acts →
    let size := 2 ^ z.toNat
    let data := (List.range (max 1 (size / 4))).map fun i => v.toNat + i
    let at' := if a = 0 then [o.toNat, o.toNat + 1] else [o.toNat]
    let va := s.laneAddr s.cur a.toNat o.toNat
    let lanes := (s.glanes s.cur).map fun l => (l, va l)
    let mine (x : MemOp) : Prop := x.splits = [s.cur] ∧ x.size = size ∧ x.scope = g.toNat ∧ x.inRegion = false
    let goes (i : Instr) (t : State) (k : MemOp → Prop) : Prop :=
      (c.pass = [] → exec i s = .next (t.advance e)) ∧ (c.pass ≠ [] → ∃ x, mine x ∧ k x ∧ exec i s = .next ((t.startOp x).advance e))
    let loads (x : MemOp) : Prop := x.kind = .load ∧ x.units = (c.pass.flatMap fun p => unitsOf p.1 (va p.1) p.2 0) ∧ x.rows = data.map (t.row t.cur)
      ∧ x.lanes = maskOf (c.pass.map fun p => p.1) ∧ x.gid = t.cg ∧ x.core = t.cc ∧ x.signed = (t.ty == 1) ∧ x.acq = (r == 1) ∧ x.pc = t.me.pc
    let stores (x : MemOp) : Prop := x.kind = .store ∧ x.gid = t.cg ∧ x.core = t.cc ∧ x.rel = (r == 2) ∧ x.pc = t.me.pc
      ∧ x.units = c.pass.flatMap fun p => unitsOf p.1 (va p.1) p.2 (t.rowsVal t.cur v.toNat (max 1 (size / 4)) p.1)
    c.wait = false → c.dead = false → c.fail = [] →
    (s.free { ss := [a.toNat], sv := at', dv := data } → s.checkLanes s.cur size needLoad false true lanes = (t, c) → t.cur = s.cur →
      s.grp.ldc < 62 → c.away = [] → goes (.ld e v a o z g r) t loads)
    ∧ (s.free { ss := [a.toNat], sv := at', dv := data, dq := [7] } → s.checkLanes s.cur size needLoad false true lanes = (t, c) →
        t.cur = s.cur → s.grp.ldc < 62 →
        let away := c.away.map fun f => f.lane
        let u := data.foldl (fun t n => t.vsets t.cur n away fun _ => 0) t
        goes (.ldn e v a o z g r)
          (u.pset u.cur 7 ((u.pget u.cur 7 ||| maskOf (c.pass.map fun p => p.1)) &&& ~~~ maskOf away)) loads)
    ∧ (s.free { ss := [a.toNat], sv := at' ++ data } → s.checkLanes s.cur size needStore (decide (size < 4)) true lanes = (t, c) →
        t.cur = s.cur → s.grp.stc < 62 → c.away = [] → goes (.st e v a o z g r) t stores)

/-- R178, R180, R391: lanes of LD, LDN, ST, ATOM and RED that fail take a trap, while the lanes that pass are accessed; an access that
could not count waits. LDN takes absent pages as lanes to skip (R176). -/
def Sys2Proof.Claims.FailingLanesTrap : Prop :=
  ∀ (s t : State) (c : Checked) (e : Bool) (v o : BitVec 6) (a : BitVec 5) (z g : BitVec 3) (r : BitVec 2) (p : BitVec 4) (l : BitVec 1),
    s.acts →
    let size := 2 ^ z.toNat
    let data := (List.range (max 1 (size / 4))).map fun i => v.toNat + i
    let at' := if a = 0 then [o.toNat, o.toNat + 1] else [o.toNat]
    let lanes := (s.glanes s.cur).map fun l => (l, s.laneAddr s.cur a.toNat o.toNat l)
    let wide := if s.ty = 15 then 8 else 4
    let srcs := (List.range (if p.toNat = 9 then wide / 2 else wide / 4)).map fun i => v.toNat + i
    let dsts := (List.range (wide / 4)).map fun i => v.toNat + i
    let both := c.fail ++ c.away
    -- form i of access kind acc whose failing lanes are fs; u is the state that its passing lanes start from
    let traps (i : Instr) (acc count : Nat) (u : State) (fs : List Fail) : Prop :=
      (c.pass = [] → exec i s = .next (u.trap u.cur (u.laneTrap u.cur acc fs)))
      ∧ (c.pass ≠ [] → count < 62 → ∃ x : MemOp, (∀ y ∈ x.units, ∃ q ∈ c.pass, y.lane = q.1) ∧
          exec i s = .next ((u.startOp x).trap (u.startOp x).cur ((u.startOp x).laneTrap (u.startOp x).cur acc fs)))
      ∧ (c.pass ≠ [] → 62 ≤ count → exec i s = .next (t.waitFor t.cur .operand))
    c.wait = false → c.dead = false → t.cur = s.cur →
    (both ≠ [] → s.free { ss := [a.toNat], sv := at', dv := data } → s.checkLanes s.cur size needLoad false true lanes = (t, c) →
      traps (.ld e v a o z g r) 1 s.grp.ldc t both)
    ∧ (c.fail ≠ [] → s.free { ss := [a.toNat], sv := at', dv := data, dq := [7] } →
        s.checkLanes s.cur size needLoad false true lanes = (t, c) →
        let away := c.away.map fun f => f.lane
        let u := data.foldl (fun t n => t.vsets t.cur n away fun _ => 0) t
        traps (.ldn e v a o z g r) 1 s.grp.ldc
          (u.pset u.cur 7 ((u.pget u.cur 7 ||| maskOf (c.pass.map fun p => p.1)) &&& ~~~ maskOf away)) c.fail)
    ∧ (both ≠ [] → s.free { ss := [a.toNat], sv := at' ++ data } →
        s.checkLanes s.cur size needStore (decide (size < 4)) true lanes = (t, c) → traps (.st e v a o z g r) 2 s.grp.stc t both)
    ∧ (atomType p.toNat s.ty = true → v.toNat + srcs.length ≤ 64 → (s.ty = 15 → v.toNat % 2 = 0) → both ≠ [] →
        s.checkLanes s.cur wide needAtomic true (decide (p.toNat = 0 ∨ p.toNat = 8 ∨ p.toNat = 9)) lanes = (t, c) →
        (s.free { ss := [a.toNat], sv := at' ++ srcs, dv := dsts } → traps (.atom e v a o p g l) 3 s.grp.ldc t both)
        ∧ (s.free { ss := [a.toNat], sv := at' ++ srcs } → traps (.red e v a o p g l) 3 s.grp.stc t both))

/-- R178, R391, R393: the record of failing lanes: the first cause of the list of R391, its lanes and the lowest one's address,
every lane that failed, and a reissue by lane. -/
def Sys2Proof.Claims.LaneTrapRecord : Prop :=
  ∀ (s : State) (k acc : Nat) (fs : List Fail), fs ≠ [] →
    (∀ f ∈ fs, [0x02, 0x03, 0x04, 0x05, 0x0F].contains f.cause = true) →
    let t := s.laneTrap k acc fs
    (∃ f ∈ fs, t.cause = f.cause)
    ∧ (∀ f ∈ fs, causeOrder.idxOf t.cause ≤ causeOrder.idxOf f.cause)
    ∧ (∀ l < 32, bit t.lmask l = fs.any fun f => f.lane == l && f.cause == t.cause) ∧ (∀ l < 32, bit t.pmask l = fs.any fun f => f.lane == l)
    ∧ ((fs.map fun f => f.lane).Nodup → (∀ f ∈ fs, f.lane < 32) → ∀ f ∈ fs, f.cause = t.cause → (∀ g ∈ fs, g.cause = t.cause → f.lane ≤ g.lane) →
        t.addr = f.va ∧ t.word4 = if f.cause = cXlate ∨ f.cause = cPerm then f.entry else 0)
    ∧ t.acc = acc ∧ t.byLane = true ∧ t.pc = (s.sp k).pc ∧ t.gmode = (s.sp k).gmode ∧ t.rep = (s.sp k).rep

/-- R173, R178, R391, R393: addresses of lanes, and lanes that fail. -/
def Sys2Proof.Claims.LaneAccesses : Prop := Claims.LaneAddresses ∧ Claims.FailingLanesTrap ∧ Claims.LaneTrapRecord

/-- R179: the scalar loads and stores, of the sum of two scalars; their scope is dev; a load's scalar is awaited, a store takes
the scalar's low bytes; a failing access traps. -/
def Obligations.ScalarLoadsAndStores : Prop :=
  ∀ (s t : State) (c : Checked) (e : Bool) (d a b : BitVec 5), s.acts →
    let va := (s.sget s.cur a.toNat + s.sget s.cur b.toNat).toNat
    let ps := (c.pass.head?.map fun p => p.2).getD []
    let x (kind : MKind) (size : Nat) (us : List MUnit) (acq rel : Bool) (n : Nat) : MemOp :=
      { id := 0, splits := [s.cur], gid := t.cg, ctx := t.grp.ctx, core := t.cc, kind := kind, units := us, sreg := n, size := size, scope := 4,
        acq := acq, rel := rel, pc := t.me.pc }
    let load (i : Instr) (size : Nat) (acq : Bool) : Prop :=
      s.free { ss := [a.toNat, b.toNat], ds := [d.toNat] } → s.checkScal s.cur va size needLoad = (t, c) →
      (c.fail ++ c.away = [] → s.grp.ldc < 62 → exec i s = .next ((t.startOp
        (x .sload size (unitsOf 0 va ps 0) acq false (if d.toNat = 0 then 0 else t.scalarKey s.cur d.toNat + 1))).advance e))
      ∧ ∀ f rest, c.fail ++ c.away = f :: rest → exec i s = .next (t.trap s.cur (t.scalTrap s.cur 1 f))
    let store (i : Instr) (size : Nat) (rel : Bool) : Prop :=
      s.free { ss := [a.toNat, b.toNat, d.toNat] } → s.checkScal s.cur va size needStore = (t, c) →
      (c.fail ++ c.away = [] → s.grp.stc < 62 → exec i s = .next ((t.startOp
        (x .store size (unitsOf 0 va ps ((t.sget s.cur d.toNat).toNat % 256 ^ size)) false rel 0)).advance e))
      ∧ ∀ f rest, c.fail ++ c.away = f :: rest → exec i s = .next (t.trap s.cur (t.scalTrap s.cur 2 f))
    c.wait = false → c.dead = false →
    load (.sldB32 e d a b) 4 false ∧ load (.sldB64 e d a b) 8 false ∧ load (.sldB32Acq e d a b) 4 true ∧ load (.sldB64Acq e d a b) 8 true
    ∧ store (.sstB32 e d a b) 4 false ∧ store (.sstB64 e d a b) 8 false ∧ store (.sstB32Rel e d a b) 4 true
    ∧ store (.sstB64Rel e d a b) 8 true

/-- R180-R182: ATOM and RED of an accepted type whose lanes pass put one access into flight, of one unit a lane, or of two halves for
f2add; ATOM alone awaits its rows. A type the op does not take is undefined. -/
def Sys2Proof.Claims.AtomicsIssue : Prop :=
  ∀ (s t : State) (c : Checked) (e : Bool) (v o : BitVec 6) (a : BitVec 5) (p : BitVec 4) (g : BitVec 3) (l : BitVec 1), s.acts →
    let wide := if s.ty = 15 then 8 else 4
    let n := wide / 4
    let count := if p.toNat = 9 then 2 * n else n
    let srcs := (List.range count).map fun i => v.toNat + i
    let dsts := (List.range n).map fun i => v.toNat + i
    let at' := if a = 0 then [o.toNat, o.toNat + 1] else [o.toNat]
    let types : List Nat := match p.toNat with
      | 0 | 5 | 6 | 7 => [0, 1, 2, 15]
      | 1 | 2 => [0, 1, 15]
      | 3 | 4 => [0, 2, 15]
      | 8 | 9 => [0, 1, 2, 3, 15]
      | 10 => [3]
      | 11 => [6, 7]
      | _ => []
    let ok := types.contains s.ty = true ∧ v.toNat + count ≤ 64 ∧ (s.ty = 15 → v.toNat % 2 = 0)
    let host := p.toNat = 0 ∨ p.toNat = 8 ∨ p.toNat = 9
    let lanes := (s.glanes s.cur).map fun l => (l, s.laneAddr s.cur a.toNat o.toNat l)
    let x (returns : Bool) : MemOp :=
      { id := 0, splits := [s.cur], gid := t.cg, ctx := t.grp.ctx, core := t.cc, kind := .atom p.toNat s.ty returns,
        units := c.pass.flatMap fun q => t.atomUnits s.cur v.toNat p.toNat wide q.1 (s.laneAddr s.cur a.toNat o.toNat q.1) q.2,
        rows := if returns then dsts.map (t.row s.cur) else [], lanes := maskOf (c.pass.map fun q => q.1), size := wide, scope := g.toNat,
        acq := l == 1 && returns, rel := l == 1, pc := t.me.pc }
    -- the units of a lane
    (∀ k m va place, (k = 11 → s.ty ≠ 15) → let x := t.rowsVal s.cur (if k = 9 then v.toNat + n else v.toNat) n m
      let half (i : Nat) : MUnit := { lane := m, place := place.plus (2 * i), size := 2, off := 2 * i, va := va, value := BitVec.ofNat 64 (x / 65536 ^ i % 65536) }
      t.atomUnits s.cur v.toNat k wide m va [(place, wide, 0)] = if k = 11 then [half 0, half 1]
        else [{ lane := m, place := place, size := wide, off := 0, va := va, value := BitVec.ofNat 64 x,
                cmp := BitVec.ofNat 64 (t.rowsVal s.cur v.toNat n m) }])
    ∧ (¬ ok → exec (.atom e v a o p g l) s = .next s.undef ∧ exec (.red e v a o p g l) s = .next s.undef)
    ∧ (ok → s.checkLanes s.cur wide needAtomic true (decide host) lanes = (t, c) → c.wait = false → c.dead = false → c.fail ++ c.away = [] →
        t.cur = s.cur →
        (s.free { ss := [a.toNat], sv := at' ++ srcs, dv := dsts } → s.grp.ldc < 62 → exec (.atom e v a o p g l) s =
          .next ((if c.pass.isEmpty then t else t.startOp (x true)).advance e))
        ∧ (s.free { ss := [a.toNat], sv := at' ++ srcs } → s.grp.stc < 62 → exec (.red e v a o p g l) s =
          .next ((if c.pass.isEmpty then t else t.startOp (x false)).advance e)))

/-- R36, R174: an access put into flight takes the next number and counts in LDC or STC; the rows or the scalar of a load are
awaited under its number. -/
def Sys2Proof.Claims.AccessesInFlight : Prop :=
  ∀ (s : State) (o : MemOp), (∃ u ∈ o.units, u.done = false) →
    let t := s.startOp o
    let x := { o with id := s.nextId, inTrap := o.splits.any fun k => !(s.sp k).traps.isEmpty }
    t.ops = s.ops ++ [x] ∧ t.nextId = s.nextId + 1
    ∧ (o.isLoad = true → t.gr o.gid = { s.gr o.gid with ldc := (s.gr o.gid).ldc + 1 }
        ∧ (∀ r ∈ o.rows, mget 0 t.pendV (rowKey o.gid r) = s.nextId + 1) ∧ (o.sreg ≠ 0 → mget 0 t.pendS (o.sreg - 1) = s.nextId + 1))
    ∧ (o.isLoad = false → t.gr o.gid = { s.gr o.gid with stc := (s.gr o.gid).stc + 1 } ∧ t.pendV = s.pendV ∧ t.pendS = s.pendS)
    ∧ t.mem = s.mem ∧ t.abuf = s.abuf ∧ t.wbuf = s.wbuf ∧ t.vreg = s.vreg ∧ t.sreg = s.sreg ∧ t.splits = s.splits

/-- R36, R174: the events that perform a unit of an access: the unit waits while an order, a claim or a request holds it up;
otherwise its bytes are read or written (`MemoryUnits`) and it is done (`UnitsDone`). That a release at a scope of a cluster or wider
first writes the core's L1 back is the model's choice (log entry 81). -/
def Sys2Proof.Claims.AccessUnitsPerformed : Prop :=
  ∀ (s : State) (o : MemOp) (i : Nat) (u : MUnit), s.ops.find? (fun x => x.id == o.id) = some o → o.units[i]? = some u →
    o.inRegion = false →
    let ev := if o.isLoad then Instr.loadDataReturn o.id i else Instr.storePerformed o.id i
    let ready := if o.rel = true ∧ 2 ≤ o.scope then s.cleanAllL1 o.core else s
    let noted (t : State) : State := if o.isStore then t.noteOwn (t.launchOf o.gid) u.place else t
    (u.done = true ∨ s.mayPerform o i u = false → exec ev s = .next s)
    ∧ (u.done = false → s.mayPerform o i u = true →
        (∀ t, ready.doUnit o i u = .error t → exec ev s = .next t)
        ∧ (∀ t v bad, ready.doUnit o i u = .ok (t, v, bad) → exec ev s = .next ((noted t).unitDone o.id i v bad))
        -- a store in a buffer of the core
        ∧ ∀ core a, o.kind = .store → u.place = .abuf core a → u.hi = none → (∀ x, ready.soft.contains x = false) → ready.underTest core 0 a u.size = false →
          ∃ t : State, exec ev s = .next (t.unitDone o.id i 0 false)
            ∧ (∀ j < u.size, mget 0 t.abuf (core * 2 ^ 22 + a + j) = BitVec.ofNat 8 (u.value.toNat / 256 ^ j))
            ∧ (∀ key, (key < core * 2 ^ 22 + a ∨ core * 2 ^ 22 + a + u.size ≤ key) → mget 0 t.abuf key = mget 0 ready.abuf key)
            ∧ t.mem = ready.mem ∧ t.wbuf = ready.wbuf)

/-- R36, R174, R176, R396: what a unit that is done does. One that is not the last is noted. The last takes its access out of flight, LDC
or STC of the group falls by one, and a load's rows or scalar hold the bytes that its units read, extended as the form says, or zero where
an error came with them; nothing awaits them any more. -/
def Sys2Proof.Claims.UnitsDone : Prop :=
  ∀ (s : State) (o : MemOp) (i : Nat) (u : MUnit) (v : Word64) (bad : Bool),
    s.ops.find? (fun x => x.id == o.id) = some o → o.units[i]? = some u →
    let t := s.unitDone o.id i v bad
    let us := o.units.set i { u with done := true, bad := bad, value := if o.isLoad then v else u.value }
    let failed (l : Nat) : Bool := us.any fun x => x.lane == l && x.bad
    -- the bytes that lane l read
    let value (l : Nat) : Nat := ((us.filter fun x => x.lane == l).map fun x => x.value.toNat * 256 ^ x.off).sum
    let word (l j : Nat) : Word32 :=
      if 4 ≤ o.size then BitVec.ofNat 32 (value l / 2 ^ (32 * j))
      else if o.signed = true ∧ 2 ^ (8 * o.size - 1) ≤ value l then BitVec.ofInt 32 ((value l : Int) - 2 ^ (8 * o.size)) else BitVec.ofNat 32 (value l)
    ((∃ x ∈ us, x.done = false) →
      (∃ x ∈ t.ops, x.id = o.id) ∧ (∀ x ∈ t.ops, x.id = o.id → x = { o with units := us })
      ∧ t.groups = s.groups ∧ t.vreg = s.vreg ∧ t.sreg = s.sreg ∧ t.pendV = s.pendV ∧ t.pendS = s.pendS ∧ t.mem = s.mem)
    ∧ ((∀ x ∈ us, x.done = true) →
      t.ops = s.ops.filter (fun x => x.id != o.id)
      ∧ (o.isLoad = false → t.gr o.gid = { s.gr o.gid with stc := (s.gr o.gid).stc - 1 } ∧ t.vreg = s.vreg ∧ t.sreg = s.sreg)
      ∧ (o.isLoad = true → t.gr o.gid = { s.gr o.gid with ldc := (s.gr o.gid).ldc - 1 }
          ∧ (∀ q ∈ t.pendV, q.2 ≠ o.id + 1) ∧ (∀ q ∈ t.pendS, q.2 ≠ o.id + 1)
          ∧ ∀ key, mget 0 t.sreg key = if o.sreg ≠ 0 ∧ key = o.sreg - 1 then (if failed 0 then 0 else BitVec.ofNat 64 (value 0)) else mget 0 s.sreg key)
      ∧ (o.kind = .load ∨ (∃ op ty, o.kind = .atom op ty true) → o.rows.length = max 1 (o.size / 4) → o.rows.Nodup →
          (o.size < 4 → ∀ l, value l < 256 ^ o.size) → 0 < o.size →
          ∀ l < 32, (∀ j r, bit o.lanes l = true → o.rows[j]? = some r → t.rowGet o.gid r l = if failed l then 0 else word l j)
            ∧ ∀ r, (bit o.lanes l = false ∨ r ∉ o.rows) → t.rowGet o.gid r l = s.rowGet o.gid r l))

/-- R174, R175, R180-R184, R321, R324, R327, R329: what performing a unit reads and writes, where its bytes are not lost, under test or
in error. A load takes the bytes of ABUF, of the host, of the core's L1 at a scope that may, else of the die's L2, which is asked to get
the sector where it has none. A store to a COH sector that the L2 holds exclusively merges its bytes there; an atomic leaves there the
value of its operation on the word that it found, and returns what it found. -/
def Sys2Proof.Claims.MemoryUnits : Prop :=
  ∀ (s : State) (o : MemOp) (i : Nat) (u : MUnit), s.placeLost u.place = false → s.placeTested o.core u.place u.size = false →
    s.placeBad u.place = false → u.hi = none → 0 < u.size → u.size ≤ 8 →
    let n := u.size
    let d := dieOf o.core
    let gives (v : Nat) (k : State → Prop) : Prop := ∃ t, s.doUnit o i u = .ok (t, BitVec.ofNat 64 v, false) ∧ k t
    let loads := o.kind = .load ∨ o.kind = .sload
    let after (op ty m : Nat) : Nat := atomOp op ty m u.value.toNat u.cmp.toNat
    let host (a : Nat) : Nat := ((List.range n).map fun j => (byteAt s.hostMem (a + j)).toNat * 256 ^ j).sum
    (∀ c a, u.place = .abuf c a → loads → s.soft = [] → s.poison = [] →
      gives ((List.range n).map fun j => (mget 0 s.abuf (c * 2 ^ 22 + a + j)).toNat * 256 ^ j).sum fun t => t = s)
    ∧ (∀ a f, u.place = .host a f →
      (loads → gives (host a) fun t => t = s)
      ∧ ∀ op ty r, o.kind = .atom op ty r → gives (host a) fun t => t = { s with hostMem := t.hostMem }
          ∧ (∀ j < n, byteAt t.hostMem (a + j) = BitVec.ofNat 8 (after op ty (host a) / 256 ^ j))
          ∧ ∀ b, (b < a ∨ a + n ≤ b) → byteAt t.hostMem b = byteAt s.hostMem b)
    ∧ ∀ pa cls home, u.place = .mem pa cls home → home < 32 → pa % 64 + n ≤ 64 →
      let sec := pa / 64
      let e := s.l2At d sec
      let x := s.l1At o.core sec
      let part (z : Sector) : Nat := z.toNat / 256 ^ (pa % 64) % 256 ^ n
      let asks (kind : Nat) : Prop := s.doUnit o i u = .error (s.ask { kind := kind, die := d, sector := sec, home := home, cls := cls })
      -- the L2's sector takes n bytes of v
      let merged (t : State) (v : Nat) : Prop := (t.l2At d sec).state = 3 ∧ t.mem = s.mem ∧
        ∀ j < 64, (t.l2At d sec).data.toNat / 256 ^ j % 256 =
          if pa % 64 ≤ j ∧ j < pa % 64 + n then v / 256 ^ (j - pa % 64) % 256 else e.data.toNat / 256 ^ j % 256
      (∀ y, loads → (cls = 1 ∨ (cls ≠ 3 ∧ o.scope ≤ 1)) → cls < 4 → x = some y → gives (part y.data) fun t => t.l1 = s.l1 ∧ t.l2 = s.l2 ∧ t.mem = s.mem)
      ∧ (loads → cls ≤ 2 → x = none → (e.state ≠ 0 → gives (part e.data) fun _ => True) ∧ (e.state = 0 → asks (if cls = 2 then 0 else 3)))
      ∧ (o.kind = .store → cls = 2 → ((e.state = 2 ∨ e.state = 3) → gives 0 fun t => merged t u.value.toNat)
          ∧ (e.state = 1 → asks 2) ∧ (e.state = 0 → asks 1))
      ∧ ∀ op ty r, o.kind = .atom op ty r → cls = 2 →
          ((e.state = 2 ∨ e.state = 3) → gives (part e.data) fun t => merged t (after op ty (part e.data)))
          ∧ (e.state = 1 → asks 2) ∧ (e.state = 0 → asks 1)

/-- R36, R174-R176, R180-R184: accesses in flight, what performing them reads and writes, and their end. -/
def Obligations.AccessesPerformed : Prop :=
  Claims.AccessesInFlight ∧ Claims.AccessUnitsPerformed ∧ Claims.UnitsDone ∧ Claims.MemoryUnits

/-- R180, R182, R183: the value that performing an atomic leaves in memory (`MemoryUnits`), of w bits; a float add rounds to nearest even
and keeps subnormals. -/
def Sys2Proof.Claims.AtomicValues : Prop :=
  ∀ (ty m x c : Nat),
    let w (op : Nat) : Nat := if op = 11 then 16 else if ty = 15 then 64 else 32
    let int (n : Nat) : Int := if n < 2 ^ (w 0 - 1) then n else (n : Int) - 2 ^ w 0
    m < 2 ^ w 0 → x < 2 ^ w 0 →
    atomOp 0 ty m x c = (m + x) % 2 ^ w 0
    ∧ (int (atomOp 1 ty m x c) = min (int m) (int x)) ∧ (int (atomOp 2 ty m x c) = max (int m) (int x))
    ∧ atomOp 3 ty m x c = min m x ∧ atomOp 4 ty m x c = max m x
    ∧ (∀ i, (atomOp 5 ty m x c).testBit i = (m.testBit i && x.testBit i)) ∧ (∀ i, (atomOp 6 ty m x c).testBit i = (m.testBit i || x.testBit i))
    ∧ (∀ i, (atomOp 7 ty m x c).testBit i = (m.testBit i ^^ x.testBit i))
    ∧ atomOp 8 ty m x c = x ∧ atomOp 9 ty m x c = (if m = c then x else m)
    ∧ (let add (f : Fmt) : Nat := (({ f := f, mode := 0, sat := false, ftz := false } : FCtx).add m x).1
       (ty = 3 → atomOp 10 ty m x c = add .fp32) ∧ (ty = 6 → atomOp 11 ty m x c = add .fp16) ∧ (ty = 7 → atomOp 11 ty m x c = add .bf16))

/-- R180-R183: atomics, their issue and their values. -/
def Obligations.Atomics : Prop := Claims.AtomicsIssue ∧ Claims.AtomicValues

/-! ## Memory control and barriers (R185-R196) -/

/-- R186, R188, R189, R191: FENCE adds an order of the split's accesses, PREF asks for sectors without awaiting them, PAGEQ writes
a status, CARVE reads or sets the carve-out, and a carve-out that waited takes effect when nothing holds its banks. That FENCE at a
scope of a cluster or wider writes back and drops the L1's PRIV sectors too is the model's choice (log entry 81), and so is what PAGEQ does
of a HOST page whose ATS answer is not held (log entry 83). -/
def Sys2Proof.Claims.MemoryControlResults : Prop :=
  ∀ (s : State) (e : Bool) (d a b : BitVec 5) (c : BitVec 3) (r n : BitVec 2), s.acts →
    let x := s.sget s.cur a.toNat
    let now := (s.co s.cc).carved
    (∃ m : FenceMark, exec (.fence e c r) s = .next (({ s with fences := s.fences ++ [m], nextId := s.nextId + 1 } : State).advance e)
      ∧ m.id = s.nextId ∧ m.upto = s.nextId ∧ m.src = [s.cur] ∧ m.dst = [s.cur] ∧ m.acq = bit r 0 ∧ m.rel = bit r 1 ∧ m.both = (r == 3)
      ∧ m.cores = [s.cc] ∧ m.wb = (bit r 1 && decide (2 ≤ c.toNat)) ∧ m.rays = false
      ∧ m.drop = if bit r 0 ∧ 2 ≤ c.toNat then 2 else 0)
    ∧ (s.free { ss := [a.toNat], sv := [b.toNat] } → exec (.pref e n a b) s = .next (((s.glanes s.cur).foldl (fun t l =>
        t.prefLane n.toNat l (t.sget t.cur a.toNat + sext64 (t.vget t.cur b.toNat l)).toNat) s).advance e))
    -- PAGEQ: an address outside the global aperture, and a page that translates
    ∧ (s.free { ss := [a.toNat], ds := [d.toNat] } → 2 ^ 56 ≤ x.toNat →
        exec (.pageq e d a n) s = .next ((s.sset s.cur d.toNat 3).advance e))
    ∧ (∀ t p h, s.free { ss := [a.toNat], ds := [d.toNat] } → x.toNat < 2 ^ 56 →
        s.translate s.cc s.grp.ctx x.toNat (pageNeed n.toNat) = (t, .ok p h) →
        exec (.pageq e d a n) s = .next ((t.sset t.cur d.toNat 0).advance e))
    -- a page that does not answer is asked for: status 1 once its request is posted, 2 where it cannot be
    ∧ (∀ t y u r, s.free { ss := [a.toNat], ds := [d.toNat] } → x.toNat < 2 ^ 56 → s.translate s.cc s.grp.ctx x.toNat (pageNeed n.toNat) = (t, y) →
        (y = .wait ∨ (∃ w, y = .absent w) ∨ ∃ f w, y = .fault f w) →
        t.post { ctx := t.grp.ctx, va := x.toNat, kind := n.toNat, src := 0, die := dieOf t.cc, core := t.cc % 64, who := .pageq } = (u, r) →
        exec (.pageq e d a n) s = .next ((u.sset u.cur d.toNat (if r = .posted then 1 else 2)).advance e))
    -- CARVE
    ∧ (s.free { ss := [a.toNat], ds := [d.toNat] } →
        (s.ctx.carve = false → exec (.carve e d a) s = .next (s.trapU cPriv))
        ∧ (s.ctx.carve = true → a = 0 → (s.co s.cc).pending = false →
            exec (.carve e d a) s = .next ((s.sset s.cur d.toNat (BitVec.ofNat 64 now)).advance e))
        ∧ (s.ctx.carve = true → a ≠ 0 → [0, 4, 8, 12, 16].contains x.toNat = false →
            exec (.carve e d a) s = .next ((s.sset s.cur d.toNat 2).advance e))
        ∧ (s.ctx.carve = true → a ≠ 0 → [4, 8, 12, 16].contains x.toNat = true → now < x.toNat →
            (s.abufHeldAbove s.cc (s.abufSize s.cc - 49152 * x.toNat) = false → exec (.carve e d a) s = .next
              (((s.modCo s.cc fun y => { y with carved := x.toNat, pending := false, target := x.toNat }).sset s.cur d.toNat 0).advance e))
            ∧ (s.abufHeldAbove s.cc (s.abufSize s.cc - 49152 * x.toNat) = true → exec (.carve e d a) s = .next
              (((s.modCo s.cc fun y => { y with pending := true, target := x.toNat }).sset s.cur d.toNat 1).advance e))))
    ∧ ∀ core, (s.co core).pending = true → s.abufHeldAbove core (s.abufSize core - 49152 * (s.co core).target) = false →
        exec (.carveComplete core) s = .next (s.modCo core fun y => { y with carved := y.target, pending := false })

/-- R187: CCTL of the L1 writes dirty sectors of the range back, and drops them where it says so; of the die's L2 it goes on once
no sector of the range is dirty, having asked for their write-back. -/
def Sys2Proof.Claims.CacheControl : Prop :=
  ∀ (s : State) (e : Bool) (n : BitVec 2) (a b : BitVec 5), s.acts → s.free { ss := [a.toNat, b.toNat] } →
    let r := s.linesOf (s.sget s.cur a.toNat).toNat (s.sget s.cur b.toNat).toNat
    let l1 := (s.l1Secs s.cc).filter (inLines r)
    let l2 := (s.l2Secs (dieOf s.cc)).filter (inLines r)
    let clean := l1.foldl (fun t sec => t.cleanL1 s.cc sec) s
    let dirty := l2.filter fun sec => (s.l2At (dieOf s.cc) sec).state == 3
    (n = 0 → exec (.cctl e n a b) s = .next (clean.advance e))
    ∧ (n = 1 → exec (.cctl e n a b) s = .next ((l1.foldl (fun t sec => t.setL1 s.cc sec none) clean).advance e))
    ∧ (n = 2 → dirty = [] → exec (.cctl e n a b) s = .next (s.advance e))
    ∧ (n = 3 → dirty = [] → exec (.cctl e n a b) s = .next ((l2.foldl (fun t sec => t.setL2 (dieOf s.cc) sec {}) s).advance e))
    ∧ (2 ≤ n.toNat → dirty ≠ [] → ∃ t : State, exec (.cctl e n a b) s = .next (t.waitFor t.cur .operand)
        ∧ t = dirty.foldl (fun t sec => t.askWriteBack (dieOf s.cc) sec (n == 3)) s)

/-- R186-R189, R191: the memory-control forms. -/
def Obligations.MemoryControl : Prop := Claims.MemoryControlResults ∧ Claims.CacheControl

/-- R190: WAITV goes on when a watched word differs from the value, waits when none does; a word that differs, read again, or the
time-out lets the split go on, with its instruction behind it. -/
def Obligations.ValueWaits : Prop :=
  ∀ (s t u : State) (c : Checked) (e : Bool) (d a b : BitVec 5) (k : Nat) (ws : List (Nat × Nat)) (v : BitVec 32),
    let at' (l : Nat) : Nat := (s.sget s.cur a.toNat + sext64 (s.vget s.cur b.toNat l)).toNat
    let mine := c.pass.map fun p => (p.1, at' p.1)
    let value := lo32 (s.sget s.cur d.toNat)
    (s.acts → s.free { ss := [d.toNat, a.toNat], sv := [b.toNat] } →
      s.checkLanes s.cur 4 needLoad false true ((s.glanes s.cur).map fun l => (l, at' l)) = (t, c) → c.wait = false → c.dead = false →
      c.fail ++ c.away = [] →
        (c.pass = [] → exec (.waitv e d a b) s = .next (t.advance e))
        ∧ (c.pass ≠ [] → t.waitvLook s.cur mine value = (u, true) → exec (.waitv e d a b) s = .next (u.advance e))
        ∧ (c.pass ≠ [] → t.waitvLook s.cur mine value = (u, false) →
            exec (.waitv e d a b) s = .next (u.waitFor s.cur (.waitv mine value))))
    ∧ ((s.sp k).wait = .waitv ws v → (s.sp k).valid = true →
        exec (.waitvTimeout k) s = .next (s.finishAt k)
        ∧ (s.waitvLook k ws v = (u, true) → exec (.waitvWake k) s = .next (u.finishAt k) ∧ exec (.waitvReread k) s = .next (u.finishAt k))
        ∧ (s.waitvLook k ws v = (u, false) → exec (.waitvWake k) s = .next u ∧ exec (.waitvReread k) s = .next u))
    ∧ ((s.sp k).rep = none → ∀ w, s.fetch (gidOf k) (s.sp k).pc = some w → (s.cx (s.gr (gidOf k)).ctx).state ≠ .saving →
        (s.finishAt k).sp k = { s.sp k with pc := pcAdd (s.sp k).pc (if bit w 25 then 2 else 1), replay := none, wait := .none,
                                            readySince := s.stepNo, aged := false })

/-- R193, R194: SYNC, BAR, CBAR and BARA at their issue: the split waits at its barrier, or, for BARA, is counted and goes on; the
conditions that take SYNCMASK, and PRIV in the emulation handler. That the ids of team and cluster barriers are separate, that a count of
0 is compared as a number, and when lanes that have left by BARA stall is the model's reading (log entries 38 and 75). -/
def Sys2Proof.Claims.BarrierIssue : Prop :=
  ∀ (s : State) (e : Bool) (i : BitVec 4) (j : BitVec 2) (a : BitVec 5), s.acts →
    let x := s.sget s.cur a.toNat
    let m : BitVec 32 := lo32 x &&& ~~~ s.grp.exited
    let others := (List.range 4).filter fun n => (s.sp (4 * s.cg + n)).valid && n != s.cur % 4
    let t := s.grp.team
    let named := x.toNat % 64
    let b := s.barrier t i.toNat
    let clash := (∃ n ∈ others, ∃ id c, (s.sp (4 * s.cg + n)).wait = .bar id c ∧ id ≠ i.toNat) ∨ (s.tm t).groups.length < named
      ∨ (b.gone s.cg &&& s.me.mask = 0 ∧ b.arrived ≠ [] ∧ b.expected ≠ named)
    (s.me.mode = .emu → exec (.sync e a) s = .next (s.trapU cPriv) ∧ exec (.bar e i a) s = .next (s.trapU cPriv)
      ∧ exec (.bara e i a) s = .next (s.trapU cPriv) ∧ exec (.cbar e j) s = .next (s.trapU cPriv))
    ∧ (s.me.mode ≠ .emu →
      (s.free { ss := [a.toNat] } → s.me.mask &&& ~~~ m ≠ 0 → exec (.sync e a) s = .next (s.trapU cSyncmask))
      ∧ (s.free { ss := [a.toNat] } → s.me.mask &&& ~~~ m = 0 →
          (∀ n ∈ others, ∀ y, (s.sp (4 * s.cg + n)).wait = .sync y → y &&& ~~~ s.grp.exited = m ∨ y &&& ~~~ s.grp.exited &&& m = 0) →
          exec (.sync e a) s = .next (s.waitFor s.cur (.sync m)))
      ∧ (s.free { ss := [a.toNat] } → clash → exec (.bar e i a) s = .next (s.trapU cSyncmask) ∧ exec (.bara e i a) s = .next (s.trapU cSyncmask))
      ∧ (s.free { ss := [a.toNat] } → ¬ clash → b.gone s.cg &&& s.me.mask ≠ 0 →
          exec (.bar e i a) s = .next (s.waitFor s.cur (.phase i.toNat)) ∧ exec (.bara e i a) s = .next (s.waitFor s.cur (.phase i.toNat)))
      ∧ (s.free { ss := [a.toNat] } → ¬ clash → b.gone s.cg &&& s.me.mask = 0 →
          exec (.bar e i a) s = .next ((s.setBarrier t i.toNat { b with expected := named }).waitFor s.cur (.bar i.toNat named))
          ∧ exec (.bara e i a) s = .next
              ((s.setBarrier t i.toNat { b with expected := named, lanes := b.lanes ++ [(s.cg, s.me.mask)] }).advance e))
      ∧ (s.free { ss := [a.toNat] } → s.me.mask &&& ~~~ m = 0 →
          let meets (n : Nat) : Bool := match (s.sp (4 * s.cg + n)).wait with
            | .sync y => y &&& ~~~ s.grp.exited != m && y &&& ~~~ s.grp.exited &&& m != 0
            | _ => false
          let clashing := (others.filter meets).map fun n => 4 * s.cg + n
          clashing ≠ [] → exec (.sync e a) s = .next (s.trapAll (s.cur :: clashing) cSyncmask))
      ∧ ((∃ n ∈ others, ∃ id, (s.sp (4 * s.cg + n)).wait = .cbar id ∧ id ≠ j.toNat) → exec (.cbar e j) s = .next (s.trapU cSyncmask))
      ∧ ((∀ n ∈ others, ∀ id, (s.sp (4 * s.cg + n)).wait = .cbar id → id = j.toNat) →
          exec (.cbar e j) s = .next (s.waitFor s.cur (.cbar j.toNat))))

/-- R193: the splits that wait at one SYNC go on together once every lane of its set that has not exited waits there, with what
they accessed before it ordered before what they access after it. -/
def Sys2Proof.Claims.SyncReleases : Prop :=
  ∀ (s : State) (k : Nat) (m : BitVec 32), (s.sp k).valid = true → (s.sp k).wait = .sync m →
    let live : BitVec 32 := m &&& ~~~ (s.gr (gidOf k)).exited
    let waits (j : Nat) : Bool := match (s.sp j).wait with
      | .sync x => (s.sp j).valid && x &&& ~~~ (s.gr (gidOf k)).exited == live
      | _ => false
    let ks := (entries (gidOf k)).filter waits
    let here : BitVec 32 := ks.foldl (fun x j => x ||| (s.sp j).mask) 0
    (live &&& ~~~ here = 0 → s.syncReady k = some ks) ∧ (live &&& ~~~ here ≠ 0 → s.syncReady k = none)

/-- R193, R194: SYNC, BAR and CBAR complete: at the arrival of the last that is expected (the lanes of the set; the groups of the
team; every group of the cluster's teams) every split of the groups that have arrived goes on behind its instruction, and a team barrier
starts its next phase with nothing counted but what groups that have not arrived have issued. -/
def Sys2Proof.Claims.BarrierReleases : Prop :=
  ∀ (s : State) (e : Bool) (i : BitVec 4) (j : BitVec 2) (a : BitVec 5), s.acts → s.me.mode ≠ .emu →
    let x := s.sget s.cur a.toNat
    let m : BitVec 32 := lo32 x &&& ~~~ s.grp.exited
    let t := s.grp.team
    let named := x.toNat % 64
    let goesOn (b u : State) (k : Nat) : Prop :=
      (b.sp k).rep = none → (b.cx (b.gr (gidOf k)).ctx).state ≠ .saving → ∀ w, b.fetch (gidOf k) (b.sp k).pc = some w →
        u.sp k = { b.sp k with pc := pcAdd (b.sp k).pc (if bit w 25 then 2 else 1), replay := none, wait := .none,
                               readySince := b.stepNo, aged := false }
    -- SYNC: this split is the last whose lanes the set waits for
    (s.free { ss := [a.toNat] } → s.me.mask &&& ~~~ m = 0 →
      (∀ k ∈ s.valids s.cg, k ≠ s.cur → ∀ y, s.syncSet k = some y → y = m ∨ y &&& m = 0) →
      let b := s.waitFor s.cur (.sync m)
      exec (.sync e a) s = .next b ∧ ∀ ks, b.syncReady s.cur = some ks → s.cur ∈ ks ∧ ∀ k ∈ ks, goesOn b (b.settleSync s.cg) k)
    -- BAR
    ∧ (s.free { ss := [a.toNat] } → (∀ k ∈ s.valids s.cg, k ≠ s.cur → ∀ id c, (s.sp k).wait = .bar id c → id = i.toNat) →
      named ≤ (s.tm t).groups.length → (s.barrier t i.toNat).gone s.cg &&& s.me.mask = 0 →
      ((s.barrier t i.toNat).arrived = [] ∨ (s.barrier t i.toNat).expected = named) →
      let b := (s.setBarrier t i.toNat { s.barrier t i.toNat with expected := named }).waitFor s.cur (.bar i.toNat named)
      let u := b.noteArrivals t i.toNat
      let p := u.barrier t i.toNat
      exec (.bar e i a) s = .next b ∧
        (p.arrived ≠ [] → (if named = 0 then (u.teamLive t).length else named) ≤ u.arrivals t p → (u.barWaiters t i.toNat).Nodup →
          let has (g : Nat) : Bool := p.arrived.any fun q => q.1 == g
          let rest := p.lanes.filter fun q => !has q.1
          (∀ k ∈ u.barWaiters t i.toNat, has (gidOf k) = true → goesOn b (b.settleBarrier t i.toNat) k)
          ∧ (b.settleBarrier t i.toNat).barrier t i.toNat =
              if rest = [] ∧ (u.barWaiters t i.toNat).all (fun k => has (gidOf k)) = true then {} else { expected := p.expected, lanes := rest }))
    -- CBAR
    ∧ ((∀ k ∈ s.valids s.cg, k ≠ s.cur → ∀ id, (s.sp k).wait = .cbar id → id = j.toNat) →
      let b := s.waitFor s.cur (.cbar j.toNat)
      let gs := (b.clusterTeams t).flatMap b.teamLive
      let ks := (gs.flatMap b.valids).filter fun k => (b.sp k).wait == .cbar j.toNat
      exec (.cbar e j) s = .next b ∧
        (s.cg ∈ gs → gs.all (fun g => b.groupAtCbar g j.toNat) = true → ks.Nodup →
          s.cur ∈ ks ∧ ∀ k ∈ ks, goesOn b (b.settleCbar t j.toNat) k))

/-- R193, R194: SYNC and the barriers. -/
def Obligations.BarriersAndSync : Prop := Claims.BarrierIssue ∧ Claims.SyncReleases ∧ Claims.BarrierReleases

/-! ## Accumulators (R197-R200) -/

/-- R198-R200: the accumulator forms with a guard lane, of tiles the team owns that no quarter-op waits on and no test holds: the
elements of a tile's block of rows in registers, the stores from them, zeroes, and the conversion of a tile into ABUF. A tile that is
read has its correctable errors corrected. Outside the allocation they take ACCRANGE; with no guard lane they only move on. That
LMASK and PMASK are then the guard lanes is the model's reading (log entry 37). -/
def Obligations.AccumulatorForms : Prop :=
  ∀ (s : State) (e : Bool) (k : BitVec 3) (d a b : BitVec 5), s.acts →
    let x := (s.sget s.cur a.toNat).toNat
    let tile := x % 65536
    let n := x / 65536 % 65536
    let tm := s.team
    let guard := gGuard s.me.gmode
    -- what is read has its correctable errors corrected (R322)
    let v := s.correctTile s.cc tile
    let owns (c : Nat) : Prop := c = 0 ∨ (tm.accFirst ≤ tile ∧ tile + c ≤ tm.accFirst + tm.accCount)
    let rows := (List.range 8).map fun i => 8 * k.toNat + i
    let word (i l : Nat) : Nat := 16 * (2 * i + l / 16) + l % 16
    let trap := s.trap s.cur { s.uniTrap s.cur cAccrange with lmask := s.guard s.cur, pmask := s.guard s.cur }
    (s.guard s.cur = 0 → (s.free { ss := [a.toNat], dv := rows, sq := [guard] } → exec (.accLd e k a) s = .next (s.advance e))
      ∧ (s.free { ss := [a.toNat], sv := rows, sq := [guard] } → exec (.accSt e k a) s = .next (s.advance e))
      ∧ (s.free { ss := [a.toNat], sq := [guard] } → exec (.accZero e a) s = .next (s.advance e)))
    ∧ (s.guard s.cur ≠ 0 → ¬ owns 1 → (s.free { ss := [a.toNat], dv := rows, sq := [guard] } → exec (.accLd e k a) s = .next trap)
      ∧ (s.free { ss := [a.toNat], sv := rows, sq := [guard] } → exec (.accSt e k a) s = .next trap))
    ∧ (s.guard s.cur ≠ 0 → ¬ owns n → s.free { ss := [a.toNat], sq := [guard] } → exec (.accZero e a) s = .next trap)
    ∧ ((∀ x ∈ s.soft, x < poisonKey s.cc 2 (256 * tile) ∨ poisonKey s.cc 2 (256 * tile + 256) ≤ x) → v = s)
    ∧ (s.guard s.cur ≠ 0 → owns 1 → s.tileBusy s.grp.team [tile] = false → s.underTest s.cc 2 (256 * tile) 256 = false →
      (s.free { ss := [a.toNat], dv := rows, sq := [guard] } → ∃ t : State, exec (.accLd e k a) s = .next (t.advance e) ∧ t = { v with vreg := t.vreg }
        ∧ (∀ i < 8, ∀ l < 32, bit (s.guard s.cur) l = true → t.vget s.cur (8 * k.toNat + i) l = s.tileGet s.cc tile (word i l))
        ∧ ∀ j, (∀ l < 32, bit (s.guard s.cur) l = true → ∀ i < 8, j ≠ vKey s.cg (s.row s.cur (8 * k.toNat + i)) l) →
            mget 0 t.vreg j = mget 0 s.vreg j)
      ∧ (s.free { ss := [a.toNat], sv := rows, sq := [guard] } → ∃ t : State, exec (.accSt e k a) s = .next (t.advance e)
        ∧ t = { s with tiles := t.tiles, poison := t.poison }
        ∧ (∀ i < 8, ∀ l < 32, t.tileGet s.cc tile (word i l) =
            if bit (s.guard s.cur) l then s.vget s.cur (8 * k.toNat + i) l else s.tileGet s.cc tile (word i l))
        ∧ ∀ c u w, w < 256 → (c ≠ s.cc ∨ u ≠ tile) → u < 2048 → tile < 2048 → t.tileGet c u w = s.tileGet c u w))
    ∧ (s.guard s.cur ≠ 0 → owns n → s.tileBusy s.grp.team ((List.range n).map fun i => tile + i) = false → s.underTest s.cc 2 (256 * tile) (256 * n) = false →
      s.free { ss := [a.toNat], sq := [guard] } → ∃ t : State, exec (.accZero e a) s = .next (t.advance e) ∧ t = { s with tiles := t.tiles, poison := t.poison }
        ∧ (∀ i < n, ∀ w < 256, t.tileGet s.cc (tile + i) w = 0) ∧ (n = 0 → t = s)
        ∧ ∀ u w, w < 256 → (u < tile ∨ tile + n ≤ u) → u < 2048 → tile + n ≤ 2048 → t.tileGet s.cc u w = s.tileGet s.cc u w)
    -- ACC.CVT
    ∧ ([1, 3, 6, 7, 8, 10, 11, 14].contains s.ty = false → exec (.accCvt e d a b) s = .next s.undef)
    ∧ ([1, 3, 6, 7, 8, 10, 11, 14].contains s.ty = true → s.free { ss := [d.toNat, a.toNat, b.toNat], sq := [guard] } → s.guard s.cur ≠ 0 →
        let base := (s.sget s.cur d.toNat).toNat
        let pitch := (s.sget s.cur b.toNat).toNat
        let offs := (List.range 16).map fun i => (base + i * pitch) % 2 ^ 64 - abufBase
        let bytes := 2 * elW s.ty
        (∀ c, s.cvtCheck base pitch tile = some c → exec (.accCvt e d a b) s =
          .next (s.trap s.cur { s.uniTrap s.cur c with lmask := s.guard s.cur, pmask := s.guard s.cur }))
        ∧ (s.cvtCheck base pitch tile = none → (∀ o ∈ offs, s.abufHeld o bytes = false) → s.tileBusy s.grp.team [tile] = false → s.underTest s.cc 2 (256 * tile) 256 = false →
          ∃ t : State, exec (.accCvt e d a b) s = .next ((t.orLanes (s.glanes s.cur) fun _ =>
              (List.range 16).foldl (fun x i => x ||| (s.cvtWords tile i).2) 0).advance e)
            ∧ t = (offs.zip ((List.range 16).map fun i => (s.cvtWords tile i).1)).foldl (fun t q =>
                t.flatWrite (.abuf s.cc q.1) bytes q.2) v))

/-! ## Atomic regions (R203-R220) -/

/-- R204-R207, R118: RGBEG opens a region or nests, up to four levels; RGEND closes a level, and the last waits for the commit;
RGABT aborts; RGST reads the status. In handlers RGBEG takes PRIV, and outside a region RGEND and RGABT do. That a region past its
4 096th instruction aborts with LANE and SCAL 0 is the model's choice (log entry 68). -/
def Sys2Proof.Claims.RegionControl : Prop :=
  ∀ (s : State) (e : Bool) (a : BitVec 5) (d : BitVec 18) (c : BitVec 8), s.me.valid = true →
    let p := s.me
    let to' : Int := (p.pc.toNat % 65536 : Nat) + d.toInt
    let inside := 0 ≤ to' ∧ to' < s.nearLen
    let target : BitVec 32 := BitVec.ofNat 32 (p.pc.toNat / 65536 * 65536 + to'.toNat)
    let handler := p.mode = .emu ∨ p.mode = .trap
    (handler → exec (.rgbeg e a d) s = .next (s.trapU cPriv))
    ∧ (¬ handler → s.lenKnown = false → exec (.rgbeg e a d) s = .next (s.ovWaits s.cc s.grp.ctx (pcId p.pc)).1.stall)
    ∧ (¬ handler → s.lenKnown = true → ¬ inside → exec (.rgbeg e a d) s = .next (s.trapU cApert))
    ∧ (¬ handler → s.lenKnown = true → inside → s.region s.cur = none → s.free { ds := [a.toNat] } → s.grp.ldc = 0 → s.openRegions s.cc < 16 →
        let run := if p.runPc = p.pc then p.run else 0
        let r : Region := { target := target, s := a.toNat, gmode := p.gmode, cwp := p.cwp, resident := p.resident, depth := 1,
                            ser := decide (8 ≤ run), since := s.nextId }
        exec (.rgbeg e a d) s = .next (((s.setRegion s.cur (some r)).modSp s.cur fun p =>
          { p with mode := .region, run := run, runPc := p.pc }).advance e))
    ∧ (∀ r, ¬ handler → s.lenKnown = true → inside → s.region s.cur = some r → r.depth = 4 → exec (.rgbeg e a d) s = .next (s.regAbort s.cur { code := 6 }))
    ∧ (∀ r, ¬ handler → s.lenKnown = true → inside → s.region s.cur = some r → r.depth < 4 → r.issued < 4096 →
        exec (.rgbeg e a d) s = .next ((s.setRegion s.cur (some { r with issued := r.issued + 1, depth := r.depth + 1 })).advance e))
    ∧ (s.region s.cur = none → exec (.rgend e) s = .next (s.trapU cPriv))
    ∧ (∀ r, s.region s.cur = some r → 1 < r.depth → r.issued < 4096 →
        exec (.rgend e) s = .next ((s.setRegion s.cur (some { r with issued := r.issued + 1, depth := r.depth - 1 })).advance e))
    ∧ (∀ r, s.region s.cur = some r → r.depth = 1 → r.issued < 4096 → r.sectors = [] →
        exec (.rgend e) s = .next ((s.setRegion s.cur (some { r with issued := r.issued + 1 })).waitFor s.cur .commit))
    ∧ (∀ r, s.region s.cur = some r → 4096 ≤ r.issued → exec (.rgend e) s = .next (s.regAbort s.cur { code := 2, detail := 6 }))
    ∧ (p.mode ≠ .region → exec (.rgabt e c) s = .next (s.trapU cPriv))
    ∧ (p.mode = .region → exec (.rgabt e c) s = .next (s.regAbort s.cur { code := 5, detail := c.toNat }))
    ∧ (p.mode ≠ .region → s.region s.cur = none → s.free { ds := [a.toNat] } →
        exec (.rgst e a) s = .next ((s.sset s.cur a.toNat (p.rgst + BitVec.ofNat 64 (2 ^ 26 * p.run))).advance e))

/-- R202, R207-R213, R253: what forms do in an open region. Each counts as issued; a register is kept before its first write, sixteen
scalars at most; sums and differences with one tagged operand carry its tag on, two tagged operands and other arithmetic pin their inputs
to the observed values, and a compare of a tagged operand becomes a constraint, eight to a record. A store is buffered; a load takes a store
of the same bytes, and of a protected sector makes an input. Barriers of order act as NOP, and what may not run in a region aborts it. -/
def Sys2Proof.Claims.InsideRegions : Prop :=
  ∀ (s u : State) (e : Bool) (d a b : BitVec 5) (r : Region) (c : Checked) (f : BitVec 3) (o : BitVec 2) (z : BitVec 4),
    s.me.valid = true → s.me.mode = .region → s.region s.cur = some r → r.issued < 4096 →
    let k := s.cur
    let x := s.sget k a.toNat
    let y := s.sget k b.toNat
    let key (n : BitVec 5) : Nat := s.scalarKey k n.toNat
    let tag (n : BitVec 5) : Option Tag := (r.tagS.find? fun p => p.1 == key n).map fun p => p.2
    let kept := if r.savedS.any fun p => p.1 == key d then r.savedS else (key d, s.sget k d.toNat) :: r.savedS
    let record := (r.cons.filter fun q => q.slot == 32).length
    let con (g : Tag) (rel : Nat) (signed : Bool) (bound : Word64) (outcome : Bool) : Constraint :=
      { slot := 32, k := g.k, rel := rel, signed := signed, w := 64, c := g.c, bound := bound, outcome := outcome }
    -- the input of a tag is pinned to what was observed
    let pin (g : Tag) : Constraint := { slot := 32, k := g.k, rel := 6, signed := false, w := 64, c := 0, bound := 0, outcome := true }
    let free' (g : Tag) : Prop := ∀ q ∈ r.cons, ¬ (q.slot = 32 ∧ q.k = g.k ∧ (q.rel = 6 ∨ (q.rel = 0 ∧ q.outcome = true ∧ q.c = 0)))
    -- form j gives d the value v and the tag g, and the region the constraints cs
    let gives (j : Instr) (v : Word64) (g : Option Tag) (cs : List Constraint) : Prop := ∃ (t : State) (q : Region),
      exec j s = .next (t.advance e) ∧ t = { s with sreg := t.sreg, regions := t.regions } ∧ t.sget k d.toNat = v
      ∧ (∀ n < 32, n ≠ d.toNat → t.sget k n = s.sget k n) ∧ t.region k = some q ∧ q.issued = r.issued + 1 ∧ q.savedS = kept
      ∧ (q.tagS.find? fun p => p.1 == key d).map (fun p => p.2) = g ∧ q.cons = r.cons ++ cs ∧ q.stores = r.stores ∧ q.inputs = r.inputs
    let aborts (j : Instr) (code detail : Nat) (scal : Bool) : Prop :=
      ∃ t : State, t = { s with regions := t.regions } ∧ exec j s = .next (t.regAbort k { code := code, detail := detail, scal := scal })
    let ps := (c.pass.head?.map fun p => p.2).getD []
    let covered := r.stores.filter fun q => q.slot == 32 && overlap q.pieces ps
    let op (inputs : List (Nat × Nat)) : MemOp :=
      { id := 0, splits := [k], gid := u.cg, ctx := u.grp.ctx, core := u.cc, kind := .sload, units := unitsOf 0 (x + y).toNat ps 0,
        sreg := u.scalarKey k d.toNat + 1, size := 8, scope := 4, pc := u.me.pc, inRegion := true, inputs := inputs }
    (d ≠ 0 → s.free { ss := [a.toNat, b.toNat], ds := [d.toNat] } →
      (kept.length ≤ 16 →
        (tag a = none → tag b = none → gives (.sadd e d a b) (x + y) none [])
        ∧ (∀ g, tag a = some g → tag b = none → gives (.sadd e d a b) (x + y) (some { g with c := g.c + y }) []
            ∧ gives (.ssub e d a b) (x - y) (some { g with c := g.c - y }) []
            ∧ (record < 8 → gives (.scmpLt e d a b) (if x.toInt < y.toInt then BitVec.allOnes 64 else 0) none
                [con g 2 true y (decide (x.toInt < y.toInt))]
              ∧ (free' g → gives (.smul e d a b) (x * y) none [pin g]))
            ∧ (8 ≤ record → aborts (.scmpLt e d a b) 2 2 true) ∧ (¬ free' g → gives (.smul e d a b) (x * y) none []))
        ∧ (∀ g, tag a = none → tag b = some g → gives (.sadd e d a b) (x + y) (some { g with c := g.c + x }) [])
        ∧ (∀ g h, tag a = some g → tag b = some h → g.k ≠ h.k → a ≠ b → free' g → free' h → record ≤ 6 →
            gives (.sadd e d a b) (x + y) none [pin g, pin h])
        ∧ (tag d = none → gives (.rgst e d) (BitVec.ofNat 64 (1 + 2 ^ 22 * r.depth + (if r.ser then 2 ^ 25 else 0) + 2 ^ 26 * s.me.run)) none []))
      ∧ (16 < kept.length → aborts (.sadd e d a b) 2 5 true))
    -- FENCE and YIELD do nothing; these end the region
    ∧ (∃ t : State, t = { s with regions := t.regions } ∧ exec (.fence e f o) s = .next (t.advance e) ∧ exec (.yield e) s = .next (t.advance e))
    ∧ aborts (.cctl e o a b) 3 0x90 true ∧ aborts (.waitv e d a b) 3 0x90 true ∧ aborts (.carve e d a) 3 0x90 true
    ∧ aborts (.bar e z a) 3 0x90 true ∧ aborts (.accZero e a) 7 0x1F false
    -- SST and SLD, in the global aperture
    ∧ (c.wait = false → c.dead = false → c.fail ++ c.away = [] → tag a = none → tag b = none → (∀ p ∈ ps, p.1.barred = false) →
      (r.sectors ++ protectedSectors ps).dedup.length ≤ 128 →
      (s.free { ss := [a.toNat, b.toNat, d.toNat] } → s.checkScal k (x + y).toNat 8 needStore = (u, c) → r.ser = false →
        let n := ((r.storeCount.find? fun p => p.1 == 32).map fun p => p.2).getD 0
        (n < 8 → ∃ (t : State) (q : Region), exec (.sstB64 e d a b) s = .next (t.advance e) ∧ t = { u with regions := t.regions }
          ∧ t.region k = some q ∧ q.sectors = (r.sectors ++ protectedSectors ps).dedup
          ∧ q.stores = r.stores ++ [{ slot := 32, pieces := ps, size := 8, value := BitVec.ofNat 256 (s.sget k d.toNat).toNat, tag := tag d }])
        ∧ (8 ≤ n → ∃ t : State, t = { u with regions := t.regions }
            ∧ exec (.sstB64 e d a b) s = .next (t.regAbort k { code := 2, detail := 3, scal := true })))
      ∧ (d ≠ 0 → kept.length ≤ 16 → s.free { ss := [a.toNat, b.toNat], ds := [d.toNat] } → s.checkScal k (x + y).toNat 8 needLoad = (u, c) →
        (covered = [] → protectedSectors ps = [] → s.grp.ldc < 62 → ∃ t : State, t = { u with regions := t.regions }
          ∧ exec (.sldB64 e d a b) s = .next ((t.startOp (op [])).advance e))
        ∧ (let n := (r.inputs.filter fun i => i.slot == 32).length
           covered = [] → protectedSectors ps ≠ [] → (∀ i ∈ r.inputs, ¬ (i.slot = 32 ∧ i.pieces = ps ∧ i.size = 8)) →
           (n < 4 → s.grp.ldc < 62 → ∃ (t : State) (q : Region), t = { u with regions := t.regions }
              ∧ exec (.sldB64 e d a b) s = .next ((t.startOp (op [(32, n)])).advance e) ∧ t.region k = some q
              ∧ q.inputs = r.inputs ++ [{ slot := 32, k := n, pieces := ps, size := 8 }]
              ∧ (q.tagS.find? fun p => p.1 == key d).map (fun p => p.2) = some { k := n, c := 0, part := 0 }
              ∧ q.sectors = (r.sectors ++ protectedSectors ps).dedup)
           ∧ (4 ≤ n → ∃ t : State, t = { u with regions := t.regions }
              ∧ exec (.sldB64 e d a b) s = .next (t.regAbort k { code := 2, detail := 1, scal := true })))
        ∧ ∀ v, covered.getLast? = some v → v.pieces = ps → v.size = 8 → v.tag = none → ∃ t : State,
            exec (.sldB64 e d a b) s = .next (t.advance e) ∧ t = { u with regions := t.regions, sreg := t.sreg }
            ∧ t.sget k d.toNat = BitVec.ofNat 64 v.value.toNat))

/-- R202, R204-R213, R253: the region forms, and what forms do in an open region. -/
def Obligations.RegionForms : Prop := Claims.RegionControl ∧ Claims.InsideRegions

/-- R217, R218, R207: an abort puts the registers and the return links that the region wrote back, takes the split to the target with the
mode and window it had, counts RUN for a constraint alone, and leaves the code in the region's scalar; what its loads in flight would
bring is dropped. Other marks of the abort rest on log entry 26. -/
def Sys2Proof.Claims.RegionAborts : Prop :=
  ∀ (s : State) (k : Nat) (r : Region) (x : AbortInfo), s.region k = some r → (s.sp k).valid = true →
    let t := s.regAbort k x
    let q := t.sp k
    -- each key of `saved` has its old value again, and the others what they had
    let back {n : Nat} (saved : List (Nat × BitVec n)) (old new : List (Nat × BitVec n)) (key : Nat) : Prop :=
      (∀ v, (key, v) ∈ saved → (∀ w, (key, w) ∈ saved → w = v) → mget 0 new key = v)
      ∧ ((∀ w, (key, w) ∉ saved) → mget 0 new key = mget 0 old key)
    (∀ key, key ≠ s.scalarKey k r.s ∨ r.s = 0 → back r.savedS s.sreg t.sreg key)
    ∧ (∀ key, back r.savedP s.preg t.preg key) ∧ (∀ key, back r.savedV s.vreg t.vreg key) ∧ (∀ key, back r.savedL s.link t.link key)
    ∧ (∀ o ∈ s.ops, o.inRegion = true → k ∈ o.splits → (∀ p ∈ t.pendV, p.2 ≠ o.id + 1) ∧ (∀ p ∈ t.pendS, p.2 ≠ o.id + 1)
        ∧ ∀ y ∈ t.ops, y.id = o.id → y.rows = [] ∧ y.sreg = 0 ∧ y.dropped = true)
    ∧ t.region k = none ∧ q.mode = .normal ∧ q.wait = .none ∧ q.pc = r.target ∧ q.gmode = r.gmode ∧ q.cwp = r.cwp ∧ q.resident = r.resident
    ∧ q.rep = none ∧ q.mask = (s.sp k).mask ∧ q.run = (if x.code = 1 then min 8 ((s.sp k).run + 1) else 0)
    ∧ (r.s ≠ 0 → t.sget k r.s = BitVec.ofNat 64 x.code)
    ∧ t.mem = s.mem ∧ t.hostMem = s.hostMem ∧ t.abuf = s.abuf ∧ t.wbuf = s.wbuf ∧ t.tiles = s.tiles

/-- R214, R216, R220: the commit event acts once the split waits for it and its accesses are performed: it asks for a sector that
is missing, commits when nothing is missing and every constraint holds, and aborts with CONSTRAINT at the first that fails. A load of
uncorrectable data and a sector that is lost abort with FAULT instead (R218, R222). A serialised attempt that has waited too long aborts too, with LANE and SCAL left open (log entry 43). -/
def Sys2Proof.Claims.RegionCommits : Prop :=
  ∀ (s : State) (k : Nat) (r : Region), s.region k = some r →
    let news := r.inputs.map fun x => (x.slot, x.k, s.reread x)
    let changed := (r.inputs.filter fun x => s.reread x != x.observed.toNat).length
    ((s.sp k).wait = .commit → s.splitInFlight k = false →
      (∀ x, (s.sp k).eccu = some x → exec (.regionCommit k) s = .next (s.takeEccu k x))
      ∧ ((s.sp k).eccu = none → s.setLost r = true →
          exec (.regionCommit k) s = .next (s.regAbort k { code := 3, detail := 0x10, scal := true }))
      ∧ ((s.sp k).eccu = none → s.setLost r = false → s.mayCommit k r = false → exec (.regionCommit k) s = .next (s.askNext k))
      ∧ (∀ slot i, (s.sp k).eccu = none → s.setLost r = false → s.mayCommit k r = true → firstFailing r news = some (slot, i) → exec (.regionCommit k) s = .next (s.regAbort k
          { code := 1, detail := i, lane := if slot = 32 then 0 else slot, scal := slot == 32, changed := changed }))
      ∧ ((s.sp k).eccu = none → s.setLost r = false → s.mayCommit k r = true → firstFailing r news = none → ∃ t : State, exec (.regionCommit k) s = .next t ∧ t = s.commit k r
          ∧ t.region k = none))
    ∧ ((s.sp k).wait ≠ .commit ∨ s.splitInFlight k = true → exec (.regionCommit k) s = .next s)
    ∧ (r.ser = true → s.serialWaits k = true → ∃ (c lane : Nat) (scal : Bool),
        exec (.regionSerialTimeout k) s = .next (({ s with freeCtr := c } : State).regAbort k { code := 1, detail := 0xFF, lane := lane, scal := scal }))
    ∧ (r.ser = false ∨ s.serialWaits k = false → exec (.regionSerialTimeout k) s = .next s)

/-- R214, R216: what a commit does where every constraint holds: the region is closed, tagged registers take the value that their input has
now with what was added to it, and the buffered stores are performed in order: each byte of memory holds what the last store of it wrote, and
every other byte what it held. (Of pages of class COH in this package, outside format regions, on a core whose L1 holds nothing that the
commit would write back first.) -/
def Sys2Proof.Claims.CommitEffects : Prop :=
  ∀ (s : State) (k : Nat) (r : Region), s.region k = some r → firstFailing r (r.inputs.map fun x => (x.slot, x.k, s.reread x)) = none →
    let t := s.commit k r
    let new (slot n : Nat) : Nat := ((r.inputs.find? fun x => x.slot == slot && x.k == n).map s.reread).getD 0
    let value (slot : Nat) (g : Tag) : Word64 := BitVec.ofNat 64 (new slot g.k) + g.c
    let covers (p : Piece) (a : Nat) : Prop := ∃ pa home, p.1 = .mem pa 2 home ∧ pa ≤ a ∧ a < pa + p.2.1
    t.region k = none ∧ (t.sp k).mode = .normal ∧ (t.sp k).run = 0
    ∧ ((r.tagS.map fun p => p.1).Nodup → (∀ p ∈ r.tagS, mget 0 t.sreg p.1 = value 32 p.2)
        ∧ ∀ key, (∀ p ∈ r.tagS, p.1 ≠ key) → mget 0 t.sreg key = mget 0 s.sreg key)
    ∧ ((r.tagV.map fun p => p.1).Nodup → (∀ p ∈ r.tagV, let v := value (p.1 % 32) p.2
          mget 0 t.vreg p.1 = if p.2.part = 2 then hi32 v else lo32 v)
        ∧ ∀ key, (∀ p ∈ r.tagV, p.1 ≠ key) → mget 0 t.vreg key = mget 0 s.vreg key)
    ∧ ((s.l1Secs (coreOf (gidOf k))) = [] →
        (∀ b ∈ r.stores, b.plain = false ∧ b.tag = none ∧ ∀ p ∈ b.pieces, ∃ pa home, p.1 = .mem pa 2 home ∧ home < 32 ∧ s.fmtOn home = []
          ∧ 0 < p.2.1 ∧ pa % 64 + p.2.1 ≤ 64) →
        (∀ a, (∀ b ∈ r.stores, ∀ p ∈ b.pieces, ¬ covers p a) → byteAt t.mem a = byteAt s.mem a)
        ∧ ∀ (pre post : List RStore) (b : RStore) (ps qs : List Piece) (p : Piece) (pa home a : Nat),
          r.stores = pre ++ b :: post → b.pieces = ps ++ p :: qs → p.1 = .mem pa 2 home → pa ≤ a → a < pa + p.2.1 →
          (∀ q ∈ qs, ¬ covers q a) → (∀ c ∈ post, ∀ q ∈ c.pieces, ¬ covers q a) →
          byteAt t.mem a = BitVec.ofNat 8 (b.value.toNat / 256 ^ (p.2.2 + (a - pa))))

/-- R214, R216, R217, R220: how atomic regions end. -/
def Obligations.RegionEnds : Prop := Claims.RegionAborts ∧ Claims.RegionCommits ∧ Claims.CommitEffects

/-! ## The matrix engine (R223-R235) -/

/-- R224, R227-R230, R233, R235: OMAP loads a map; MMA and MMAS queue one quarter-op for each quarter that has one, with what its scalar
lane names and the rows of its guard lanes, unless a quarter fails a check; MFENCE closes a batch and writes its number; MERRQ takes the
context's oldest entry of the log. That LMASK and PMASK of a quarter that fails are its guard lanes is the model's reading (log entry 37). -/
def Sys2Proof.Claims.MatrixForms : Prop :=
  ∀ (s : State) (e : Bool) (n : BitVec 3) (x : BitVec 5) (d a b : BitVec 6), s.acts →
    let scal (i : Nat) : Nat := (s.sget s.cur (x.toNat + i)).toNat
    let map : BitVec 256 := BitVec.ofNat 256 (scal 0 + 2 ^ 64 * scal 1 + 2 ^ 128 * scal 2 + 2 ^ 192 * scal 3)
    let qs := s.quarters d.toNat a.toNat b.toNat
    let g := s.grp
    let queues (i : Instr) (sparse : Bool) (types : List Nat) : Prop :=
      (types.contains s.ty = false → exec i s = .next s.undef)
      ∧ (types.contains s.ty = true → s.free { sv := [d.toNat, a.toNat, b.toNat], cross := true } →
        ((∀ q ∈ qs, s.quarterCheck sparse q = none) → s.queued s.cc + qs.length ≤ 256 → ∃ t : State, exec i s = .next (t.advance e)
          ∧ t = { s with passes := t.passes, groups := t.groups, nextId := s.nextId + qs.length }
          ∧ t.grp.unclosed = g.unclosed ++ ((List.range qs.length).map fun i => s.nextId + i)
          -- the queue keeps what it held, and has the new quarter-ops
          ∧ (∀ p ∈ s.passes, ∃ m ∈ t.passes, m.id = p.id ∧ m.core = p.core ∧ p.ops <+: m.ops)
          ∧ ((s.passes.map fun p => p.id).Nodup → (∀ p ∈ s.passes, p.id < s.nextId) →
              (t.passes.map fun p => p.ops.length).sum = (s.passes.map fun p => p.ops.length).sum + qs.length)
          ∧ ∀ i q, qs[i]? = some q → ∃ p ∈ t.passes, ∃ o ∈ p.ops, p.core = s.cc ∧ p.sparse = sparse ∧ p.ty = s.ty ∧ p.boff = q.boff
              ∧ p.nch = q.nch ∧ o.id = s.nextId + i ∧ o.gid = s.cg ∧ o.team = g.team ∧ o.tile = q.tile ∧ o.ovw = q.ovw ∧ o.map = q.map
              ∧ o.row0 = q.row0 ∧ o.k0 = q.k0 ∧ o.lanes = q.lanes ∧ ∀ r < 16, bit o.rows r = bit q.lanes (8 * (lowLane q.lanes / 8) + r / 2))
        ∧ ∀ q c rest, qs = q :: rest → s.quarterCheck sparse q = some c → exec i s =
          .next (s.trap s.cur { s.uniTrap s.cur c with lmask := q.lanes, pmask := q.lanes }))
    -- the quarters, each named by the guard lanes of its eight and the scalars in its first lane
    (∀ j < 4,
      let m := s.guard s.cur &&& ((0xFF : BitVec 32) <<< (8 * j))
      let word (n : Nat) : Nat := if bit g.exited (8 * j) then 0 else (s.vget s.cur n (8 * j)).toNat
      let v := word d.toNat
      let u := word a.toNat
      let w := word b.toNat
      let o := mget 0 s.omap (s.cg * 8 + u % 8)
      m ≠ 0 → o ≠ 0 → ({ tile := v % 2 ^ 16, ovw := v.testBit 16, map := o, row0 := u / 2 ^ 4 % 2 ^ 16, k0 := u / 2 ^ 20, boff := w % 2 ^ 20,
                         nch := w / 2 ^ 20 % 2 ^ 8, lanes := m } : Quarter) ∈ qs)
    ∧ (∀ q ∈ qs, q.map ≠ 0 ∧ q.lanes ≠ 0 ∧ ∃ j < 4, q.lanes = s.guard s.cur &&& ((0xFF : BitVec 32) <<< (8 * j))) ∧ qs.length ≤ 4
    ∧ (29 ≤ x.toNat → exec (.omap e n x) s = .next s.undef)
    ∧ (x = 0 → exec (.omap e n x) s = .next (({ s with omap := mset 0 s.omap (s.cg * 8 + n.toNat) 0 } : State).advance e))
    ∧ (x ≠ 0 → x.toNat < 29 → s.free { ss := [x.toNat, x.toNat + 1, x.toNat + 2, x.toNat + 3] } →
        (mapOk map = false → exec (.omap e n x) s = .next s.undef)
        ∧ (mapOk map = true →
          exec (.omap e n x) s = .next (({ s with omap := mset 0 s.omap (s.cg * 8 + n.toNat) map } : State).advance e)))
    ∧ queues (.mma e d a b) false (List.range' 6 9) ∧ queues (.mmas e d a b) true (List.range' 6 6)
    ∧ (s.free { ds := [x.toNat] } → g.tbc < 62 →
        let m := (g.batchCount + 1) % 2 ^ 16
        exec (.mfence e x) s = .next (((s.modGr s.cg fun g =>
          { g with batchCount := m, tbc := if g.unclosed = [] then g.tbc else g.tbc + 1, unclosed := [], unclosedTiles := [], unclosedFlags := [],
                   batches := g.batches ++ [{ num := m, ops := g.unclosed, tiles := g.unclosedTiles, flags := g.unclosedFlags }] }).sset
          s.cur x.toNat (BitVec.ofNat 64 m)).advance e))
    ∧ (s.free { ds := [x.toNat] } → g.ctx ∉ (s.co s.cc).marks → (s.co s.cc).errlog.find? (fun y => y.ctx == g.ctx) = none →
        exec (.merrq e x) s = .next (((s.modCo s.cc fun y => { y with marks := y.marks.filter fun i => i != g.ctx }).sset s.cur x.toNat
          (if s.team.me then 2 ^ 61 else 0)).advance e))
    ∧ ∀ y, s.free { ds := [x.toNat] } → g.ctx ∉ (s.co s.cc).marks → (s.co s.cc).errlog.find? (fun y => y.ctx == g.ctx) = some y →
        ∃ t : State, exec (.merrq e x) s = .next (((t.sset s.cur x.toNat (y.word + if s.team.me then 2 ^ 61 else 0))).advance e)
          ∧ (t.co s.cc).errlog = (s.co s.cc).errlog.erase y ∧ t = { s with cores := t.cores }

/-- R225, R228, R233, R234: a pass that nothing holds up takes its quarter-ops in order; one alone writes each element of its active
rows with the sum for it and leaves the others, and then the group has one quarter-op less to wait for: it leaves the unclosed ones or its
batch with its flags, and TBC falls for a batch of which it was the last. -/
def Sys2Proof.Claims.MatrixPasses : Prop :=
  ∀ (s t : State) (core pass : Nat) (p : MPass) (q : QOp) (bad : List (QOp × List BadElem)),
    (s.passes.find? fun p => p.id == pass && p.core == core) = some p →
    (s.runOps p (s.tilesBefore core pass) p.ops = (t, []) → exec (.matrixPass core pass) s = .next s)
    ∧ (bad ≠ [] → s.runOps p (s.tilesBefore core pass) p.ops = (t, bad) → ∃ u : State, exec (.matrixPass core pass) s = .next u
        ∧ u.tiles = t.tiles ∧ (∀ m ∈ u.passes, m.id = pass → m.started = true))
    ∧ (p.ops = [q] → q.tile ∉ s.tilesBefore core pass → s.opHeld core q = false → ∃ u : State,
        exec (.matrixPass core pass) s = .next u ∧ u.tiles = (s.runOp p q).tiles ∧ (∀ m ∈ u.passes, m.id ≠ pass)
        ∧ let g := s.gr q.gid
          let h := u.gr q.gid
          let fl := ((List.range 16).flatMap fun i => if bit q.rows i then (List.range 16).map fun j => (s.dotElem p q i j).2 else []).foldl
            (fun x y => x ||| y) 0
          let more := if fl = 0 then [] else [(q.lanes, fl)]
          (q.id ∈ g.unclosed → h.unclosed = g.unclosed.filter (fun i => i != q.id) ∧ h.unclosedFlags = g.unclosedFlags ++ more
            ∧ h.batches = g.batches ∧ h.tbc = g.tbc)
          ∧ (q.id ∉ g.unclosed → h.unclosed = g.unclosed ∧ h.batches = (g.batches.map fun b => if b.ops.contains q.id then
                { b with ops := b.ops.filter fun i => i != q.id, flags := b.flags ++ more } else b)
              ∧ h.tbc = g.tbc - (g.batches.filter fun b => b.counted && b.ops == [q.id]).length))
    ∧ ((∀ i < 16, ∀ j < 16, (s.runOp p q).tileGet p.core q.tile (16 * i + j) =
        if bit q.rows i then BitVec.ofNat 32 (s.dotElem p q i j).1 else s.tileGet p.core q.tile (16 * i + j))
      ∧ ∀ u w, w < 256 → u < 2048 → q.tile < 2048 → u ≠ q.tile → (s.runOp p q).tileGet p.core u w = s.tileGet p.core u w)

/-- The forms of the matrix unit and its passes. -/
def Obligations.MatrixUnit : Prop := Claims.MatrixForms ∧ Claims.MatrixPasses

/-! ## Copies (R236-R246) -/

/-- R236-R242: a copy form checks its descriptor and its ranges, takes its token, counts in CPC and claims its destination; its
issue ends when the claims are taken. A copy of nothing completes at once. CPYQ reads how far a copy has come. -/
def Sys2Proof.Claims.CopyForms : Prop :=
  ∀ (s : State) (e : Bool) (d a : BitVec 5), s.acts →
    let form (i : Instr) (f n : Nat) : Prop :=
      let desc := (List.range n).map fun j => s.sget s.cur (a.toNat + j)
      let w (j : Nat) : Nat := ((desc[j]?).getD 0).toNat
      let targets := if f = 4 then s.copyTargets (w 4 % 4096) else []
      let c : Copy := { id := s.nextId, form := f, gid := s.cg, after := s.storesOf s.cur, team := s.grp.team, ctx := s.grp.ctx, core := s.cc,
                        token := if d.toNat = 0 then 0 else s.scalarKey s.cur d.toNat + 1, desc := desc, targets := targets,
                        splits := [s.cur], reads := readsFrom f desc 0 }
      let none' := dstLen f desc = 0 ∨ (f = 4 ∧ w 4 % 4096 = 0)
      s.free { ss := (List.range n).map fun j => a.toNat + j, ds := [d.toNat] } →
      (descOk f s.clusterArea desc = false → exec i s = .next s.undef)
      ∧ (descOk f s.clusterArea desc = true → (∀ x, s.copyCheck f desc = some x →
          exec i s = .next (s.trap s.cur { s.uniTrap s.cur x with word4 := s.copyEntry f desc x }))
        ∧ (s.copyCheck f desc = none → none' → exec i s = .next ((s.sset s.cur d.toNat 1).advance e))
        ∧ (s.copyCheck f desc = none → ¬ none' → (s.copies.filter fun c => c.core == s.cc).length < 256 → s.grp.cpc < 62 →
          ∃ t u : State, u = (t.claimAll s.nextId f s.cc s.grp.ctx desc targets 0).advance e
            ∧ t = { s with nextId := s.nextId + 1, copies := s.copies ++ [c], groups := t.groups, pendS := t.pendS }
            ∧ t.grp = { s.grp with cpc := s.grp.cpc + 1 } ∧ (d.toNat ≠ 0 → mget 0 t.pendS (s.scalarKey s.cur d.toNat) = s.nextId + 1)
            ∧ (u.claimsOut s.nextId = false → exec i s = .next u)
            ∧ (u.claimsOut s.nextId = true → exec i s = .next (u.waitFor s.cur (.claim s.nextId s.me.pc)))))
    form (.cpy e d a) 0 4 ∧ form (.cpyt e d a) 1 6 ∧ form (.cpyr e d a) 2 4 ∧ form (.cpyg e d a) 3 5 ∧ form (.cpyb e d a) 4 5
    ∧ (s.grp.index ≠ s.team.producer → exec (.cpyq e d a) s = .next (s.trapU cStream))
    ∧ (s.grp.index = s.team.producer → s.free { ds := [d.toNat] } →
        let key := s.scalarKey s.cur a.toNat + 1
        ((a.toNat = 0 ∨ ∀ c ∈ s.copies, c.token ≠ key) → exec (.cpyq e d a) s = .next ((s.sset s.cur d.toNat 0).advance e))
        ∧ ∀ c, a.toNat ≠ 0 → s.copies.find? (fun c => c.token == key) = some c →
          exec (.cpyq e d a) s = .next ((s.sset s.cur d.toNat (BitVec.ofNat 64
            (commitOf c.form c.desc c.committed % 2 ^ 40 + (if c.parked then 2 ^ 40 else 0) + 2 ^ 41))).advance e))

/-- R239: the checks of a copy come in the order of the rule: only the team's producer copies, addresses are multiples of 4 (a length
that is no multiple of 4 is undefined by R237, and takes ALIGN by log entry 39), and the ranges of one copy do not meet. Word 4 of
the record is 0 unless a HOST page lacks the permission (R393, log entry 39). -/
def Sys2Proof.Claims.CopyChecks : Prop :=
  ∀ (s : State) (d : List Word64),
    let w (j : Nat) : Nat := ((d[j]?).getD 0).toNat
    let src := w 0
    let dst := w 1
    let len := w 2 % 2 ^ 32
    (∀ f, s.grp.index ≠ s.team.producer → s.copyCheck f d = some cStream)
    ∧ (∀ f, s.grp.index = s.team.producer → (src % 4 ≠ 0 ∨ dst % 4 ≠ 0) → s.copyCheck f d = some cAlign)
    ∧ (s.grp.index = s.team.producer → src % 4 = 0 → dst % 4 = 0 → len % 4 ≠ 0 → s.copyCheck 0 d = some cAlign)
    ∧ (s.grp.index = s.team.producer → src % 4 = 0 → dst % 4 = 0 → len % 4 = 0 → src < dst + len → dst < src + len → s.copyCheck 0 d = some cApert)
    ∧ (∀ f x, x ≠ cPerm → s.copyEntry f d x = 0)

/-- The copy forms with their checks. -/
def Obligations.CopyIssue : Prop := Claims.CopyForms ∧ Claims.CopyChecks

/-- R238, R243-R245: what a granule write moves within ABUF: every word of the granule comes from the source word that the form's
geometry gives it (CPYT the other order of the elements, CPYG the element that the index names), CPYR adds it to the word that
stood there, CPYB writes it to each team; a word that has no source and every byte outside the granule keep their values, and the
copy stands at the granule's end. -/
def Sys2Proof.Claims.GranuleBytes : Prop :=
  ∀ (s t : State) (c : Copy), s.copies.find? (fun x => x.id == c.id) = some c → s.copyGranule c = .done t →
    let w (j : Nat) : Nat := (dw c.desc j).toNat
    let es := dES c.desc
    let read (a : Nat) : Nat := s.flatRead (.abuf c.core (a - abufBase)) 4
    let index (o : Nat) : Nat := w 2 + 4 * (o / es)
    let src (o : Nat) : Option Nat := if c.form = 3 then some ((w 0 + read (index o) * es + o % es) % 2 ^ 64)
      else (srcOf c.form c.desc o).map fun x => w 0 + x
    let base := if c.form = 4 then w 1 else w 1 % 256
    let fin := min (dstLen c.form c.desc) ((base + c.committed) / 256 * 256 + 256 - base)
    let within (o : Nat) : Prop := c.committed ≤ o ∧ o < fin ∧ o % 4 = 0
    let inAbuf (a : Nat) : Prop := a % 4 = 0 ∧ abufBase ≤ a ∧ s.aperture c.core a 4 = some 2
    c.committed % 4 = 0 → dstLen c.form c.desc % 4 = 0 → w 1 % 4 = 0 →
    (∀ o, within o → (c.form = 3 → inAbuf (index o)) ∧ ∀ a, src o = some a → inAbuf a) →
    (∀ g ∈ c.got, abufBase ≤ 8 * g.1 → g.2 = s.flatRead (.abuf c.core (8 * g.1 - abufBase)) 8) →
    (t.copies.find? fun x => x.id == c.id).map (fun x => x.committed) = some fin
    ∧ (c.form ≠ 4 → (∀ o, within o → inAbuf (w 1 + o)) →
        let dest (o : Nat) : Place := .abuf c.core (w 1 + o - abufBase)
        (∀ o a, within o → src o = some a →
          t.flatRead (dest o) 4 = if c.form = 2 then copyAdd (field (dw c.desc 3) 7 4) (s.flatRead (dest o) 4) (read a) % 2 ^ 32 else read a)
        ∧ ∀ k y, k < 2048 → y < 2 ^ 22 → (∀ o, within o → (src o).isSome → k = c.core → y < w 1 + o - abufBase ∨ w 1 + o - abufBase + 4 ≤ y) →
          t.flatRead (.abuf k y) 1 = s.flatRead (.abuf k y) 1)
    ∧ (c.form = 4 →
        (∀ x ∈ c.targets, (s.tm x).abufOff + w 1 + dstLen 4 c.desc ≤ 2 ^ 22) →
        (∀ x ∈ c.targets, ∀ y ∈ c.targets, x ≠ y → (s.tm x).core = (s.tm y).core →
          (s.tm x).abufOff + w 1 + dstLen 4 c.desc ≤ (s.tm y).abufOff + w 1 ∨ (s.tm y).abufOff + w 1 + dstLen 4 c.desc ≤ (s.tm x).abufOff + w 1) →
        let dest (x o : Nat) : Place := .abuf (s.tm x).core ((s.tm x).abufOff + w 1 + o)
        (∀ x ∈ c.targets, ∀ o a, within o → src o = some a → t.flatRead (dest x o) 4 = read a)
        ∧ ∀ k y, k < 2048 → y < 2 ^ 22 → (∀ x ∈ c.targets, ∀ o, within o → k = (s.tm x).core →
            y < (s.tm x).abufOff + w 1 + o ∨ (s.tm x).abufOff + w 1 + o + 4 ≤ y) →
          t.flatRead (.abuf k y) 1 = s.flatRead (.abuf k y) 1)

/-- R240, R242: a copy at work takes a step until it is over; at its end its token is written, CPC falls, and the copy and its
claims are gone; one of scope below cluster leaves memory as it is. -/
def Sys2Proof.Claims.CopySteps : Prop :=
  ∀ (s : State) (c : Copy), s.copies.find? (fun x => x.id == c.id) = some c →
    let ended := c.failed ≠ 0 ∨ dstLen c.form c.desc ≤ c.committed
    ((c.parked = true ∨ ended) → exec (.copyGranuleWrite c.id) s = .next s)
    ∧ (c.parked = false → ¬ ended →
        (∀ t, s.copyGranule c = .done t → exec (.copyGranuleWrite c.id) s = .next t.wake)
        ∧ (∀ t, s.copyGranule c = .wait t → exec (.copyGranuleWrite c.id) s = .next t)
        ∧ (∀ t x, s.copyGranule c = .ends t x → exec (.copyGranuleWrite c.id) s = .next (t.failCopy c.id x))
        ∧ (∀ t va w, s.copyGranule c = .fault t va w → exec (.copyGranuleWrite c.id) s = .next (t.parkCopy c va w)))
    ∧ (¬ ended → exec (.copyComplete c.id) s = .next s)
    ∧ (ended → ∃ t : State, exec (.copyComplete c.id) s = .next t
        ∧ (∀ x ∈ t.copies, x.id ≠ c.id) ∧ (∀ x ∈ s.copies, x.id ≠ c.id → x ∈ t.copies)
        ∧ (t.gr c.gid).cpc = (s.gr c.gid).cpc - 1
        ∧ (c.token ≠ 0 → mget 0 t.sreg (c.token - 1) =
            BitVec.ofNat 64 (1 + 2 ^ 8 * c.failed + 2 ^ 24 * commitOf c.form c.desc c.committed))
        ∧ (∀ q ∈ t.pendS, q.2 ≠ c.id + 1) ∧ (∀ q ∈ t.reqs, ¬ (q.who = 1 ∧ q.holder = c.id))
        ∧ t.abuf = s.abuf ∧ t.wbuf = s.wbuf ∧ t.vreg = s.vreg ∧ (dScope c.form c.desc < 2 → t.mem = s.mem))

/-- Copies at work, and the bytes that they move. -/
def Obligations.CopiesAtWork : Prop := Claims.CopySteps ∧ Claims.GranuleBytes

/-! ## Overlays (R247-R252) -/

/-- R250-R252: the overlay forms: a fill that is resident, under way, or failed, as its token says; evictions, pins (an evict-pending
overlay takes none, log entry 32) and the query with the fields of its word. -/
def Sys2Proof.Claims.OverlayForms : Prop :=
  ∀ (s t u : State) (e : Bool) (d a : BitVec 5) (f c n : Nat) (v : Word64), s.acts →
    let id := (s.sget s.cur a.toNat).toNat % 65536
    let tok := if d.toNat = 0 then [] else [s.scalarKey s.cur d.toNat]
    let mine (o : Overlay) : Bool := o.core == s.cc && o.ctx == s.grp.ctx && o.id == id
    let marked := (s.overlays.filter fun o => !(mine o && !s.pinned o)).map fun o => if mine o then { o with evp := true } else o
    let puts (i : Instr) (t : State) (v : Word64) : Prop := exec i s = .next ((t.sset s.cur d.toNat v).advance e)
    -- the overlays of system ids are resident on every core (R248)
    let stays : Prop := 0xFF00 ≤ id ∨ ∃ o, s.overlayOf s.cc s.grp.ctx id = some o ∧ o.evp = false
    (s.free { ss := [a.toNat], ds := [d.toNat] } →
      (s.startFill s.cc s.grp.ctx id tok = (t, .resident) → puts (.ovlLd e d a) t 1)
      ∧ (s.startFill s.cc s.grp.ctx id tok = (t, .failed c) → puts (.ovlLd e d a) t (BitVec.ofNat 64 (1 + 256 * c)))
      ∧ (s.startFill s.cc s.grp.ctx id tok = (t, .filling f) → exec (.ovlLd e d a) s = .next ((t.takeToken s.cur d.toNat f).advance e))
      ∧ (s.startFill s.cc s.grp.ctx id tok = (t, .wait) → exec (.ovlLd e d a) s = .next t.stall)
      ∧ (0xFF00 ≤ id → (∀ f ∈ s.fills, ¬ (f.core = s.cc ∧ f.ctx = s.grp.ctx ∧ f.ovl = id)) → puts (.ovlLd e d a) s 1)
      ∧ (id < 0xFF00 → s.overlayOf s.cc s.grp.ctx id = none → puts (.ovlPin e d a) s 0)
      ∧ (∀ o, id < 0xFF00 → s.overlayOf s.cc s.grp.ctx id = some o → o.evp = true → puts (.ovlPin e d a) s 0)
      ∧ (stays → 255 ≤ s.pinsHeld s.cc s.grp.ctx id → puts (.ovlPin e d a) s 2)
      ∧ (stays → s.pinsHeld s.cc s.grp.ctx id < 255 →
          puts (.ovlPin e d a) (s.modPins s.cc s.grp.ctx id fun n => n + 1) 1)
      ∧ (s.ovWaits s.cc s.grp.ctx 0xFF00 = (t, false) → t.cur = s.cur → t.ovQuery t.cc t.grp.ctx (t.ovId a) = (u, v) → u.cur = s.cur →
          puts (.ovlQ e d a) u v
          ∧ let i := t.ovId a
            let o := t.overlayOf t.cc t.grp.ctx i
            let fill := t.fills.find? fun f => f.core == t.cc && f.ctx == t.grp.ctx && f.ovl == i
            let quota := (t.ovHeader t.cc t.grp.ctx).2.quota
            let len : Nat := match o, fill with | some o, _ => o.slots.length | none, some f => f.len | none, none => 1
            (1 ≤ len → len ≤ 16 → t.ovHeader t.cc t.grp.ctx = (t, (t.ovHeader t.cc t.grp.ctx).2) → t.pinsHeld t.cc t.grp.ctx i < 256 →
              t.slotsUsed t.cc t.grp.ctx < 256 → quota < 256 →
              (bit v 0 = true ↔ o.isSome = true ∨ 0xFF00 ≤ i) ∧ (bit v 1 = true ↔ ∃ x, o = some x ∧ x.evp = true)
              ∧ (bit v 2 = true ↔ fill.isSome = true) ∧ (bit v 3 = true ↔ 0xFF00 ≤ i) ∧ field v 7 4 = 0 ∧ field v 11 8 = len - 1
              ∧ field v 15 12 = 0 ∧ field v 23 16 = t.pinsHeld t.cc t.grp.ctx i ∧ field v 31 24 = 0
              ∧ field v 39 32 = t.slotsUsed t.cc t.grp.ctx ∧ field v 47 40 = quota ∧ field v 63 48 = 0)))
    ∧ (s.free { ss := [a.toNat] } →
      (∀ x, s.startFill s.cc s.grp.ctx id [] = (t, x) → x ≠ .wait → exec (.ovlHint e a) s = .next (t.advance e))
      ∧ (0xFF00 ≤ id → exec (.ovlEv e a) s = .next (s.trapU cPriv))
      ∧ (id < 0xFF00 → (∀ f ∈ s.fills, ¬ (f.core = s.cc ∧ f.ctx = s.grp.ctx ∧ f.ovl = id ∧ f.waitsEvict = false)) →
          exec (.ovlEv e a) s = .next (({ s with overlays := marked } : State).advance e))
      ∧ exec (.ovlUnpin e a) s = .next ((s.modPins s.cc s.grp.ctx id fun n => n - 1).advance e))
    ∧ (n < 256 → id < 0xFF00 → (∀ o ∈ s.overlays, mine o = true → o.pins = n) → (∃ o ∈ s.overlays, mine o = true) →
        (s.modPins s.cc s.grp.ctx id fun n => n + 1).pinsHeld s.cc s.grp.ctx id = n + 1
        ∧ (s.modPins s.cc s.grp.ctx id fun n => n - 1).pinsHeld s.cc s.grp.ctx id = n - 1)

/-- R250, R115: the end of a fill: unless it failed, the overlay is resident with its words in its slots, which hold 0 where the page
gave no word, and no other slot changes; its tokens are written, and the splits that waited for it issue again. -/
def Sys2Proof.Claims.FillsComplete : Prop :=
  ∀ (s : State) (f : Fill), s.fills.find? (fun x => x.id == f.id) = some f →
    (f.waitsEvict = true → exec (.overlayFillComplete f.id) s = .next s)
    ∧ (f.waitsEvict = false → ∃ t : State, exec (.overlayFillComplete f.id) s = .next t
        ∧ (∀ x ∈ t.fills, x.id ≠ f.id)
        ∧ (∀ key ∈ f.tokens, mget 0 t.sreg key = if f.failed = 0 then 1 else BitVec.ofNat 64 (1 + 256 * f.failed))
        ∧ (∀ key, key ∉ f.tokens → mget 0 t.sreg key = mget 0 s.sreg key)
        ∧ (f.failed ≠ 0 → t.overlays = s.overlays ∧ t.chuck = s.chuck)
        ∧ (f.failed = 0 → t.overlays = s.overlays ++ [{ core := f.core, ctx := f.ctx, id := f.ovl, slots := f.slots, order := f.id }])
        ∧ (f.failed = 0 → f.slots.Nodup → (f.words.map fun x => x.1).Nodup → (∀ x ∈ f.words, x.1 < 1024 * f.slots.length) →
            let key (i : Nat) : Nat := (f.core * 64 + (f.slots[i / 1024]?).getD 0) * 1024 + i % 1024
            (∀ x ∈ f.words, mget 0 t.chuck (key x.1) = x.2)
            ∧ (∀ i < 1024 * f.slots.length, (∀ x ∈ f.words, x.1 ≠ i) → mget 0 t.chuck (key i) = 0)
            ∧ ∀ j, (∀ x ∈ f.slots, j / 1024 ≠ f.core * 64 + x) → mget 0 t.chuck j = mget 0 s.chuck j)
        ∧ (∀ k, (s.sp k).valid = true → (s.sp k).wait = .fill f.id → (t.sp k).wait = .none)
        ∧ t.mem = s.mem ∧ t.abuf = s.abuf ∧ t.vreg = s.vreg)

/-- The overlay forms and the end of a fill. -/
def Obligations.OverlaysAndFills : Prop := Claims.OverlayForms ∧ Claims.FillsComplete

/-! ## Graphics (R254-R272) -/

/-- R259, R260, R269-R271, R284: the mesh and pixel forms, which take PRIV in a group of another origin. -/
def Obligations.GraphicsForms : Prop :=
  ∀ (s t : State) (e : Bool) (d a b : BitVec 6) (n : BitVec 2) (c : AttrAcc), s.acts →
    let g := s.guard s.cur
    let lane (n l : Nat) : Nat := (s.vget s.cur n l).toNat
    let l := lowLane g
    -- a group of another origin
    (s.openRec = none → (a.toNat ≤ 60 → exec (.mshEmit e d a b) s = .next (s.trapU cPriv))
      ∧ (b.toNat ≠ 63 → exec (.mshClose e d a b) s = .next (s.trapU cPriv)))
    ∧ (s.myPix = none → exec (.pixAttr e d a b) s = .next (s.trapU cPriv) ∧ exec (.pixOut e n a) s = .next (s.trapU cPriv)
      ∧ exec (.pixKill e) s = .next (s.trapU cPriv) ∧ exec (.pixOrd e) s = .next (s.trapU cPriv))
    -- MSH.EMIT, MSH.CLOSE
    ∧ (∀ r, s.openRec = some r → a.toNat ≤ 60 →
        s.free { sv := [d.toNat, b.toNat, a.toNat, a.toNat + 1, a.toNat + 2, a.toNat + 3] } → ∃ t : State,
        exec (.mshEmit e d a b) s = .next (t.advance e) ∧ t = { s with teams := t.teams }
        ∧ t.team = { s.team with mesh := some ((s.glanes s.cur).foldl (fun r l => r.emit (lane b.toNat l) (lane d.toNat l)
            ((List.range 4).map fun i => s.vget s.cur (a.toNat + i) l)) r) })
    ∧ (∀ r, s.openRec = some r → b.toNat ≠ 63 → s.free { sv := [a.toNat, b.toNat, b.toNat + 1], dv := [d.toNat] } →
        (g = 0 → exec (.mshClose e d a b) s = .next (s.advance e))
        ∧ (g ≠ 0 → (s.relReady s.cur = false ∨ ∃ o ∈ s.ops, o.gid = s.cg ∧ o.isStore = true) →
          exec (.mshClose e d a b) s = .next (s.waitFor s.cur .operand))
        ∧ (g ≠ 0 → s.relReady s.cur = true → (∀ o ∈ s.ops, ¬ (o.gid = s.cg ∧ o.isStore = true)) → ∃ t : State,
          exec (.mshClose e d a b) s = .next (t.modSp s.cur fun p => { p with wait := .close, replay := none })
          ∧ t = (s.cleanAllL1 s.cc).modTm s.grp.team fun m => { m with mesh := m.mesh.map fun r => { r with
              closed := true, nattr := min 64 (lane a.toNat l % 128), attr := s.vget64 s.cur b.toNat l,
              closer := some (s.grp.index, g, s.row s.cur d.toNat) } }))
    -- the pixel forms
    ∧ (∀ p, s.myPix = some p →
        (s.free {} → exec (.pixKill e) s = .next (({ s with pix := updWhere s.pix (fun q => q.id == p.id) (fun q =>
          { q with killed := q.killed ||| g }) } : State).advance e))
        ∧ (s.pixBefore p ≠ [] → exec (.pixOrd e) s = .next (s.waitFor s.cur .operand))
        ∧ (s.pixBefore p = [] → exec (.pixOrd e) s = .next ((s.fenceWith [s.cur] [s.cur] [s.cc] true false false 3).advance e))
        ∧ (s.free { sv := [a.toNat] } →
          let outs := lanesOf (g &&& p.covered &&& ~~~ p.killed)
          ((outs = [] ∨ (s.dr p.draw).pass.nrt ≤ n.toNat) → exec (.pixOut e n a) s = .next (s.advance e))
          ∧ (outs ≠ [] → n.toNat < (s.dr p.draw).pass.nrt → s.grp.stc < 62 → ∃ t : State, exec (.pixOut e n a) s = .next (t.advance e)
            ∧ t = { s with nextId := s.nextId + 1, groups := t.groups, pix := updWhere s.pix (fun q => q.id == p.id) (fun q =>
                { q with outs := q.outs ++ outs.map fun l => (s.nextId, n.toNat, l, s.vget s.cur a.toNat l) }) }
            ∧ t.grp = { s.grp with stc := s.grp.stc + 1 }))
        ∧ (s.free { sv := [a.toNat, b.toNat], dv := [d.toNat] } →
          (s.glanes s.cur).foldl (fun (x : State × AttrAcc) l => x.1.attrLane p s.cur a.toNat b.toNat x.2 l) (s, {}) = (t, c) →
          c.chk.wait = false → c.chk.dead = false → c.chk.fail = [] → ∃ u : State, exec (.pixAttr e d a b) s = .next (u.advance e)
            ∧ let x := c.vals.foldl (fun t v => t.vset s.cur d.toNat v.1 v.2) t
              u = if c.bad = [] then x else x.putEccu s.cur s.me.pc (some (maskOf c.bad))))

/-- R259: what one lane of MSH.EMIT puts into the meshlet: the vertex that bit 8 of its control selects, and the primitive that
bit 9 adds, up to 256 of them. -/
def Sys2Proof.Claims.MeshletRecords : Prop :=
  ∀ (r : MeshRec) (c d : Nat) (x y z w : Word32),
    let t := r.emit c d [x, y, z, w]
    (c.testBit 8 = true → mget 0 t.vtx (c % 256 * 4) = x ∧ mget 0 t.vtx (c % 256 * 4 + 1) = y ∧ mget 0 t.vtx (c % 256 * 4 + 2) = z
      ∧ mget 0 t.vtx (c % 256 * 4 + 3) = w)
    ∧ (∀ k, (c.testBit 8 = false ∨ k / 4 ≠ c % 256) → mget 0 t.vtx k = mget 0 r.vtx k)
    ∧ (c.testBit 9 = false → t.prims = r.prims ∧ t.ovf = r.ovf)
    ∧ (c.testBit 9 = true → r.prims.length < 256 → t.prims = r.prims ++ [(d % 256, d / 2 ^ 8 % 256, d / 2 ^ 16 % 256)] ∧ t.ovf = r.ovf)
    ∧ (c.testBit 9 = true → 256 ≤ r.prims.length → t.prims = r.prims ∧ t.ovf = true)

/-- R267: the centres of the pixels that a triangle covers: those on the inner side of every edge. -/
def Sys2Proof.Claims.TriangleCoverage : Prop :=
  ∀ (p : Prim) (x y : Nat) (x0 y0 x1 y1 x2 y2 : Int) (z0 z1 z2 : Nat) (q0 q1 q2 : Word32),
    p.verts = [(x0, y0, z0, q0), (x1, y1, z1, q1), (x2, y2, z2, q2)] →
    let cx : Int := 256 * x + 128
    let cy : Int := 256 * y + 128
    let side (ax ay bx by' : Int) : Int := (bx - ax) * (cy - ay) - (by' - ay) * (cx - ax)
    let area := (x1 - x0) * (y2 - y0) - (x2 - x0) * (y1 - y0)
    p.area = area
    ∧ (0 < area → 0 < side x0 y0 x1 y1 → 0 < side x1 y1 x2 y2 → 0 < side x2 y2 x0 y0 → p.covers x y = true)
    ∧ (area < 0 → side x0 y0 x1 y1 < 0 → side x1 y1 x2 y2 < 0 → side x2 y2 x0 y0 < 0 → p.covers x y = true)
    ∧ (0 < area → (side x0 y0 x1 y1 < 0 ∨ side x1 y1 x2 y2 < 0 ∨ side x2 y2 x0 y0 < 0) → p.covers x y = false)
    ∧ (area < 0 → (0 < side x0 y0 x1 y1 ∨ 0 < side x1 y1 x2 y2 ∨ 0 < side x2 y2 x0 y0) → p.covers x y = false)

/-- R259, R267: records of meshlets, and the coverage of a triangle. -/
def Obligations.MeshletsAndCoverage : Prop := Claims.MeshletRecords ∧ Claims.TriangleCoverage

/-! ## Textures and ray queries (R273-R283) -/

/-- R273, R277-R279: a texture form of its type whose lanes pass their checks puts one access into flight, which counts in LDC, or
in STC for IMG.ST, and moves on. -/
def Obligations.TextureForms : Prop :=
  ∀ (s t : State) (c : TexAcc) (e : Bool) (d a b : BitVec 6), s.acts →
    let form (i : Instr) (f ty coords rows : Nat) : Prop :=
      let store := f = 4
      let xs := (List.range coords).map fun i => a.toNat + i
      let ds := (List.range rows).map fun i => d.toNat + i
      let ok := s.ty = ty ∧ b.toNat % 2 = 0 ∧ d.toNat + rows ≤ 64 ∧ a.toNat + coords ≤ 64
      (¬ ok → exec i s = .next s.undef)
      ∧ (ok → s.free { sv := xs ++ [b.toNat, b.toNat + 1] ++ (if f = 4 then ds else []), dv := if f = 4 then [] else ds, cross := f == 0 } →
        (s.glanes s.cur).foldl (fun (x : State × TexAcc) l => x.1.texLane s.cur f d.toNat a.toNat b.toNat x.2 l) (s, {}) = (t, c) →
        t.cur = s.cur → c.chk.wait = false → c.chk.dead = false → c.chk.fail = [] → c.bad = [] →
        (if store then s.grp.stc else s.grp.ldc) < 62 →
        (c.chk.pass = [] → exec i s = .next (t.advance e))
        ∧ (c.chk.pass ≠ [] → ∃ x : MemOp, exec i s = .next ((t.startOp x).advance e) ∧ x.units = c.units ∧ x.tex = c.tex
          ∧ x.kind = (if store then .store else .tex f) ∧ x.rows = (if store then [] else ds.map (s.row s.cur))
          ∧ x.lanes = maskOf (c.chk.pass.map fun p => p.1) ∧ x.splits = [s.cur] ∧ x.gid = s.cg ∧ x.core = s.cc))
    form (.tex e d a b) 0 3 2 4 ∧ form (.texl e d a b) 1 3 3 4 ∧ form (.texg e d a b) 2 3 6 4 ∧ form (.imgLd e d a b) 3 0 3 1
    ∧ form (.imgSt e d a b) 4 0 3 1

/-- R280-R283: a ray query takes eight words of each guard lane, awaits its rows and token, and moves on; it ends when every lane
has finished, and then its rows and its token are written; a lane whose ray has a NaN or no direction finishes as a miss. -/
def Sys2Proof.Claims.RayQueries : Prop :=
  ∀ (s : State) (e : Bool) (d a b : BitVec 5), s.acts →
    let rows := (List.range 4).map fun i => b.toNat + i
    let form (i : Instr) (first : Bool) : Prop :=
      (24 < b.toNat → exec i s = .next s.undef)
      ∧ (b.toNat ≤ 24 → s.free { ss := [a.toNat], ds := [d.toNat], sv := (List.range 8).map (fun i => b.toNat + i), dv := rows } →
        ((s.sget s.cur a.toNat).toNat % 64 ≠ 0 → exec i s = .next (s.trapU cAlign))
        ∧ ((s.sget s.cur a.toNat).toNat % 64 = 0 → s.guard s.cur = 0 → exec i s = .next ((s.sset s.cur d.toNat 1).advance e))
        ∧ ((s.sget s.cur a.toNat).toNat % 64 = 0 → s.guard s.cur ≠ 0 → (s.rays.filter fun r => r.core == s.cc).length < 64 →
          ∃ (r : Ray) (t : State), exec i s = .next (t.advance e)
            ∧ t = { s with nextId := s.nextId + 1, rays := s.rays ++ [r], pendV := t.pendV, pendS := t.pendS }
            ∧ r.id = s.nextId ∧ r.first = first ∧ r.base = s.sget s.cur a.toNat ∧ r.rows = rows.map (s.row s.cur)
            ∧ r.rays = ((s.glanes s.cur).map fun l => (l, (List.range 8).map fun i => s.vget s.cur (b.toNat + i) l))
            ∧ r.results = [] ∧ r.parked = false ∧ (∀ n ∈ rows, mget 0 t.pendV (rowKey s.cg (s.row s.cur n)) = s.nextId + 1)
            ∧ (d.toNat ≠ 0 → mget 0 t.pendS (s.scalarKey s.cur d.toNat) = s.nextId + 1)))
    form (.ray e d a b) false ∧ form (.rayh e d a b) true
    ∧ ∀ r : Ray, s.rays.find? (fun x => x.id == r.id) = some r →
        (r.parked = true → exec (.rayQueryComplete r.id) s = .next s)
        ∧ (r.parked = false → (∀ p ∈ r.todo, rayIn p.2 = none) →
          let out := r.results ++ r.todo.map fun p => (p.1, ([0x7F800000, 0xFFFFFFFF, 0, 0] : List Word32))
          ∃ t : State, exec (.rayQueryComplete r.id) s = .next t ∧ (∀ x ∈ t.rays, x.id ≠ r.id)
          ∧ (r.token ≠ 0 → mget 0 t.sreg (r.token - 1) =
              BitVec.ofNat 64 (1 + (if r.overrun then 2 else 0) + 2 ^ 8 * r.cause + 2 ^ 24 * min r.nodes (2 ^ 40 - 1)))
          ∧ (∀ q ∈ t.pendV, q.2 ≠ r.id + 1) ∧ t.mem = s.mem ∧ t.abuf = s.abuf ∧ t.wbuf = s.wbuf
          ∧ (out = [] → t.vreg = s.vreg)
          ∧ (r.rows.Nodup → (∀ p ∈ out, p.1 < 32) → (∀ p ∈ out, ∀ q ∈ out, p.1 = q.1 → p = q) → ∀ p ∈ out, ∀ (i x : Nat) (w : Word32),
              r.rows[i]? = some x → p.2[i]? = some w → mget 0 t.vreg (vKey r.gid x p.1) = w))

/-- R281, R282: a hit on a triangle is a point of it, within the interval; the better of two hits is the nearer. -/
def Sys2Proof.Claims.RayHits : Prop :=
  ∀ (r : RayIn) (best : Option Rat) (n leaf : Nat) (h g : RayHit), hitLeaf r best n leaf = some h →
    (0 ≤ h.u ∧ 0 ≤ h.v ∧ h.u + h.v ≤ 1) ∧ (∀ x, r.tmin = some x → x ≤ h.t) ∧ (∀ x, best = some x → h.t ≤ x) ∧ h.leaf = leaf
    ∧ (∃ v0 v1 v2 : Vec3, let f (i : Nat) : Nat := n / 2 ^ (32 * i) % 2 ^ 32
        vecOf (f 0) (f 1) (f 2) = some v0 ∧ vecOf (f 3) (f 4) (f 5) = some v1 ∧ vecOf (f 6) (f 7) (f 8) = some v2
        ∧ r.o.x + h.t * r.d.x = (1 - h.u - h.v) * v0.x + h.u * v1.x + h.v * v2.x
        ∧ r.o.y + h.t * r.d.y = (1 - h.u - h.v) * v0.y + h.u * v1.y + h.v * v2.y
        ∧ r.o.z + h.t * r.d.z = (1 - h.u - h.v) * v0.z + h.u * v1.z + h.v * v2.z)
    ∧ (g.t < h.t → betterHit (some h) g = g) ∧ (h.t < g.t → betterHit (some h) g = h) ∧ betterHit none g = g

/-- R281, R282: ray queries and their hits. -/
def Obligations.RayUnit : Prop := Claims.RayQueries ∧ Claims.RayHits

/-! ## Addresses (R42-R45, R378-R381) -/

/-- R42-R45: where the address of a lane goes: the buffers of the core inside the team's allocation, the lane's stack, whose words
stand 128 bytes apart, the global aperture; any other address takes APERT. -/
def Sys2Proof.Claims.Apertures : Prop :=
  ∀ (s : State) (k l va n : Nat) (need : Need),
    let g := gidOf k
    let core := coreOf g
    let t := s.tm (s.gr g).team
    let abuf := va - 0xFFFF810000000000
    let wbuf := va - 0xFFFF800000000000
    let stack := va - 0xFFFF900000000000
    let size := if s.isG core then 0x300000 else 0x240000
    let inAbuf := 0xFFFF810000000000 ≤ va ∧ va < 0xFFFF810000000000 + size
    let inWbuf := 0xFFFF800000000000 ≤ va ∧ va < 0xFFFF800000000000 + 0xC0000
    let inStack := 0xFFFF900000000000 ≤ va ∧ va < 0xFFFF900000000000 + 0x100000
    let ownAbuf := t.abufOff ≤ abuf ∧ abuf + n ≤ t.abufOff + t.abufSize ∧ abuf + n ≤ s.abufLeft core
    let ownWbuf := s.isG core = false ∧ t.wbufOff ≤ wbuf ∧ wbuf + n ≤ t.wbufOff + t.wbufSize
    (va < 2 ^ 56 → s.resolve k l va n need = s.translate core (s.gr g).ctx va need)
    ∧ (inAbuf → ownAbuf → s.resolve k l va n need = (s, .ok (.abuf core abuf) false))
    ∧ (inAbuf → ¬ ownAbuf → s.resolve k l va n need = (s, .fault cBufrange 0))
    ∧ (inWbuf → ownWbuf → need.w = false → s.resolve k l va n need = (s, .ok (.wbuf core wbuf) false))
    ∧ (inWbuf → ownWbuf → need.w = true → s.resolve k l va n need = (s, .fault cPerm 0))
    ∧ (inWbuf → ¬ ownWbuf → s.resolve k l va n need = (s, .fault cBufrange 0))
    ∧ (inStack → (s.cx (s.gr g).ctx).stackSz < stack + n → s.resolve k l va n need = (s, .fault cApert 0))
    ∧ (∀ u p h, inStack → stack + n ≤ (s.cx (s.gr g).ctx).stackSz →
        s.translate core (s.gr g).ctx ((s.gr g).stackBase.toNat + stack / 4 * 128 + 4 * l + stack % 4) need = (u, .ok p h) →
        s.resolve k l va n need = (u, .ok p true))
    ∧ (2 ^ 56 ≤ va → ¬ inAbuf → ¬ inWbuf → ¬ inStack → s.resolve k l va n need = (s, .fault cApert 0))

/-- R378-R381: the walk reads one entry a level, at the index the level takes from the address; an entry with V = 0 ends it as not
present, a leaf maps the page of its level, and what the access needs of it decides between the place and PERM. A core's L0 is asked
first, then the L2 TLB of its die, then the walk, which reads the tables where the walk cache holds nothing (R382); a table or a page
whose home is out of service is contained (R332). The address of a HOST leaf takes the offset in its page from the address, of a page
of any size (log entry 64). -/
def Sys2Proof.Claims.Translation : Prop :=
  ∀ (s t : State) (core c va : Nat) (need : Need) (e : Word64) (level : Nat),
    let index (l : Nat) : Nat := if l = 3 then va / 2 ^ 43 % 2 ^ 13 else if l = 2 then va / 2 ^ 30 % 2 ^ 13
      else if l = 1 then va / 2 ^ 21 % 2 ^ 9 else va / 2 ^ 16 % 2 ^ 5
    let frame := e.toNat / 2 ^ 16 % 2 ^ 40 * 2 ^ 16
    let page := if level = 2 then 2 ^ 30 else if level = 1 then 2 ^ 21 else 2 ^ 16
    let cls := e.toNat / 2 ^ 6 % 4
    let allowed := (need.r = true → bit e 2 = true) ∧ (need.w = true → bit e 3 = true ∧ cls ≠ 1) ∧ (need.o = true → bit e 4 = true)
    (∀ l table, l < 4 →
      let next (x : Word64) : Nat := x.toNat / 2 ^ 8 % 2 ^ 48 * 2 ^ 8
      let up := s.inService (s.physHome (table + 8 * index l)) = true
      (∀ x, s.walkLook (dieOf core) c l va = some x →
        s.walkFrom (dieOf core) c (l + 1) table va = s.walkFrom (dieOf core) c l (next x) va)
      ∧ (s.walkLook (dieOf core) c l va = none → ¬ up → s.walkFrom (dieOf core) c (l + 1) table va = (s, .contained))
      ∧ ∀ (u : State) (x : Word64), s.walkLook (dieOf core) c l va = none → up → s.walkWord (table + 8 * index l) = (u, x) →
        (bit x 0 = false → s.walkFrom (dieOf core) c (l + 1) table va = (u, .absent x))
        ∧ (bit x 0 = true → u.badEntry l x = true → s.walkFrom (dieOf core) c (l + 1) table va = (u, .malformed x))
        ∧ (bit x 0 = true → u.badEntry l x = false → bit x 1 = true → s.walkFrom (dieOf core) c (l + 1) table va = (u, .leaf x l))
        ∧ (bit x 0 = true → u.badEntry l x = false → bit x 1 = false → s.walkFrom (dieOf core) c (l + 1) table va =
            (u.fillWalk (dieOf core) c l va x).walkFrom (dieOf core) c l (next x) va))
    ∧ (∀ x, (mget [] s.l0 core).find? (fun y => y.maps c va) = some x → (s.lookup core c va).2 = .leaf x.leaf x.level)
    ∧ ((mget [] s.l0 core).find? (fun y => y.maps c va) = none →
        (∀ x, s.tlbLook (dieOf core) c va = some x → (s.lookup core c va).2 = .leaf x.leaf x.level
          ∧ x.ctx = c ∧ x.page = va / (if x.level = 2 then 2 ^ 30 else if x.level = 1 then 2 ^ 21 else 2 ^ 16))
        ∧ (s.tlbLook (dieOf core) c va = none → (s.lookup core c va).2 = (s.walkFrom (dieOf core) c 4 (s.cx c).root.toNat va).2))
    ∧ (s.lookup core c va = (t, .contained) → s.translate core c va need = (t, .contained))
    ∧ (s.lookup core c va = (t, .absent e) → s.translate core c va need = (t, .absent e))
    ∧ (s.lookup core c va = (t, .malformed e) → s.translate core c va need = (t, .fault cXlate e))
    ∧ (s.lookup core c va = (t, .leaf e level) →
        (¬ allowed → s.translate core c va need = (t, .fault (if need.o then cOvfault else cPerm) e))
        ∧ (allowed → bit e 5 = false → let pa := frame / page * page + va % page
            let home := t.homeOf (e.toNat / 2 ^ 8 % 16) pa
            let cls' := if (t.cx c).inRange va = true ∧ 2 ≤ cls ∧ pa / 2 ^ 48 = 0 then 0 else cls
            s.translate core c va need = if t.homeUp home ∧ (need.copy = true ∨ (t.dirAt (pa / 64)).state ≠ 6) then
              (t, .ok (.mem pa cls' home) false) else (t, .contained))
        ∧ (allowed → bit e 5 = true → s.translate core c va need = t.hostPlace (dieOf core) c need (frame + va % page)))

/-- R42-R45, R173, R178, R378-R381, R391, R393: where the addresses of lanes go, how they are translated, and lanes that fail. -/
def Obligations.LaneAccesses : Prop := Claims.LaneAccesses ∧ Claims.Apertures ∧ Claims.Translation

/-! ## Waits of handlers, and the schedulers (R285, R394, R361) -/

/-- R285, R394, R361: a split that waits for an emulation level or for the trap bank goes on when no other split of its group holds
one; a split that is ready long enough is past the age threshold, and a scheduler that has such a split picks the one that has
been ready the longest (that the threshold's end is an event of its own is log entry 27's choice). -/
def Obligations.HandlerWaitsAndAge : Prop :=
  ∀ (s : State) (k : Nat),
    let p := s.sp k
    let freed := s.setSp k { p with wait := .none, readySince := s.stepNo, aged := false }
    (p.valid = true →
      (p.wait = .emuLevel → (∀ j ∈ entries (gidOf k), j ≠ k → (s.sp j).valid = true → (s.sp j).levels = []) →
        exec (.emulationLevelWaitEnd k) s = .next freed)
      ∧ (p.wait = .emuLevel → (∃ j ∈ entries (gidOf k), j ≠ k ∧ (s.sp j).valid = true ∧ (s.sp j).levels ≠ []) →
        exec (.emulationLevelWaitEnd k) s = .next s)
      ∧ (p.wait = .trapBank → s.trapHeld k = false → exec (.trapBankWaitEnd k) s = .next freed)
      ∧ (p.wait = .trapBank → s.trapHeld k = true → exec (.trapBankWaitEnd k) s = .next s)
      ∧ (p.wait = .none → p.aged = false → exec (.schedulerAgeThreshold k) s = .next (s.setSp k { p with aged := true })))
    ∧ ∀ ks : List Nat, (∃ j ∈ ks, s.pastAge j = true) → ∃ j ∈ ks, s.pick ks = some j ∧ s.pastAge j = true
        ∧ ∀ i ∈ ks, s.pastAge i = true → (s.sp j).readySince ≤ (s.sp i).readySince

/-! ## Queues, launches and draws (R351-R364, R256) -/

/-- R352-R354: doorbells, NOP, WAIT and SIGNAL; a head that breaks the layout of commands halts its context. -/
def Obligations.QueueCommands : Prop :=
  ∀ (s t : State) (fn c q : Nat) (w : BitVec 32) (p : Place),
    let x := s.qu c q
    let at' := (s.cx c).queuesAt.toNat + 32 * q
    let w0 := s.physWord at'
    let w1 := s.physWord (at' + 8)
    let size := w1.toNat % 32
    let ahead := (w.toNat + 2 ^ 32 - x.rptr) % 2 ^ 32
    let va := (s.cmdWord x 1).toNat
    let n := s.waitCount x
    -- doorbells
    (s.hostQueue = [] → s.fnUp fn = true → s.ownsCtx fn c = true → q < 16 → (s.cx c).state ≠ .halted → bit w1 5 = true →
      (quOk w0 w1 = true → ahead ≤ 2 ^ size → exec (.doorbell fn c q w) s =
        .next ((s.physPut (at' + 24) (w.setWidth 64)).modQu c q fun y =>
          { y with base := w0, size := size, en := true, cls := w1.toNat / 64 % 4, cvec := w1.toNat / 256 % 8, wptr := w.toNat }))
      ∧ ((quOk w0 w1 = false ∨ 2 ^ size < ahead) → exec (.doorbell fn c q w) s = .next (s.haltCtx c { cause := 0x21 })))
    ∧ (s.hostQueue = [] → bit w1 5 = false → exec (.doorbell fn c q w) s = .next s)
    ∧ (s.hostQueue ≠ [] → exec (.doorbell fn c q w) s = .next { s with hostQueue := s.hostQueue ++ [.doorbell fn c q w] })
    -- a command starts: RPTR goes on and is written
    ∧ (let r := (x.rptr + 1) % 2 ^ 32
       let u := s.startHead c q
       u = ((s.physPut (at' + 16) (BitVec.ofNat 64 r)).modQu c q fun y => { y with rptr := r, waitOk := false, readyAt := none }).modPa
             (u.cx c).partition fun y => { y with rr := c * 16 + q + 1 })
    ∧ (s.atHead c q 0 → exec (.nopCommand c q) s = .next (s.startHead c q))
    -- WAIT
    ∧ (s.atHead c q 3 → s.lookWait c x 0 n = .met t →
        let u := t.modQu c q fun y => { y with waitOk := true }
        exec (.waitCommand c q) s = .next (if u.chosenHead (u.cx c).partition = some (c, q) then u.startHead c q else u)
        ∧ exec (.waitCommandPoll c q) s = .next u)
    ∧ (s.atHead c q 3 → s.lookWait c x 0 n = .unmet t →
        let u := t.modQu c q fun y => { y with waitOk := false, readyAt := none }
        exec (.waitCommand c q) s = .next u ∧ exec (.waitCommandPoll c q) s = .next u)
    ∧ (∀ i m u v, s.wordPlace c (s.cmdWord x (1 + 2 * i)).toNat { r := true } = .ok t p → t.placeRead p 8 = (u, v) →
        let least := (s.cmdWord x (2 + 2 * i)).toNat
        (least ≤ v → s.lookWait c x i (m + 1) = u.lookWait c x (i + 1) m)
        ∧ (v < least → (∀ z, u.lookWait c x (i + 1) m = .met z ∨ u.lookWait c x (i + 1) m = .unmet z → s.lookWait c x i (m + 1) = .unmet z)
          ∧ ∀ z, u.lookWait c x (i + 1) m = .halted z → s.lookWait c x i (m + 1) = .halted z))
    ∧ (∀ i m, s.wordPlace c (s.cmdWord x (1 + 2 * i)).toNat { r := true } = .bad t →
        s.lookWait c x i (m + 1) = .halted (t.haltCtx c { cause := 0x21, addr := (s.cmdWord x (1 + 2 * i)).toNat }))
    -- SIGNAL
    ∧ (s.atHead c q 4 → s.wordPlace c va { w := true } = .ok t p →
        let u := (t.placeWrite p 8 (s.cmdWord x 2).toNat).rereadWaits.startHead c q
        ((u.qu c q).cvec = 0 → exec (.signal c q) s = .next u)
        ∧ ((u.qu c q).cvec ≠ 0 → exec (.signal c q) s = .next (u.raiseIrq (u.cx c).fn (2 + (u.qu c q).cvec))))
    ∧ (s.atHead c q 4 → s.wordPlace c va { w := true } = .bad t → exec (.signal c q) s = .next (t.haltCtx c { cause := 0x21, addr := va }))
    -- a bad head
    ∧ (s.serves c = true → x.hasHead = true → s.cmdOk x = false → s.chosenHead (s.cx c).partition = some (c, q) →
        ∀ i ∈ [Instr.nopCommand c q, .launch c q, .draw c q, .waitCommand c q, .signal c q],
          exec i s = .next (s.haltCtx c { cause := 0x21, addr := x.base.toNat + 128 * (x.rptr % 2 ^ x.size) }))

/-- R354, R356, R357, R256, R363, R364: LAUNCH and DRAW with packets that are accepted, and refused; their ends. That a DRAW of a partition
without a G-die or an S-die is refused is log entry 52's reading. -/
def Obligations.LaunchesAndDraws : Prop :=
  ∀ (s t : State) (c q id : Nat) (p : Packet),
    let x := s.qu c q
    let w := s.cmdWord x
    let part := (s.cx c).partition
    let l := s.la id
    let d := s.dr id
    let dies := (s.diesOf part 1).isEmpty = false ∧ (s.diesOf part 2).isEmpty = false
    let ends (u : State) (i : Instr) (c q : Nat) (sigAddr sigVal : Word64) (f : State → State) : Prop :=
      (sigAddr = 0 → exec i s = .next ((f u).endIrq c q))
      ∧ ∀ v, sigAddr ≠ 0 → u.putSignal c sigAddr.toNat sigVal = .done v → exec i s = .next ((f v).endIrq c q)
    (s.atHead c q 1 →
      (s.loadPacket c (w 1).toNat .compute = .ok t p →
        exec (.launch c q) s = .next ((t.startHead c q).addLaunch { live := true, ctx := c, queue := q, packet := p, cls := s.effClass c q }))
      ∧ (s.loadPacket c (w 1).toNat .compute = .refused t →
        exec (.launch c q) s = .next (t.haltCtx c { cause := 0x21, addr := (w 1).toNat })))
    ∧ (∀ ws, packetOf .compute ws = some p → let f (i hi lo : Nat) : Nat := (blkWord ws i).toNat / 2 ^ lo % 2 ^ (hi + 1 - lo)
        p.entry.toNat = f 0 31 0 ∧ p.gridX = f 0 63 32 ∧ p.gridY = f 1 31 0 ∧ p.gridZ = f 1 63 32 ∧ p.team = f 2 4 0 + 1
        ∧ p.clw = f 2 18 16 + 1 ∧ p.clh = f 2 22 20 + 1 ∧ p.depth = f 2 26 24 + 1 ∧ p.cls = f 2 30 29 ∧ p.abuf = f 2 47 32
        ∧ p.wbuf = f 2 63 48 ∧ p.acc = f 3 15 0 ∧ p.slots = f 3 21 16 ∧ p.args = blkWord ws 4 ∧ p.sigAddr = blkWord ws 5
        ∧ p.sigVal = blkWord ws 6 ∧ p.producer < p.team ∧ p.clh ≤ 6 ∧ p.clw * p.clh ≤ 12 ∧ 1 ≤ p.gridX * p.gridY * p.gridZ
        ∧ p.gridX * p.gridY * p.gridZ ≤ 2 ^ 32 ∧ p.sigAddr.toNat % 8 = 0)
    ∧ (s.atHead c q 2 → dies → s.drawFree c = true →
      ∀ t1 t2 t3 ws pass mesh pix, s.readWords c (w 1).toNat 8 = .ok t1 ws → passOf ws = some pass →
        t1.loadPacket c (w 2).toNat .mesh = .ok t2 mesh → t2.loadPacket c pass.pixlp.toNat .pixel = .ok t3 pix →
        exec (.draw c q) s = .next ((t3.startHead c q).startDraw c q (s.effClass c q) pass mesh pix ((w 3).toNat % 2 ^ 32) (w 4) (w 5)))
    ∧ (s.atHead c q 2 → ¬ dies → exec (.draw c q) s = .next (s.haltCtx c { cause := 0x21, addr := (w 1).toNat }))
    -- the ends
    ∧ (l.live = true → l.draw = none → l.retired = l.packet.gridX * l.packet.gridY * l.packet.gridZ →
        ends (s.flush (s.cx l.ctx).partition (s.ownWritten fun x => x == l)) (.endOfLaunch id) l.ctx l.queue l.packet.sigAddr l.packet.sigVal fun u =>
          { u with launches := mset {} u.launches id {} })
    ∧ (l.retired ≠ l.packet.gridX * l.packet.gridY * l.packet.gridZ → exec (.endOfLaunch id) s = .next s)
    ∧ (s.drawDone id = true →
        ends (s.flush (s.cx d.ctx).partition (s.ownWritten fun x => x.draw == some id)) (.drawEnd id) d.ctx d.queue d.sigAddr d.sigVal fun u =>
          { u with draws := mset {} u.draws id {}, launches := u.launches.filter fun x => x.2.draw != some id })
    ∧ (s.drawDone id = false → exec (.drawEnd id) s = .next s)

/-- R358-R360, R50: the next team of a launch whose turn it is takes a place, or nothing happens where none has room; what fits on a
core leaves the team's group slots, ABUF, WBUF and tiles apart from those of every running team; a group starts with registers of
zero (of the banks that R50 does not name, by log entry 6). -/
def Obligations.TeamPlacement : Prop :=
  ∀ (s t : State) (id core c : Nat) (p : Packet) (a : Alloc) (h : OvHeader),
    let l := s.la id
    (l.live = true → s.serves l.ctx = true → (∀ x ∈ s.waitingLaunches (s.cx l.ctx).partition, id ≤ x.1) →
      s.ovHeader cmdCore l.ctx = (t, h) →
      (t.placeable id l h.quota [] = none → exec (.teamPlacement id) s = .next t)
      ∧ ∀ j ts v, t.placeable id l h.quota [] = some (j, ts) →
          (t.shadowWaits ts = (v, true) → exec (.teamPlacement id) s = .next v)
          ∧ (t.shadowWaits ts = (v, false) → j.pix = none → exec (.teamPlacement id) s =
            .next (ts.foldl (fun u x => if (u.cx l.ctx).state = .halted then u else u.startTeam x l.packet j.mask)
              (v.modLa id fun x => { x with next := x.next + j.count }))))
    ∧ ((l.live = false ∨ s.serves l.ctx = false) → exec (.teamPlacement id) s = .next s)
    ∧ (∀ quota, s.fit c p quota core = some a →
        a.slots.length = p.team ∧ (∀ i ∈ a.slots, i < 32 ∧ (s.gr (32 * core + i)).live = false)
        ∧ (p.abuf ≠ 0 → a.abuf + 256 * p.abuf ≤ s.abufOpen core) ∧ (p.wbuf ≠ 0 → s.isG core = false ∧ a.wbuf + 256 * p.wbuf ≤ 0xC0000)
        ∧ ∀ u ∈ s.teamsOn core,
          (p.abuf ≠ 0 → u.abufSize ≠ 0 → a.abuf + 256 * p.abuf ≤ u.abufOff ∨ u.abufOff + u.abufSize ≤ a.abuf)
          ∧ (u.retired = false → p.wbuf ≠ 0 → u.wbufSize ≠ 0 → a.wbuf + 256 * p.wbuf ≤ u.wbufOff ∨ u.wbufOff + u.wbufSize ≤ a.wbuf)
          ∧ (u.retired = false → s.isG core = false → p.acc ≠ 0 → u.accCount ≠ 0 →
              a.tiles + p.acc ≤ u.accFirst ∨ u.accFirst + u.accCount ≤ a.tiles))
    ∧ ∀ g key, (key / 128 = g → mget 0 (s.clearGroup g).sreg key = 0) ∧ (key / 16384 = g → mget 0 (s.clearGroup g).vreg key = 0)
        ∧ (key / 32 = g → mget 0 (s.clearGroup g).preg key = 0 ∧ mget 0 (s.clearGroup g).flags key = 0)
        ∧ (key / 256 = g → mget 0 (s.clearGroup g).link key = 0) ∧ (key / 8 = g → mget 0 (s.clearGroup g).omap key = 0)

/-! ## Coherence (R329, R333-R338, R346, R347) -/

/-- R336, R338, R347, R334, R328, R345: the home serves the next read or ownership request of a die for a sector. A sector nobody else
holds is granted exclusive, a shared one is shared with one more die, holders in the way are recalled first, a sector in a transaction
or claimed waits, and so does one for which the die's L2 has no way; a directory set that is full evicts an entry first. A message of
an earlier incarnation is dropped, and a lost sector gets the error answer. A request of a peer is granted to the switch, die 31, which
notes the peer, and the data go back. -/
def Obligations.CoherenceRequests : Prop :=
  ∀ (s k : State) (die sec : Nat) (q : Req),
    let u := k.dropReq q
    let d := u.dirAt sec
    let v := u.setDir sec { d with busy := none, home := q.home }
    let exclusive : Out := .next (let t := v.fillL2 die sec q.home 2 true
      (t.setDir sec { t.dirAt sec with state := 2, owner := die, home := q.home }).wake)
    let recalled (l : List (Nat × Bool)) : Out := .next (let x := u.setDir sec { d with busy := some q, home := q.home }
      let t := (l.filter fun r => r.1 == 31).foldl (fun t r => t.tellSwitch (.recall sec r.2)) x
      { t with recalls := t.recalls ++ l.map fun r =>
          { die := r.1, sector := sec, home := q.home, inval := r.2, inc := (t.di q.home).incarn } })
    let others := (List.range 32).filter (fun i => bit (u.sharersOf sec) i && i != die)
    let line := (if q.cls = 3 then sec / 64 * 64 else sec) / 4
    let ofDie := die ≠ 31 ∧ q.who ≠ 5 ∧ (s.di die).kind ≠ 3 ∧ (s.di die).state = 1 ∧ s.reqTested q = false
    let here := ofDie ∧ q.inc = (s.di die).incarn
    let waits := (s.dirAt sec).busy ≠ none ∨ (s.dirAt sec).state = 3 ∨ (s.dirAt sec).state = 4
    let ours := here ∧ s.lost sec q.home = false ∧ (q.cls ≠ 3 → ¬ waits) ∧ (q.cls = 3 → q.who = 0)
    let free := ours ∧ s.keepWay q = some k ∧ s.dirRoom q.home line = true
    let coh := free ∧ q.cls ≠ 3 ∧ q.who = 0
    let ask (kind : Nat) : Instr := if kind = 0 then .rds die sec else if kind = 1 then .rdx die sec else .upg die sec
    let next (kind : Nat) : Prop := q.kind = kind ∧ s.nextReq kind die sec = some q
    -- RDS
    (next 0 → coh →
      (d.state = 0 ∨ (d.state = 2 ∧ d.owner = die) → exec (.rds die sec) s = exclusive)
      ∧ (d.state = 1 → exec (.rds die sec) s =
          .next (((v.fillL2 die sec q.home 1 true).setSharers sec (v.sharersOf sec ||| maskOf [die])).wake))
      ∧ (d.state = 2 → d.owner ≠ die → exec (.rds die sec) s = recalled [(d.owner, false)]))
    -- RDX and UPG
    ∧ (∀ kind, kind = 1 ∨ kind = 2 → next kind → coh →
      (d.state = 0 ∨ (d.state = 2 ∧ d.owner = die) ∨ (d.state = 1 ∧ others = []) → exec (ask kind) s = exclusive)
      ∧ (d.state = 1 → others ≠ [] → exec (ask kind) s = recalled (others.map fun i => (i, true)))
      ∧ (d.state = 2 → d.owner ≠ die → exec (ask kind) s = recalled [(d.owner, true)]))
    ∧ (∀ kind < 3, next kind →
      (ofDie → q.inc ≠ (s.di die).incarn → exec (ask kind) s = .next (s.dropReq q))
      ∧ (here → s.lost sec q.home = true → exec (ask kind) s = .next ((s.dropReq q).refuse q))
      ∧ (ours → s.keepWay q = none → exec (ask kind) s = .next s)
      ∧ (ours → s.keepWay q = some k → s.dirRoom q.home line = false → exec (ask kind) s = .next (s.evictEntry q.home line))
      ∧ (here → s.lost sec q.home = false → q.cls ≠ 3 → waits → exec (ask kind) s = .next s)
      -- OWN: the first request takes the 4 KiB block
      ∧ (free → q.cls = 3 → u.ownerOf sec = none → let b := sec / 64 * 64
          exec (ask kind) s = .next (((u.setDir b { u.dirAt b with own := some die, home := q.home }).fillL2 die sec q.home 1 false).wake))
      -- a peer's request for a sector that nobody holds
      ∧ (die = 31 → (s.di die).kind ≠ 3 → q.who = 5 → s.peerUp q.holder = true → q.inc = s.peerInc q.holder → s.reqTested q = false →
          s.lost sec q.home = false → q.cls ≠ 3 → ¬ waits → s.dirRoom q.home line = true → (s.dirAt sec).state = 0 →
          ∃ t : State, exec (ask kind) s = .next t ∧ (t.dirAt sec).state = 2 ∧ (t.dirAt sec).owner = 31 ∧ (sec, q.holder) ∈ t.filter
            ∧ t.linkOut = .reply sec (some (((s.dropReq q).setDir sec { s.dirAt sec with busy := none, home := q.home }).homeRead q.home sec).2)
                :: s.linkOut))
    -- RDU
    ∧ (next 3 → here → s.lost sec q.home = false → s.keepWay q = some k → q.who ≠ 4 → (u.l2At die sec).state = 0 →
        exec (.rdu die sec) s = .next ((u.fillL2 die sec q.home 1 false).wake))
    -- a fill brings the home's bytes; what is there already keeps its own
    ∧ ∀ home st b, let w := (s.roomL2 die sec).getD s
        let e := w.l2At die sec
        (e.state ≠ 0 → s.fillL2 die sec home st b = w.setL2 die sec { e with state := max e.state st, tracked := b })
        ∧ (e.state = 0 → s.fillL2 die sec home st b = (w.homeRead home sec).1.setL2 die sec
            { state := st, home := home, tracked := b, data := (w.homeRead home sec).2, dirty := 0 })

/-- R336, R337, R338, R321, R328, R329, R187: write-backs put a die's dirty bytes into the home, of a sector of a block that the die owns
the whole sector; invalidations and downgrades are answered with them, and the last answer completes the transaction. R347, R333:
messages of an earlier incarnation are dropped; a die counts the recalls that it drops. -/
def Obligations.WriteBacksAndRecalls : Prop :=
  ∀ (s : State) (die sec : Nat) (q : Req) (r : Recall),
    let e := s.l2At die sec
    let up := (s.di die).state = 1
    let u := s.dropReq q
    let ready := up ∧ q.who ≠ 5 ∧ s.reqTested q = false
    let here := q.inc = (s.di die).incarn
    let asked := ∃ q ∈ s.reqs, q.kind = 6 ∧ q.die = die ∧ q.sector = sec
    let owned := e.tracked = false ∧ s.ownerOf sec = some die
    let mask := if e.tracked = false ∧ s.ownerOf sec = some die then BitVec.allOnes 64 else e.dirty
    let left := ((s.spend 4 die sec e.home).homeMerge e.home sec mask e.data).setL2 die sec {}
    (up → s.staleBack 4 die sec = none → e.state = 3 → e.tracked = true → (s.dirAt sec).busy = none → s.mayLeave die sec = true →
      exec (.wrb die sec) s = .next ((left.setDir sec { left.dirAt sec with state := 0 }).wake))
    ∧ (up → s.staleBack 4 die sec = none → e.state = 3 → owned → s.mayLeave die sec = true → exec (.wrb die sec) s = .next left.wake)
    ∧ (up → s.staleBack 4 die sec = none → e.state = 3 → (owned ∨ (e.tracked = true ∧ (s.dirAt sec).busy = none)) →
        s.mayLeave die sec = false → exec (.wrb die sec) s = .next s)
    ∧ (up → s.staleBack 4 die sec = none → e.state = 3 → e.tracked = true → (s.dirAt sec).busy ≠ none →
        (s.recalls.any fun r => r.die == die && r.sector == sec && !r.answered) = true →
        exec (.wrb die sec) s = .next (let v := (s.spend 4 die sec e.home).setL2 die sec {}
          { v with recalls := v.recalls.map fun r => if r.die == die && r.sector == sec && !r.answered then
              { r with answered := true, data := some e.data, dirty := e.dirty, inc := (v.di die).incarn } else r }))
    ∧ (up → (s.staleBack 4 die sec = some q → exec (.wrb die sec) s = .next u) ∧ (s.staleBack 6 die sec = some q → exec (.wrm die sec) s = .next u))
    ∧ (ready → ¬ here → (s.nextReq 5 die sec = some q → exec (.wrc die sec) s = .next u)
        ∧ (s.nextReq 7 die sec = some q → exec (.wrt die sec) s = .next u))
    ∧ (s.nextReq 5 die sec = some q → ready → here → e.state = 3 → exec (.wrc die sec) s =
        .next (((u.homeMerge e.home sec mask e.data).setL2 die sec { e with state := if e.tracked then 2 else 1, dirty := 0 }).wake))
    ∧ (up → s.staleBack 6 die sec = none → asked → e.state = 3 → e.tracked = false → s.ownerOf sec ≠ some die →
        s.testing die 1 (s.l2Slice die sec) = false → s.homeTested e.home sec = false → exec (.wrm die sec) s =
        .next ((((s.spend 6 die sec e.home).homeMerge e.home sec e.dirty e.data).setL2 die sec { e with state := 1, dirty := 0 }).wake))
    ∧ (up → s.staleBack 6 die sec = none → ¬ asked → let w := (s.l1Holders die sec).foldl (fun t c => t.cleanL1 c sec) s
        let x := w.l2At die sec
        x.state = 3 → x.tracked = false → w.ownerOf sec ≠ some die → w.mayLeave die sec = true → exec (.wrm die sec) s =
          .next ((((w.spend 6 die sec x.home).homeMerge x.home sec x.dirty x.data).setL2 die sec {}).wake))
    ∧ (s.nextReq 7 die sec = some q → ready → here → s.lost sec q.home = false → exec (.wrt die sec) s =
        .next ((u.homeMerge q.home sec q.dirty q.data).unitDone q.holder q.unit 0 false))
    -- recalls
    ∧ (∀ inval : Bool, up → (s.recalls.find? fun r => r.inval == inval && (r.die == die && r.sector == sec && !r.answered)) = some r →
        let i : Instr := if inval then .invalidation die sec else .downgrade die sec
        (r.inc ≠ (s.di r.home).incarn → exec i s = .next (({ s with recalls := s.recalls.erase r } : State).countStale die))
        ∧ (r.inc = (s.di r.home).incarn → e.tracked = true → e.state ≠ 0 →
          let w := (if e.state = 3 then s.countReq { kind := 4, die := die, sector := sec, home := e.home } else s).setL2 die sec
            (if inval then {} else { e with state := 1, dirty := 0 })
          exec i s = .next { w with recalls := w.recalls.map fun r =>
            if r.inval == inval && (r.die == die && r.sector == sec && !r.answered) then
              { r with answered := true, data := if e.state = 3 then some e.data else none, dirty := if e.state = 3 then e.dirty else 0,
                       inc := (w.di die).incarn } else r }))
    ∧ ((s.recalls.find? fun r => r.die == die && r.sector == sec && r.answered) = some r →
        let w : State := { s with recalls := s.recalls.erase r }
        let v := match r.data with | some x => w.homeMerge r.home sec r.dirty x | none => w
        (r.inc ≠ (s.di die).incarn → exec (.coherenceAck die sec) s = .next w)
        ∧ (r.inc = (s.di die).incarn → (∃ x ∈ v.recalls, x.sector = sec) → exec (.coherenceAck die sec) s = .next v)
        ∧ (r.inc = (s.di die).incarn → (∀ x ∈ v.recalls, x.sector ≠ sec) → (v.dirAt sec).busy = some q →
            exec (.coherenceAck die sec) s = .next ((v.afterRecalls sec r.inval).grant q)))
    ∧ (((s.di die).kind = 1 ∨ (s.di die).kind = 2) → s.countStale die = s.modDi die fun x =>
        { x with staleDrop := if x.staleDrop = BitVec.allOnes 32 then x.staleDrop else x.staleDrop + 1 })
    -- bytes merge into the home's memory where they are dirty
    ∧ ∀ home keep data, s.fmtOn home = [] → keep ≠ 0 →
        (∀ i < 64, byteAt (s.homeMerge home sec keep data).mem (64 * sec + i) =
          if bit keep i then BitVec.ofNat 8 (data.toNat / 2 ^ (8 * i)) else byteAt s.mem (64 * sec + i))
        ∧ ∀ a, (a < 64 * sec ∨ 64 * sec + 64 ≤ a) → byteAt (s.homeMerge home sec keep data).mem a = byteAt s.mem a

/-! ## Frontiers, packets and pixels (R260-R272) -/

/-- R260, R264-R268, R270, R272: a closed meshlet's packets go onto the Faceplate, its token is finished and its status goes into the
lanes of MSH.CLOSE; messages that arrive raise frontiers, hold packets and release them; a released packet's quads form pixel groups of
up to eight quads, no two of them at one place. -/
def Sys2Proof.Claims.FrontierAndGroups : Prop :=
  ∀ (s t u : State) (x y id i : Nat) (p : Place),
    -- a meshlet
    (∀ r d m, let tm := s.tm id
      tm.mesh = some r → tm.draw = some (d, m) → r.closed = true → (s.dr d).finished.contains m = false → (s.di (dieOf tm.core)).state = 1 →
      let dr := s.dr d
      let ps := r.packets d (dr.number * 2 ^ 24 + m) dr.pass.width dr.pass.height
      let msgs := ps.filterMap fun p => (s.ownerDie (s.cx dr.ctx).partition p.rx p.ry).map fun o => (dieOf tm.core, o, FpMsg.packet p)
      let v : State := { s with faceplate := s.faceplate ++ msgs }
      let sent := (r.sent dr.pass.width dr.pass.height).length
      ∃ t rest, exec (.meshletCompressDone id) s = .next t ∧ (r.closer = none → t = v.meshletSent d m)
        ∧ (∀ j lanes row g, r.closer = some (j, lanes, row) → tm.groups.find? (fun g => (s.gr g).index == j) = some g →
            ∀ l < 32, bit lanes l = true → mget 0 t.vreg (vKey g row l) =
              BitVec.ofNat 32 (sent + 2 ^ 9 * (r.prims.length - sent) + if r.ovf then 2 ^ 18 else 0))
        ∧ (v.meshletSent d m).faceplate = s.faceplate ++ msgs ++ rest ∧ (∀ b ∈ rest, ∃ c f, b.2.2 = .beacon c f)
        ∧ ((v.meshletSent d m).dr d).finished = (dr.finished ++ [m]).dedup)
    -- messages
    ∧ (∀ c f, s.channelHead x y = some (i, .beacon c f) → exec (.frontierBeacon x y) s = .next (State.releaseAll
        { s with faceplate := s.faceplate.eraseIdx i, frontier := mset 0 s.frontier (frontKey c y x) f } y s.held.length))
    ∧ (∀ v, s.channelHead x y = some (i, .packet v) →
        let w : State := { s with faceplate := s.faceplate.eraseIdx i, held := s.held ++ [(y, v)] }
        let t := w.releaseAll y w.held.length
        exec (.visibilityPacket x y) s = .next (t.checkSpill (w.cx (w.streamOf v)).partition))
    ∧ (s.channelHead x y = some (i, .stale) → exec (.visibilityPacket x y) s = .next (({ s with faceplate := s.faceplate.eraseIdx i } : State).countStale y))
    ∧ (s.nextRelease y = none → ∀ n, s.releaseAll y n = s)
    ∧ (∀ v n, s.nextRelease y = some (i, v) → s.releaseAll y (n + 1) =
        State.releaseAll { s with held := s.held.eraseIdx i, released := s.released ++ [(y, v)] } y n)
    -- rasterisation
    ∧ (∀ v, (s.di y).state = 1 → s.nextRaster y = some (i, v) →
      let d := s.dr v.draw
      let qs := v.quads d.pass.width d.pass.height
      (d.pass.zmode = 0 → exec (.rasterisePacket y) s = .next (s.launchQuads y i v qs))
      ∧ (d.pass.zmode ≠ 0 → qs ≠ [] → ∀ k,
        let at' (x y : Nat) : Nat := pixelAddr d.pass.depth.toNat d.pass.width x y
        let base := at' (32 * v.rx) (32 * v.ry)
        let place (x y : Nat) : Place := p.plus (at' x y - base)
        let ps := (qs.flatMap fun q => (q.cov.zipIdx.filter fun c => c.1).map fun c =>
          place (quadPixel q.at' c.2).1 (quadPixel q.at' c.2).2).dedup
        s.unitPlace y d.ctx base { r := true, w := true } = .ok t p → t.wordsReady (unitCore y) ps = (u, true) →
        qs.foldl (fun (acc : State × List Quad4) q =>
          ((acc.1.depthQuad (unitCore y) place d.pass.zmode q).1, acc.2 ++ [(acc.1.depthQuad (unitCore y) place d.pass.zmode q).2]))
          (ps.foldl (fun t p => t.noteOwn (t.pixLaunch v.draw) p) u, []) = k →
        exec (.rasterisePacket y) s = .next (k.1.launchQuads y i v k.2)))
    ∧ (∀ z old, depthTest 0 z old = (true, false) ∧ depthTest 1 z old = (decide (z < old), decide (z < old))
        ∧ depthTest 2 z old = (decide (z ≤ old), decide (z ≤ old)) ∧ depthTest 3 z old = (decide (z < old), false))
    ∧ (∀ v qs, ∃ gs : List (List Quad4), gs.flatten = qs.filter (fun q => q.cov.any id)
        ∧ (∀ g ∈ gs, g ≠ [] ∧ g.length ≤ 8 ∧ (g.map fun q => q.at').Nodup)
        ∧ s.launchQuads y i v qs = { s with
            released := s.released.eraseIdx i, nextId := s.nextId + gs.length,
            pix := s.pix ++ gs.zipIdx.map fun g => groupOf (s.nextId + g.2) y v g.1 })
    ∧ ∀ v g n q j, g[n]? = some q → n < 8 → j < 4 → let x := groupOf id y v g
        x.draw = v.draw ∧ x.outs = [] ∧ bit x.covered (4 * n + j) = (q.cov[j]?).getD false
        ∧ (4 * n + j, (quadPixel q.at' j).1, (quadPixel q.at' j).2, q.prim) ∈ x.pixels

/-- R270, R272: an out replaces the word of its pixel in its target with the blend of the two, or waits until the sector is the die's
alone; and then it is done. The addresses of pixels, and the blends of unorm8 colours. -/
def Sys2Proof.Claims.OutsApplied : Prop :=
  ∀ (s t : State) (id : Nat),
    (∀ g o, s.pix.find? (fun p => p.id == id) = some g → (s.di g.sdie).state = 1 → g.gid.isSome = true → g.parked = false →
        g.outs.length = 1 → s.nextOut g = some o → exec (.blendApply id) s = .next (s.applyOut g o).1)
    ∧ (∀ (g : PixGroup) (o : Nat × Nat × Nat × Word32) (x y fmt op : Nat) (prim : Prim) (base : Word64) (pa home : Nat),
        g.pixel o.2.2.1 = some (x, y, prim) → (s.dr g.draw).pass.targets[o.2.1]? = some (fmt, op, base) →
        s.unitPlace g.sdie (s.dr g.draw).ctx (pixelAddr base.toNat (s.dr g.draw).pass.width x y) { w := true } = .ok t (.mem pa 2 home) →
        (t.copies.any fun c => c.claims.contains (Place.mem pa 2 home).granule) = false → t.placeTested (unitCore g.sdie) (.mem pa 2 home) 4 = false →
        t.placeBad (.mem pa 2 home) = false → pa % 64 + 4 ≤ 64 →
        let d := dieOf (unitCore g.sdie)
        let sec := pa / 64
        let e := t.l2At d sec
        let r := blendWord fmt op o.2.2.2.toNat (e.data.toNat / 256 ^ (pa % 64) % 2 ^ 32)
        ((e.state = 2 ∨ e.state = 3) → ∃ k : State, s.applyOut g o = (k, true) ∧ (k.l2At d sec).state = 3
          ∧ (∀ j < 64, (k.l2At d sec).data.toNat / 256 ^ j % 256 =
              if pa % 64 ≤ j ∧ j < pa % 64 + 4 then r / 256 ^ (j - pa % 64) % 256 else e.data.toNat / 256 ^ j % 256)
          ∧ k.mem = t.mem ∧ ∀ q ∈ k.pix, q.id = g.id → q.outs = g.outs.erase o)
        ∧ (e.state < 2 → s.applyOut g o =
            (t.ask { kind := if e.state = 1 then 2 else 1, die := d, sector := sec, home := home, cls := 2 }, false)))
    ∧ (∀ base w x y, pixelAddr base w x y = base + 4096 * (y / 32 * ((w + 31) / 32) + x / 32) + 4 * (32 * (y % 32) + x % 32))
    ∧ ∀ op a b i, op < 5 → i < 4 →
        let al := a / 2 ^ 24 % 256
        let m := a / 256 ^ i % 256
        let n := b / 256 ^ i % 256
        let r := blendWord 0 op a b / 256 ^ i % 256
        (op = 0 → r = m) ∧ (op = 1 → r = min (m + n) 255) ∧ (op = 2 → r = min m n) ∧ (op = 3 → r = max m n)
        ∧ (op = 4 → 255 * r ≤ m * al + n * (255 - al) + 127 ∧ m * al + n * (255 - al) ≤ 255 * r + 127)

/-- Packets, pixel groups and their outs. -/
def Obligations.FrontierAndPixels : Prop := Claims.FrontierAndGroups ∧ Claims.OutsApplied

/-! ## Contexts (R349-R351, R384), saving them (R365-R374), partitions (R375-R377) -/

/-- R349, R350, R384: CTXCMD loads and releases contexts, CTXTAB is written only while none is loaded, INVCTL drops translations, those
that ATS is asked for with them, and an invalidation ends when the accesses before it have been performed, what is dirty in the L1s
with them. That commands and invalidations take effect at once is log entries' 59 and 67 choice. -/
def Sys2Proof.Claims.ContextTable : Prop :=
  ∀ (s : State) (c : Nat) (v : Word64),
    let x := s.cx c
    let stat (refused : Bool) (t : State) : State := { t with tail := { t.tail with ctxRefused := refused, ctxErr := false } }
    s.up = true →
    -- load and release
    (c < 64 →
      (x.state = .free → s.descGood c = true → exec (.contextLoad c) s = .next (stat false (s.modCx c fun _ => s.descCtx c)))
      ∧ ((x.state ≠ .free ∨ s.descGood c = false) → exec (.contextLoad c) s = .next (stat true s))
      ∧ ((x.state = .halted ∨ x.state = .idle ∨ x.state = .saved) → exec (.contextRelease c) s = .next (stat false (s.freeCtx c))
          ∧ ((s.freeCtx c).cx c) = {})
      ∧ (x.state = .free → exec (.contextRelease c) s = .next (stat false s))
      ∧ ((x.state = .ready ∨ x.state = .running ∨ x.state = .saving) → exec (.contextRelease c) s = .next (stat true s))
      ∧ ((s.descCtx c).state = .idle ∧ (s.descCtx c).root = s.physWord (s.tail.ctxTab.toNat + 512 * c + 8)
          ∧ (s.descCtx c).vt = s.physWord (s.tail.ctxTab.toNat + 512 * c + 16)
          ∧ (s.descCtx c).queuesAt = s.physWord (s.tail.ctxTab.toNat + 512 * c + 88)))
    ∧ ((∀ p ∈ s.ctxs, p.2.state = .free) → exec (.ctxtabWrite v) s =
        .next { s with tail := { s.tail with ctxTab := BitVec.ofNat 64 (v.toNat / 2 ^ 15 % 2 ^ 41 * 2 ^ 15) } })
    ∧ ((∃ p ∈ s.ctxs, p.2.state ≠ .free) → exec (.ctxtabWrite v) s = .next { s with tail := { s.tail with ctxErr := true } })
    -- invalidation
    ∧ (c < 64 → x.state ≠ .free →
        let gone (va : Option Nat) : State := (s.dropMaps c va).modCx c fun y => { y with invBusy := true, invErr := false, invUpto := s.nextId }
        (x.invBusy = false →
          exec (.invalidateContext c) s = .next (gone none)
          ∧ exec (.invalidatePage c) s = .next (gone (some (x.invAddr.toNat / 2 ^ 16 % 2 ^ 40 * 2 ^ 16))))
        ∧ (x.invBusy = true → ∀ i ∈ [Instr.invalidateContext c, .invalidatePage c],
            exec i s = .next (s.modCx c fun y => { y with invErr := true })))
    ∧ (∀ va, let u := s.dropMaps c va
        let maps (y : TlbEntry) : Prop := y.ctx = c ∧ ∀ v, va = some v → y.page = v / pageBytes y.level
        u = { s with tlb := u.tlb, walks := u.walks, l0 := u.l0, ats := u.ats, funcs := u.funcs }
        ∧ (∀ k y, (∃ l, (k, l) ∈ u.tlb ∧ y ∈ l) ↔ (∃ l, (k, l) ∈ s.tlb ∧ y ∈ l) ∧ ¬ maps y)
        ∧ (∀ k y, (∃ l, (k, l) ∈ u.l0 ∧ y ∈ l) ↔ (∃ l, (k, l) ∈ s.l0 ∧ y ∈ l) ∧ ¬ maps y)
        ∧ (∀ k y, (∃ l, (k, l) ∈ u.walks ∧ y ∈ l) ↔ (∃ l, (k, l) ∈ s.walks ∧ y ∈ l) ∧ walkMaps c va y.1 = false)
        ∧ (∀ k y, (k, y) ∈ u.ats ↔ (k, y) ∈ s.ats ∧ k / 2 ^ 52 % 64 ≠ c)
        ∧ ∀ f, ∀ a ∈ (u.fn f).atsAsked, a.1 % 64 ≠ c)
    ∧ (x.invBusy = true → (∀ o ∈ s.ops, x.invUpto ≤ o.id ∨ o.ctx ≠ c) →
        (∀ p ∈ s.regions, ∀ r, p.2 = some r → (s.gr (gidOf p.1)).ctx = c → x.invUpto < r.since ∨ (r.inputs = [] ∧ r.stores = [])) →
        (s.fn x.fn).atsInvalid = [] → exec (.invalidationComplete c) s = .next (s.cleanCores.modCx c fun y => { y with invBusy := false }))
    ∧ (x.invBusy = true → ((∃ o ∈ s.ops, o.id < x.invUpto ∧ o.ctx = c)
          ∨ ∃ p ∈ s.regions, ∃ r, p.2 = some r ∧ (s.gr (gidOf p.1)).ctx = c ∧ r.since ≤ x.invUpto ∧ (r.inputs ≠ [] ∨ r.stores ≠ [])) →
        (s.fn x.fn).atsInvalid = [] → exec (.invalidationComplete c) s = .next s)

/-- R365-R374, R376: requests to save a context, the forced stop, the save once nothing keeps it, and the return of a saved context. Which
cores a save takes whole, and when a saved context returns, are log entry 55's reading. -/
def Obligations.SaveAndResume : Prop :=
  ∀ (s t : State) (c : Nat) (h : OvHeader),
    let x := s.cx c
    let mine (u : State) : List SavedTeam := u.saves.filter fun y => y.info.ctx == c
    -- requests
    (x.state = .running → ∃ cores, exec (.saveRequest c) s =
        .next (s.modCx c fun y => { y with state := .saving, saveWhole := cores, forced := false, since := s.stepNo })
      -- with no launch of higher class waiting for the context's cores, the buffers of its batch teams stay in place (R369)
      ∧ (s.wants c = [] → cores = some []))
    ∧ (x.state = .saving → ∃ cores, exec (.saveRequest c) s = .next (s.modCx c fun y => { y with saveWhole := allCores y.saveWhole cores }))
    ∧ (x.state ≠ .running → x.state ≠ .saving → exec (.saveRequest c) s = .next s)
    -- the forced stop
    ∧ (x.state = .saving → exec (.forcedSave c) s =
        .next ((s.groupsOf c).foldl (fun u g => (entries g).foldl State.forceStop u) (s.modCx c fun y => { y with forced := true })))
    ∧ (∀ k, let p := s.sp k
        (p.valid = true → p.stopped = false → p.wait ≠ .close →
          (p.mode ≠ .region → s.forceStop k = s.setSp k { p with wait := .stopped, stopLive := none })
          ∧ (p.mode = .region → s.forceStop k = (s.regAbort k { code := 4 }).modSp k fun q => { q with wait := .stopped, stopLive := none }))
        ∧ (p.valid = true → p.stopped = true → s.forceStop k = s))
    ∧ (x.state = .saving → (∀ g ∈ s.groupsOf c, ∀ k ∈ s.valids g, (s.sp k).stopped = true) →
        ((s.dropTokens c).saveReady c = true → exec (.saveComplete c) s = .next ((s.dropTokens c).saveAll c)
          ∧ (((s.dropTokens c).saveAll c).cx c).state = .saved)
        ∧ ((s.dropTokens c).saveReady c = false → exec (.saveComplete c) s = .next (s.dropTokens c)))
    ∧ (x.state ≠ .saving → exec (.saveComplete c) s = .next s ∧ exec (.forcedSave c) s = .next s)
    -- resume
    ∧ (((x.state = .saved ∧ s.chosenAgain c = true) ∨ (x.state = .running ∧ mine s ≠ [])) → bit (s.pa x.partition).w0 31 = true →
        (s.pa x.partition).want = none → s.ovWaits cmdCore c sysId = (t, false) → (∀ p ∈ t.draws, p.2.live = false ∨ p.2.ctx ≠ c) →
        ∀ u, t.ovHeader cmdCore c = (u, h) →
        let v := u.restoreAll h.quota (inOrder ((mine u).map fun y => (y.info.launch, y.info.cluster)).dedup)
          (u.reservations ((u.waitingLaunches x.partition).filter fun l => l.2.ctx != c))
        exec (.contextResume c) s = .next (if (mine u).length = 0 ∨ (mine v).length < (mine u).length then
          v.modCx c fun y => { y with state := .running, since := if x.state = .running then y.since else t.stepNo } else t))
    ∧ ((bit (s.pa x.partition).w0 31 = false ∨ (s.pa x.partition).want ≠ none ∨ (x.state = .saved ∧ s.chosenAgain c = false)) →
        exec (.contextResume c) s = .next s)
    -- time slices
    ∧ (let ls := s.kept c fun k => decide (s.workClass c ≤ k.cls) && ((s.cx k.ctx).state == .ready || (s.cx k.ctx).state == .idle)
       (x.state ≠ .running → exec (.timeSliceExpiry c) s = .next s) ∧ (ls = [] → exec (.timeSliceExpiry c) s = .next s)
       ∧ (x.state = .running → ls ≠ [] → exec (.timeSliceExpiry c) s =
          .next (s.requestSave c (if (∃ l ∈ ls, s.takesFrom c l ≠ none) then some (s.needed c ls) else none))))

/-- R375, R377: a partition is enabled with a setting that is good, and refused another; a change asks its contexts to save and takes
effect when none runs. A setting with EN = 0 keeps its masks (log entry 58). -/
def Sys2Proof.Claims.Partitions : Prop :=
  ∀ (s : State) (n : Nat) (w : Word64), s.up = true → n < 16 → (s.pa n).want = none →
    let old := (s.pa n).w0
    (bit old 31 = false → bit w 31 = true →
      (s.partGood n w = true → exec (.partitionEnable n w) s = .next (s.modPa n fun p => { p with w0 := w }))
      ∧ (s.partGood n w = false → exec (.partitionEnable n w) s = .next s))
    ∧ (bit old 31 = true → exec (.partitionEnable n w) s = .next s)
    ∧ (bit old 31 = false → bit w 31 = false → old ≠ w → exec (.partitionReconfigure n w) s =
        .next (s.modPa n fun p => { p with w0 := w &&& 0xFFFFF }))
    ∧ (bit old 31 = true → old ≠ w → (bit w 31 = true → s.partGood n w = true) →
        (∀ c ∈ s.ctxsIn n, (s.cx c).state ≠ .running ∧ (s.cx c).state ≠ .saving) → exec (.partitionReconfigure n w) s =
          .next (let t := s.modPa n fun p => { p with want := some w }
            let u := (t.maskDies old).foldl State.warmDie ((t.ctxsIn n).foldl State.saveWhole t)
            (u.modPa n fun p => { p with w0 := w, want := none }).wake))
    ∧ (bit old 31 = true → bit w 31 = true → s.partGood n w = false → exec (.partitionReconfigure n w) s = .next s)
    ∧ (s.partGood n w = true → w.toNat % 2 ^ 16 ≠ 0 ∧ 64 ≤ (s.pa n).w1.toNat ∧ (s.pa n).w1.toNat ≤ 4096
        ∧ (∀ d ∈ s.maskDies w, (s.di d).state = 1)
        ∧ ∀ q ∈ s.partitions, q.1 ≠ n → bit q.2.w0 31 = true → q.2.w0 &&& w &&& 0xFFFFF = 0)

/-- R349, R350, R375, R377, R384: the context table and the partitions. -/
def Obligations.ContextsAndPartitions : Prop := Claims.ContextTable ∧ Claims.Partitions

/-! ## The host's side (R386-R389, R399, R417-R419) -/

/-- R386-R389: answers to page requests let the requesters translate again, or fail them; ATS completions and invalidations. -/
def Obligations.PageRequestsAndTranslations : Prop :=
  ∀ (s : State) (fn c unit : Nat) (tag : BitVec 16) (code : BitVec 2) (r w : Bool) (q : PageReq), s.up = true →
    let f := s.fn fn
    ((s.cx c).requests.find? (fun r => !r.host && r.tag == tag) = some q →
      let t := s.modCx c fun x => { x with requests := x.requests.erase q }
      exec (.pageRequestGrant c tag) s = .next ((q.waiters.foldl (fun t w => t.unpark c w) t).wake)
      ∧ exec (.pageRequestFail c tag) s = .next ((q.waiters.foldl (fun t w => t.failWaiter c w) t).wake))
    ∧ ((s.cx c).requests.find? (fun r => !r.host && r.tag == tag) = none →
        exec (.pageRequestGrant c tag) s = .next s ∧ exec (.pageRequestFail c tag) s = .next s)
    ∧ ((s.cx c).prqPoll = [] → exec (.prqRptrPoll c) s = .next s)
    ∧ ((∀ e ∈ (s.cx c).prqPoll, s.hostUnit c e.1 = none) → let a := (s.cx c).prq.toNat
       let used := ((s.physWord (a + 8)).toNat % 2 ^ 32 + 2 ^ 32 - (s.physWord (a + 16)).toNat % 2 ^ 32) % 2 ^ 32
       let t := s.modCx c fun y => { y with prqPoll := [] }
       ((s.prqHeader c).1 = true → 2 ^ (s.prqHeader c).2 ≤ used → exec (.prqRptrPoll c) s = .next s)
       ∧ ((s.prqHeader c).1 = true → used < 2 ^ (s.prqHeader c).2 → (s.cx c).prqPoll ≠ [] → exec (.prqRptrPoll c) s =
           .next (((s.cx c).prqPoll.foldl (fun t e => t.unpark c e.2.2.2) t).wake))
       ∧ ((s.prqHeader c).1 = false → (s.cx c).prqPoll ≠ [] → exec (.prqRptrPoll c) s =
           .next (((s.cx c).prqPoll.foldl (fun t e => t.failWaiter c e.2.2.2) t).wake)))
    -- engines that wait for room among the PRI requests of the function
    ∧ ((s.cx c).prqPoll ≠ [] → (∀ e ∈ (s.cx c).prqPoll, (s.hostUnit c e.1).isSome = true) →
        let g := s.fn (s.cx c).fn
        ((g.priOutstanding.length < g.priAlloc ∨ g.priStopped = true) → exec (.prqRptrPoll c) s =
          .next (((s.cx c).prqPoll.foldl (fun t e => t.unpark c e.2.2.2) (s.modCx c fun y => { y with prqPoll := [] })).wake))
        ∧ (g.priAlloc ≤ g.priOutstanding.length → g.priStopped = false → exec (.prqRptrPoll c) s = .next s))
    ∧ ((∃ u ∈ f.atsAsked, u.2 = unit) → exec (.atsTranslationCompletion fn unit r w) s =
        .next (({ s.modFn fn fun f => { f with atsAsked := f.atsAsked.filter fun u => u.2 != unit } with
          ats := (f.atsAsked.filter fun u => u.2 == unit).foldl (fun m u => mset none m (u.1 * 2 ^ 52 + unit) (some (r, w))) s.ats }
            : State).wake))
    ∧ (∃ t : State, exec (.atsInvalidateRequest fn unit) s = .next t
        ∧ (∀ k y, (k, y) ∈ t.ats ↔ (k, y) ∈ s.ats ∧ ¬ ((s.cx (k / 2 ^ 52 % 64)).fn = fn ∧ k % 2 ^ 52 = unit))
        ∧ (∀ a ∈ (t.fn fn).atsAsked, ¬ ((s.cx (a.1 % 64)).fn = fn ∧ a.2 = unit))
        ∧ (Map.wf {} s.funcs = true → (t.fn fn).atsInvalid = f.atsInvalid ++ [s.nextId]))
    ∧ (∀ write x y, f.priOutstanding = x ++ (unit, write) :: y → (∀ u ∈ x, u.1 ≠ unit) →
        let cs := (s.ctxs.filter fun p => p.2.state != .free && p.2.fn == fn).map fun p => p.1
        let t := s.modFn fn fun f => { f with priOutstanding := x ++ y, priStopped := f.priStopped || decide (2 ≤ code.toNat) }
        exec (.prgResponse fn unit code) s = .next (cs.foldl (fun t c =>
          t.answerPage c (fun r => r.host && r.page == unit && (r.kind == 1) == write) (code != 0)) (t.dropAts (fun c => cs.contains c) (some unit))))
    ∧ exec (.priReenable fn) s = .next (s.modFn fn fun f => { f with priStopped := false })

/-- R399, R409, R416-R419: interrupts, registers and the memory windows as the host uses them; a function that VF Enable does not name
has no effect. The host's accesses keep their order; one waits while a directory keeps its sectors (R336), or a unit that it needs is
under test (R411). An AtomicOp answers with what stood there. A firmware update goes to the slot that does not run (R406). (That a
register write with bar 7 sets VF Enable and one with bar 8 writes the flash is the model's choice, log entries 94 and 9.) -/
def Obligations.HostAccess : Prop :=
  ∀ (s t : State) (fn off len v : Nat) (x : Word64) (bs ys : List Byte) (op : HostAtomic), s.up = true →
    let f := s.fn fn
    let b : BitVec 8 := (1 : BitVec 8) <<< v
    let on := fn = 0 ∨ f.vfEn = true
    let ready (a n : Nat) : Prop := ∀ sec ∈ sectorsOf a n, s.secNow sec = true ∧ s.homeTested (s.homeOf 0 (64 * sec)) sec = false
    -- interrupts
    (on → exec (.irqcauseClear fn x) s = .next (s.modFn fn fun f => { f with irq := f.irq &&& ~~~ (x.setWidth 8) }))
    ∧ (¬ on → exec (.irqcauseClear fn x) s = .next s ∧ exec (.msiXVectorUnmask fn v) s = .next s ∧ exec (.hostMemoryWrite fn off bs) s = .next s)
    ∧ (on → v < 8 → bit f.pending v = true → exec (.msiXVectorUnmask fn v) s =
        .next (s.modFn fn fun f => { f with mask := f.mask &&& ~~~ b, pending := f.pending &&& ~~~ b, sent := v :: f.sent }))
    ∧ (on → v < 8 → bit f.pending v = false → exec (.msiXVectorUnmask fn v) s = .next (s.modFn fn fun f => { f with mask := f.mask &&& ~~~ b }))
    ∧ (bit f.irq v = false → bit f.mask v = false → s.raiseIrq fn v = s.modFn fn fun f => { f with irq := f.irq ||| b, sent := v :: f.sent })
    ∧ (bit f.irq v = false → bit f.mask v = true → s.raiseIrq fn v = s.modFn fn fun f => { f with irq := f.irq ||| b, pending := f.pending ||| b })
    -- registers
    ∧ (1 ≤ fn → fn ≤ 31 → bit x 0 = true → exec (.registerWrite fn 7 off x) s = .next (s.modFn fn fun f => { f with vfEn := true }))
    ∧ (s.tail.slot = some 0 → exec (.registerWrite 0 8 off x) s = .next { s with tail := { s.tail with fwB := putImage s.tail.fwB off x } })
    ∧ (s.tail.slot = some 1 → exec (.registerWrite 0 8 off x) s = .next { s with tail := { s.tail with fwA := putImage s.tail.fwA off x } })
    ∧ (∀ y : FwImage, putImage y 0 x = { y with magic := x } ∧ putImage y 8 x = { y with svn := x.toNat % 2 ^ 32, len := x.toNat / 2 ^ 32 }
        ∧ ∀ i, i < 6 → ∀ j, j < 384 → bit (putImage y (16 + 8 * i) x).hash j = if j / 64 = i then bit x (j % 64) else bit y.hash j)
    ∧ ((s.di 0).state ≠ 0 → (s.di 0).kind = 0 →
        (bit x 63 = false → exec (.registerWrite 0 2 0x3000 x) s = .next s)
        ∧ (bit x 63 = true → exec (.registerWrite 0 2 0x3000 x) s = exec (
            if bit x 9 then (if bit x 8 then .coldPackageReset else .warmPackageReset)
            else if bit x 8 then .coldDieReset (x.toNat % 256) else .warmDieReset (x.toNat % 256)) s))
    ∧ (exec (.registerWrite 0 0 0x48 x) s = .next (s.modFn 0 fun f => { f with window := BitVec.ofNat 64 (x.toNat / 2 ^ 28 % 2 ^ 28 * 2 ^ 28) }))
    ∧ (∀ k, 1 ≤ k → k < 32 → exec (.registerWrite 0 0 (0x400 + 8 * k) x) s =
        .next (s.modFn k fun f => { f with window := BitVec.ofNat 64 (x.toNat % 2 + x.toNat / 2 ^ 26 % 2 ^ 30 * 2 ^ 26) }))
    ∧ (∀ d, d < 32 → (s.di d).state ≠ 0 → ((s.di d).kind = 1 ∨ (s.di d).kind = 2) →
        exec (.registerWrite 0 2 (2 ^ 20 * d + 0x400) x) s = .next (s.modDi d fun y => { y with cntctl := x &&& 0xF })
        ∧ exec (.registerWrite 0 2 (2 ^ 20 * d + 0x408) x) s = .next (s.modDi d fun y => { y with lreq := x.setWidth 48 })
        ∧ exec (.registerWrite 0 2 (2 ^ 20 * d + 0x410) x) s = .next (s.modDi d fun y => { y with xreq := x.setWidth 48 })
        ∧ exec (.registerWrite 0 2 (2 ^ 20 * d + 0x418) x) s = .next (s.modDi d fun y => { y with staleDrop := x.setWidth 32 }))
    -- the windows
    ∧ (s.hostQueue = [] → len = bs.length → off + len ≤ 2 ^ 28 → let a := (s.fn 0).window.toNat / 2 ^ 28 % 2 ^ 28 * 2 ^ 28 + off
        (ready a len →
          exec (.hostMemoryWrite 0 off bs) s = .next { (s.hostBytes a bs).wake with hostQueue := [] }
          ∧ (s.hostFetch a len = (t, ys) →
              exec (.hostMemoryRead 0 off (.bytes len)) s = .next { t with tail := { t.tail with hostRead := ys }, hostQueue := [] })
          ∧ ((len = 4 ∨ len = 8) → off % len = 0 → s.hostFetch a len = (t, ys) → ys ≠ [] →
              let old := (ys.zipIdx.map fun y => y.1.toNat * 256 ^ y.2).sum
              let new := match op with
                | .fetchAdd => (old + x.toNat) % 256 ^ len
                | .swap => x.toNat % 256 ^ len
                | .cas y => if old = y.toNat % 256 ^ len then x.toNat % 256 ^ len else old
              let u := (t.hostBytes a ((List.range len).map fun i => BitVec.ofNat 8 (new / 256 ^ i))).wake
              exec (.hostMemoryRead 0 off (.atomic len op x)) s = .next { u with tail := { u.tail with hostRead := ys }, hostQueue := [] }))
        ∧ (¬ ready a len →
          exec (.hostMemoryWrite 0 off bs) s = .next { s with hostQueue := [.write a bs] }
          ∧ exec (.hostMemoryRead 0 off (.bytes len)) s = .next { s with hostQueue := [.read a len] }))
    ∧ (2 ^ 28 < off + bs.length → exec (.hostMemoryWrite 0 off bs) s = .next s)
    ∧ (1 ≤ fn → on → bit f.window 0 = true → off + bs.length ≤ 2 ^ 26 → let a := f.window.toNat / 2 ^ 26 % 2 ^ 30 * 2 ^ 26 + off
        exec (.hostMemoryWrite fn off bs) s = .next (s.hostTurns (s.hostQueue ++ [.write a bs])))
    ∧ (1 ≤ fn → bit f.window 0 = false → exec (.hostMemoryWrite fn off bs) s = .next s)

/-! ## Resets, power and bring-up (R400-R410, R419, R421) -/

/-- R408-R410, R419, R406: the resets of functions, dies and the package. A function's contexts are freed; the PF's reset clears every VF
Enable with it; a warm die reset ends all work on the die and keeps memory and buffers; a cold package reset leaves the part as it is
before its ROM runs, with what its firmware slots hold. (That lost memory reads zero is the model's
choice, log entry 8.) -/
def Obligations.Resets : Prop :=
  ∀ (s : State) (vf die : Nat),
    let idle := s.up = true ∧ s.resetBusy = false
    let began (refused : Bool) : State := { s with tail := { s.tail with resetRefused := refused, resetErr := false } }
    let asks : List Instr := [.warmDieReset die, .coldDieReset die, .warmPackageReset, .coldPackageReset]
    (1 ≤ vf → vf ≤ 31 → exec (.functionLevelReset vf) s = .next (s.resetFn vf)
      ∧ exec (.vfEnableClear vf) s = .next ((s.resetFn vf).modFn vf fun f => { f with vfEn := false }))
    ∧ (∀ c, (s.cx c).fn = vf → ((s.resetFn vf).cx c).state = .free) ∧ (Map.wf {} s.ctxs = true → ∀ c, (s.cx c).fn ≠ vf → (s.resetFn vf).cx c = s.cx c)
    ∧ (Map.wf {} s.funcs = true → (s.resetFn vf).fn vf = { window := (s.fn vf).window, sent := (s.fn vf).sent, vfEn := (s.fn vf).vfEn })
    ∧ (∃ t, exec .pfFunctionLevelReset s = .next t ∧ t.tail = { s.tail with ctxTab := 0 } ∧ (∀ p ∈ t.partitions, bit p.2.w0 31 = false)
        ∧ (t.fn 0).window = 0 ∧ (∀ k, 1 ≤ k → k ≤ 31 → (t.fn k).vfEn = false) ∧ ∀ c, (s.cx c).fn < 32 → (t.cx c).state = .free)
    -- dies
    ∧ (s.up = true → s.resetBusy = true → ∀ i ∈ asks, exec i s = .next { s with tail := { s.tail with resetErr := true } })
    ∧ (idle → s.resetRefused die = true → ∀ i ∈ asks.take 2, exec i s = .next (began true))
    ∧ (idle → s.resetRefused die = false → exec (.warmDieReset die) s = .next (((began false).warmDie die).wake)
        ∧ exec (.coldDieReset die) s = .next ((((began false).coldDie die).modDi die fun d => { d with coldPending := true }).wake))
    ∧ ((s.di die).kind = 3 → (s.di die).state ≠ 3 → s.resetRefused die = true)
    ∧ (let t := s.warmDie die
       t.mem = s.mem ∧ t.abuf = s.abuf ∧ t.wbuf = s.wbuf ∧ t.tiles = s.tiles ∧ t.chuck = s.chuck ∧ t.l2 = s.l2
       ∧ ∀ g, dieOf (coreOf g) = die → (t.gr g).live = false)
    -- the package
    ∧ (idle → exec .warmPackageReset s = .next
        (let t := ((mkeys s.dies).filter fun d => d != 0).foldl State.warmDie ((mkeys s.ctxs).foldl State.clearCommands (began false))
         ({ t with partitions := t.partitions.map fun p => (p.1, { p.2 with rr := 0 }) } : State).wake))
    ∧ (idle → exec .coldPackageReset s = .next ((began false).coldPackage))
    ∧ (let t := s.coldPackage
       t.tail.phase = 0 ∧ t.tail.slot = none ∧ t.tail.fwA = s.tail.fwA ∧ t.tail.fwB = s.tail.fwB ∧ t.dies = [] ∧ t.ctxs = [] ∧ t.groups = [] ∧ t.splits = [] ∧ t.partitions = [] ∧ t.overlays = [] ∧ t.tlb = []
       ∧ t.funcs = [] ∧ t.hostMem = s.hostMem ∧ ∀ a, a < 2 ^ 48 → byteAt t.mem a = 0)

/-- R400-R407, R410, R421: power, the stages of bring-up, and attestation. (That lost memory reads zero is the model's choice, log
entry 8; that bring-up fails in phase 1 when no port trains, log entry 88.) -/
def Obligations.BringUpAndPower : Prop :=
  ∀ (s : State) (site kind port die : Nat) (pass : Bool) (v : Word64),
    let t := s.tail
    let fails (code : Nat) : State := { s with tail := { t with phase := 15, failCode := code } }
    let good (x : FwImage) : Prop := x.magic = 0x56574F464D524444 ∧ x.zeros = true ∧ x.edKey = t.edKey ∧ x.mlKey = t.mlKey ∧ x.hash = x.digest
    let runs (x : FwImage) : Prop := good x ∧ t.rollback ≤ x.svn
    let ready (slot svn : Nat) : Prop := ∃ u, exec .exploreEnd s = .next u ∧ u.tail.phase = 5 ∧ u.tail.slot = some slot ∧ u.tail.fwSvn = svn
      ∧ u.tail.rollback = max t.rollback svn ∧ u.dies = s.dieTable
    let found := ∀ f ∈ t.found, ∃ o, s.part.siteKind f.1 = some (f.2.1, o)
    let exploring := t.power = true ∧ 1 ≤ t.phase ∧ t.phase < 3
    let reached := (port = 0 ∧ site ∈ t.ports)
      ∨ (port ≠ 0 ∧ (min site (port - 1), max site (port - 1)) ∈ t.sides ∧ ∃ f ∈ t.found, f.1 = port - 1)
    (t.power = false → exec .powerOn s = .next (({ s with tail := { t with power := true } } : State).coldPackage))
    ∧ (t.power = true → exec .powerOn s = .next s)
    ∧ (∃ u, exec .powerOff s = .next u ∧ u.tail.power = false ∧ u.ctxs = [] ∧ u.tail.rollback = t.rollback ∧ ∀ a, a < 2 ^ 48 → byteAt u.mem a = 0)
    -- links
    ∧ (t.power = true → t.phase = 0 → s.settleBoot = s.trainLinks)
    ∧ (s.trainLinks.tail.ports = [] → s.trainLinks.tail.phase = 15 ∧ s.trainLinks.tail.failCode = 1)
    ∧ (s.trainLinks.tail.ports ≠ [] → s.trainLinks.tail.phase = 1)
    -- exploration
    ∧ (exploring → reached → (∀ f ∈ t.found, f.1 ≠ site) →
        exec (.explore site (kind, port)) s = .next { s with tail := { t with phase := 2, found := t.found ++ [(site, kind, port)] } })
    ∧ ((¬ reached ∨ ∃ f ∈ t.found, f.1 = site) → exec (.explore site (kind, port)) s = .next s)
    -- the end of exploration
    ∧ (exploring →
      (t.badDies.contains 0 = true → exec .exploreEnd s = .next (fails 0x30))
      ∧ (t.badDies.contains 0 = false → (¬ found ∨ hasKind s.dieTable 2 = false ∨ hasKind s.dieTable 3 = false) →
          exec .exploreEnd s = .next (fails 0x21))
      ∧ (t.badDies.contains 0 = false → found → hasKind s.dieTable 2 = true → hasKind s.dieTable 3 = true →
          (runs t.fwA → ready 0 t.fwA.svn) ∧ (¬ runs t.fwA → runs t.fwB → ready 1 t.fwB.svn)
          ∧ (¬ runs t.fwA → ¬ good t.fwB → exec .exploreEnd s = .next (fails 0x10))
          ∧ (¬ runs t.fwA → good t.fwB → t.fwB.svn < t.rollback → exec .exploreEnd s = .next (fails 0x11))))
    -- self-tests
    ∧ (t.power = true → t.phase < 3 → exec (.bringUpSelfTestDone die pass) s = .next
        { s with tail := { t with badDies := if pass then t.badDies.filter (fun d => d != die) else (t.badDies ++ [die]).dedup } })
    ∧ (t.power = true → 3 ≤ t.phase → (s.di die).coldPending = true →
        (pass = true → s.linked (s.di die).site = true → (s.di die).state = 3 → ∃ u, exec (.bringUpSelfTestDone die pass) s = .next u ∧ (u.di die).state = 1
          ∧ (u.di die).coldPending = false ∧ (u.di die).incarn = if (s.di die).incarn = 255 then 1 else (s.di die).incarn + 1)
        ∧ ((pass = false ∨ s.linked (s.di die).site = false) → ∃ u, exec (.bringUpSelfTestDone die pass) s = .next u ∧ (u.di die).state = 2 ∧ (u.di die).coldPending = false))
    -- attestation
    ∧ (s.up = true → exec (.attestationRequest 1) s =
        .next { s with tail := { t with signing := true, signNonce := t.nonce, reportDone := false } })
    ∧ (v ≠ 1 → exec (.attestationRequest v) s = .next s)
    ∧ (t.signing = true → ∃ r : List Byte, exec .attestationReportDone s =
          .next { s with tail := { t with signing := false, reportDone := true, report := r } }
        ∧ (∀ i < 32, r[i]? = some (BitVec.ofNat 8 (t.signNonce.toNat / 256 ^ i)))
        ∧ ∀ i < 48, (t.slot = some 0 → r[56 + i]? = some (BitVec.ofNat 8 (t.fwA.digest.toNat / 256 ^ i)))
            ∧ (t.slot = some 1 → r[56 + i]? = some (BitVec.ofNat 8 (t.fwB.digest.toNat / 256 ^ i))))

/-- R341, R346, R347, R411-R415, R420: self-tests of units, droop and power limits, loss of a die or a peer, format regions and link
flits: a flit is replayed until 16 replays have failed, and one that is accepted is applied once. (The event of a unit that is not
under test starts its test, log entry 93.) -/
def Obligations.ErrorsPowerAndLinks : Prop :=
  ∀ (s : State) (die kind n port ch peer inc : Nat) (pass : Bool) (x : BitVec 16) (m : LinkMsg),
    let d := s.di die
    let up := s.up = true ∧ d.state = 1
    let r := s.fmtRegion die n
    let p := mget ({} : Port) s.ports port
    let put (q : Port) : State := { s with ports := mset {} s.ports port q }
    let flit (ok : Bool) (t : State) : Prop := exec (.linkFlit port ch x ok ⟨peer, inc, m⟩) s = .next t
    let bad := (p.replays[ch]?).getD 0
    let clean := p.replays.set ch 0
    let one (c : BitVec 32) : BitVec 32 := if c = BitVec.allOnes 32 then c else c + 1
    let tested := s.modDi die fun y =>
      { y with tests := y.tests.filter (fun u => u != (kind, n)),
               errLast := BitVec.ofNat 64 (kind % 256 + 256 * (n % 65536) + 2 ^ 24 * (if pass then 1 else 2)),
               errSoft := if pass then one y.errSoft else y.errSoft, errHard := if pass then y.errHard else one y.errHard }
    -- a unit's test: the log, the counts, and a failed unit is mapped out
    (up → unitExists d.kind kind n = true → s.unitOut die kind n = false → s.testing die kind n = false →
      exec (.selfTestComplete die kind n pass) s = .next ((s.modDi die fun y =>
        { y with tests := y.tests ++ [(kind, n)], errLast := BitVec.ofNat 64 (kind % 256 + 256 * (n % 65536)) }).errorIrq))
    ∧ (up → unitExists d.kind kind n = true → s.unitOut die kind n = false → s.testing die kind n = true →
      exec (.selfTestComplete die kind n pass) s = .next (((if pass then tested else tested.mapOut die kind n).errorIrq).wake))
    ∧ ((unitExists d.kind kind n = false ∨ s.unitOut die kind n = true) → exec (.selfTestComplete die kind n pass) s = .next s)
    ∧ (d.mappedOut.contains (kind, n) = false →
        let gone (cores : Nat) : State := s.modDi die fun y =>
          { y with mappedOut := y.mappedOut ++ [(kind, n)], unitsOut := y.unitsOut + 1, coresIn := y.coresIn - cores }
        (kind = 0 → s.mapOut die kind n = gone 0) ∧ (kind = 2 → s.mapOut die kind n = (gone 0).llcMove die n) ∧ (kind = 1 → s.mapOut die kind n = (gone 0).emptySlice die n)
        ∧ (kind = 3 → s.mapOut die kind n = (gone 1).coreLost (64 * die + n)) ∧ (kind = 4 → s.mapOut die kind n = (gone 0).loseLane (n / 64)) ∧ (kind = 5 → s.mapOut die kind n = (gone 0).contain die))
    -- power
    ∧ (up → 100 < x.toNat → exec (.droopEvent die x) s =
        .next ((s.modDi die fun y => { y with dropping := true, droop := BitVec.ofNat 64 (1 + 2 ^ 16 * x.toNat),
                                                     clock := min y.clock 8 }).errorIrq))
    ∧ (up → x.toNat ≤ 100 → exec (.droopEvent die x) s = .next (s.modDi die fun y => { y with dropping := false }))
    ∧ (d.state ≠ 0 → 4 ≤ n → n ≤ 16 → exec (.powerLimitAdjust die n) s =
        .next (s.modDi die fun y => { y with clock := if bit y.droop 0 then min n 8 else n }))
    -- containment
    ∧ (let out := if die < 32 then s.contain die else s.losePeer (die - 32)
       let asked := (∃ q ∈ s.recalls, q.answered = false ∧ ((die < 32 ∧ q.die = die)
           ∨ (32 ≤ die ∧ q.die = 31 ∧ (q.sector, die - 32) ∈ s.filter))) ∨ ∃ q ∈ s.reqs, q.home = die
       exec (.lossOfService die) s = .next out
        ∧ (asked → exec (.coherenceTimeout die) s = .next out) ∧ (¬ asked → exec (.coherenceTimeout die) s = .next s))
    ∧ (d.state ≠ 1 → s.contain die = s)
    ∧ (d.state = 1 → ((s.contain die).di die).state = 3 ∧ ((s.contain die).di die).coresIn = 0)
    ∧ (s.peerUp n = false → s.losePeer n = s)
    ∧ (s.peerUp n = true → (s.losePeer n).peerUp n = false
        ∧ (∀ q ∈ (s.purgePeer n).filter, q.2 ≠ n) ∧ (∀ q ∈ (s.purgePeer n).reqs, ¬ (q.who = 5 ∧ q.holder = n))
        ∧ ∀ sec, (sec, n) ∈ s.filter → (s.dirAt sec).state = 2 → (s.dirAt sec).owner = 31 → ((s.purgePeer n).dirAt sec).state = 6)
    ∧ (∀ e : Dir, (e.purged die false).state = if e.owner = die ∧ (e.state = 2 ∨ e.state = 3 ∨ e.state = 4) then 6 else e.state)
    ∧ (∀ sec, s.ownerOf sec = some die → ((s.loseBlocks die).dirAt sec).state = 6)
    -- format regions
    ∧ (s.up = true → d.kind = 3 → d.state ≠ 0 → n < 8 →
        (bit (s.fmtWord die n 0) 0 = false → s.fmtGood die r = true → exec (.formatRegionEnable die n) s = .next (s.setFmt0 die n true false))
        ∧ (bit (s.fmtWord die n 0) 0 = false → s.fmtGood die r = false → exec (.formatRegionEnable die n) s = .next (s.setFmt0 die n false true))
        ∧ (bit (s.fmtWord die n 0) 0 = true → s.views = [] → s.l2 = [] →
            exec (.formatRegionDisable die n) s = .next (s.setFmt0 die n false false)))
    -- links
    ∧ (s.up = true → port < 8 → ch < 6 → p.lanes ≠ 0 → (∀ u ∈ (s.di 0).tests, ¬ (u.1 = 4 ∧ u.2 / 64 = port)) →
        let t := put { p with replays := clean, next := p.next.set ch ((x.toNat + 1) % 65536) }
        let known := m = .join ∨ (s.peerUp peer = true ∧ inc = s.peerInc peer)
        (bad < 16 → flit false (put { p with replays := p.replays.set ch (bad + 1) }))
        ∧ (16 ≤ bad → Map.wf {} s.ports = true → flit false ((put { p with replays := clean, retrains := p.retrains + 1 }).startTest 0 4 (64 * port + (2 - p.lanes))))
        ∧ (∀ y, p.next[ch]? = some y → y ≠ x.toNat → flit true (put { p with replays := clean }))
        ∧ (p.next[ch]? = some x.toNat → (known → flit true (t.takeMsg port ch peer m)) ∧ (¬ known → flit true t)))
    -- what an accepted flit does
    ∧ (∀ a bs, s.takeMsg port ch peer (.write a bs) = if a < 2 ^ 48 then s.hostTurns (s.hostQueue ++ [.write a bs]) else s)
    ∧ (∀ a op ty v, atomType op ty = true → a < 2 ^ 48 →
        s.takeMsg port ch peer (.reduce a op ty v) = s.hostTurns (s.hostQueue ++ [.reduce a op ty v]))
    ∧ (∀ k sec, k ≤ 2 → ∃ q : Req, s.takeMsg port ch peer (.request k sec) = { s with reqs := s.reqs ++ [q] } ∧ q.kind = k ∧ q.die = 31
        ∧ q.sector = sec ∧ q.who = 5 ∧ q.holder = peer ∧ q.inc = s.peerInc peer)
    ∧ (∀ bs, s.takeMsg port ch peer (.other bs) = put { p with received := p.received ++ [(ch, bs)] })
    ∧ (mget none s.peers peer = none → ∃ y, (s.takeMsg port ch peer .join) = { s with ports := y, peers := mset none s.peers peer (some {}) })

/-! ## Encodings (R51, R56, R66, R74-R76) -/

/-- R51, R56-R73: every well-formed instruction that has a word decodes from it, and every word that decodes is the word of its
instruction: no bit of an encoding is dropped. -/
def Obligations.EncodeDecode : Prop :=
  (∀ (i : Instr) (w : Nat), i.wf = true → encodeNat i = some w → w < 2 ^ 32 ∧ decodeNat w = .ok i)
  ∧ ∀ (i : Instr) (w : Nat), w < 2 ^ 32 → decodeNat w = .ok i → i.wf = true ∧ encodeNat i = some w

/-- Words that the spec's worked examples give decode to the instructions they stand for. -/
def Sys2Proof.Claims.DecodedWords : Prop :=
  decode 0x04DCC000 = .ok (.mode false 3 7 1 1 0) ∧ decode 0x08192000 = .ok (.rep 3 1 1 0) ∧ decode 0x1C07FF82 = .ok (.wait false 0 63 63 1)
  ∧ decode 0x30C40400 = .ok (.vadd false 24 32 8) ∧ decode 0x2084A804 = .ok (.sdiv false 8 9 10) ∧ decode 0x0C800005 = .ok (.bra false 2 0 5)
  ∧ decode 0x0C3FFFEC = .ok (.bra false 0 3 0xFFFEC) ∧ decode 0x1000000C = .ok (.call false 12) ∧ decode 0x14060002 = .ok (.callo false 12)
  ∧ decode 0x408B0000 = .ok (.pand false 2 1 3) ∧ decode 0x9D910000 = .ok (.owrd false 25 2) ∧ decode 0x9D8D8001 = .ok (.xregRd false 24 27 0)
  ∧ decode 0x00000009 = .ok (.emret false 0 0) ∧ decode 0x0010000A = .ok (.probe false 1) ∧ decode 0x1C0FFF83 = .error .unusedField
  ∧ decode 0 = .error .reservedMinor

/-- R74-R76: how a core classifies a word: the software, reserved and future majors, the forms its kind of core does not have, a
live-mask word that is missing or malformed, and then the instruction itself; what is no instruction enters the handler with its
cause. -/
def Sys2Proof.Claims.Classification : Prop :=
  ∀ (g : Bool) (w : Word32) (live : Option Word32),
    let major := w.toNat / 2 ^ 26
    let minor := w.toNat % 2 ^ 7
    let off := if g then major = 0x1F ∨ major = 0x21 ∨ major = 0x25 ∨ major = 0x26 ∨ (major = 0x24 ∧ 2 ≤ minor ∧ minor ≤ 5)
      else major = 0x24 ∧ minor ≤ 1
    let enters (c : BitVec 2) : Prop := issued g w none live = .emulationEntry c w (live.getD 0)
    (0x28 ≤ major → major < 0x30 → enters 2) ∧ (0x30 ≤ major → major < 0x38 → enters 0) ∧ (0x38 ≤ major → enters 3)
    ∧ (major < 0x28 → off → enters 1)
    ∧ (major < 0x28 → ¬ off → bit w 25 = true → (live = none ∨ ∃ l, live = some l ∧ l.toNat % 32 ≠ 0) → enters 0)
    ∧ (major < 0x28 → ¬ off → (bit w 25 = true → ∃ l, live = some l ∧ l.toNat % 32 = 0) →
        (∀ i, decode w = .ok i → issued g w none live = i) ∧ (∀ r, decode w = .error r → enters 0))

/-- R51, R66, R74-R76: words of the spec's worked examples, and the classes of words. -/
def Obligations.WordsAndClasses : Prop := Claims.DecodedWords ∧ Claims.Classification

/-! ## Steps, reset and what every step keeps -/

/-- A step takes the head of the agenda; with none, the split whose turn it is issues: the word at its PC, seen by R76, is executed, and
what follows at once from it follows. -/
def Obligations.StepsRunDecodedWords : Prop :=
  ∀ (s : State), s.tail.power = true →
    (∀ i rest, s.agenda = i :: rest →
      step s = (match exec i s.begin' with | .next t => .next t.after | .fault f => .fault f | .refused r => .refused r))
    ∧ ∀ (k : Nat) (rest : List Nat) (o : Overlay) (w : Word32),
      let u := s.begin'.serve' k
      let g := gidOf k
      let p := u.sp k
      s.agenda = [] → s.turn = k :: rest → s.stepNo % 2 = 0 → s.mayIssue k = true → (u.gr g).restoring = false → p.eccu = none →
      u.overlayOf (coreOf g) (u.gr g).ctx (pcId p.pc) = some o → u.fetch g p.pc = some w →
      step s = (match exec (issued (u.isG (coreOf g)) w p.rep (u.fetch g (pcAdd p.pc 1))) u with
        | .next t => .next (t.afterIssue k p).after | .fault f => .fault f | .refused r => .refused r)

/-- R400, R408: the machine after reset: phase 0, no die found, no context, no split, nothing in flight, memory with nothing listed.
(That an unlisted byte reads zero is the model's choice, log entry 8.) -/
def Obligations.ResetState : Prop :=
  let s := State.reset
  s.memOk ∧ s.tail.phase = 0 ∧ s.dies = [] ∧ (∀ c, (s.cx c).state = .free) ∧ (∀ k, (s.sp k).valid = false) ∧ (∀ g, (s.gr g).live = false)
  ∧ s.ops = [] ∧ s.copies = [] ∧ s.passes = [] ∧ s.fills = [] ∧ s.rays = [] ∧ s.mem = [] ∧ s.hostMem = []
  ∧ (∀ n, bit (s.pa n).w0 31 = false) ∧ step s = .next (({ s with stepNo := 1 } : State).after)

/-- Every step keeps local memory and host memory in their canonical form: addresses rise, and nothing that an unlisted address
reads as is listed. -/
def Obligations.MemoryStaysCanonical : Prop :=
  ∀ s t : State, s.memOk → step s = .next t → t.memOk

/-! ## Frames -/

/-- The scalar and predicate forms change their destination register and where the split stands; no other register, no flag, no byte of
memory or of a buffer, no other part of the machine. -/
def Obligations.ScalarAndPredicateFrames : Prop :=
  ∀ (s t : State) (e : Bool) (d a b : BitVec 5) (p q r : BitVec 3) (i : BitVec 15) (j : Instr), s.acts → exec j s = .next t →
    (j ∈ [Instr.sadd e d a b, .ssub e d a b, .smul e d a b, .smulh e d a b, .sdiv e d a b, .srem e d a b, .sand e d a b, .sor e d a b,
        .sxor e d a b, .snot e d a, .sshl e d a b, .sshr e d a b, .ssra e d a b, .smin e d a b, .smax e d a b, .sminn e d a b,
        .smaxn e d a b, .scmpEq e d a b, .scmpNe e d a b, .scmpLt e d a b, .scmpLe e d a b, .scmpLtn e d a b, .scmpLen e d a b,
        .smov e d a, .spopc e d a, .sclz e d a, .sbrev e d a, .saddi e d a i, .sli e d i, .slih e d a i, .pto e p d, .ppopc e p d,
        .splq e d] →
      OnlyRegisters s t ∧ SameSplits s t ∧ SameScalarsBut s t (s.scalarKey s.cur d.toNat) ∧ (d = 0 → t.sreg = s.sreg)
      ∧ t.preg = s.preg ∧ t.vreg = s.vreg ∧ t.flags = s.flags)
    ∧ (j ∈ [Instr.pand e p q r, .por e p q r, .pxor e p q r, .pnot e p q, .pmov e p q, .pfrom e p a, .pfirst e p q] →
      OnlyRegisters s t ∧ SameSplits s t ∧ SamePredsBut s t (s.predKey s.cur p.toNat) ∧ (p = 0 → t.preg = s.preg)
      ∧ t.sreg = s.sreg ∧ t.vreg = s.vreg ∧ t.flags = s.flags)

/-- The vector forms change their destination in the lanes of the guard set, the float forms and compares the flags of those lanes, and
where the split stands; nothing else. A type or a register pair that the form does not accept enters the handler instead
(R65, R76). -/
def Obligations.VectorFrames : Prop :=
  ∀ (s t : State) (e : Bool) (d a b : BitVec 6) (p : BitVec 3) (i : BitVec 13) (o : BitVec 3) (rel : Nat) (j : Instr), s.acts →
    let w := regs s.wide d.toNat
    let ran (types : List Nat) (js : List Instr) : Prop := s.accepts types [d.toNat, a.toNat, b.toNat] ∧ j ∈ js ∧ exec j s = .next t
    let none' (types : List Nat) (js : List Instr) : Prop := types.contains s.ty = false → j ∈ js → exec j s = .next s.undef
    let forms64 : List Instr := [.vadd e d a b, .vsub e d a b, .vshl e d a b, .vshr e d a b, .vsra e d a b, .vaddi e d a i]
    let formsI : List Instr := [.vmul e d a b, .vmulh e d a b, .vmad e d a b, .vmin e d a b, .vmax e d a b, .vabs e d a, .vneg e d a,
      .vpopc e d a, .vclz e d a, .vavg e d a b, .vdiv e d a b, .vrem e d a b]
    let formsA : List Instr := [.vand e d a b, .vor e d a b, .vxor e d a b, .vnot e d a, .vmov e d a, .vbsel e d a b, .vli e d i]
    let formsF : List Instr := [.fadd e d a b, .fsub e d a b, .fmul e d a b, .fdiv e d a b, .fmin e d a b, .fmax e d a b, .fscale e d a b,
      .fabs e d a, .fneg e d a, .frcp e d a, .frsq e d a, .fsqrt e d a, .fexp2 e d a, .flog2 e d a, .fsinp e d a, .fcosp e d a,
      .fma e d a b, .fms e d a b, .fnma e d a b]
    (ran typesI64 forms64 ∨ ran typesI formsI ∨ ran typesA formsA ∨ ran [0, 1, 2] [.vbfe e d a b, .vbfi e d a b]
        ∨ ran (List.range 15) [.vprmt e d a b] ∨ (o.toNat ≤ 5 ∧ ran typesI [.vscan e d a o, .vreduce e d a o]) →
      OnlyRegisters s t ∧ SameSplits s t ∧ SameRowsBut s t w ∧ t.sreg = s.sreg ∧ t.preg = s.preg ∧ t.flags = s.flags)
    ∧ (ran typesF formsF ∨ ran [4, 5, 8, 9, 12, 13] [.idot e d a b] ∨ ran [6, 7, 10, 11, 14] [.fdot e d a b]
        ∨ (rel < 7 ∧ ran (List.range' 4 11) [vcmpvOf rel e d a b]) →
      OnlyRegisters s t ∧ SameSplits s t ∧ SameRowsBut s t [d.toNat] ∧ SameFlagsBut s t (s.glanes s.cur) ∧ t.sreg = s.sreg ∧ t.preg = s.preg)
    ∧ (rel < 7 → ran [0, 1, 2, 3, 15] [vcmpOf rel e p a b] →
      OnlyRegisters s t ∧ SameSplits s t ∧ SamePredsBut s t (s.predKey s.cur p.toNat) ∧ SameFlagsBut s t (s.glanes s.cur)
      ∧ t.sreg = s.sreg ∧ t.vreg = s.vreg)
    ∧ none' typesI64 forms64 ∧ none' typesI formsI ∧ none' typesF formsF

/-- What accesses leave alone. The checks of lanes change no register, no buffer and no split; where no format region is enabled and no
sector is bad, no more than the TLBs, the walk caches, the ATS tables and requests, the lines of the LLC and the counter of free
values. An access put into flight changes no byte; a write of n bytes at an address changes those bytes of local memory, of the
host's or of a core's buffer, and no other, where no other die holds the sectors and no format region is enabled. -/
def Obligations.AccessFrames : Prop :=
  ∀ (s t : State) (k size : Nat) (need : Need) (rmw host : Bool) (ls : List (Nat × Nat)) (c : Checked) (o : MemOp) (home a n v core : Nat),
    (s.checkLanes k size need rmw host ls = (t, c) →
      t = { s with
              l0 := t.l0, tlb := t.tlb, walks := t.walks, ats := t.ats, funcs := t.funcs, freeCtr := t.freeCtr, llcWays := t.llcWays,
              views := t.views, mem := t.mem, homes := t.homes, l2 := t.l2, dir := t.dir, dies := t.dies, badSecs := t.badSecs }
      ∧ ((∀ d, s.fmtOn d = []) → s.badSecs = [] → t = { s with
              l0 := t.l0, tlb := t.tlb, walks := t.walks, ats := t.ats, funcs := t.funcs, freeCtr := t.freeCtr, llcWays := t.llcWays }))
    ∧ ((∃ u ∈ o.units, u.done = false) → let t := s.startOp o
        t = { s with ops := t.ops, nextId := t.nextId, groups := t.groups, pendV := t.pendV, pendS := t.pendS })
    ∧ (s.fmtOn home = [] → (∀ sec ∈ sectorsOf a n, s.tracked sec = []) → let t := s.devWrite home a n v
        (∀ i < n, byteAt t.mem (a + i) = BitVec.ofNat 8 (v / 256 ^ i)) ∧ (∀ b, (b < a ∨ a + n ≤ b) → byteAt t.mem b = byteAt s.mem b)
        ∧ t.hostMem = s.hostMem ∧ t.abuf = s.abuf ∧ t.wbuf = s.wbuf ∧ t.tiles = s.tiles ∧ t.sreg = s.sreg ∧ t.vreg = s.vreg)
    ∧ (let t := s.placeWrite (.host a 0) n v
       (∀ i < n, byteAt t.hostMem (a + i) = BitVec.ofNat 8 (v / 256 ^ i)) ∧ (∀ b, (b < a ∨ a + n ≤ b) → byteAt t.hostMem b = byteAt s.hostMem b)
       ∧ t = { s with hostMem := t.hostMem })
    ∧ (let t := s.placeWrite (.abuf core a) n v
       (∀ i < n, mget 0 t.abuf (core * 2 ^ 22 + a + i) = BitVec.ofNat 8 (v / 256 ^ i))
       ∧ (∀ b, (b < core * 2 ^ 22 + a ∨ core * 2 ^ 22 + a + n ≤ b) → mget 0 t.abuf b = mget 0 s.abuf b) ∧ t = { s with abuf := t.abuf })
    ∧ (let t := s.placeWrite (.wbuf core a) n v
       (∀ i < n, mget 0 t.wbuf (core * 2 ^ 22 + a + i) = BitVec.ofNat 8 (v / 256 ^ i))
       ∧ (∀ b, (b < core * 2 ^ 22 + a ∨ core * 2 ^ 22 + a + n ≤ b) → mget 0 t.wbuf b = mget 0 s.wbuf b) ∧ t = { s with wbuf := t.wbuf })

end Statements
end

