-- ==== Sys2Proof/Laws/Maps.lean ====
section
/-! SUPPORT. Sparse maps and memories: reading back what was written, and the canonical form that every operation keeps. -/
namespace Sys2Proof.Machine

variable {α : Type}

theorem mget_mdel_self (d : α) (m : Map α) (k : Nat) : mget d (mdel m k) k = d := by
  induction m with
  | nil => rfl
  | cons p r ih =>
    simp only [mdel, List.filter_cons] at ih ⊢
    split
    · rename_i h
      have h' : p.1 ≠ k := by simpa using h
      simp [mget, h', ih]
    · exact ih

theorem mget_mdel_other (d : α) (m : Map α) {j k : Nat} (h : j ≠ k) : mget d (mdel m k) j = mget d m j := by
  induction m with
  | nil => rfl
  | cons p r ih =>
    simp only [mdel, List.filter_cons] at ih ⊢
    split
    · simp [mget, ih]
    · rename_i hp
      have hp' : p.1 = k := by simpa using hp
      have : p.1 ≠ j := by omega
      simp [mget, this, ih]

theorem mget_mins_self (d : α) (m : Map α) (k : Nat) (v : α) (h : ∀ p ∈ m, p.1 ≠ k) : mget d (mins k v m) k = v := by
  induction m with
  | nil => simp [mins, mget]
  | cons p r ih =>
    obtain ⟨j, w⟩ := p
    have hj : j ≠ k := h (j, w) (by simp)
    simp only [mins]
    split
    · simp [mget]
    · simp [mget, hj, ih fun q hq => h q (by simp [hq])]

theorem mget_mins_other (d : α) (m : Map α) {j k : Nat} (v : α) (h : j ≠ k) : mget d (mins k v m) j = mget d m j := by
  induction m with
  | nil => simp [mins, mget, h.symm]
  | cons p r ih =>
    simp only [mins]
    split
    · simp [mget, h.symm]
    · simp [mget, ih]

/-- A key that was set reads as its value. -/
theorem mget_mset_self [DecidableEq α] (d : α) (m : Map α) (k : Nat) (v : α) : mget d (mset d m k v) k = v := by
  unfold mset
  split
  · rename_i h; rw [mget_mdel_self, h]
  · exact mget_mins_self d _ k v (by simp [mdel])

/-- Setting a key leaves every other key alone. -/
theorem mget_mset_other [DecidableEq α] (d : α) (m : Map α) {j k : Nat} (v : α) (h : j ≠ k) :
    mget d (mset d m k v) j = mget d m j := by
  unfold mset
  split
  · exact mget_mdel_other d m h
  · rw [mget_mins_other d _ v h, mget_mdel_other d m h]

theorem mget_mset [DecidableEq α] (d : α) (m : Map α) (j k : Nat) (v : α) :
    mget d (mset d m k v) j = if j = k then v else mget d m j := by
  split
  · rename_i h; rw [h, mget_mset_self]
  · rename_i h; exact mget_mset_other d m v h

/-! ## The canonical form -/

theorem keysRise_iff (m : Map α) : keysRise m = true ↔ m.Pairwise (fun p q => p.1 < q.1) := by
  induction m with
  | nil => simp [keysRise]
  | cons p r ih =>
    cases r with
    | nil => simp [keysRise]
    | cons q r =>
      obtain ⟨j, v⟩ := p
      obtain ⟨k, w⟩ := q
      simp only [keysRise, Bool.and_eq_true, decide_eq_true_eq, ih, List.pairwise_cons, List.mem_cons, forall_eq_or_imp]
      constructor
      · rintro ⟨h, h1, h2⟩
        exact ⟨⟨h, fun x hx => Nat.lt_trans h (h1 x hx)⟩, h1, h2⟩
      · rintro ⟨⟨h, _⟩, h1, h2⟩
        exact ⟨h, h1, h2⟩

theorem Map.wf_iff [DecidableEq α] (d : α) (m : Map α) :
    Map.wf d m = true ↔ m.Pairwise (fun p q => p.1 < q.1) ∧ ∀ p ∈ m, p.2 ≠ d := by
  simp [Map.wf, keysRise_iff]

/-- Dropping entries keeps the canonical form. -/
theorem Map.wf_filter [DecidableEq α] (d : α) (m : Map α) (f : Nat × α → Bool) (h : Map.wf d m = true) :
    Map.wf d (m.filter f) = true := by
  rw [Map.wf_iff] at h ⊢
  exact ⟨h.1.filter f, fun p hp => h.2 p (List.mem_of_mem_filter hp)⟩

theorem mins_mem (k : Nat) (v : α) (m : Map α) (p : Nat × α) : p ∈ mins k v m ↔ p = (k, v) ∨ p ∈ m := by
  induction m with
  | nil => simp [mins]
  | cons q r ih =>
    simp only [mins]
    split
    · simp
    · simp only [List.mem_cons, ih]; tauto

theorem mins_rises (k : Nat) (v : α) (m : Map α) (h : m.Pairwise (fun p q => p.1 < q.1)) (hk : ∀ p ∈ m, p.1 ≠ k) :
    (mins k v m).Pairwise (fun p q => p.1 < q.1) := by
  induction m with
  | nil => simp [mins]
  | cons q r ih =>
    obtain ⟨j, w⟩ := q
    rw [List.pairwise_cons] at h
    have hj : j ≠ k := hk (j, w) (by simp)
    simp only [mins]
    split
    · rename_i hlt
      rw [List.pairwise_cons, List.pairwise_cons]
      refine ⟨fun p hp => ?_, h⟩
      simp only [List.mem_cons] at hp
      rcases hp with rfl | hp
      · exact hlt
      · exact Nat.lt_trans hlt (h.1 p hp)
    · rename_i hlt
      rw [List.pairwise_cons]
      refine ⟨fun p hp => ?_, ih h.2 fun p hp => hk p (by simp [hp])⟩
      rcases (mins_mem k v r p).1 hp with rfl | hp
      · show j < k; omega
      · exact h.1 p hp

/-- Setting a key keeps the canonical form. -/
theorem Map.wf_mset [DecidableEq α] (d : α) (m : Map α) (k : Nat) (v : α) (h : Map.wf d m = true) :
    Map.wf d (mset d m k v) = true := by
  have hd : Map.wf d (mdel m k) = true := Map.wf_filter d m _ h
  unfold mset
  split
  · exact hd
  · rename_i hv
    rw [Map.wf_iff] at hd ⊢
    refine ⟨mins_rises k v _ hd.1 (by simp [mdel]), fun p hp => ?_⟩
    rcases (mins_mem k v _ p).1 hp with rfl | hp
    · exact hv
    · exact hd.2 p hp

/-- A key below every listed key reads as the default. -/
theorem mget_below (d : α) (m : Map α) {k : Nat} (h : ∀ p ∈ m, k < p.1) : mget d m k = d := by
  induction m with
  | nil => rfl
  | cons p r ih =>
    have : p.1 ≠ k := by have := h p (by simp); omega
    simp [mget, this, ih fun q hq => h q (by simp [hq])]

/-- Maps in canonical form that read alike are equal. -/
theorem Map.ext_of_wf [DecidableEq α] (d : α) : ∀ m m' : Map α, Map.wf d m = true → Map.wf d m' = true →
    (∀ k, mget d m k = mget d m' k) → m = m'
  | [], [], _, _, _ => rfl
  | [], q :: r', _, h', he => by
    rw [Map.wf_iff] at h'
    have := he q.1
    simp only [mget, if_true] at this
    exact absurd this.symm (h'.2 q (by simp))
  | p :: r, [], h, _, he => by
    rw [Map.wf_iff] at h
    have := he p.1
    simp only [mget, if_true] at this
    exact absurd this (h.2 p (by simp))
  | (j, v) :: r, (k, w) :: r', h, h', he => by
    have hp := (Map.wf_iff d _).1 h
    have hq := (Map.wf_iff d _).1 h'
    rw [List.pairwise_cons] at hp hq
    have hjk : j = k := by
      rcases Nat.lt_trichotomy j k with hlt | heq | hgt
      · have e := he j
        simp only [mget, if_true, show ¬ k = j by omega, if_false] at e
        rw [mget_below d r' fun p hp' => Nat.lt_trans hlt (hq.1.1 p hp')] at e
        exact absurd e (hp.2 (j, v) (by simp))
      · exact heq
      · have e := he k
        simp only [mget, if_true, show ¬ j = k by omega, if_false] at e
        rw [mget_below d r fun p hp' => Nat.lt_trans hgt (hp.1.1 p hp')] at e
        exact absurd e.symm (hq.2 (k, w) (by simp))
    subst hjk
    have hv : v = w := by have := he j; simpa [mget] using this
    subst hv
    rw [Map.ext_of_wf d r r' ((Map.wf_iff d _).2 ⟨hp.1.2, fun p hp' => hp.2 p (by simp [hp'])⟩)
      ((Map.wf_iff d _).2 ⟨hq.1.2, fun p hp' => hq.2 p (by simp [hp'])⟩) fun x => ?_]
    by_cases hx : j = x
    · subst hx
      rw [mget_below d r fun p hp' => hp.1.1 p hp', mget_below d r' fun p hp' => hq.1.1 p hp']
    · simpa [mget, hx] using he x

/-- A second write to a key is the one that counts. -/
theorem mset_mset [DecidableEq α] (d : α) (m : Map α) (k : Nat) (v w : α) (h : Map.wf d m = true) :
    mset d (mset d m k v) k w = mset d m k w := by
  refine Map.ext_of_wf d _ _ (Map.wf_mset _ _ _ _ (Map.wf_mset _ _ _ _ h)) (Map.wf_mset _ _ _ _ h) fun j => ?_
  simp only [mget_mset]
  split <;> rfl

/-- Writing what a key reads as changes nothing. -/
theorem mset_same [DecidableEq α] (d : α) (m : Map α) (k : Nat) (h : Map.wf d m = true) : mset d m k (mget d m k) = m := by
  refine Map.ext_of_wf d _ _ (Map.wf_mset _ _ _ _ h) h fun j => ?_
  rw [mget_mset]
  split
  · rename_i e; rw [e]
  · rfl

/-! ## Memories -/

@[simp] theorem byteAt_setByte_self (m : List Host.Cell) (a : Nat) (b : Byte) : byteAt (setByte m a b) a = b :=
  mget_mset_self _ _ _ _

theorem byteAt_setByte_other (m : List Host.Cell) {a x : Nat} (b : Byte) (h : x ≠ a) :
    byteAt (setByte m a b) x = byteAt m x := mget_mset_other _ _ _ h

/-- A write of n bytes leaves every byte outside them alone. -/
theorem byteAt_leWrite_other (n : Nat) : ∀ (m : List Host.Cell) (a v x : Nat), (x < a ∨ a + n ≤ x) →
    byteAt (leWrite m a n v) x = byteAt m x := by
  induction n with
  | zero => intros; rfl
  | succ n ih =>
    intro m a v x h
    rw [leWrite, ih _ _ _ _ (by omega), byteAt_setByte_other _ _ (by omega)]

/-- n bytes read alike in memories that agree on them. -/
theorem leRead_congr (n : Nat) : ∀ (m m' : List Host.Cell) (a : Nat), (∀ x, a ≤ x → x < a + n → byteAt m x = byteAt m' x) →
    leRead m a n = leRead m' a n := by
  induction n with
  | zero => intros; rfl
  | succ n ih =>
    intro m m' a h
    rw [leRead, leRead, h a (by omega) (by omega), ih m m' (a + 1) fun x h1 h2 => h x (by omega) (by omega)]

/-- What n bytes were written as reads back (R174, R175). -/
theorem leRead_leWrite (n : Nat) : ∀ (m : List Host.Cell) (a v : Nat), leRead (leWrite m a n v) a n = v % 256 ^ n := by
  induction n with
  | zero => intro m a v; simp [leRead, Nat.mod_one]
  | succ n ih =>
    intro m a v
    rw [leRead, leWrite, ih, byteAt_leWrite_other n _ _ _ _ (by omega), byteAt_setByte_self, BitVec.toNat_ofNat,
      show 256 ^ (n + 1) = 256 * 256 ^ n from Nat.pow_succ', Nat.mod_mul (x := v) (a := 256) (b := 256 ^ n)]

theorem Memory.wf_setByte (m : List Host.Cell) (a : Nat) (b : Byte) (h : Memory.wf m = true) :
    Memory.wf (setByte m a b) = true := Map.wf_mset _ _ _ _ h

theorem Memory.wf_leWrite (n : Nat) : ∀ (m : List Host.Cell) (a v : Nat), Memory.wf m = true →
    Memory.wf (leWrite m a n v) = true := by
  induction n with
  | zero => intro m a v h; exact h
  | succ n ih => intro m a v h; exact ih _ _ _ (Memory.wf_setByte m a _ h)

theorem Memory.wf_leMerge (keep : Nat → Bool) (n : Nat) : ∀ (m : List Host.Cell) (a i v : Nat), Memory.wf m = true →
    Memory.wf (leMerge m a keep n i v) = true := by
  induction n with
  | zero => intro m a i v h; exact h
  | succ n ih =>
    intro m a i v h
    refine ih _ _ _ _ ?_
    split
    · exact Memory.wf_setByte _ _ _ h
    · exact h

theorem byteAt_leMerge (keep : Nat → Bool) (n : Nat) : ∀ (m : List Host.Cell) (a i v x : Nat),
    byteAt (leMerge m a keep n i v) x =
      if a + i ≤ x ∧ x < a + i + n ∧ keep (x - a) = true then BitVec.ofNat 8 (v / 256 ^ (x - a)) else byteAt m x := by
  induction n with
  | zero => intro m a i v x; rw [leMerge, if_neg (by omega)]
  | succ n ih =>
    intro m a i v x
    rw [leMerge, ih]
    by_cases hx : x = a + i
    · subst hx
      rw [if_neg (by omega), show a + i - a = i by omega]
      by_cases hk : keep i = true
      · rw [if_pos hk, if_pos ⟨by omega, by omega, hk⟩, byteAt_setByte_self]
      · rw [if_neg hk, if_neg (by simp [hk])]
    · have h1 : byteAt (if keep i = true then setByte m (a + i) (BitVec.ofNat 8 (v / 256 ^ i)) else m) x = byteAt m x := by
        split
        · exact byteAt_setByte_other _ _ hx
        · rfl
      rw [h1]
      by_cases h : a + i + 1 ≤ x ∧ x < a + i + 1 + n ∧ keep (x - a) = true
      · rw [if_pos ⟨by omega, by omega, h.2.2⟩, if_pos ⟨by omega, by omega, h.2.2⟩]
      · rw [if_neg fun g => h ⟨by omega, by omega, g.2.2⟩, if_neg fun g => h ⟨by omega, by omega, g.2.2⟩]

theorem Memory.wf_filter (m : List Host.Cell) (f : Host.Cell → Bool) (h : Memory.wf m = true) :
    Memory.wf (m.filter f) = true := Map.wf_filter _ _ _ h

end Sys2Proof.Machine
end

