-- ==== Sys2Proof/Laws/State.lean ====
section
/-! SUPPORT. What each update of the state leaves alone, field by field, and what it writes. -/
namespace Sys2Proof.Machine

variable (s : State)

/-! ## setSp -/

@[simp] theorem State.setSp_agenda (k : Nat) (v : Split) : (s.setSp k v).agenda = s.agenda := rfl
@[simp] theorem State.setSp_turn (k : Nat) (v : Split) : (s.setSp k v).turn = s.turn := rfl
@[simp] theorem State.setSp_stepNo (k : Nat) (v : Split) : (s.setSp k v).stepNo = s.stepNo := rfl
@[simp] theorem State.setSp_filter (k : Nat) (v : Split) : (s.setSp k v).filter = s.filter := rfl
@[simp] theorem State.setSp_linkOut (k : Nat) (v : Split) : (s.setSp k v).linkOut = s.linkOut := rfl
@[simp] theorem State.setSp_llcWays (k : Nat) (v : Split) : (s.setSp k v).llcWays = s.llcWays := rfl
@[simp] theorem State.setSp_freeCtr (k : Nat) (v : Split) : (s.setSp k v).freeCtr = s.freeCtr := rfl
@[simp] theorem State.setSp_nextId (k : Nat) (v : Split) : (s.setSp k v).nextId = s.nextId := rfl
@[simp] theorem State.setSp_cur (k : Nat) (v : Split) : (s.setSp k v).cur = s.cur := rfl
@[simp] theorem State.setSp_part (k : Nat) (v : Split) : (s.setSp k v).part = s.part := rfl
@[simp] theorem State.setSp_tail (k : Nat) (v : Split) : (s.setSp k v).tail = s.tail := rfl
@[simp] theorem State.setSp_peers (k : Nat) (v : Split) : (s.setSp k v).peers = s.peers := rfl
@[simp] theorem State.setSp_dies (k : Nat) (v : Split) : (s.setSp k v).dies = s.dies := rfl
@[simp] theorem State.setSp_cores (k : Nat) (v : Split) : (s.setSp k v).cores = s.cores := rfl
@[simp] theorem State.setSp_groups (k : Nat) (v : Split) : (s.setSp k v).groups = s.groups := rfl
@[simp] theorem State.setSp_teams (k : Nat) (v : Split) : (s.setSp k v).teams = s.teams := rfl
@[simp] theorem State.setSp_launches (k : Nat) (v : Split) : (s.setSp k v).launches = s.launches := rfl
@[simp] theorem State.setSp_ctxs (k : Nat) (v : Split) : (s.setSp k v).ctxs = s.ctxs := rfl
@[simp] theorem State.setSp_partitions (k : Nat) (v : Split) : (s.setSp k v).partitions = s.partitions := rfl
@[simp] theorem State.setSp_funcs (k : Nat) (v : Split) : (s.setSp k v).funcs = s.funcs := rfl
@[simp] theorem State.setSp_vreg (k : Nat) (v : Split) : (s.setSp k v).vreg = s.vreg := rfl
@[simp] theorem State.setSp_sreg (k : Nat) (v : Split) : (s.setSp k v).sreg = s.sreg := rfl
@[simp] theorem State.setSp_preg (k : Nat) (v : Split) : (s.setSp k v).preg = s.preg := rfl
@[simp] theorem State.setSp_omap (k : Nat) (v : Split) : (s.setSp k v).omap = s.omap := rfl
@[simp] theorem State.setSp_link (k : Nat) (v : Split) : (s.setSp k v).link = s.link := rfl
@[simp] theorem State.setSp_flags (k : Nat) (v : Split) : (s.setSp k v).flags = s.flags := rfl
@[simp] theorem State.setSp_pendV (k : Nat) (v : Split) : (s.setSp k v).pendV = s.pendV := rfl
@[simp] theorem State.setSp_pendS (k : Nat) (v : Split) : (s.setSp k v).pendS = s.pendS := rfl
@[simp] theorem State.setSp_abuf (k : Nat) (v : Split) : (s.setSp k v).abuf = s.abuf := rfl
@[simp] theorem State.setSp_wbuf (k : Nat) (v : Split) : (s.setSp k v).wbuf = s.wbuf := rfl
@[simp] theorem State.setSp_tiles (k : Nat) (v : Split) : (s.setSp k v).tiles = s.tiles := rfl
@[simp] theorem State.setSp_chuck (k : Nat) (v : Split) : (s.setSp k v).chuck = s.chuck := rfl
@[simp] theorem State.setSp_overlays (k : Nat) (v : Split) : (s.setSp k v).overlays = s.overlays := rfl
@[simp] theorem State.setSp_mem (k : Nat) (v : Split) : (s.setSp k v).mem = s.mem := rfl
@[simp] theorem State.setSp_hostMem (k : Nat) (v : Split) : (s.setSp k v).hostMem = s.hostMem := rfl
@[simp] theorem State.setSp_ops (k : Nat) (v : Split) : (s.setSp k v).ops = s.ops := rfl
@[simp] theorem State.setSp_fences (k : Nat) (v : Split) : (s.setSp k v).fences = s.fences := rfl
@[simp] theorem State.setSp_copies (k : Nat) (v : Split) : (s.setSp k v).copies = s.copies := rfl
@[simp] theorem State.setSp_regions (k : Nat) (v : Split) : (s.setSp k v).regions = s.regions := rfl
@[simp] theorem State.setSp_draws (k : Nat) (v : Split) : (s.setSp k v).draws = s.draws := rfl
@[simp] theorem State.setSp_ports (k : Nat) (v : Split) : (s.setSp k v).ports = s.ports := rfl
@[simp] theorem State.setSp_poison (k : Nat) (v : Split) : (s.setSp k v).poison = s.poison := rfl
@[simp] theorem State.setSp_soft (k : Nat) (v : Split) : (s.setSp k v).soft = s.soft := rfl
@[simp] theorem State.setSp_badSecs (k : Nat) (v : Split) : (s.setSp k v).badSecs = s.badSecs := rfl
@[simp] theorem State.setSp_fills (k : Nat) (v : Split) : (s.setSp k v).fills = s.fills := rfl
@[simp] theorem State.setSp_homes (k : Nat) (v : Split) : (s.setSp k v).homes = s.homes := rfl
@[simp] theorem State.setSp_hostQueue (k : Nat) (v : Split) : (s.setSp k v).hostQueue = s.hostQueue := rfl
@[simp] theorem State.setSp_l1 (k : Nat) (v : Split) : (s.setSp k v).l1 = s.l1 := rfl
@[simp] theorem State.setSp_l1Ways (k : Nat) (v : Split) : (s.setSp k v).l1Ways = s.l1Ways := rfl
@[simp] theorem State.setSp_l2 (k : Nat) (v : Split) : (s.setSp k v).l2 = s.l2 := rfl
@[simp] theorem State.setSp_l2Ways (k : Nat) (v : Split) : (s.setSp k v).l2Ways = s.l2Ways := rfl
@[simp] theorem State.setSp_dir (k : Nat) (v : Split) : (s.setSp k v).dir = s.dir := rfl
@[simp] theorem State.setSp_sharers (k : Nat) (v : Split) : (s.setSp k v).sharers = s.sharers := rfl
@[simp] theorem State.setSp_reqs (k : Nat) (v : Split) : (s.setSp k v).reqs = s.reqs := rfl
@[simp] theorem State.setSp_recalls (k : Nat) (v : Split) : (s.setSp k v).recalls = s.recalls := rfl
@[simp] theorem State.setSp_views (k : Nat) (v : Split) : (s.setSp k v).views = s.views := rfl
@[simp] theorem State.setSp_formats (k : Nat) (v : Split) : (s.setSp k v).formats = s.formats := rfl
@[simp] theorem State.setSp_l0 (k : Nat) (v : Split) : (s.setSp k v).l0 = s.l0 := rfl
@[simp] theorem State.setSp_tlb (k : Nat) (v : Split) : (s.setSp k v).tlb = s.tlb := rfl
@[simp] theorem State.setSp_walks (k : Nat) (v : Split) : (s.setSp k v).walks = s.walks := rfl
@[simp] theorem State.setSp_ats (k : Nat) (v : Split) : (s.setSp k v).ats = s.ats := rfl
@[simp] theorem State.setSp_passes (k : Nat) (v : Split) : (s.setSp k v).passes = s.passes := rfl
@[simp] theorem State.setSp_rays (k : Nat) (v : Split) : (s.setSp k v).rays = s.rays := rfl
@[simp] theorem State.setSp_faceplate (k : Nat) (v : Split) : (s.setSp k v).faceplate = s.faceplate := rfl
@[simp] theorem State.setSp_held (k : Nat) (v : Split) : (s.setSp k v).held = s.held := rfl
@[simp] theorem State.setSp_released (k : Nat) (v : Split) : (s.setSp k v).released = s.released := rfl
@[simp] theorem State.setSp_frontier (k : Nat) (v : Split) : (s.setSp k v).frontier = s.frontier := rfl
@[simp] theorem State.setSp_sentF (k : Nat) (v : Split) : (s.setSp k v).sentF = s.sentF := rfl
@[simp] theorem State.setSp_pix (k : Nat) (v : Split) : (s.setSp k v).pix = s.pix := rfl
@[simp] theorem State.setSp_saves (k : Nat) (v : Split) : (s.setSp k v).saves = s.saves := rfl
@[simp] theorem State.setSp_lastSaves (k : Nat) (v : Split) : (s.setSp k v).lastSaves = s.lastSaves := rfl

/-! ## setGr -/

@[simp] theorem State.setGr_agenda (g : Nat) (v : Group) : (s.setGr g v).agenda = s.agenda := rfl
@[simp] theorem State.setGr_turn (g : Nat) (v : Group) : (s.setGr g v).turn = s.turn := rfl
@[simp] theorem State.setGr_stepNo (g : Nat) (v : Group) : (s.setGr g v).stepNo = s.stepNo := rfl
@[simp] theorem State.setGr_filter (g : Nat) (v : Group) : (s.setGr g v).filter = s.filter := rfl
@[simp] theorem State.setGr_linkOut (g : Nat) (v : Group) : (s.setGr g v).linkOut = s.linkOut := rfl
@[simp] theorem State.setGr_llcWays (g : Nat) (v : Group) : (s.setGr g v).llcWays = s.llcWays := rfl
@[simp] theorem State.setGr_freeCtr (g : Nat) (v : Group) : (s.setGr g v).freeCtr = s.freeCtr := rfl
@[simp] theorem State.setGr_nextId (g : Nat) (v : Group) : (s.setGr g v).nextId = s.nextId := rfl
@[simp] theorem State.setGr_cur (g : Nat) (v : Group) : (s.setGr g v).cur = s.cur := rfl
@[simp] theorem State.setGr_part (g : Nat) (v : Group) : (s.setGr g v).part = s.part := rfl
@[simp] theorem State.setGr_tail (g : Nat) (v : Group) : (s.setGr g v).tail = s.tail := rfl
@[simp] theorem State.setGr_peers (g : Nat) (v : Group) : (s.setGr g v).peers = s.peers := rfl
@[simp] theorem State.setGr_dies (g : Nat) (v : Group) : (s.setGr g v).dies = s.dies := rfl
@[simp] theorem State.setGr_cores (g : Nat) (v : Group) : (s.setGr g v).cores = s.cores := rfl
@[simp] theorem State.setGr_splits (g : Nat) (v : Group) : (s.setGr g v).splits = s.splits := rfl
@[simp] theorem State.setGr_teams (g : Nat) (v : Group) : (s.setGr g v).teams = s.teams := rfl
@[simp] theorem State.setGr_launches (g : Nat) (v : Group) : (s.setGr g v).launches = s.launches := rfl
@[simp] theorem State.setGr_ctxs (g : Nat) (v : Group) : (s.setGr g v).ctxs = s.ctxs := rfl
@[simp] theorem State.setGr_partitions (g : Nat) (v : Group) : (s.setGr g v).partitions = s.partitions := rfl
@[simp] theorem State.setGr_funcs (g : Nat) (v : Group) : (s.setGr g v).funcs = s.funcs := rfl
@[simp] theorem State.setGr_vreg (g : Nat) (v : Group) : (s.setGr g v).vreg = s.vreg := rfl
@[simp] theorem State.setGr_sreg (g : Nat) (v : Group) : (s.setGr g v).sreg = s.sreg := rfl
@[simp] theorem State.setGr_preg (g : Nat) (v : Group) : (s.setGr g v).preg = s.preg := rfl
@[simp] theorem State.setGr_omap (g : Nat) (v : Group) : (s.setGr g v).omap = s.omap := rfl
@[simp] theorem State.setGr_link (g : Nat) (v : Group) : (s.setGr g v).link = s.link := rfl
@[simp] theorem State.setGr_flags (g : Nat) (v : Group) : (s.setGr g v).flags = s.flags := rfl
@[simp] theorem State.setGr_pendV (g : Nat) (v : Group) : (s.setGr g v).pendV = s.pendV := rfl
@[simp] theorem State.setGr_pendS (g : Nat) (v : Group) : (s.setGr g v).pendS = s.pendS := rfl
@[simp] theorem State.setGr_abuf (g : Nat) (v : Group) : (s.setGr g v).abuf = s.abuf := rfl
@[simp] theorem State.setGr_wbuf (g : Nat) (v : Group) : (s.setGr g v).wbuf = s.wbuf := rfl
@[simp] theorem State.setGr_tiles (g : Nat) (v : Group) : (s.setGr g v).tiles = s.tiles := rfl
@[simp] theorem State.setGr_chuck (g : Nat) (v : Group) : (s.setGr g v).chuck = s.chuck := rfl
@[simp] theorem State.setGr_overlays (g : Nat) (v : Group) : (s.setGr g v).overlays = s.overlays := rfl
@[simp] theorem State.setGr_mem (g : Nat) (v : Group) : (s.setGr g v).mem = s.mem := rfl
@[simp] theorem State.setGr_hostMem (g : Nat) (v : Group) : (s.setGr g v).hostMem = s.hostMem := rfl
@[simp] theorem State.setGr_ops (g : Nat) (v : Group) : (s.setGr g v).ops = s.ops := rfl
@[simp] theorem State.setGr_fences (g : Nat) (v : Group) : (s.setGr g v).fences = s.fences := rfl
@[simp] theorem State.setGr_copies (g : Nat) (v : Group) : (s.setGr g v).copies = s.copies := rfl
@[simp] theorem State.setGr_regions (g : Nat) (v : Group) : (s.setGr g v).regions = s.regions := rfl
@[simp] theorem State.setGr_draws (g : Nat) (v : Group) : (s.setGr g v).draws = s.draws := rfl
@[simp] theorem State.setGr_ports (g : Nat) (v : Group) : (s.setGr g v).ports = s.ports := rfl
@[simp] theorem State.setGr_poison (g : Nat) (v : Group) : (s.setGr g v).poison = s.poison := rfl
@[simp] theorem State.setGr_soft (g : Nat) (v : Group) : (s.setGr g v).soft = s.soft := rfl
@[simp] theorem State.setGr_badSecs (g : Nat) (v : Group) : (s.setGr g v).badSecs = s.badSecs := rfl
@[simp] theorem State.setGr_fills (g : Nat) (v : Group) : (s.setGr g v).fills = s.fills := rfl
@[simp] theorem State.setGr_homes (g : Nat) (v : Group) : (s.setGr g v).homes = s.homes := rfl
@[simp] theorem State.setGr_hostQueue (g : Nat) (v : Group) : (s.setGr g v).hostQueue = s.hostQueue := rfl
@[simp] theorem State.setGr_l1 (g : Nat) (v : Group) : (s.setGr g v).l1 = s.l1 := rfl
@[simp] theorem State.setGr_l1Ways (g : Nat) (v : Group) : (s.setGr g v).l1Ways = s.l1Ways := rfl
@[simp] theorem State.setGr_l2 (g : Nat) (v : Group) : (s.setGr g v).l2 = s.l2 := rfl
@[simp] theorem State.setGr_l2Ways (g : Nat) (v : Group) : (s.setGr g v).l2Ways = s.l2Ways := rfl
@[simp] theorem State.setGr_dir (g : Nat) (v : Group) : (s.setGr g v).dir = s.dir := rfl
@[simp] theorem State.setGr_sharers (g : Nat) (v : Group) : (s.setGr g v).sharers = s.sharers := rfl
@[simp] theorem State.setGr_reqs (g : Nat) (v : Group) : (s.setGr g v).reqs = s.reqs := rfl
@[simp] theorem State.setGr_recalls (g : Nat) (v : Group) : (s.setGr g v).recalls = s.recalls := rfl
@[simp] theorem State.setGr_views (g : Nat) (v : Group) : (s.setGr g v).views = s.views := rfl
@[simp] theorem State.setGr_formats (g : Nat) (v : Group) : (s.setGr g v).formats = s.formats := rfl
@[simp] theorem State.setGr_l0 (g : Nat) (v : Group) : (s.setGr g v).l0 = s.l0 := rfl
@[simp] theorem State.setGr_tlb (g : Nat) (v : Group) : (s.setGr g v).tlb = s.tlb := rfl
@[simp] theorem State.setGr_walks (g : Nat) (v : Group) : (s.setGr g v).walks = s.walks := rfl
@[simp] theorem State.setGr_ats (g : Nat) (v : Group) : (s.setGr g v).ats = s.ats := rfl
@[simp] theorem State.setGr_passes (g : Nat) (v : Group) : (s.setGr g v).passes = s.passes := rfl
@[simp] theorem State.setGr_rays (g : Nat) (v : Group) : (s.setGr g v).rays = s.rays := rfl
@[simp] theorem State.setGr_faceplate (g : Nat) (v : Group) : (s.setGr g v).faceplate = s.faceplate := rfl
@[simp] theorem State.setGr_held (g : Nat) (v : Group) : (s.setGr g v).held = s.held := rfl
@[simp] theorem State.setGr_released (g : Nat) (v : Group) : (s.setGr g v).released = s.released := rfl
@[simp] theorem State.setGr_frontier (g : Nat) (v : Group) : (s.setGr g v).frontier = s.frontier := rfl
@[simp] theorem State.setGr_sentF (g : Nat) (v : Group) : (s.setGr g v).sentF = s.sentF := rfl
@[simp] theorem State.setGr_pix (g : Nat) (v : Group) : (s.setGr g v).pix = s.pix := rfl
@[simp] theorem State.setGr_saves (g : Nat) (v : Group) : (s.setGr g v).saves = s.saves := rfl
@[simp] theorem State.setGr_lastSaves (g : Nat) (v : Group) : (s.setGr g v).lastSaves = s.lastSaves := rfl

/-! ## setTm -/

@[simp] theorem State.setTm_agenda (n : Nat) (v : Team) : (s.setTm n v).agenda = s.agenda := rfl
@[simp] theorem State.setTm_turn (n : Nat) (v : Team) : (s.setTm n v).turn = s.turn := rfl
@[simp] theorem State.setTm_stepNo (n : Nat) (v : Team) : (s.setTm n v).stepNo = s.stepNo := rfl
@[simp] theorem State.setTm_filter (n : Nat) (v : Team) : (s.setTm n v).filter = s.filter := rfl
@[simp] theorem State.setTm_linkOut (n : Nat) (v : Team) : (s.setTm n v).linkOut = s.linkOut := rfl
@[simp] theorem State.setTm_llcWays (n : Nat) (v : Team) : (s.setTm n v).llcWays = s.llcWays := rfl
@[simp] theorem State.setTm_freeCtr (n : Nat) (v : Team) : (s.setTm n v).freeCtr = s.freeCtr := rfl
@[simp] theorem State.setTm_nextId (n : Nat) (v : Team) : (s.setTm n v).nextId = s.nextId := rfl
@[simp] theorem State.setTm_cur (n : Nat) (v : Team) : (s.setTm n v).cur = s.cur := rfl
@[simp] theorem State.setTm_part (n : Nat) (v : Team) : (s.setTm n v).part = s.part := rfl
@[simp] theorem State.setTm_tail (n : Nat) (v : Team) : (s.setTm n v).tail = s.tail := rfl
@[simp] theorem State.setTm_peers (n : Nat) (v : Team) : (s.setTm n v).peers = s.peers := rfl
@[simp] theorem State.setTm_dies (n : Nat) (v : Team) : (s.setTm n v).dies = s.dies := rfl
@[simp] theorem State.setTm_cores (n : Nat) (v : Team) : (s.setTm n v).cores = s.cores := rfl
@[simp] theorem State.setTm_splits (n : Nat) (v : Team) : (s.setTm n v).splits = s.splits := rfl
@[simp] theorem State.setTm_groups (n : Nat) (v : Team) : (s.setTm n v).groups = s.groups := rfl
@[simp] theorem State.setTm_launches (n : Nat) (v : Team) : (s.setTm n v).launches = s.launches := rfl
@[simp] theorem State.setTm_ctxs (n : Nat) (v : Team) : (s.setTm n v).ctxs = s.ctxs := rfl
@[simp] theorem State.setTm_partitions (n : Nat) (v : Team) : (s.setTm n v).partitions = s.partitions := rfl
@[simp] theorem State.setTm_funcs (n : Nat) (v : Team) : (s.setTm n v).funcs = s.funcs := rfl
@[simp] theorem State.setTm_vreg (n : Nat) (v : Team) : (s.setTm n v).vreg = s.vreg := rfl
@[simp] theorem State.setTm_sreg (n : Nat) (v : Team) : (s.setTm n v).sreg = s.sreg := rfl
@[simp] theorem State.setTm_preg (n : Nat) (v : Team) : (s.setTm n v).preg = s.preg := rfl
@[simp] theorem State.setTm_omap (n : Nat) (v : Team) : (s.setTm n v).omap = s.omap := rfl
@[simp] theorem State.setTm_link (n : Nat) (v : Team) : (s.setTm n v).link = s.link := rfl
@[simp] theorem State.setTm_flags (n : Nat) (v : Team) : (s.setTm n v).flags = s.flags := rfl
@[simp] theorem State.setTm_pendV (n : Nat) (v : Team) : (s.setTm n v).pendV = s.pendV := rfl
@[simp] theorem State.setTm_pendS (n : Nat) (v : Team) : (s.setTm n v).pendS = s.pendS := rfl
@[simp] theorem State.setTm_abuf (n : Nat) (v : Team) : (s.setTm n v).abuf = s.abuf := rfl
@[simp] theorem State.setTm_wbuf (n : Nat) (v : Team) : (s.setTm n v).wbuf = s.wbuf := rfl
@[simp] theorem State.setTm_tiles (n : Nat) (v : Team) : (s.setTm n v).tiles = s.tiles := rfl
@[simp] theorem State.setTm_chuck (n : Nat) (v : Team) : (s.setTm n v).chuck = s.chuck := rfl
@[simp] theorem State.setTm_overlays (n : Nat) (v : Team) : (s.setTm n v).overlays = s.overlays := rfl
@[simp] theorem State.setTm_mem (n : Nat) (v : Team) : (s.setTm n v).mem = s.mem := rfl
@[simp] theorem State.setTm_hostMem (n : Nat) (v : Team) : (s.setTm n v).hostMem = s.hostMem := rfl
@[simp] theorem State.setTm_ops (n : Nat) (v : Team) : (s.setTm n v).ops = s.ops := rfl
@[simp] theorem State.setTm_fences (n : Nat) (v : Team) : (s.setTm n v).fences = s.fences := rfl
@[simp] theorem State.setTm_copies (n : Nat) (v : Team) : (s.setTm n v).copies = s.copies := rfl
@[simp] theorem State.setTm_regions (n : Nat) (v : Team) : (s.setTm n v).regions = s.regions := rfl
@[simp] theorem State.setTm_draws (n : Nat) (v : Team) : (s.setTm n v).draws = s.draws := rfl
@[simp] theorem State.setTm_ports (n : Nat) (v : Team) : (s.setTm n v).ports = s.ports := rfl
@[simp] theorem State.setTm_poison (n : Nat) (v : Team) : (s.setTm n v).poison = s.poison := rfl
@[simp] theorem State.setTm_soft (n : Nat) (v : Team) : (s.setTm n v).soft = s.soft := rfl
@[simp] theorem State.setTm_badSecs (n : Nat) (v : Team) : (s.setTm n v).badSecs = s.badSecs := rfl
@[simp] theorem State.setTm_fills (n : Nat) (v : Team) : (s.setTm n v).fills = s.fills := rfl
@[simp] theorem State.setTm_homes (n : Nat) (v : Team) : (s.setTm n v).homes = s.homes := rfl
@[simp] theorem State.setTm_hostQueue (n : Nat) (v : Team) : (s.setTm n v).hostQueue = s.hostQueue := rfl
@[simp] theorem State.setTm_l1 (n : Nat) (v : Team) : (s.setTm n v).l1 = s.l1 := rfl
@[simp] theorem State.setTm_l1Ways (n : Nat) (v : Team) : (s.setTm n v).l1Ways = s.l1Ways := rfl
@[simp] theorem State.setTm_l2 (n : Nat) (v : Team) : (s.setTm n v).l2 = s.l2 := rfl
@[simp] theorem State.setTm_l2Ways (n : Nat) (v : Team) : (s.setTm n v).l2Ways = s.l2Ways := rfl
@[simp] theorem State.setTm_dir (n : Nat) (v : Team) : (s.setTm n v).dir = s.dir := rfl
@[simp] theorem State.setTm_sharers (n : Nat) (v : Team) : (s.setTm n v).sharers = s.sharers := rfl
@[simp] theorem State.setTm_reqs (n : Nat) (v : Team) : (s.setTm n v).reqs = s.reqs := rfl
@[simp] theorem State.setTm_recalls (n : Nat) (v : Team) : (s.setTm n v).recalls = s.recalls := rfl
@[simp] theorem State.setTm_views (n : Nat) (v : Team) : (s.setTm n v).views = s.views := rfl
@[simp] theorem State.setTm_formats (n : Nat) (v : Team) : (s.setTm n v).formats = s.formats := rfl
@[simp] theorem State.setTm_l0 (n : Nat) (v : Team) : (s.setTm n v).l0 = s.l0 := rfl
@[simp] theorem State.setTm_tlb (n : Nat) (v : Team) : (s.setTm n v).tlb = s.tlb := rfl
@[simp] theorem State.setTm_walks (n : Nat) (v : Team) : (s.setTm n v).walks = s.walks := rfl
@[simp] theorem State.setTm_ats (n : Nat) (v : Team) : (s.setTm n v).ats = s.ats := rfl
@[simp] theorem State.setTm_passes (n : Nat) (v : Team) : (s.setTm n v).passes = s.passes := rfl
@[simp] theorem State.setTm_rays (n : Nat) (v : Team) : (s.setTm n v).rays = s.rays := rfl
@[simp] theorem State.setTm_faceplate (n : Nat) (v : Team) : (s.setTm n v).faceplate = s.faceplate := rfl
@[simp] theorem State.setTm_held (n : Nat) (v : Team) : (s.setTm n v).held = s.held := rfl
@[simp] theorem State.setTm_released (n : Nat) (v : Team) : (s.setTm n v).released = s.released := rfl
@[simp] theorem State.setTm_frontier (n : Nat) (v : Team) : (s.setTm n v).frontier = s.frontier := rfl
@[simp] theorem State.setTm_sentF (n : Nat) (v : Team) : (s.setTm n v).sentF = s.sentF := rfl
@[simp] theorem State.setTm_pix (n : Nat) (v : Team) : (s.setTm n v).pix = s.pix := rfl
@[simp] theorem State.setTm_saves (n : Nat) (v : Team) : (s.setTm n v).saves = s.saves := rfl
@[simp] theorem State.setTm_lastSaves (n : Nat) (v : Team) : (s.setTm n v).lastSaves = s.lastSaves := rfl

/-! ## modCx -/

@[simp] theorem State.modCx_agenda (n : Nat) (f : Ctx → Ctx) : (s.modCx n f).agenda = s.agenda := rfl
@[simp] theorem State.modCx_turn (n : Nat) (f : Ctx → Ctx) : (s.modCx n f).turn = s.turn := rfl
@[simp] theorem State.modCx_stepNo (n : Nat) (f : Ctx → Ctx) : (s.modCx n f).stepNo = s.stepNo := rfl
@[simp] theorem State.modCx_filter (n : Nat) (f : Ctx → Ctx) : (s.modCx n f).filter = s.filter := rfl
@[simp] theorem State.modCx_linkOut (n : Nat) (f : Ctx → Ctx) : (s.modCx n f).linkOut = s.linkOut := rfl
@[simp] theorem State.modCx_llcWays (n : Nat) (f : Ctx → Ctx) : (s.modCx n f).llcWays = s.llcWays := rfl
@[simp] theorem State.modCx_freeCtr (n : Nat) (f : Ctx → Ctx) : (s.modCx n f).freeCtr = s.freeCtr := rfl
@[simp] theorem State.modCx_nextId (n : Nat) (f : Ctx → Ctx) : (s.modCx n f).nextId = s.nextId := rfl
@[simp] theorem State.modCx_cur (n : Nat) (f : Ctx → Ctx) : (s.modCx n f).cur = s.cur := rfl
@[simp] theorem State.modCx_part (n : Nat) (f : Ctx → Ctx) : (s.modCx n f).part = s.part := rfl
@[simp] theorem State.modCx_tail (n : Nat) (f : Ctx → Ctx) : (s.modCx n f).tail = s.tail := rfl
@[simp] theorem State.modCx_peers (n : Nat) (f : Ctx → Ctx) : (s.modCx n f).peers = s.peers := rfl
@[simp] theorem State.modCx_dies (n : Nat) (f : Ctx → Ctx) : (s.modCx n f).dies = s.dies := rfl
@[simp] theorem State.modCx_cores (n : Nat) (f : Ctx → Ctx) : (s.modCx n f).cores = s.cores := rfl
@[simp] theorem State.modCx_splits (n : Nat) (f : Ctx → Ctx) : (s.modCx n f).splits = s.splits := rfl
@[simp] theorem State.modCx_groups (n : Nat) (f : Ctx → Ctx) : (s.modCx n f).groups = s.groups := rfl
@[simp] theorem State.modCx_teams (n : Nat) (f : Ctx → Ctx) : (s.modCx n f).teams = s.teams := rfl
@[simp] theorem State.modCx_launches (n : Nat) (f : Ctx → Ctx) : (s.modCx n f).launches = s.launches := rfl
@[simp] theorem State.modCx_partitions (n : Nat) (f : Ctx → Ctx) : (s.modCx n f).partitions = s.partitions := rfl
@[simp] theorem State.modCx_funcs (n : Nat) (f : Ctx → Ctx) : (s.modCx n f).funcs = s.funcs := rfl
@[simp] theorem State.modCx_vreg (n : Nat) (f : Ctx → Ctx) : (s.modCx n f).vreg = s.vreg := rfl
@[simp] theorem State.modCx_sreg (n : Nat) (f : Ctx → Ctx) : (s.modCx n f).sreg = s.sreg := rfl
@[simp] theorem State.modCx_preg (n : Nat) (f : Ctx → Ctx) : (s.modCx n f).preg = s.preg := rfl
@[simp] theorem State.modCx_omap (n : Nat) (f : Ctx → Ctx) : (s.modCx n f).omap = s.omap := rfl
@[simp] theorem State.modCx_link (n : Nat) (f : Ctx → Ctx) : (s.modCx n f).link = s.link := rfl
@[simp] theorem State.modCx_flags (n : Nat) (f : Ctx → Ctx) : (s.modCx n f).flags = s.flags := rfl
@[simp] theorem State.modCx_pendV (n : Nat) (f : Ctx → Ctx) : (s.modCx n f).pendV = s.pendV := rfl
@[simp] theorem State.modCx_pendS (n : Nat) (f : Ctx → Ctx) : (s.modCx n f).pendS = s.pendS := rfl
@[simp] theorem State.modCx_abuf (n : Nat) (f : Ctx → Ctx) : (s.modCx n f).abuf = s.abuf := rfl
@[simp] theorem State.modCx_wbuf (n : Nat) (f : Ctx → Ctx) : (s.modCx n f).wbuf = s.wbuf := rfl
@[simp] theorem State.modCx_tiles (n : Nat) (f : Ctx → Ctx) : (s.modCx n f).tiles = s.tiles := rfl
@[simp] theorem State.modCx_chuck (n : Nat) (f : Ctx → Ctx) : (s.modCx n f).chuck = s.chuck := rfl
@[simp] theorem State.modCx_overlays (n : Nat) (f : Ctx → Ctx) : (s.modCx n f).overlays = s.overlays := rfl
@[simp] theorem State.modCx_mem (n : Nat) (f : Ctx → Ctx) : (s.modCx n f).mem = s.mem := rfl
@[simp] theorem State.modCx_hostMem (n : Nat) (f : Ctx → Ctx) : (s.modCx n f).hostMem = s.hostMem := rfl
@[simp] theorem State.modCx_ops (n : Nat) (f : Ctx → Ctx) : (s.modCx n f).ops = s.ops := rfl
@[simp] theorem State.modCx_fences (n : Nat) (f : Ctx → Ctx) : (s.modCx n f).fences = s.fences := rfl
@[simp] theorem State.modCx_copies (n : Nat) (f : Ctx → Ctx) : (s.modCx n f).copies = s.copies := rfl
@[simp] theorem State.modCx_regions (n : Nat) (f : Ctx → Ctx) : (s.modCx n f).regions = s.regions := rfl
@[simp] theorem State.modCx_draws (n : Nat) (f : Ctx → Ctx) : (s.modCx n f).draws = s.draws := rfl
@[simp] theorem State.modCx_ports (n : Nat) (f : Ctx → Ctx) : (s.modCx n f).ports = s.ports := rfl
@[simp] theorem State.modCx_poison (n : Nat) (f : Ctx → Ctx) : (s.modCx n f).poison = s.poison := rfl
@[simp] theorem State.modCx_soft (n : Nat) (f : Ctx → Ctx) : (s.modCx n f).soft = s.soft := rfl
@[simp] theorem State.modCx_badSecs (n : Nat) (f : Ctx → Ctx) : (s.modCx n f).badSecs = s.badSecs := rfl
@[simp] theorem State.modCx_fills (n : Nat) (f : Ctx → Ctx) : (s.modCx n f).fills = s.fills := rfl
@[simp] theorem State.modCx_homes (n : Nat) (f : Ctx → Ctx) : (s.modCx n f).homes = s.homes := rfl
@[simp] theorem State.modCx_hostQueue (n : Nat) (f : Ctx → Ctx) : (s.modCx n f).hostQueue = s.hostQueue := rfl
@[simp] theorem State.modCx_l1 (n : Nat) (f : Ctx → Ctx) : (s.modCx n f).l1 = s.l1 := rfl
@[simp] theorem State.modCx_l1Ways (n : Nat) (f : Ctx → Ctx) : (s.modCx n f).l1Ways = s.l1Ways := rfl
@[simp] theorem State.modCx_l2 (n : Nat) (f : Ctx → Ctx) : (s.modCx n f).l2 = s.l2 := rfl
@[simp] theorem State.modCx_l2Ways (n : Nat) (f : Ctx → Ctx) : (s.modCx n f).l2Ways = s.l2Ways := rfl
@[simp] theorem State.modCx_dir (n : Nat) (f : Ctx → Ctx) : (s.modCx n f).dir = s.dir := rfl
@[simp] theorem State.modCx_sharers (n : Nat) (f : Ctx → Ctx) : (s.modCx n f).sharers = s.sharers := rfl
@[simp] theorem State.modCx_reqs (n : Nat) (f : Ctx → Ctx) : (s.modCx n f).reqs = s.reqs := rfl
@[simp] theorem State.modCx_recalls (n : Nat) (f : Ctx → Ctx) : (s.modCx n f).recalls = s.recalls := rfl
@[simp] theorem State.modCx_views (n : Nat) (f : Ctx → Ctx) : (s.modCx n f).views = s.views := rfl
@[simp] theorem State.modCx_formats (n : Nat) (f : Ctx → Ctx) : (s.modCx n f).formats = s.formats := rfl
@[simp] theorem State.modCx_l0 (n : Nat) (f : Ctx → Ctx) : (s.modCx n f).l0 = s.l0 := rfl
@[simp] theorem State.modCx_tlb (n : Nat) (f : Ctx → Ctx) : (s.modCx n f).tlb = s.tlb := rfl
@[simp] theorem State.modCx_walks (n : Nat) (f : Ctx → Ctx) : (s.modCx n f).walks = s.walks := rfl
@[simp] theorem State.modCx_ats (n : Nat) (f : Ctx → Ctx) : (s.modCx n f).ats = s.ats := rfl
@[simp] theorem State.modCx_passes (n : Nat) (f : Ctx → Ctx) : (s.modCx n f).passes = s.passes := rfl
@[simp] theorem State.modCx_rays (n : Nat) (f : Ctx → Ctx) : (s.modCx n f).rays = s.rays := rfl
@[simp] theorem State.modCx_faceplate (n : Nat) (f : Ctx → Ctx) : (s.modCx n f).faceplate = s.faceplate := rfl
@[simp] theorem State.modCx_held (n : Nat) (f : Ctx → Ctx) : (s.modCx n f).held = s.held := rfl
@[simp] theorem State.modCx_released (n : Nat) (f : Ctx → Ctx) : (s.modCx n f).released = s.released := rfl
@[simp] theorem State.modCx_frontier (n : Nat) (f : Ctx → Ctx) : (s.modCx n f).frontier = s.frontier := rfl
@[simp] theorem State.modCx_sentF (n : Nat) (f : Ctx → Ctx) : (s.modCx n f).sentF = s.sentF := rfl
@[simp] theorem State.modCx_pix (n : Nat) (f : Ctx → Ctx) : (s.modCx n f).pix = s.pix := rfl
@[simp] theorem State.modCx_saves (n : Nat) (f : Ctx → Ctx) : (s.modCx n f).saves = s.saves := rfl
@[simp] theorem State.modCx_lastSaves (n : Nat) (f : Ctx → Ctx) : (s.modCx n f).lastSaves = s.lastSaves := rfl

/-! ## modDi -/

@[simp] theorem State.modDi_agenda (n : Nat) (f : Die → Die) : (s.modDi n f).agenda = s.agenda := rfl
@[simp] theorem State.modDi_turn (n : Nat) (f : Die → Die) : (s.modDi n f).turn = s.turn := rfl
@[simp] theorem State.modDi_stepNo (n : Nat) (f : Die → Die) : (s.modDi n f).stepNo = s.stepNo := rfl
@[simp] theorem State.modDi_filter (n : Nat) (f : Die → Die) : (s.modDi n f).filter = s.filter := rfl
@[simp] theorem State.modDi_linkOut (n : Nat) (f : Die → Die) : (s.modDi n f).linkOut = s.linkOut := rfl
@[simp] theorem State.modDi_llcWays (n : Nat) (f : Die → Die) : (s.modDi n f).llcWays = s.llcWays := rfl
@[simp] theorem State.modDi_freeCtr (n : Nat) (f : Die → Die) : (s.modDi n f).freeCtr = s.freeCtr := rfl
@[simp] theorem State.modDi_nextId (n : Nat) (f : Die → Die) : (s.modDi n f).nextId = s.nextId := rfl
@[simp] theorem State.modDi_cur (n : Nat) (f : Die → Die) : (s.modDi n f).cur = s.cur := rfl
@[simp] theorem State.modDi_part (n : Nat) (f : Die → Die) : (s.modDi n f).part = s.part := rfl
@[simp] theorem State.modDi_tail (n : Nat) (f : Die → Die) : (s.modDi n f).tail = s.tail := rfl
@[simp] theorem State.modDi_peers (n : Nat) (f : Die → Die) : (s.modDi n f).peers = s.peers := rfl
@[simp] theorem State.modDi_cores (n : Nat) (f : Die → Die) : (s.modDi n f).cores = s.cores := rfl
@[simp] theorem State.modDi_splits (n : Nat) (f : Die → Die) : (s.modDi n f).splits = s.splits := rfl
@[simp] theorem State.modDi_groups (n : Nat) (f : Die → Die) : (s.modDi n f).groups = s.groups := rfl
@[simp] theorem State.modDi_teams (n : Nat) (f : Die → Die) : (s.modDi n f).teams = s.teams := rfl
@[simp] theorem State.modDi_launches (n : Nat) (f : Die → Die) : (s.modDi n f).launches = s.launches := rfl
@[simp] theorem State.modDi_ctxs (n : Nat) (f : Die → Die) : (s.modDi n f).ctxs = s.ctxs := rfl
@[simp] theorem State.modDi_partitions (n : Nat) (f : Die → Die) : (s.modDi n f).partitions = s.partitions := rfl
@[simp] theorem State.modDi_funcs (n : Nat) (f : Die → Die) : (s.modDi n f).funcs = s.funcs := rfl
@[simp] theorem State.modDi_vreg (n : Nat) (f : Die → Die) : (s.modDi n f).vreg = s.vreg := rfl
@[simp] theorem State.modDi_sreg (n : Nat) (f : Die → Die) : (s.modDi n f).sreg = s.sreg := rfl
@[simp] theorem State.modDi_preg (n : Nat) (f : Die → Die) : (s.modDi n f).preg = s.preg := rfl
@[simp] theorem State.modDi_omap (n : Nat) (f : Die → Die) : (s.modDi n f).omap = s.omap := rfl
@[simp] theorem State.modDi_link (n : Nat) (f : Die → Die) : (s.modDi n f).link = s.link := rfl
@[simp] theorem State.modDi_flags (n : Nat) (f : Die → Die) : (s.modDi n f).flags = s.flags := rfl
@[simp] theorem State.modDi_pendV (n : Nat) (f : Die → Die) : (s.modDi n f).pendV = s.pendV := rfl
@[simp] theorem State.modDi_pendS (n : Nat) (f : Die → Die) : (s.modDi n f).pendS = s.pendS := rfl
@[simp] theorem State.modDi_abuf (n : Nat) (f : Die → Die) : (s.modDi n f).abuf = s.abuf := rfl
@[simp] theorem State.modDi_wbuf (n : Nat) (f : Die → Die) : (s.modDi n f).wbuf = s.wbuf := rfl
@[simp] theorem State.modDi_tiles (n : Nat) (f : Die → Die) : (s.modDi n f).tiles = s.tiles := rfl
@[simp] theorem State.modDi_chuck (n : Nat) (f : Die → Die) : (s.modDi n f).chuck = s.chuck := rfl
@[simp] theorem State.modDi_overlays (n : Nat) (f : Die → Die) : (s.modDi n f).overlays = s.overlays := rfl
@[simp] theorem State.modDi_mem (n : Nat) (f : Die → Die) : (s.modDi n f).mem = s.mem := rfl
@[simp] theorem State.modDi_hostMem (n : Nat) (f : Die → Die) : (s.modDi n f).hostMem = s.hostMem := rfl
@[simp] theorem State.modDi_ops (n : Nat) (f : Die → Die) : (s.modDi n f).ops = s.ops := rfl
@[simp] theorem State.modDi_fences (n : Nat) (f : Die → Die) : (s.modDi n f).fences = s.fences := rfl
@[simp] theorem State.modDi_copies (n : Nat) (f : Die → Die) : (s.modDi n f).copies = s.copies := rfl
@[simp] theorem State.modDi_regions (n : Nat) (f : Die → Die) : (s.modDi n f).regions = s.regions := rfl
@[simp] theorem State.modDi_draws (n : Nat) (f : Die → Die) : (s.modDi n f).draws = s.draws := rfl
@[simp] theorem State.modDi_ports (n : Nat) (f : Die → Die) : (s.modDi n f).ports = s.ports := rfl
@[simp] theorem State.modDi_poison (n : Nat) (f : Die → Die) : (s.modDi n f).poison = s.poison := rfl
@[simp] theorem State.modDi_soft (n : Nat) (f : Die → Die) : (s.modDi n f).soft = s.soft := rfl
@[simp] theorem State.modDi_badSecs (n : Nat) (f : Die → Die) : (s.modDi n f).badSecs = s.badSecs := rfl
@[simp] theorem State.modDi_fills (n : Nat) (f : Die → Die) : (s.modDi n f).fills = s.fills := rfl
@[simp] theorem State.modDi_homes (n : Nat) (f : Die → Die) : (s.modDi n f).homes = s.homes := rfl
@[simp] theorem State.modDi_hostQueue (n : Nat) (f : Die → Die) : (s.modDi n f).hostQueue = s.hostQueue := rfl
@[simp] theorem State.modDi_l1 (n : Nat) (f : Die → Die) : (s.modDi n f).l1 = s.l1 := rfl
@[simp] theorem State.modDi_l1Ways (n : Nat) (f : Die → Die) : (s.modDi n f).l1Ways = s.l1Ways := rfl
@[simp] theorem State.modDi_l2 (n : Nat) (f : Die → Die) : (s.modDi n f).l2 = s.l2 := rfl
@[simp] theorem State.modDi_l2Ways (n : Nat) (f : Die → Die) : (s.modDi n f).l2Ways = s.l2Ways := rfl
@[simp] theorem State.modDi_dir (n : Nat) (f : Die → Die) : (s.modDi n f).dir = s.dir := rfl
@[simp] theorem State.modDi_sharers (n : Nat) (f : Die → Die) : (s.modDi n f).sharers = s.sharers := rfl
@[simp] theorem State.modDi_reqs (n : Nat) (f : Die → Die) : (s.modDi n f).reqs = s.reqs := rfl
@[simp] theorem State.modDi_recalls (n : Nat) (f : Die → Die) : (s.modDi n f).recalls = s.recalls := rfl
@[simp] theorem State.modDi_views (n : Nat) (f : Die → Die) : (s.modDi n f).views = s.views := rfl
@[simp] theorem State.modDi_formats (n : Nat) (f : Die → Die) : (s.modDi n f).formats = s.formats := rfl
@[simp] theorem State.modDi_l0 (n : Nat) (f : Die → Die) : (s.modDi n f).l0 = s.l0 := rfl
@[simp] theorem State.modDi_tlb (n : Nat) (f : Die → Die) : (s.modDi n f).tlb = s.tlb := rfl
@[simp] theorem State.modDi_walks (n : Nat) (f : Die → Die) : (s.modDi n f).walks = s.walks := rfl
@[simp] theorem State.modDi_ats (n : Nat) (f : Die → Die) : (s.modDi n f).ats = s.ats := rfl
@[simp] theorem State.modDi_passes (n : Nat) (f : Die → Die) : (s.modDi n f).passes = s.passes := rfl
@[simp] theorem State.modDi_rays (n : Nat) (f : Die → Die) : (s.modDi n f).rays = s.rays := rfl
@[simp] theorem State.modDi_faceplate (n : Nat) (f : Die → Die) : (s.modDi n f).faceplate = s.faceplate := rfl
@[simp] theorem State.modDi_held (n : Nat) (f : Die → Die) : (s.modDi n f).held = s.held := rfl
@[simp] theorem State.modDi_released (n : Nat) (f : Die → Die) : (s.modDi n f).released = s.released := rfl
@[simp] theorem State.modDi_frontier (n : Nat) (f : Die → Die) : (s.modDi n f).frontier = s.frontier := rfl
@[simp] theorem State.modDi_sentF (n : Nat) (f : Die → Die) : (s.modDi n f).sentF = s.sentF := rfl
@[simp] theorem State.modDi_pix (n : Nat) (f : Die → Die) : (s.modDi n f).pix = s.pix := rfl
@[simp] theorem State.modDi_saves (n : Nat) (f : Die → Die) : (s.modDi n f).saves = s.saves := rfl
@[simp] theorem State.modDi_lastSaves (n : Nat) (f : Die → Die) : (s.modDi n f).lastSaves = s.lastSaves := rfl

/-! ## modFn -/

@[simp] theorem State.modFn_agenda (n : Nat) (f : Func → Func) : (s.modFn n f).agenda = s.agenda := rfl
@[simp] theorem State.modFn_turn (n : Nat) (f : Func → Func) : (s.modFn n f).turn = s.turn := rfl
@[simp] theorem State.modFn_stepNo (n : Nat) (f : Func → Func) : (s.modFn n f).stepNo = s.stepNo := rfl
@[simp] theorem State.modFn_filter (n : Nat) (f : Func → Func) : (s.modFn n f).filter = s.filter := rfl
@[simp] theorem State.modFn_linkOut (n : Nat) (f : Func → Func) : (s.modFn n f).linkOut = s.linkOut := rfl
@[simp] theorem State.modFn_llcWays (n : Nat) (f : Func → Func) : (s.modFn n f).llcWays = s.llcWays := rfl
@[simp] theorem State.modFn_freeCtr (n : Nat) (f : Func → Func) : (s.modFn n f).freeCtr = s.freeCtr := rfl
@[simp] theorem State.modFn_nextId (n : Nat) (f : Func → Func) : (s.modFn n f).nextId = s.nextId := rfl
@[simp] theorem State.modFn_cur (n : Nat) (f : Func → Func) : (s.modFn n f).cur = s.cur := rfl
@[simp] theorem State.modFn_part (n : Nat) (f : Func → Func) : (s.modFn n f).part = s.part := rfl
@[simp] theorem State.modFn_tail (n : Nat) (f : Func → Func) : (s.modFn n f).tail = s.tail := rfl
@[simp] theorem State.modFn_peers (n : Nat) (f : Func → Func) : (s.modFn n f).peers = s.peers := rfl
@[simp] theorem State.modFn_dies (n : Nat) (f : Func → Func) : (s.modFn n f).dies = s.dies := rfl
@[simp] theorem State.modFn_cores (n : Nat) (f : Func → Func) : (s.modFn n f).cores = s.cores := rfl
@[simp] theorem State.modFn_splits (n : Nat) (f : Func → Func) : (s.modFn n f).splits = s.splits := rfl
@[simp] theorem State.modFn_groups (n : Nat) (f : Func → Func) : (s.modFn n f).groups = s.groups := rfl
@[simp] theorem State.modFn_teams (n : Nat) (f : Func → Func) : (s.modFn n f).teams = s.teams := rfl
@[simp] theorem State.modFn_launches (n : Nat) (f : Func → Func) : (s.modFn n f).launches = s.launches := rfl
@[simp] theorem State.modFn_ctxs (n : Nat) (f : Func → Func) : (s.modFn n f).ctxs = s.ctxs := rfl
@[simp] theorem State.modFn_partitions (n : Nat) (f : Func → Func) : (s.modFn n f).partitions = s.partitions := rfl
@[simp] theorem State.modFn_vreg (n : Nat) (f : Func → Func) : (s.modFn n f).vreg = s.vreg := rfl
@[simp] theorem State.modFn_sreg (n : Nat) (f : Func → Func) : (s.modFn n f).sreg = s.sreg := rfl
@[simp] theorem State.modFn_preg (n : Nat) (f : Func → Func) : (s.modFn n f).preg = s.preg := rfl
@[simp] theorem State.modFn_omap (n : Nat) (f : Func → Func) : (s.modFn n f).omap = s.omap := rfl
@[simp] theorem State.modFn_link (n : Nat) (f : Func → Func) : (s.modFn n f).link = s.link := rfl
@[simp] theorem State.modFn_flags (n : Nat) (f : Func → Func) : (s.modFn n f).flags = s.flags := rfl
@[simp] theorem State.modFn_pendV (n : Nat) (f : Func → Func) : (s.modFn n f).pendV = s.pendV := rfl
@[simp] theorem State.modFn_pendS (n : Nat) (f : Func → Func) : (s.modFn n f).pendS = s.pendS := rfl
@[simp] theorem State.modFn_abuf (n : Nat) (f : Func → Func) : (s.modFn n f).abuf = s.abuf := rfl
@[simp] theorem State.modFn_wbuf (n : Nat) (f : Func → Func) : (s.modFn n f).wbuf = s.wbuf := rfl
@[simp] theorem State.modFn_tiles (n : Nat) (f : Func → Func) : (s.modFn n f).tiles = s.tiles := rfl
@[simp] theorem State.modFn_chuck (n : Nat) (f : Func → Func) : (s.modFn n f).chuck = s.chuck := rfl
@[simp] theorem State.modFn_overlays (n : Nat) (f : Func → Func) : (s.modFn n f).overlays = s.overlays := rfl
@[simp] theorem State.modFn_mem (n : Nat) (f : Func → Func) : (s.modFn n f).mem = s.mem := rfl
@[simp] theorem State.modFn_hostMem (n : Nat) (f : Func → Func) : (s.modFn n f).hostMem = s.hostMem := rfl
@[simp] theorem State.modFn_ops (n : Nat) (f : Func → Func) : (s.modFn n f).ops = s.ops := rfl
@[simp] theorem State.modFn_fences (n : Nat) (f : Func → Func) : (s.modFn n f).fences = s.fences := rfl
@[simp] theorem State.modFn_copies (n : Nat) (f : Func → Func) : (s.modFn n f).copies = s.copies := rfl
@[simp] theorem State.modFn_regions (n : Nat) (f : Func → Func) : (s.modFn n f).regions = s.regions := rfl
@[simp] theorem State.modFn_draws (n : Nat) (f : Func → Func) : (s.modFn n f).draws = s.draws := rfl
@[simp] theorem State.modFn_ports (n : Nat) (f : Func → Func) : (s.modFn n f).ports = s.ports := rfl
@[simp] theorem State.modFn_poison (n : Nat) (f : Func → Func) : (s.modFn n f).poison = s.poison := rfl
@[simp] theorem State.modFn_soft (n : Nat) (f : Func → Func) : (s.modFn n f).soft = s.soft := rfl
@[simp] theorem State.modFn_badSecs (n : Nat) (f : Func → Func) : (s.modFn n f).badSecs = s.badSecs := rfl
@[simp] theorem State.modFn_fills (n : Nat) (f : Func → Func) : (s.modFn n f).fills = s.fills := rfl
@[simp] theorem State.modFn_homes (n : Nat) (f : Func → Func) : (s.modFn n f).homes = s.homes := rfl
@[simp] theorem State.modFn_hostQueue (n : Nat) (f : Func → Func) : (s.modFn n f).hostQueue = s.hostQueue := rfl
@[simp] theorem State.modFn_l1 (n : Nat) (f : Func → Func) : (s.modFn n f).l1 = s.l1 := rfl
@[simp] theorem State.modFn_l1Ways (n : Nat) (f : Func → Func) : (s.modFn n f).l1Ways = s.l1Ways := rfl
@[simp] theorem State.modFn_l2 (n : Nat) (f : Func → Func) : (s.modFn n f).l2 = s.l2 := rfl
@[simp] theorem State.modFn_l2Ways (n : Nat) (f : Func → Func) : (s.modFn n f).l2Ways = s.l2Ways := rfl
@[simp] theorem State.modFn_dir (n : Nat) (f : Func → Func) : (s.modFn n f).dir = s.dir := rfl
@[simp] theorem State.modFn_sharers (n : Nat) (f : Func → Func) : (s.modFn n f).sharers = s.sharers := rfl
@[simp] theorem State.modFn_reqs (n : Nat) (f : Func → Func) : (s.modFn n f).reqs = s.reqs := rfl
@[simp] theorem State.modFn_recalls (n : Nat) (f : Func → Func) : (s.modFn n f).recalls = s.recalls := rfl
@[simp] theorem State.modFn_views (n : Nat) (f : Func → Func) : (s.modFn n f).views = s.views := rfl
@[simp] theorem State.modFn_formats (n : Nat) (f : Func → Func) : (s.modFn n f).formats = s.formats := rfl
@[simp] theorem State.modFn_l0 (n : Nat) (f : Func → Func) : (s.modFn n f).l0 = s.l0 := rfl
@[simp] theorem State.modFn_tlb (n : Nat) (f : Func → Func) : (s.modFn n f).tlb = s.tlb := rfl
@[simp] theorem State.modFn_walks (n : Nat) (f : Func → Func) : (s.modFn n f).walks = s.walks := rfl
@[simp] theorem State.modFn_ats (n : Nat) (f : Func → Func) : (s.modFn n f).ats = s.ats := rfl
@[simp] theorem State.modFn_passes (n : Nat) (f : Func → Func) : (s.modFn n f).passes = s.passes := rfl
@[simp] theorem State.modFn_rays (n : Nat) (f : Func → Func) : (s.modFn n f).rays = s.rays := rfl
@[simp] theorem State.modFn_faceplate (n : Nat) (f : Func → Func) : (s.modFn n f).faceplate = s.faceplate := rfl
@[simp] theorem State.modFn_held (n : Nat) (f : Func → Func) : (s.modFn n f).held = s.held := rfl
@[simp] theorem State.modFn_released (n : Nat) (f : Func → Func) : (s.modFn n f).released = s.released := rfl
@[simp] theorem State.modFn_frontier (n : Nat) (f : Func → Func) : (s.modFn n f).frontier = s.frontier := rfl
@[simp] theorem State.modFn_sentF (n : Nat) (f : Func → Func) : (s.modFn n f).sentF = s.sentF := rfl
@[simp] theorem State.modFn_pix (n : Nat) (f : Func → Func) : (s.modFn n f).pix = s.pix := rfl
@[simp] theorem State.modFn_saves (n : Nat) (f : Func → Func) : (s.modFn n f).saves = s.saves := rfl
@[simp] theorem State.modFn_lastSaves (n : Nat) (f : Func → Func) : (s.modFn n f).lastSaves = s.lastSaves := rfl

/-! ## modPa -/

@[simp] theorem State.modPa_agenda (n : Nat) (f : Partition → Partition) : (s.modPa n f).agenda = s.agenda := rfl
@[simp] theorem State.modPa_turn (n : Nat) (f : Partition → Partition) : (s.modPa n f).turn = s.turn := rfl
@[simp] theorem State.modPa_stepNo (n : Nat) (f : Partition → Partition) : (s.modPa n f).stepNo = s.stepNo := rfl
@[simp] theorem State.modPa_filter (n : Nat) (f : Partition → Partition) : (s.modPa n f).filter = s.filter := rfl
@[simp] theorem State.modPa_linkOut (n : Nat) (f : Partition → Partition) : (s.modPa n f).linkOut = s.linkOut := rfl
@[simp] theorem State.modPa_llcWays (n : Nat) (f : Partition → Partition) : (s.modPa n f).llcWays = s.llcWays := rfl
@[simp] theorem State.modPa_freeCtr (n : Nat) (f : Partition → Partition) : (s.modPa n f).freeCtr = s.freeCtr := rfl
@[simp] theorem State.modPa_nextId (n : Nat) (f : Partition → Partition) : (s.modPa n f).nextId = s.nextId := rfl
@[simp] theorem State.modPa_cur (n : Nat) (f : Partition → Partition) : (s.modPa n f).cur = s.cur := rfl
@[simp] theorem State.modPa_part (n : Nat) (f : Partition → Partition) : (s.modPa n f).part = s.part := rfl
@[simp] theorem State.modPa_tail (n : Nat) (f : Partition → Partition) : (s.modPa n f).tail = s.tail := rfl
@[simp] theorem State.modPa_peers (n : Nat) (f : Partition → Partition) : (s.modPa n f).peers = s.peers := rfl
@[simp] theorem State.modPa_dies (n : Nat) (f : Partition → Partition) : (s.modPa n f).dies = s.dies := rfl
@[simp] theorem State.modPa_cores (n : Nat) (f : Partition → Partition) : (s.modPa n f).cores = s.cores := rfl
@[simp] theorem State.modPa_splits (n : Nat) (f : Partition → Partition) : (s.modPa n f).splits = s.splits := rfl
@[simp] theorem State.modPa_groups (n : Nat) (f : Partition → Partition) : (s.modPa n f).groups = s.groups := rfl
@[simp] theorem State.modPa_teams (n : Nat) (f : Partition → Partition) : (s.modPa n f).teams = s.teams := rfl
@[simp] theorem State.modPa_launches (n : Nat) (f : Partition → Partition) : (s.modPa n f).launches = s.launches := rfl
@[simp] theorem State.modPa_ctxs (n : Nat) (f : Partition → Partition) : (s.modPa n f).ctxs = s.ctxs := rfl
@[simp] theorem State.modPa_funcs (n : Nat) (f : Partition → Partition) : (s.modPa n f).funcs = s.funcs := rfl
@[simp] theorem State.modPa_vreg (n : Nat) (f : Partition → Partition) : (s.modPa n f).vreg = s.vreg := rfl
@[simp] theorem State.modPa_sreg (n : Nat) (f : Partition → Partition) : (s.modPa n f).sreg = s.sreg := rfl
@[simp] theorem State.modPa_preg (n : Nat) (f : Partition → Partition) : (s.modPa n f).preg = s.preg := rfl
@[simp] theorem State.modPa_omap (n : Nat) (f : Partition → Partition) : (s.modPa n f).omap = s.omap := rfl
@[simp] theorem State.modPa_link (n : Nat) (f : Partition → Partition) : (s.modPa n f).link = s.link := rfl
@[simp] theorem State.modPa_flags (n : Nat) (f : Partition → Partition) : (s.modPa n f).flags = s.flags := rfl
@[simp] theorem State.modPa_pendV (n : Nat) (f : Partition → Partition) : (s.modPa n f).pendV = s.pendV := rfl
@[simp] theorem State.modPa_pendS (n : Nat) (f : Partition → Partition) : (s.modPa n f).pendS = s.pendS := rfl
@[simp] theorem State.modPa_abuf (n : Nat) (f : Partition → Partition) : (s.modPa n f).abuf = s.abuf := rfl
@[simp] theorem State.modPa_wbuf (n : Nat) (f : Partition → Partition) : (s.modPa n f).wbuf = s.wbuf := rfl
@[simp] theorem State.modPa_tiles (n : Nat) (f : Partition → Partition) : (s.modPa n f).tiles = s.tiles := rfl
@[simp] theorem State.modPa_chuck (n : Nat) (f : Partition → Partition) : (s.modPa n f).chuck = s.chuck := rfl
@[simp] theorem State.modPa_overlays (n : Nat) (f : Partition → Partition) : (s.modPa n f).overlays = s.overlays := rfl
@[simp] theorem State.modPa_mem (n : Nat) (f : Partition → Partition) : (s.modPa n f).mem = s.mem := rfl
@[simp] theorem State.modPa_hostMem (n : Nat) (f : Partition → Partition) : (s.modPa n f).hostMem = s.hostMem := rfl
@[simp] theorem State.modPa_ops (n : Nat) (f : Partition → Partition) : (s.modPa n f).ops = s.ops := rfl
@[simp] theorem State.modPa_fences (n : Nat) (f : Partition → Partition) : (s.modPa n f).fences = s.fences := rfl
@[simp] theorem State.modPa_copies (n : Nat) (f : Partition → Partition) : (s.modPa n f).copies = s.copies := rfl
@[simp] theorem State.modPa_regions (n : Nat) (f : Partition → Partition) : (s.modPa n f).regions = s.regions := rfl
@[simp] theorem State.modPa_draws (n : Nat) (f : Partition → Partition) : (s.modPa n f).draws = s.draws := rfl
@[simp] theorem State.modPa_ports (n : Nat) (f : Partition → Partition) : (s.modPa n f).ports = s.ports := rfl
@[simp] theorem State.modPa_poison (n : Nat) (f : Partition → Partition) : (s.modPa n f).poison = s.poison := rfl
@[simp] theorem State.modPa_soft (n : Nat) (f : Partition → Partition) : (s.modPa n f).soft = s.soft := rfl
@[simp] theorem State.modPa_badSecs (n : Nat) (f : Partition → Partition) : (s.modPa n f).badSecs = s.badSecs := rfl
@[simp] theorem State.modPa_fills (n : Nat) (f : Partition → Partition) : (s.modPa n f).fills = s.fills := rfl
@[simp] theorem State.modPa_homes (n : Nat) (f : Partition → Partition) : (s.modPa n f).homes = s.homes := rfl
@[simp] theorem State.modPa_hostQueue (n : Nat) (f : Partition → Partition) : (s.modPa n f).hostQueue = s.hostQueue := rfl
@[simp] theorem State.modPa_l1 (n : Nat) (f : Partition → Partition) : (s.modPa n f).l1 = s.l1 := rfl
@[simp] theorem State.modPa_l1Ways (n : Nat) (f : Partition → Partition) : (s.modPa n f).l1Ways = s.l1Ways := rfl
@[simp] theorem State.modPa_l2 (n : Nat) (f : Partition → Partition) : (s.modPa n f).l2 = s.l2 := rfl
@[simp] theorem State.modPa_l2Ways (n : Nat) (f : Partition → Partition) : (s.modPa n f).l2Ways = s.l2Ways := rfl
@[simp] theorem State.modPa_dir (n : Nat) (f : Partition → Partition) : (s.modPa n f).dir = s.dir := rfl
@[simp] theorem State.modPa_sharers (n : Nat) (f : Partition → Partition) : (s.modPa n f).sharers = s.sharers := rfl
@[simp] theorem State.modPa_reqs (n : Nat) (f : Partition → Partition) : (s.modPa n f).reqs = s.reqs := rfl
@[simp] theorem State.modPa_recalls (n : Nat) (f : Partition → Partition) : (s.modPa n f).recalls = s.recalls := rfl
@[simp] theorem State.modPa_views (n : Nat) (f : Partition → Partition) : (s.modPa n f).views = s.views := rfl
@[simp] theorem State.modPa_formats (n : Nat) (f : Partition → Partition) : (s.modPa n f).formats = s.formats := rfl
@[simp] theorem State.modPa_l0 (n : Nat) (f : Partition → Partition) : (s.modPa n f).l0 = s.l0 := rfl
@[simp] theorem State.modPa_tlb (n : Nat) (f : Partition → Partition) : (s.modPa n f).tlb = s.tlb := rfl
@[simp] theorem State.modPa_walks (n : Nat) (f : Partition → Partition) : (s.modPa n f).walks = s.walks := rfl
@[simp] theorem State.modPa_ats (n : Nat) (f : Partition → Partition) : (s.modPa n f).ats = s.ats := rfl
@[simp] theorem State.modPa_passes (n : Nat) (f : Partition → Partition) : (s.modPa n f).passes = s.passes := rfl
@[simp] theorem State.modPa_rays (n : Nat) (f : Partition → Partition) : (s.modPa n f).rays = s.rays := rfl
@[simp] theorem State.modPa_faceplate (n : Nat) (f : Partition → Partition) : (s.modPa n f).faceplate = s.faceplate := rfl
@[simp] theorem State.modPa_held (n : Nat) (f : Partition → Partition) : (s.modPa n f).held = s.held := rfl
@[simp] theorem State.modPa_released (n : Nat) (f : Partition → Partition) : (s.modPa n f).released = s.released := rfl
@[simp] theorem State.modPa_frontier (n : Nat) (f : Partition → Partition) : (s.modPa n f).frontier = s.frontier := rfl
@[simp] theorem State.modPa_sentF (n : Nat) (f : Partition → Partition) : (s.modPa n f).sentF = s.sentF := rfl
@[simp] theorem State.modPa_pix (n : Nat) (f : Partition → Partition) : (s.modPa n f).pix = s.pix := rfl
@[simp] theorem State.modPa_saves (n : Nat) (f : Partition → Partition) : (s.modPa n f).saves = s.saves := rfl
@[simp] theorem State.modPa_lastSaves (n : Nat) (f : Partition → Partition) : (s.modPa n f).lastSaves = s.lastSaves := rfl

/-! ## setRegion -/

@[simp] theorem State.setRegion_agenda (k : Nat) (r : Option Region) : (s.setRegion k r).agenda = s.agenda := rfl
@[simp] theorem State.setRegion_turn (k : Nat) (r : Option Region) : (s.setRegion k r).turn = s.turn := rfl
@[simp] theorem State.setRegion_stepNo (k : Nat) (r : Option Region) : (s.setRegion k r).stepNo = s.stepNo := rfl
@[simp] theorem State.setRegion_filter (k : Nat) (r : Option Region) : (s.setRegion k r).filter = s.filter := rfl
@[simp] theorem State.setRegion_linkOut (k : Nat) (r : Option Region) : (s.setRegion k r).linkOut = s.linkOut := rfl
@[simp] theorem State.setRegion_llcWays (k : Nat) (r : Option Region) : (s.setRegion k r).llcWays = s.llcWays := rfl
@[simp] theorem State.setRegion_freeCtr (k : Nat) (r : Option Region) : (s.setRegion k r).freeCtr = s.freeCtr := rfl
@[simp] theorem State.setRegion_nextId (k : Nat) (r : Option Region) : (s.setRegion k r).nextId = s.nextId := rfl
@[simp] theorem State.setRegion_cur (k : Nat) (r : Option Region) : (s.setRegion k r).cur = s.cur := rfl
@[simp] theorem State.setRegion_part (k : Nat) (r : Option Region) : (s.setRegion k r).part = s.part := rfl
@[simp] theorem State.setRegion_tail (k : Nat) (r : Option Region) : (s.setRegion k r).tail = s.tail := rfl
@[simp] theorem State.setRegion_peers (k : Nat) (r : Option Region) : (s.setRegion k r).peers = s.peers := rfl
@[simp] theorem State.setRegion_dies (k : Nat) (r : Option Region) : (s.setRegion k r).dies = s.dies := rfl
@[simp] theorem State.setRegion_cores (k : Nat) (r : Option Region) : (s.setRegion k r).cores = s.cores := rfl
@[simp] theorem State.setRegion_splits (k : Nat) (r : Option Region) : (s.setRegion k r).splits = s.splits := rfl
@[simp] theorem State.setRegion_groups (k : Nat) (r : Option Region) : (s.setRegion k r).groups = s.groups := rfl
@[simp] theorem State.setRegion_teams (k : Nat) (r : Option Region) : (s.setRegion k r).teams = s.teams := rfl
@[simp] theorem State.setRegion_launches (k : Nat) (r : Option Region) : (s.setRegion k r).launches = s.launches := rfl
@[simp] theorem State.setRegion_ctxs (k : Nat) (r : Option Region) : (s.setRegion k r).ctxs = s.ctxs := rfl
@[simp] theorem State.setRegion_partitions (k : Nat) (r : Option Region) : (s.setRegion k r).partitions = s.partitions := rfl
@[simp] theorem State.setRegion_funcs (k : Nat) (r : Option Region) : (s.setRegion k r).funcs = s.funcs := rfl
@[simp] theorem State.setRegion_vreg (k : Nat) (r : Option Region) : (s.setRegion k r).vreg = s.vreg := rfl
@[simp] theorem State.setRegion_sreg (k : Nat) (r : Option Region) : (s.setRegion k r).sreg = s.sreg := rfl
@[simp] theorem State.setRegion_preg (k : Nat) (r : Option Region) : (s.setRegion k r).preg = s.preg := rfl
@[simp] theorem State.setRegion_omap (k : Nat) (r : Option Region) : (s.setRegion k r).omap = s.omap := rfl
@[simp] theorem State.setRegion_link (k : Nat) (r : Option Region) : (s.setRegion k r).link = s.link := rfl
@[simp] theorem State.setRegion_flags (k : Nat) (r : Option Region) : (s.setRegion k r).flags = s.flags := rfl
@[simp] theorem State.setRegion_pendV (k : Nat) (r : Option Region) : (s.setRegion k r).pendV = s.pendV := rfl
@[simp] theorem State.setRegion_pendS (k : Nat) (r : Option Region) : (s.setRegion k r).pendS = s.pendS := rfl
@[simp] theorem State.setRegion_abuf (k : Nat) (r : Option Region) : (s.setRegion k r).abuf = s.abuf := rfl
@[simp] theorem State.setRegion_wbuf (k : Nat) (r : Option Region) : (s.setRegion k r).wbuf = s.wbuf := rfl
@[simp] theorem State.setRegion_tiles (k : Nat) (r : Option Region) : (s.setRegion k r).tiles = s.tiles := rfl
@[simp] theorem State.setRegion_chuck (k : Nat) (r : Option Region) : (s.setRegion k r).chuck = s.chuck := rfl
@[simp] theorem State.setRegion_overlays (k : Nat) (r : Option Region) : (s.setRegion k r).overlays = s.overlays := rfl
@[simp] theorem State.setRegion_mem (k : Nat) (r : Option Region) : (s.setRegion k r).mem = s.mem := rfl
@[simp] theorem State.setRegion_hostMem (k : Nat) (r : Option Region) : (s.setRegion k r).hostMem = s.hostMem := rfl
@[simp] theorem State.setRegion_ops (k : Nat) (r : Option Region) : (s.setRegion k r).ops = s.ops := rfl
@[simp] theorem State.setRegion_fences (k : Nat) (r : Option Region) : (s.setRegion k r).fences = s.fences := rfl
@[simp] theorem State.setRegion_copies (k : Nat) (r : Option Region) : (s.setRegion k r).copies = s.copies := rfl
@[simp] theorem State.setRegion_draws (k : Nat) (r : Option Region) : (s.setRegion k r).draws = s.draws := rfl
@[simp] theorem State.setRegion_ports (k : Nat) (r : Option Region) : (s.setRegion k r).ports = s.ports := rfl
@[simp] theorem State.setRegion_poison (k : Nat) (r : Option Region) : (s.setRegion k r).poison = s.poison := rfl
@[simp] theorem State.setRegion_soft (k : Nat) (r : Option Region) : (s.setRegion k r).soft = s.soft := rfl
@[simp] theorem State.setRegion_badSecs (k : Nat) (r : Option Region) : (s.setRegion k r).badSecs = s.badSecs := rfl
@[simp] theorem State.setRegion_fills (k : Nat) (r : Option Region) : (s.setRegion k r).fills = s.fills := rfl
@[simp] theorem State.setRegion_homes (k : Nat) (r : Option Region) : (s.setRegion k r).homes = s.homes := rfl
@[simp] theorem State.setRegion_hostQueue (k : Nat) (r : Option Region) : (s.setRegion k r).hostQueue = s.hostQueue := rfl
@[simp] theorem State.setRegion_l1 (k : Nat) (r : Option Region) : (s.setRegion k r).l1 = s.l1 := rfl
@[simp] theorem State.setRegion_l1Ways (k : Nat) (r : Option Region) : (s.setRegion k r).l1Ways = s.l1Ways := rfl
@[simp] theorem State.setRegion_l2 (k : Nat) (r : Option Region) : (s.setRegion k r).l2 = s.l2 := rfl
@[simp] theorem State.setRegion_l2Ways (k : Nat) (r : Option Region) : (s.setRegion k r).l2Ways = s.l2Ways := rfl
@[simp] theorem State.setRegion_dir (k : Nat) (r : Option Region) : (s.setRegion k r).dir = s.dir := rfl
@[simp] theorem State.setRegion_sharers (k : Nat) (r : Option Region) : (s.setRegion k r).sharers = s.sharers := rfl
@[simp] theorem State.setRegion_reqs (k : Nat) (r : Option Region) : (s.setRegion k r).reqs = s.reqs := rfl
@[simp] theorem State.setRegion_recalls (k : Nat) (r : Option Region) : (s.setRegion k r).recalls = s.recalls := rfl
@[simp] theorem State.setRegion_views (k : Nat) (r : Option Region) : (s.setRegion k r).views = s.views := rfl
@[simp] theorem State.setRegion_formats (k : Nat) (r : Option Region) : (s.setRegion k r).formats = s.formats := rfl
@[simp] theorem State.setRegion_l0 (k : Nat) (r : Option Region) : (s.setRegion k r).l0 = s.l0 := rfl
@[simp] theorem State.setRegion_tlb (k : Nat) (r : Option Region) : (s.setRegion k r).tlb = s.tlb := rfl
@[simp] theorem State.setRegion_walks (k : Nat) (r : Option Region) : (s.setRegion k r).walks = s.walks := rfl
@[simp] theorem State.setRegion_ats (k : Nat) (r : Option Region) : (s.setRegion k r).ats = s.ats := rfl
@[simp] theorem State.setRegion_passes (k : Nat) (r : Option Region) : (s.setRegion k r).passes = s.passes := rfl
@[simp] theorem State.setRegion_rays (k : Nat) (r : Option Region) : (s.setRegion k r).rays = s.rays := rfl
@[simp] theorem State.setRegion_faceplate (k : Nat) (r : Option Region) : (s.setRegion k r).faceplate = s.faceplate := rfl
@[simp] theorem State.setRegion_held (k : Nat) (r : Option Region) : (s.setRegion k r).held = s.held := rfl
@[simp] theorem State.setRegion_released (k : Nat) (r : Option Region) : (s.setRegion k r).released = s.released := rfl
@[simp] theorem State.setRegion_frontier (k : Nat) (r : Option Region) : (s.setRegion k r).frontier = s.frontier := rfl
@[simp] theorem State.setRegion_sentF (k : Nat) (r : Option Region) : (s.setRegion k r).sentF = s.sentF := rfl
@[simp] theorem State.setRegion_pix (k : Nat) (r : Option Region) : (s.setRegion k r).pix = s.pix := rfl
@[simp] theorem State.setRegion_saves (k : Nat) (r : Option Region) : (s.setRegion k r).saves = s.saves := rfl
@[simp] theorem State.setRegion_lastSaves (k : Nat) (r : Option Region) : (s.setRegion k r).lastSaves = s.lastSaves := rfl

/-! ## rowSet -/

@[simp] theorem State.rowSet_agenda (g r l : Nat) (v : Word32) : (s.rowSet g r l v).agenda = s.agenda := rfl
@[simp] theorem State.rowSet_turn (g r l : Nat) (v : Word32) : (s.rowSet g r l v).turn = s.turn := rfl
@[simp] theorem State.rowSet_stepNo (g r l : Nat) (v : Word32) : (s.rowSet g r l v).stepNo = s.stepNo := rfl
@[simp] theorem State.rowSet_filter (g r l : Nat) (v : Word32) : (s.rowSet g r l v).filter = s.filter := rfl
@[simp] theorem State.rowSet_linkOut (g r l : Nat) (v : Word32) : (s.rowSet g r l v).linkOut = s.linkOut := rfl
@[simp] theorem State.rowSet_llcWays (g r l : Nat) (v : Word32) : (s.rowSet g r l v).llcWays = s.llcWays := rfl
@[simp] theorem State.rowSet_freeCtr (g r l : Nat) (v : Word32) : (s.rowSet g r l v).freeCtr = s.freeCtr := rfl
@[simp] theorem State.rowSet_nextId (g r l : Nat) (v : Word32) : (s.rowSet g r l v).nextId = s.nextId := rfl
@[simp] theorem State.rowSet_cur (g r l : Nat) (v : Word32) : (s.rowSet g r l v).cur = s.cur := rfl
@[simp] theorem State.rowSet_part (g r l : Nat) (v : Word32) : (s.rowSet g r l v).part = s.part := rfl
@[simp] theorem State.rowSet_tail (g r l : Nat) (v : Word32) : (s.rowSet g r l v).tail = s.tail := rfl
@[simp] theorem State.rowSet_peers (g r l : Nat) (v : Word32) : (s.rowSet g r l v).peers = s.peers := rfl
@[simp] theorem State.rowSet_dies (g r l : Nat) (v : Word32) : (s.rowSet g r l v).dies = s.dies := rfl
@[simp] theorem State.rowSet_cores (g r l : Nat) (v : Word32) : (s.rowSet g r l v).cores = s.cores := rfl
@[simp] theorem State.rowSet_splits (g r l : Nat) (v : Word32) : (s.rowSet g r l v).splits = s.splits := rfl
@[simp] theorem State.rowSet_groups (g r l : Nat) (v : Word32) : (s.rowSet g r l v).groups = s.groups := rfl
@[simp] theorem State.rowSet_teams (g r l : Nat) (v : Word32) : (s.rowSet g r l v).teams = s.teams := rfl
@[simp] theorem State.rowSet_launches (g r l : Nat) (v : Word32) : (s.rowSet g r l v).launches = s.launches := rfl
@[simp] theorem State.rowSet_ctxs (g r l : Nat) (v : Word32) : (s.rowSet g r l v).ctxs = s.ctxs := rfl
@[simp] theorem State.rowSet_partitions (g r l : Nat) (v : Word32) : (s.rowSet g r l v).partitions = s.partitions := rfl
@[simp] theorem State.rowSet_funcs (g r l : Nat) (v : Word32) : (s.rowSet g r l v).funcs = s.funcs := rfl
@[simp] theorem State.rowSet_sreg (g r l : Nat) (v : Word32) : (s.rowSet g r l v).sreg = s.sreg := rfl
@[simp] theorem State.rowSet_preg (g r l : Nat) (v : Word32) : (s.rowSet g r l v).preg = s.preg := rfl
@[simp] theorem State.rowSet_omap (g r l : Nat) (v : Word32) : (s.rowSet g r l v).omap = s.omap := rfl
@[simp] theorem State.rowSet_link (g r l : Nat) (v : Word32) : (s.rowSet g r l v).link = s.link := rfl
@[simp] theorem State.rowSet_flags (g r l : Nat) (v : Word32) : (s.rowSet g r l v).flags = s.flags := rfl
@[simp] theorem State.rowSet_pendV (g r l : Nat) (v : Word32) : (s.rowSet g r l v).pendV = s.pendV := rfl
@[simp] theorem State.rowSet_pendS (g r l : Nat) (v : Word32) : (s.rowSet g r l v).pendS = s.pendS := rfl
@[simp] theorem State.rowSet_abuf (g r l : Nat) (v : Word32) : (s.rowSet g r l v).abuf = s.abuf := rfl
@[simp] theorem State.rowSet_wbuf (g r l : Nat) (v : Word32) : (s.rowSet g r l v).wbuf = s.wbuf := rfl
@[simp] theorem State.rowSet_tiles (g r l : Nat) (v : Word32) : (s.rowSet g r l v).tiles = s.tiles := rfl
@[simp] theorem State.rowSet_chuck (g r l : Nat) (v : Word32) : (s.rowSet g r l v).chuck = s.chuck := rfl
@[simp] theorem State.rowSet_overlays (g r l : Nat) (v : Word32) : (s.rowSet g r l v).overlays = s.overlays := rfl
@[simp] theorem State.rowSet_mem (g r l : Nat) (v : Word32) : (s.rowSet g r l v).mem = s.mem := rfl
@[simp] theorem State.rowSet_hostMem (g r l : Nat) (v : Word32) : (s.rowSet g r l v).hostMem = s.hostMem := rfl
@[simp] theorem State.rowSet_ops (g r l : Nat) (v : Word32) : (s.rowSet g r l v).ops = s.ops := rfl
@[simp] theorem State.rowSet_fences (g r l : Nat) (v : Word32) : (s.rowSet g r l v).fences = s.fences := rfl
@[simp] theorem State.rowSet_copies (g r l : Nat) (v : Word32) : (s.rowSet g r l v).copies = s.copies := rfl
@[simp] theorem State.rowSet_regions (g r l : Nat) (v : Word32) : (s.rowSet g r l v).regions = s.regions := rfl
@[simp] theorem State.rowSet_draws (g r l : Nat) (v : Word32) : (s.rowSet g r l v).draws = s.draws := rfl
@[simp] theorem State.rowSet_ports (g r l : Nat) (v : Word32) : (s.rowSet g r l v).ports = s.ports := rfl
@[simp] theorem State.rowSet_poison (g r l : Nat) (v : Word32) : (s.rowSet g r l v).poison = s.poison := rfl
@[simp] theorem State.rowSet_soft (g r l : Nat) (v : Word32) : (s.rowSet g r l v).soft = s.soft := rfl
@[simp] theorem State.rowSet_badSecs (g r l : Nat) (v : Word32) : (s.rowSet g r l v).badSecs = s.badSecs := rfl
@[simp] theorem State.rowSet_fills (g r l : Nat) (v : Word32) : (s.rowSet g r l v).fills = s.fills := rfl
@[simp] theorem State.rowSet_homes (g r l : Nat) (v : Word32) : (s.rowSet g r l v).homes = s.homes := rfl
@[simp] theorem State.rowSet_hostQueue (g r l : Nat) (v : Word32) : (s.rowSet g r l v).hostQueue = s.hostQueue := rfl
@[simp] theorem State.rowSet_l1 (g r l : Nat) (v : Word32) : (s.rowSet g r l v).l1 = s.l1 := rfl
@[simp] theorem State.rowSet_l1Ways (g r l : Nat) (v : Word32) : (s.rowSet g r l v).l1Ways = s.l1Ways := rfl
@[simp] theorem State.rowSet_l2 (g r l : Nat) (v : Word32) : (s.rowSet g r l v).l2 = s.l2 := rfl
@[simp] theorem State.rowSet_l2Ways (g r l : Nat) (v : Word32) : (s.rowSet g r l v).l2Ways = s.l2Ways := rfl
@[simp] theorem State.rowSet_dir (g r l : Nat) (v : Word32) : (s.rowSet g r l v).dir = s.dir := rfl
@[simp] theorem State.rowSet_sharers (g r l : Nat) (v : Word32) : (s.rowSet g r l v).sharers = s.sharers := rfl
@[simp] theorem State.rowSet_reqs (g r l : Nat) (v : Word32) : (s.rowSet g r l v).reqs = s.reqs := rfl
@[simp] theorem State.rowSet_recalls (g r l : Nat) (v : Word32) : (s.rowSet g r l v).recalls = s.recalls := rfl
@[simp] theorem State.rowSet_views (g r l : Nat) (v : Word32) : (s.rowSet g r l v).views = s.views := rfl
@[simp] theorem State.rowSet_formats (g r l : Nat) (v : Word32) : (s.rowSet g r l v).formats = s.formats := rfl
@[simp] theorem State.rowSet_l0 (g r l : Nat) (v : Word32) : (s.rowSet g r l v).l0 = s.l0 := rfl
@[simp] theorem State.rowSet_tlb (g r l : Nat) (v : Word32) : (s.rowSet g r l v).tlb = s.tlb := rfl
@[simp] theorem State.rowSet_walks (g r l : Nat) (v : Word32) : (s.rowSet g r l v).walks = s.walks := rfl
@[simp] theorem State.rowSet_ats (g r l : Nat) (v : Word32) : (s.rowSet g r l v).ats = s.ats := rfl
@[simp] theorem State.rowSet_passes (g r l : Nat) (v : Word32) : (s.rowSet g r l v).passes = s.passes := rfl
@[simp] theorem State.rowSet_rays (g r l : Nat) (v : Word32) : (s.rowSet g r l v).rays = s.rays := rfl
@[simp] theorem State.rowSet_faceplate (g r l : Nat) (v : Word32) : (s.rowSet g r l v).faceplate = s.faceplate := rfl
@[simp] theorem State.rowSet_held (g r l : Nat) (v : Word32) : (s.rowSet g r l v).held = s.held := rfl
@[simp] theorem State.rowSet_released (g r l : Nat) (v : Word32) : (s.rowSet g r l v).released = s.released := rfl
@[simp] theorem State.rowSet_frontier (g r l : Nat) (v : Word32) : (s.rowSet g r l v).frontier = s.frontier := rfl
@[simp] theorem State.rowSet_sentF (g r l : Nat) (v : Word32) : (s.rowSet g r l v).sentF = s.sentF := rfl
@[simp] theorem State.rowSet_pix (g r l : Nat) (v : Word32) : (s.rowSet g r l v).pix = s.pix := rfl
@[simp] theorem State.rowSet_saves (g r l : Nat) (v : Word32) : (s.rowSet g r l v).saves = s.saves := rfl
@[simp] theorem State.rowSet_lastSaves (g r l : Nat) (v : Word32) : (s.rowSet g r l v).lastSaves = s.lastSaves := rfl

/-! ## orFlag -/

@[simp] theorem State.orFlag_agenda (g l : Nat) (f : BitVec 5) : (s.orFlag g l f).agenda = s.agenda := rfl
@[simp] theorem State.orFlag_turn (g l : Nat) (f : BitVec 5) : (s.orFlag g l f).turn = s.turn := rfl
@[simp] theorem State.orFlag_stepNo (g l : Nat) (f : BitVec 5) : (s.orFlag g l f).stepNo = s.stepNo := rfl
@[simp] theorem State.orFlag_filter (g l : Nat) (f : BitVec 5) : (s.orFlag g l f).filter = s.filter := rfl
@[simp] theorem State.orFlag_linkOut (g l : Nat) (f : BitVec 5) : (s.orFlag g l f).linkOut = s.linkOut := rfl
@[simp] theorem State.orFlag_llcWays (g l : Nat) (f : BitVec 5) : (s.orFlag g l f).llcWays = s.llcWays := rfl
@[simp] theorem State.orFlag_freeCtr (g l : Nat) (f : BitVec 5) : (s.orFlag g l f).freeCtr = s.freeCtr := rfl
@[simp] theorem State.orFlag_nextId (g l : Nat) (f : BitVec 5) : (s.orFlag g l f).nextId = s.nextId := rfl
@[simp] theorem State.orFlag_cur (g l : Nat) (f : BitVec 5) : (s.orFlag g l f).cur = s.cur := rfl
@[simp] theorem State.orFlag_part (g l : Nat) (f : BitVec 5) : (s.orFlag g l f).part = s.part := rfl
@[simp] theorem State.orFlag_tail (g l : Nat) (f : BitVec 5) : (s.orFlag g l f).tail = s.tail := rfl
@[simp] theorem State.orFlag_peers (g l : Nat) (f : BitVec 5) : (s.orFlag g l f).peers = s.peers := rfl
@[simp] theorem State.orFlag_dies (g l : Nat) (f : BitVec 5) : (s.orFlag g l f).dies = s.dies := rfl
@[simp] theorem State.orFlag_cores (g l : Nat) (f : BitVec 5) : (s.orFlag g l f).cores = s.cores := rfl
@[simp] theorem State.orFlag_splits (g l : Nat) (f : BitVec 5) : (s.orFlag g l f).splits = s.splits := rfl
@[simp] theorem State.orFlag_groups (g l : Nat) (f : BitVec 5) : (s.orFlag g l f).groups = s.groups := rfl
@[simp] theorem State.orFlag_teams (g l : Nat) (f : BitVec 5) : (s.orFlag g l f).teams = s.teams := rfl
@[simp] theorem State.orFlag_launches (g l : Nat) (f : BitVec 5) : (s.orFlag g l f).launches = s.launches := rfl
@[simp] theorem State.orFlag_ctxs (g l : Nat) (f : BitVec 5) : (s.orFlag g l f).ctxs = s.ctxs := rfl
@[simp] theorem State.orFlag_partitions (g l : Nat) (f : BitVec 5) : (s.orFlag g l f).partitions = s.partitions := rfl
@[simp] theorem State.orFlag_funcs (g l : Nat) (f : BitVec 5) : (s.orFlag g l f).funcs = s.funcs := rfl
@[simp] theorem State.orFlag_vreg (g l : Nat) (f : BitVec 5) : (s.orFlag g l f).vreg = s.vreg := rfl
@[simp] theorem State.orFlag_sreg (g l : Nat) (f : BitVec 5) : (s.orFlag g l f).sreg = s.sreg := rfl
@[simp] theorem State.orFlag_preg (g l : Nat) (f : BitVec 5) : (s.orFlag g l f).preg = s.preg := rfl
@[simp] theorem State.orFlag_omap (g l : Nat) (f : BitVec 5) : (s.orFlag g l f).omap = s.omap := rfl
@[simp] theorem State.orFlag_link (g l : Nat) (f : BitVec 5) : (s.orFlag g l f).link = s.link := rfl
@[simp] theorem State.orFlag_pendV (g l : Nat) (f : BitVec 5) : (s.orFlag g l f).pendV = s.pendV := rfl
@[simp] theorem State.orFlag_pendS (g l : Nat) (f : BitVec 5) : (s.orFlag g l f).pendS = s.pendS := rfl
@[simp] theorem State.orFlag_abuf (g l : Nat) (f : BitVec 5) : (s.orFlag g l f).abuf = s.abuf := rfl
@[simp] theorem State.orFlag_wbuf (g l : Nat) (f : BitVec 5) : (s.orFlag g l f).wbuf = s.wbuf := rfl
@[simp] theorem State.orFlag_tiles (g l : Nat) (f : BitVec 5) : (s.orFlag g l f).tiles = s.tiles := rfl
@[simp] theorem State.orFlag_chuck (g l : Nat) (f : BitVec 5) : (s.orFlag g l f).chuck = s.chuck := rfl
@[simp] theorem State.orFlag_overlays (g l : Nat) (f : BitVec 5) : (s.orFlag g l f).overlays = s.overlays := rfl
@[simp] theorem State.orFlag_mem (g l : Nat) (f : BitVec 5) : (s.orFlag g l f).mem = s.mem := rfl
@[simp] theorem State.orFlag_hostMem (g l : Nat) (f : BitVec 5) : (s.orFlag g l f).hostMem = s.hostMem := rfl
@[simp] theorem State.orFlag_ops (g l : Nat) (f : BitVec 5) : (s.orFlag g l f).ops = s.ops := rfl
@[simp] theorem State.orFlag_fences (g l : Nat) (f : BitVec 5) : (s.orFlag g l f).fences = s.fences := rfl
@[simp] theorem State.orFlag_copies (g l : Nat) (f : BitVec 5) : (s.orFlag g l f).copies = s.copies := rfl
@[simp] theorem State.orFlag_regions (g l : Nat) (f : BitVec 5) : (s.orFlag g l f).regions = s.regions := rfl
@[simp] theorem State.orFlag_draws (g l : Nat) (f : BitVec 5) : (s.orFlag g l f).draws = s.draws := rfl
@[simp] theorem State.orFlag_ports (g l : Nat) (f : BitVec 5) : (s.orFlag g l f).ports = s.ports := rfl
@[simp] theorem State.orFlag_poison (g l : Nat) (f : BitVec 5) : (s.orFlag g l f).poison = s.poison := rfl
@[simp] theorem State.orFlag_soft (g l : Nat) (f : BitVec 5) : (s.orFlag g l f).soft = s.soft := rfl
@[simp] theorem State.orFlag_badSecs (g l : Nat) (f : BitVec 5) : (s.orFlag g l f).badSecs = s.badSecs := rfl
@[simp] theorem State.orFlag_fills (g l : Nat) (f : BitVec 5) : (s.orFlag g l f).fills = s.fills := rfl
@[simp] theorem State.orFlag_homes (g l : Nat) (f : BitVec 5) : (s.orFlag g l f).homes = s.homes := rfl
@[simp] theorem State.orFlag_hostQueue (g l : Nat) (f : BitVec 5) : (s.orFlag g l f).hostQueue = s.hostQueue := rfl
@[simp] theorem State.orFlag_l1 (g l : Nat) (f : BitVec 5) : (s.orFlag g l f).l1 = s.l1 := rfl
@[simp] theorem State.orFlag_l1Ways (g l : Nat) (f : BitVec 5) : (s.orFlag g l f).l1Ways = s.l1Ways := rfl
@[simp] theorem State.orFlag_l2 (g l : Nat) (f : BitVec 5) : (s.orFlag g l f).l2 = s.l2 := rfl
@[simp] theorem State.orFlag_l2Ways (g l : Nat) (f : BitVec 5) : (s.orFlag g l f).l2Ways = s.l2Ways := rfl
@[simp] theorem State.orFlag_dir (g l : Nat) (f : BitVec 5) : (s.orFlag g l f).dir = s.dir := rfl
@[simp] theorem State.orFlag_sharers (g l : Nat) (f : BitVec 5) : (s.orFlag g l f).sharers = s.sharers := rfl
@[simp] theorem State.orFlag_reqs (g l : Nat) (f : BitVec 5) : (s.orFlag g l f).reqs = s.reqs := rfl
@[simp] theorem State.orFlag_recalls (g l : Nat) (f : BitVec 5) : (s.orFlag g l f).recalls = s.recalls := rfl
@[simp] theorem State.orFlag_views (g l : Nat) (f : BitVec 5) : (s.orFlag g l f).views = s.views := rfl
@[simp] theorem State.orFlag_formats (g l : Nat) (f : BitVec 5) : (s.orFlag g l f).formats = s.formats := rfl
@[simp] theorem State.orFlag_l0 (g l : Nat) (f : BitVec 5) : (s.orFlag g l f).l0 = s.l0 := rfl
@[simp] theorem State.orFlag_tlb (g l : Nat) (f : BitVec 5) : (s.orFlag g l f).tlb = s.tlb := rfl
@[simp] theorem State.orFlag_walks (g l : Nat) (f : BitVec 5) : (s.orFlag g l f).walks = s.walks := rfl
@[simp] theorem State.orFlag_ats (g l : Nat) (f : BitVec 5) : (s.orFlag g l f).ats = s.ats := rfl
@[simp] theorem State.orFlag_passes (g l : Nat) (f : BitVec 5) : (s.orFlag g l f).passes = s.passes := rfl
@[simp] theorem State.orFlag_rays (g l : Nat) (f : BitVec 5) : (s.orFlag g l f).rays = s.rays := rfl
@[simp] theorem State.orFlag_faceplate (g l : Nat) (f : BitVec 5) : (s.orFlag g l f).faceplate = s.faceplate := rfl
@[simp] theorem State.orFlag_held (g l : Nat) (f : BitVec 5) : (s.orFlag g l f).held = s.held := rfl
@[simp] theorem State.orFlag_released (g l : Nat) (f : BitVec 5) : (s.orFlag g l f).released = s.released := rfl
@[simp] theorem State.orFlag_frontier (g l : Nat) (f : BitVec 5) : (s.orFlag g l f).frontier = s.frontier := rfl
@[simp] theorem State.orFlag_sentF (g l : Nat) (f : BitVec 5) : (s.orFlag g l f).sentF = s.sentF := rfl
@[simp] theorem State.orFlag_pix (g l : Nat) (f : BitVec 5) : (s.orFlag g l f).pix = s.pix := rfl
@[simp] theorem State.orFlag_saves (g l : Nat) (f : BitVec 5) : (s.orFlag g l f).saves = s.saves := rfl
@[simp] theorem State.orFlag_lastSaves (g l : Nat) (f : BitVec 5) : (s.orFlag g l f).lastSaves = s.lastSaves := rfl

/-! ## setLink -/

@[simp] theorem State.setLink_agenda (g l c : Nat) (v : BitVec 32) : (s.setLink g l c v).agenda = s.agenda := rfl
@[simp] theorem State.setLink_turn (g l c : Nat) (v : BitVec 32) : (s.setLink g l c v).turn = s.turn := rfl
@[simp] theorem State.setLink_stepNo (g l c : Nat) (v : BitVec 32) : (s.setLink g l c v).stepNo = s.stepNo := rfl
@[simp] theorem State.setLink_filter (g l c : Nat) (v : BitVec 32) : (s.setLink g l c v).filter = s.filter := rfl
@[simp] theorem State.setLink_linkOut (g l c : Nat) (v : BitVec 32) : (s.setLink g l c v).linkOut = s.linkOut := rfl
@[simp] theorem State.setLink_llcWays (g l c : Nat) (v : BitVec 32) : (s.setLink g l c v).llcWays = s.llcWays := rfl
@[simp] theorem State.setLink_freeCtr (g l c : Nat) (v : BitVec 32) : (s.setLink g l c v).freeCtr = s.freeCtr := rfl
@[simp] theorem State.setLink_nextId (g l c : Nat) (v : BitVec 32) : (s.setLink g l c v).nextId = s.nextId := rfl
@[simp] theorem State.setLink_cur (g l c : Nat) (v : BitVec 32) : (s.setLink g l c v).cur = s.cur := rfl
@[simp] theorem State.setLink_part (g l c : Nat) (v : BitVec 32) : (s.setLink g l c v).part = s.part := rfl
@[simp] theorem State.setLink_tail (g l c : Nat) (v : BitVec 32) : (s.setLink g l c v).tail = s.tail := rfl
@[simp] theorem State.setLink_peers (g l c : Nat) (v : BitVec 32) : (s.setLink g l c v).peers = s.peers := rfl
@[simp] theorem State.setLink_dies (g l c : Nat) (v : BitVec 32) : (s.setLink g l c v).dies = s.dies := rfl
@[simp] theorem State.setLink_cores (g l c : Nat) (v : BitVec 32) : (s.setLink g l c v).cores = s.cores := rfl
@[simp] theorem State.setLink_splits (g l c : Nat) (v : BitVec 32) : (s.setLink g l c v).splits = s.splits := rfl
@[simp] theorem State.setLink_groups (g l c : Nat) (v : BitVec 32) : (s.setLink g l c v).groups = s.groups := rfl
@[simp] theorem State.setLink_teams (g l c : Nat) (v : BitVec 32) : (s.setLink g l c v).teams = s.teams := rfl
@[simp] theorem State.setLink_launches (g l c : Nat) (v : BitVec 32) : (s.setLink g l c v).launches = s.launches := rfl
@[simp] theorem State.setLink_ctxs (g l c : Nat) (v : BitVec 32) : (s.setLink g l c v).ctxs = s.ctxs := rfl
@[simp] theorem State.setLink_partitions (g l c : Nat) (v : BitVec 32) : (s.setLink g l c v).partitions = s.partitions := rfl
@[simp] theorem State.setLink_funcs (g l c : Nat) (v : BitVec 32) : (s.setLink g l c v).funcs = s.funcs := rfl
@[simp] theorem State.setLink_vreg (g l c : Nat) (v : BitVec 32) : (s.setLink g l c v).vreg = s.vreg := rfl
@[simp] theorem State.setLink_sreg (g l c : Nat) (v : BitVec 32) : (s.setLink g l c v).sreg = s.sreg := rfl
@[simp] theorem State.setLink_preg (g l c : Nat) (v : BitVec 32) : (s.setLink g l c v).preg = s.preg := rfl
@[simp] theorem State.setLink_omap (g l c : Nat) (v : BitVec 32) : (s.setLink g l c v).omap = s.omap := rfl
@[simp] theorem State.setLink_flags (g l c : Nat) (v : BitVec 32) : (s.setLink g l c v).flags = s.flags := rfl
@[simp] theorem State.setLink_pendV (g l c : Nat) (v : BitVec 32) : (s.setLink g l c v).pendV = s.pendV := rfl
@[simp] theorem State.setLink_pendS (g l c : Nat) (v : BitVec 32) : (s.setLink g l c v).pendS = s.pendS := rfl
@[simp] theorem State.setLink_abuf (g l c : Nat) (v : BitVec 32) : (s.setLink g l c v).abuf = s.abuf := rfl
@[simp] theorem State.setLink_wbuf (g l c : Nat) (v : BitVec 32) : (s.setLink g l c v).wbuf = s.wbuf := rfl
@[simp] theorem State.setLink_tiles (g l c : Nat) (v : BitVec 32) : (s.setLink g l c v).tiles = s.tiles := rfl
@[simp] theorem State.setLink_chuck (g l c : Nat) (v : BitVec 32) : (s.setLink g l c v).chuck = s.chuck := rfl
@[simp] theorem State.setLink_overlays (g l c : Nat) (v : BitVec 32) : (s.setLink g l c v).overlays = s.overlays := rfl
@[simp] theorem State.setLink_mem (g l c : Nat) (v : BitVec 32) : (s.setLink g l c v).mem = s.mem := rfl
@[simp] theorem State.setLink_hostMem (g l c : Nat) (v : BitVec 32) : (s.setLink g l c v).hostMem = s.hostMem := rfl
@[simp] theorem State.setLink_ops (g l c : Nat) (v : BitVec 32) : (s.setLink g l c v).ops = s.ops := rfl
@[simp] theorem State.setLink_fences (g l c : Nat) (v : BitVec 32) : (s.setLink g l c v).fences = s.fences := rfl
@[simp] theorem State.setLink_copies (g l c : Nat) (v : BitVec 32) : (s.setLink g l c v).copies = s.copies := rfl
@[simp] theorem State.setLink_regions (g l c : Nat) (v : BitVec 32) : (s.setLink g l c v).regions = s.regions := rfl
@[simp] theorem State.setLink_draws (g l c : Nat) (v : BitVec 32) : (s.setLink g l c v).draws = s.draws := rfl
@[simp] theorem State.setLink_ports (g l c : Nat) (v : BitVec 32) : (s.setLink g l c v).ports = s.ports := rfl
@[simp] theorem State.setLink_poison (g l c : Nat) (v : BitVec 32) : (s.setLink g l c v).poison = s.poison := rfl
@[simp] theorem State.setLink_soft (g l c : Nat) (v : BitVec 32) : (s.setLink g l c v).soft = s.soft := rfl
@[simp] theorem State.setLink_badSecs (g l c : Nat) (v : BitVec 32) : (s.setLink g l c v).badSecs = s.badSecs := rfl
@[simp] theorem State.setLink_fills (g l c : Nat) (v : BitVec 32) : (s.setLink g l c v).fills = s.fills := rfl
@[simp] theorem State.setLink_homes (g l c : Nat) (v : BitVec 32) : (s.setLink g l c v).homes = s.homes := rfl
@[simp] theorem State.setLink_hostQueue (g l c : Nat) (v : BitVec 32) : (s.setLink g l c v).hostQueue = s.hostQueue := rfl
@[simp] theorem State.setLink_l1 (g l c : Nat) (v : BitVec 32) : (s.setLink g l c v).l1 = s.l1 := rfl
@[simp] theorem State.setLink_l1Ways (g l c : Nat) (v : BitVec 32) : (s.setLink g l c v).l1Ways = s.l1Ways := rfl
@[simp] theorem State.setLink_l2 (g l c : Nat) (v : BitVec 32) : (s.setLink g l c v).l2 = s.l2 := rfl
@[simp] theorem State.setLink_l2Ways (g l c : Nat) (v : BitVec 32) : (s.setLink g l c v).l2Ways = s.l2Ways := rfl
@[simp] theorem State.setLink_dir (g l c : Nat) (v : BitVec 32) : (s.setLink g l c v).dir = s.dir := rfl
@[simp] theorem State.setLink_sharers (g l c : Nat) (v : BitVec 32) : (s.setLink g l c v).sharers = s.sharers := rfl
@[simp] theorem State.setLink_reqs (g l c : Nat) (v : BitVec 32) : (s.setLink g l c v).reqs = s.reqs := rfl
@[simp] theorem State.setLink_recalls (g l c : Nat) (v : BitVec 32) : (s.setLink g l c v).recalls = s.recalls := rfl
@[simp] theorem State.setLink_views (g l c : Nat) (v : BitVec 32) : (s.setLink g l c v).views = s.views := rfl
@[simp] theorem State.setLink_formats (g l c : Nat) (v : BitVec 32) : (s.setLink g l c v).formats = s.formats := rfl
@[simp] theorem State.setLink_l0 (g l c : Nat) (v : BitVec 32) : (s.setLink g l c v).l0 = s.l0 := rfl
@[simp] theorem State.setLink_tlb (g l c : Nat) (v : BitVec 32) : (s.setLink g l c v).tlb = s.tlb := rfl
@[simp] theorem State.setLink_walks (g l c : Nat) (v : BitVec 32) : (s.setLink g l c v).walks = s.walks := rfl
@[simp] theorem State.setLink_ats (g l c : Nat) (v : BitVec 32) : (s.setLink g l c v).ats = s.ats := rfl
@[simp] theorem State.setLink_passes (g l c : Nat) (v : BitVec 32) : (s.setLink g l c v).passes = s.passes := rfl
@[simp] theorem State.setLink_rays (g l c : Nat) (v : BitVec 32) : (s.setLink g l c v).rays = s.rays := rfl
@[simp] theorem State.setLink_faceplate (g l c : Nat) (v : BitVec 32) : (s.setLink g l c v).faceplate = s.faceplate := rfl
@[simp] theorem State.setLink_held (g l c : Nat) (v : BitVec 32) : (s.setLink g l c v).held = s.held := rfl
@[simp] theorem State.setLink_released (g l c : Nat) (v : BitVec 32) : (s.setLink g l c v).released = s.released := rfl
@[simp] theorem State.setLink_frontier (g l c : Nat) (v : BitVec 32) : (s.setLink g l c v).frontier = s.frontier := rfl
@[simp] theorem State.setLink_sentF (g l c : Nat) (v : BitVec 32) : (s.setLink g l c v).sentF = s.sentF := rfl
@[simp] theorem State.setLink_pix (g l c : Nat) (v : BitVec 32) : (s.setLink g l c v).pix = s.pix := rfl
@[simp] theorem State.setLink_saves (g l c : Nat) (v : BitVec 32) : (s.setLink g l c v).saves = s.saves := rfl
@[simp] theorem State.setLink_lastSaves (g l c : Nat) (v : BitVec 32) : (s.setLink g l c v).lastSaves = s.lastSaves := rfl

/-! ## fresh -/

@[simp] theorem State.fresh_agenda : s.fresh.agenda = s.agenda := rfl
@[simp] theorem State.fresh_turn : s.fresh.turn = s.turn := rfl
@[simp] theorem State.fresh_stepNo : s.fresh.stepNo = s.stepNo := rfl
@[simp] theorem State.fresh_filter : s.fresh.filter = s.filter := rfl
@[simp] theorem State.fresh_linkOut : s.fresh.linkOut = s.linkOut := rfl
@[simp] theorem State.fresh_llcWays : s.fresh.llcWays = s.llcWays := rfl
@[simp] theorem State.fresh_freeCtr : s.fresh.freeCtr = s.freeCtr := rfl
@[simp] theorem State.fresh_cur : s.fresh.cur = s.cur := rfl
@[simp] theorem State.fresh_part : s.fresh.part = s.part := rfl
@[simp] theorem State.fresh_tail : s.fresh.tail = s.tail := rfl
@[simp] theorem State.fresh_peers : s.fresh.peers = s.peers := rfl
@[simp] theorem State.fresh_dies : s.fresh.dies = s.dies := rfl
@[simp] theorem State.fresh_cores : s.fresh.cores = s.cores := rfl
@[simp] theorem State.fresh_splits : s.fresh.splits = s.splits := rfl
@[simp] theorem State.fresh_groups : s.fresh.groups = s.groups := rfl
@[simp] theorem State.fresh_teams : s.fresh.teams = s.teams := rfl
@[simp] theorem State.fresh_launches : s.fresh.launches = s.launches := rfl
@[simp] theorem State.fresh_ctxs : s.fresh.ctxs = s.ctxs := rfl
@[simp] theorem State.fresh_partitions : s.fresh.partitions = s.partitions := rfl
@[simp] theorem State.fresh_funcs : s.fresh.funcs = s.funcs := rfl
@[simp] theorem State.fresh_vreg : s.fresh.vreg = s.vreg := rfl
@[simp] theorem State.fresh_sreg : s.fresh.sreg = s.sreg := rfl
@[simp] theorem State.fresh_preg : s.fresh.preg = s.preg := rfl
@[simp] theorem State.fresh_omap : s.fresh.omap = s.omap := rfl
@[simp] theorem State.fresh_link : s.fresh.link = s.link := rfl
@[simp] theorem State.fresh_flags : s.fresh.flags = s.flags := rfl
@[simp] theorem State.fresh_pendV : s.fresh.pendV = s.pendV := rfl
@[simp] theorem State.fresh_pendS : s.fresh.pendS = s.pendS := rfl
@[simp] theorem State.fresh_abuf : s.fresh.abuf = s.abuf := rfl
@[simp] theorem State.fresh_wbuf : s.fresh.wbuf = s.wbuf := rfl
@[simp] theorem State.fresh_tiles : s.fresh.tiles = s.tiles := rfl
@[simp] theorem State.fresh_chuck : s.fresh.chuck = s.chuck := rfl
@[simp] theorem State.fresh_overlays : s.fresh.overlays = s.overlays := rfl
@[simp] theorem State.fresh_mem : s.fresh.mem = s.mem := rfl
@[simp] theorem State.fresh_hostMem : s.fresh.hostMem = s.hostMem := rfl
@[simp] theorem State.fresh_ops : s.fresh.ops = s.ops := rfl
@[simp] theorem State.fresh_fences : s.fresh.fences = s.fences := rfl
@[simp] theorem State.fresh_copies : s.fresh.copies = s.copies := rfl
@[simp] theorem State.fresh_regions : s.fresh.regions = s.regions := rfl
@[simp] theorem State.fresh_draws : s.fresh.draws = s.draws := rfl
@[simp] theorem State.fresh_ports : s.fresh.ports = s.ports := rfl
@[simp] theorem State.fresh_poison : s.fresh.poison = s.poison := rfl
@[simp] theorem State.fresh_soft : s.fresh.soft = s.soft := rfl
@[simp] theorem State.fresh_badSecs : s.fresh.badSecs = s.badSecs := rfl
@[simp] theorem State.fresh_fills : s.fresh.fills = s.fills := rfl
@[simp] theorem State.fresh_homes : s.fresh.homes = s.homes := rfl
@[simp] theorem State.fresh_hostQueue : s.fresh.hostQueue = s.hostQueue := rfl
@[simp] theorem State.fresh_l1 : s.fresh.l1 = s.l1 := rfl
@[simp] theorem State.fresh_l1Ways : s.fresh.l1Ways = s.l1Ways := rfl
@[simp] theorem State.fresh_l2 : s.fresh.l2 = s.l2 := rfl
@[simp] theorem State.fresh_l2Ways : s.fresh.l2Ways = s.l2Ways := rfl
@[simp] theorem State.fresh_dir : s.fresh.dir = s.dir := rfl
@[simp] theorem State.fresh_sharers : s.fresh.sharers = s.sharers := rfl
@[simp] theorem State.fresh_reqs : s.fresh.reqs = s.reqs := rfl
@[simp] theorem State.fresh_recalls : s.fresh.recalls = s.recalls := rfl
@[simp] theorem State.fresh_views : s.fresh.views = s.views := rfl
@[simp] theorem State.fresh_formats : s.fresh.formats = s.formats := rfl
@[simp] theorem State.fresh_l0 : s.fresh.l0 = s.l0 := rfl
@[simp] theorem State.fresh_tlb : s.fresh.tlb = s.tlb := rfl
@[simp] theorem State.fresh_walks : s.fresh.walks = s.walks := rfl
@[simp] theorem State.fresh_ats : s.fresh.ats = s.ats := rfl
@[simp] theorem State.fresh_passes : s.fresh.passes = s.passes := rfl
@[simp] theorem State.fresh_rays : s.fresh.rays = s.rays := rfl
@[simp] theorem State.fresh_faceplate : s.fresh.faceplate = s.faceplate := rfl
@[simp] theorem State.fresh_held : s.fresh.held = s.held := rfl
@[simp] theorem State.fresh_released : s.fresh.released = s.released := rfl
@[simp] theorem State.fresh_frontier : s.fresh.frontier = s.frontier := rfl
@[simp] theorem State.fresh_sentF : s.fresh.sentF = s.sentF := rfl
@[simp] theorem State.fresh_pix : s.fresh.pix = s.pix := rfl
@[simp] theorem State.fresh_saves : s.fresh.saves = s.saves := rfl
@[simp] theorem State.fresh_lastSaves : s.fresh.lastSaves = s.lastSaves := rfl

/-! ## Reading back -/

@[simp] theorem State.sp_setSp (k : Nat) (v : Split) : (s.setSp k v).sp k = v := mget_mset_self _ _ _ _
theorem State.sp_setSp_other {j k : Nat} (v : Split) (h : j ≠ k) : (s.setSp k v).sp j = s.sp j := mget_mset_other _ _ _ h
theorem State.modSp_eq (k : Nat) (f : Split → Split) : s.modSp k f = s.setSp k (f (s.sp k)) := rfl
@[simp] theorem State.gr_setGr (g : Nat) (v : Group) : (s.setGr g v).gr g = v := mget_mset_self _ _ _ _
theorem State.gr_setGr_other {j g : Nat} (v : Group) (h : j ≠ g) : (s.setGr g v).gr j = s.gr j := mget_mset_other _ _ _ h
theorem State.modGr_eq (g : Nat) (f : Group → Group) : s.modGr g f = s.setGr g (f (s.gr g)) := rfl
@[simp] theorem State.tm_setTm (n : Nat) (v : Team) : (s.setTm n v).tm n = v := mget_mset_self _ _ _ _
@[simp] theorem State.cx_modCx (n : Nat) (f : Ctx → Ctx) : (s.modCx n f).cx n = f (s.cx n) := mget_mset_self _ _ _ _
theorem State.cx_modCx_other {j n : Nat} (f : Ctx → Ctx) (h : j ≠ n) : (s.modCx n f).cx j = s.cx j := mget_mset_other _ _ _ h
@[simp] theorem State.di_modDi (n : Nat) (f : Die → Die) : (s.modDi n f).di n = f (s.di n) := mget_mset_self _ _ _ _
@[simp] theorem State.fn_modFn (n : Nat) (f : Func → Func) : (s.modFn n f).fn n = f (s.fn n) := mget_mset_self _ _ _ _
theorem State.fn_modFn_other {j n : Nat} (f : Func → Func) (h : j ≠ n) : (s.modFn n f).fn j = s.fn j := mget_mset_other _ _ _ h
@[simp] theorem State.pa_modPa (n : Nat) (f : Partition → Partition) : (s.modPa n f).pa n = f (s.pa n) := mget_mset_self _ _ _ _
@[simp] theorem State.region_setRegion (k : Nat) (r : Option Region) : (s.setRegion k r).region k = r := mget_mset_self _ _ _ _
@[simp] theorem State.rowGet_rowSet (g r l : Nat) (v : Word32) : (s.rowSet g r l v).rowGet g r l = v := mget_mset_self _ _ _ _

/-! ## Scalars and predicates -/

@[simp] theorem State.sset_zero (k : Nat) (v : Word64) : s.sset k 0 v = s := rfl
@[simp] theorem State.pset_zero (k : Nat) (v : BitVec 32) : s.pset k 0 v = s := rfl
@[simp] theorem State.sget_zero (k : Nat) : s.sget k 0 = 0 := rfl
@[simp] theorem State.pget_zero (k : Nat) : s.pget k 0 = BitVec.allOnes 32 := rfl

/-- Writing a scalar changes that scalar's entry alone. -/
theorem State.sset_eq (k n : Nat) (v : Word64) : ∃ m, s.sset k n v = { s with sreg := m }
    ∧ ∀ j, (n = 0 ∨ j ≠ s.scalarKey k n) → mget 0 m j = mget 0 s.sreg j := by
  unfold State.sset
  split
  · exact ⟨s.sreg, rfl, fun _ _ => rfl⟩
  · rename_i h
    exact ⟨_, rfl, fun j hj => mget_mset_other _ _ _ (hj.resolve_left h)⟩

/-- Writing a predicate changes that predicate's entry alone. -/
theorem State.pset_eq (k n : Nat) (v : BitVec 32) : ∃ m, s.pset k n v = { s with preg := m }
    ∧ ∀ j, (n = 0 ∨ j ≠ s.predKey k n) → mget 0 m j = mget 0 s.preg j := by
  unfold State.pset
  split
  · exact ⟨s.preg, rfl, fun _ _ => rfl⟩
  · rename_i h
    exact ⟨_, rfl, fun j hj => mget_mset_other _ _ _ (hj.resolve_left h)⟩

theorem State.sget_sset (k n : Nat) (v : Word64) (h : n ≠ 0) : (s.sset k n v).sget k n = v := by
  have e : s.sset k n v = { s with sreg := mset 0 s.sreg (s.scalarKey k n) v } := by simp [State.sset, h, State.scalarKey]
  rw [e]
  simp only [State.sget, h, if_false]
  exact mget_mset_self _ _ _ _

theorem State.pget_pset (k n : Nat) (v : BitVec 32) (h : n ≠ 0) : (s.pset k n v).pget k n = v := by
  have e : s.pset k n v = { s with preg := mset 0 s.preg (s.predKey k n) v } := by simp [State.pset, h, State.predKey]
  rw [e]
  simp only [State.pget, h, if_false]
  exact mget_mset_self _ _ _ _

end Sys2Proof.Machine
end

