-- ==== Sys2Proof/Laws/Form.lean ====
section
/-! SUPPORT. What the shared shapes of encoded instructions do, once each: the prelude, the register forms, advancing, and
masked writes. -/
namespace Sys2Proof.Machine

/-! ## The prelude -/

theorem issue_valid {s : State} (f : State → State) (h : s.me.valid = true) : issue s f = .next (f s) := by
  simp [issue, h]

theorem issue_invalid {s : State} (f : State → State) (h : s.me.valid = false) : issue s f = .fault .noSplit := by
  simp [issue, h]

/-- The whole of what a register form does. -/
theorem State.form_cases (s : State) (e : Bool) (u : Uses) (tag : TagRule) (eff : State → State) :
    (s.stalled s.cur u = true ∧ s.form e u tag eff = s.stall)
    ∨ (s.free u ∧ s.me.mode = .region ∧ s.form e u tag eff =
        (if ((s.inRegionDo s.cur u tag eff).region s.cur).isSome then (s.inRegionDo s.cur u tag eff).advance e
         else s.inRegionDo s.cur u tag eff))
    ∨ (s.free u ∧ s.me.mode ≠ .region ∧ s.form e u tag eff = (eff s).advance e) := by
  unfold State.form State.free
  cases h : s.stalled s.cur u
  · by_cases hm : s.me.mode = .region <;> simp [hm]
  · simp

theorem State.form_free {s : State} (e : Bool) {u : Uses} (tag : TagRule) (eff : State → State) (ha : s.acts) (hf : s.free u) :
    s.form e u tag eff = (eff s).advance e := by
  simp only [State.free] at hf
  simp [State.form, hf, ha.2]

theorem State.form_stalled {s : State} (e : Bool) {u : Uses} (tag : TagRule) (eff : State → State)
    (h : s.stalled s.cur u = true) : s.form e u tag eff = s.stall := by simp [State.form, h]

theorem State.whenFree_free {s : State} {u : Uses} (f : State → State) (ha : s.acts) (hf : s.free u) :
    s.whenFree u f = f s := by
  simp only [State.free] at hf
  simp [State.whenFree, hf, ha.2]

theorem State.not_inRegion {s : State} (ha : s.acts) : s.inRegion = false := by
  simp [State.inRegion, ha.2]

/-! ## Shapes -/

theorem State.scal2_free {s : State} (e : Bool) (d a b : BitVec 5) (tag : TagRule) (f : Word64 → Word64 → Word64) (ha : s.acts)
    (hf : s.free { ss := [a.toNat, b.toNat], ds := [d.toNat] }) :
    s.scal2 e d a b tag f = (s.sset s.cur d.toNat (f (s.sget s.cur a.toNat) (s.sget s.cur b.toNat))).advance e :=
  State.form_free e tag _ ha hf

theorem State.scal1_free {s : State} (e : Bool) (d a : BitVec 5) (tag : TagRule) (f : Word64 → Word64) (ha : s.acts)
    (hf : s.free { ss := [a.toNat], ds := [d.toNat] }) :
    s.scal1 e d a tag f = (s.sset s.cur d.toNat (f (s.sget s.cur a.toNat))).advance e :=
  State.form_free e tag _ ha hf

theorem State.vec_free {s : State} (e ok : Bool) (d : Nat) (srcs : List Nat) (tag : TagRule) (f : State → Nat → Word64) (ha : s.acts)
    (ho : ok = true) (hw : s.wide = true → ∀ n ∈ d :: srcs, n % 2 = 0)
    (hf : s.free { sv := srcs.flatMap (regs s.wide), dv := regs s.wide d }) :
    s.vec e ok d srcs tag f = (s.putLanes d s.wide (f s)).advance e := by
  have hodd : (s.wide && (d :: srcs).any fun n => n % 2 == 1) = false := by
    cases h : s.wide
    · simp
    · simp only [Bool.true_and, List.any_eq_false]
      intro n hn
      simp [hw h n hn]
  simp only [State.vec, ho, hodd, Bool.not_true, Bool.or_false, Bool.false_eq_true, if_false]
  exact State.form_free e tag _ ha hf

theorem State.vec_undef {s : State} (e ok : Bool) (d : Nat) (srcs : List Nat) (tag : TagRule) (f : State → Nat → Word64)
    (h : ok = false ∨ (s.wide = true ∧ ∃ n ∈ d :: srcs, n % 2 = 1)) : s.vec e ok d srcs tag f = s.undef := by
  have : (!ok || (s.wide && (d :: srcs).any fun n => n % 2 == 1)) = true := by
    rcases h with h | ⟨hw, n, hn, ho⟩
    · simp [h]
    · have : ((d :: srcs).any fun n => n % 2 == 1) = true := List.any_eq_true.2 ⟨n, hn, by simp [ho]⟩
      simp [hw, this]
  simp only [State.vec, this, if_true]

theorem State.vecFl_free {s : State} (e : Bool) (srcs dsts : List Nat) (f : State → Nat → List Word32 × Flags) (ha : s.acts)
    (hf : s.free { sv := srcs, dv := dsts }) :
    s.vecFl e true srcs dsts f = ((((s.glanes s.cur).foldl (fun t l =>
      (dsts.zip (f s l).1).foldl (fun t p => t.vset t.cur p.1 l p.2) t) s).orLanes (s.glanes s.cur) fun l => (f s l).2)).advance e :=
  State.form_free e .conc _ ha hf

/-! ## Advancing -/

theorem State.advance_eq (s : State) (e : Bool) : s.advance e = s.setSp s.cur (s.me.pastBy (fallBy e)) := rfl

/-- Past an instruction, or on to the next iteration of its REP: only PC, REP and replay set change. -/
theorem Split.pastBy_kept (p : Split) (n : Nat) :
    p.pastBy n = { p with pc := (p.pastBy n).pc, rep := (p.pastBy n).rep, replay := (p.pastBy n).replay } := by
  unfold Split.pastBy
  split
  · split <;> rfl
  · rfl

theorem sameSplits_advance (s : State) (e : Bool) : SameSplits s (s.advance e) := by
  refine ⟨fun k hk => State.sp_setSp_other s _ hk, ?_⟩
  have h : (s.advance e).sp s.cur = s.me.pastBy (fallBy e) := State.sp_setSp _ _ _
  rw [h]
  rw [Split.pastBy_kept s.me (fallBy e)]

theorem sameSplits_stall (s : State) : SameSplits s s.stall := by
  refine ⟨fun k hk => State.sp_setSp_other s _ hk, ?_⟩
  have h : (s.stall).sp s.cur = { s.me with wait := .operand } := State.sp_setSp _ _ _
  rw [h]

/-! ## Masked writes (R25) -/

/-- A fold of row writes touches the vector file alone. -/
theorem State.putOp_eq (s : State) (k n l : Nat) (wide : Bool) (v : Word64) :
    ∃ m, s.putOp k n l wide v = { s with vreg := m }
      ∧ ∀ j, (∀ r ∈ regs wide n, j ≠ vKey (gidOf k) (s.row k r) l) → mget 0 m j = mget 0 s.vreg j := by
  cases wide
  · refine ⟨_, rfl, fun j hj => mget_mset_other _ _ _ ?_⟩
    exact hj n (by simp [regs])
  · refine ⟨_, rfl, fun j hj => ?_⟩
    have h1 := hj n (by simp [regs])
    have h2 := hj (n + 1) (by simp [regs])
    exact (mget_mset_other _ _ _ h2).trans (mget_mset_other _ _ _ h1)

theorem State.foldPut_eq (n : Nat) (wide : Bool) (f : Nat → Word64) (ls : List Nat) : ∀ s : State,
    ∃ m, ls.foldl (fun t l => t.putOp t.cur n l wide (f l)) s = { s with vreg := m }
      ∧ ∀ j, (∀ l ∈ ls, ∀ r ∈ regs wide n, j ≠ vKey s.cg (s.row s.cur r) l) → mget 0 m j = mget 0 s.vreg j := by
  induction ls with
  | nil => exact fun s => ⟨s.vreg, rfl, fun _ _ => rfl⟩
  | cons l ls ih =>
    intro s
    obtain ⟨m, hm, hk⟩ := s.putOp_eq s.cur n l wide (f l)
    obtain ⟨m', hm', hk'⟩ := ih { s with vreg := m }
    refine ⟨m', by rw [List.foldl_cons, hm, hm'], fun j hj => ?_⟩
    rw [hk' j fun l' hl' => hj l' (by simp [hl'])]
    exact hk j (hj l (by simp))

/-- A masked vector write: the vector file alone, and of it only the guard lanes of the destination. -/
theorem State.putLanes_eq (s : State) (n : Nat) (wide : Bool) (f : Nat → Word64) :
    ∃ m, s.putLanes n wide f = { s with vreg := m }
      ∧ ∀ j, j ∉ s.guardKeys (regs wide n) → mget 0 m j = mget 0 s.vreg j := by
  obtain ⟨m, hm, hk⟩ := State.foldPut_eq n wide f (s.glanes s.cur) s
  refine ⟨m, hm, fun j hj => hk j fun l hl r hr he => hj ?_⟩
  exact List.mem_flatMap.2 ⟨l, hl, List.mem_map.2 ⟨r, hr, he.symm⟩⟩

end Sys2Proof.Machine
end

