-- ==== Sys2Proof/Laws/Handlers.lean ====
section
/-! SUPPORT. Taking a trap, returning from one, and words that are no instruction: the whole of what each shared operation can come to. -/
namespace Sys2Proof.Machine

/-- The whole of what a trap comes to (R394). -/
theorem State.trap_cases (s : State) (k : Nat) (t : TrapInfo) :
    let g := gidOf k
    let c := (s.gr g).ctx
    let h := lo32 (s.physWord ((s.cx c).vt.toNat + 8 * t.cause))
    let u := s.vaWaits (coreOf g) c (s.recordAddr k) needStore
    (∃ dbl, s.trap k t = s.haltSplit k t.cause dbl t.addr)
    ∨ ((s.sp k).mode = .region ∧ s.trap k t =
        s.regAbort k { code := abFault, detail := t.cause, scal := t.scal, lane := if t.scal then 0 else lowLane t.pmask })
    ∨ s.trap k t = s.modSp k (fun p => { p with wait := .trapBank, replay := if t.byLane then some t.pmask else p.replay })
    ∨ (u.2 = true ∧ s.trap k t = u.1.modSp k fun p => { p with wait := .operand, replay := if t.byLane then some t.pmask else p.replay })
    ∨ (u.2 = false ∧ s.trap k t = u.1.haltSplit k cXlate true (s.recordAddr k))
    ∨ ∃ w, u.2 = false ∧ u.1.putWords (coreOf g) c (s.recordAddr k) (recordWords t ((u.1.fetch g t.pc).getD 0)) = some w
        ∧ s.trap k t = w.enterTrap k t h (s.recordAddr k) := by
  dsimp only
  unfold State.trap
  dsimp only
  by_cases h1 : (s.sp k).mode = .trap
  · exact .inl ⟨true, by rw [if_pos h1]⟩
  rw [if_neg h1]
  by_cases h2 : (s.sp k).mode = .region
  · exact .inr (.inl ⟨h2, by rw [if_pos h2]⟩)
  rw [if_neg h2]
  split
  · exact .inl ⟨false, rfl⟩
  split
  · exact .inl ⟨false, rfl⟩
  split
  · exact .inr (.inr (.inl rfl))
  generalize s.vaWaits (coreOf (gidOf k)) (s.gr (gidOf k)).ctx (s.recordAddr k) needStore = u
  obtain ⟨u, b⟩ := u
  cases b with
  | true => exact .inr (.inr (.inr (.inl ⟨rfl, rfl⟩)))
  | false =>
    dsimp only
    rw [if_neg (by simp)]
    cases hp : u.putWords (coreOf (gidOf k)) (s.gr (gidOf k)).ctx (s.recordAddr k) (recordWords t ((u.fetch (gidOf k) t.pc).getD 0)) with
    | none => exact .inr (.inr (.inr (.inr (.inl ⟨rfl, rfl⟩))))
    | some w => exact .inr (.inr (.inr (.inr (.inr ⟨w, rfl, rfl, rfl⟩))))

/-- A return from a trap changes its split alone (R395). -/
theorem State.returnTrap_eq (s : State) (k : Nat) (again : Bool) : ∃ p : Split, s.returnTrap k again = s.setSp k p ∨ s.returnTrap k again = s := by
  unfold State.returnTrap
  dsimp only
  split
  · exact ⟨s.sp k, .inr rfl⟩
  · exact ⟨_, .inl rfl⟩

/-- The whole of what entry to the emulation handler comes to (R285). -/
theorem State.enterEmu_cases (s : State) (cause : Nat) (word live : Word32) :
    s.enterEmu cause word live = s.haltSplit s.cur cEmudepth false 0
    ∨ s.enterEmu cause word live = s.waitFor s.cur .emuLevel
    ∨ (s.me.resident = s.grp.depth ∧ s.enterEmu cause word live = s.trapU cWspill)
    ∨ ∃ v : EmuLevel, v.mode = s.me.mode ∧ v.gmode = s.me.gmode ∧ v.rep = s.me.rep ∧ v.bank = s.me.bank ∧ v.probe = s.me.ownProbe
        ∧ v.entryCwp = s.me.cwp + 1 ∧ s.enterEmu cause word live =
          (s.setSp s.cur { s.me with levels := v :: s.me.levels, mode := .emu, wait := .none, gmode := 0, ownProbe := false,
                                     bank := s.me.levels.length + 1, cwp := s.me.cwp + 1, resident := s.me.resident + 1, rep := none,
                                     replay := none, pc := s.emuPc s.grp.ctx }).ensureCode s.cur := by
  unfold State.enterEmu
  dsimp only
  split
  · exact .inl rfl
  split
  · exact .inr (.inl rfl)
  split
  · rename_i h; exact .inr (.inr (.inl ⟨h, rfl⟩))
  split
  · exact .inl rfl
  · exact .inr (.inr (.inr ⟨_, rfl, rfl, rfl, rfl, rfl, rfl, rfl⟩))

/-- The whole of what a word that is no instruction comes to (R76). -/
theorem State.nonNative_cases (s : State) (cause : Nat) (word live : Word32) :
    (s.me.mode = .region ∧ ∃ a, s.nonNative cause word live = s.regAbort s.cur a)
    ∨ (s.me.mode ≠ .region ∧ cause ≠ 2 ∧ s.probeOf s.cur = true ∧ ∃ r : Group, s.nonNative cause word live = (s.setGr s.cg r).advance (bit word 25))
    ∨ (s.me.mode ≠ .region ∧ (cause = 2 ∨ s.probeOf s.cur = false) ∧ s.nonNative cause word live = s.enterEmu cause word live) := by
  unfold State.nonNative
  dsimp only
  by_cases hm : (s.sp s.cur).mode = .region
  · rw [if_pos hm]
    refine .inl ⟨hm, ?_⟩
    split <;> exact ⟨_, rfl⟩
  · rw [if_neg hm]
    by_cases hp : cause ≠ 2 ∧ s.probeOf s.cur = true
    · rw [if_pos hp]
      exact .inr (.inl ⟨hm, hp.1, hp.2, _, rfl⟩)
    · rw [if_neg hp]
      refine .inr (.inr ⟨hm, ?_, rfl⟩)
      by_cases hc : cause = 2
      · exact .inl hc
      · exact .inr (by cases h : s.probeOf s.cur with | false => rfl | true => exact absurd ⟨hc, h⟩ hp)

/-! ## Heads of queues (R354) -/

/-- The whole of what a command event does. -/
theorem State.onHead_cases (s : State) (c q op : Nat) (f : State → Queue → State) :
    s.onHead c q op f = s
    ∨ (s.cmdOk (s.qu c q) = false ∧ s.onHead c q op f = s.cmdErr c ((s.qu c q).base.toNat + 128 * ((s.qu c q).rptr % 2 ^ (s.qu c q).size)))
    ∨ (s.serves c = true ∧ (s.qu c q).hasHead = true ∧ s.cmdOk (s.qu c q) = true ∧ s.cmdOp (s.qu c q) = op
        ∧ s.onHead c q op f = f s (s.qu c q)) := by
  cases hs : s.serves c
  · exact .inl (by simp [State.onHead, hs])
  cases hh : (s.qu c q).hasHead
  · exact .inl (by simp [State.onHead, hh])
  cases ho : s.cmdOk (s.qu c q)
  · by_cases hc : s.chosenHead (s.cx c).partition = some (c, q)
    · exact .inr (.inl ⟨rfl, by simp [State.onHead, hs, hh, ho, hc]⟩)
    · exact .inl (by simp [State.onHead, hs, hh, ho, hc])
  · by_cases hp : s.cmdOp (s.qu c q) = op
    · exact .inr (.inr ⟨rfl, rfl, rfl, hp, by simp [State.onHead, hs, hh, ho, hp]⟩)
    · exact .inl (by simp [State.onHead, hs, hh, ho, hp])

theorem State.onHead_atHead {s : State} {c q op : Nat} (f : State → Queue → State) (h : s.atHead c q op) :
    s.onHead c q op f = f s (s.qu c q) := by
  obtain ⟨h1, h2, h3, h4, -⟩ := h
  simp [State.onHead, h1, h2, h3, h4]

theorem State.onChosen_atHead {s : State} {c q op : Nat} (f : State → Queue → State) (h : s.atHead c q op) :
    s.onChosen c q op f = f s (s.qu c q) := by
  rw [State.onChosen, State.onHead_atHead _ h, if_pos h.2.2.2.2]

end Sys2Proof.Machine
end

