-- ==== Sys2Proof/Laws/Home.lean ====
section
/-! SUPPORT. What the operations on a home's memory do: each keeps both memories in canonical form, and where no format region is
enabled and no die holds the sectors, a read changes nothing and a write changes its bytes alone. -/
namespace Sys2Proof.Machine

/-! ## Masks -/

theorem ofBits_nat (f : Nat → Bool) (n : Nat) : let x := (List.range n).foldl (fun acc i => if f i then acc + 2 ^ i else acc) 0
    x < 2 ^ n ∧ ∀ i, x.testBit i = (decide (i < n) && f i) := by
  induction n with
  | zero => simp
  | succ n ih =>
    simp only [List.range_succ, List.foldl_append, List.foldl_cons, List.foldl_nil] at ih ⊢
    generalize List.foldl _ 0 (List.range n) = x at ih
    obtain ⟨hx, hb⟩ := ih
    have h2 : 2 ^ (n + 1) = 2 ^ n + 2 ^ n := by omega
    have hlt : (if f n = true then x + 2 ^ n else x) < 2 ^ (n + 1) := by split <;> omega
    refine ⟨hlt, fun i => ?_⟩
    rcases Nat.lt_trichotomy i n with h | h | h
    · have : (if f n = true then x + 2 ^ n else x).testBit i = x.testBit i := by
        split
        · rw [Nat.add_comm, Nat.testBit_two_pow_add_gt h]
        · rfl
      rw [this, hb]
      simp [h, Nat.lt_succ_of_lt h]
    · subst h
      have hn : x.testBit i = false := by rw [hb]; simp
      split
      · rename_i hf; rw [Nat.add_comm, Nat.testBit_two_pow_add_eq, hn, hf]; simp
      · rename_i hf; rw [hn]; simp [hf]
    · rw [Nat.testBit_lt_two_pow (Nat.lt_of_lt_of_le hlt (Nat.pow_le_pow_right (by omega) h))]
      simp [show ¬ i < n + 1 by omega]

/-- A bit of a vector given by its bits. -/
theorem bit_ofBits (n : Nat) (f : Nat → Bool) (i : Nat) : bit (ofBits n f) i = (decide (i < n) && f i) := by
  have h := ofBits_nat f n
  unfold bit ofBits
  rw [BitVec.getLsbD_ofNat, h.2 i]
  by_cases hi : i < n <;> simp [hi]

/-! ## The canonical form -/

theorem State.memOk_congr {s t : State} (h : s.memOk) (hm : t.mem = s.mem) (hh : t.hostMem = s.hostMem) : t.memOk := by
  rw [State.memOk, hm, hh]; exact h

/-- A fold of operations that each keep a property keeps it. -/
theorem foldl_keeps {α β : Type} (P : β → Prop) (f : β → α → β) (hf : ∀ s x, P s → P (f s x)) (l : List α) :
    ∀ s, P s → P (l.foldl f s) := by
  induction l with
  | nil => exact fun _ h => h
  | cons x l ih => exact fun s h => ih _ (hf s x h)

theorem Memory.wf_memMerge (m : List Host.Cell) (sec : Nat) (keep : BitVec 64) (data : Sector) (h : Memory.wf m = true) :
    Memory.wf (memMerge m sec keep data) = true := Memory.wf_leMerge _ _ _ _ _ _ h

theorem Memory.wf_putStored (m : List Host.Cell) (r : Region341) (i c : Nat) (h : Memory.wf m = true) :
    Memory.wf (putStored m r i c) = true := by
  unfold putStored
  dsimp only
  split <;> exact Memory.wf_setByte _ _ _ h

theorem State.memOk_setL2 {s : State} (die sec : Nat) (v : L2Sector) (h : s.memOk) : (s.setL2 die sec v).memOk :=
  State.memOk_congr h rfl rfl

theorem State.countReq_mem (s : State) (q : Req) : (s.countReq q).mem = s.mem ∧ (s.countReq q).hostMem = s.hostMem := by
  unfold State.countReq
  split
  · exact ⟨rfl, rfl⟩
  · exact ⟨rfl, rfl⟩

theorem State.memOk_countReq {s : State} (q : Req) (h : s.memOk) : (s.countReq q).memOk :=
  State.memOk_congr h (s.countReq_mem q).1 (s.countReq_mem q).2

theorem Memory.wf_openBytes (i n : Nat) : ∀ (m : List Host.Cell) (a : Nat), Memory.wf m = true → Memory.wf (openBytes i m a n) = true := by
  induction n with
  | zero => exact fun _ _ h => h
  | succ n ih => exact fun m a h => ih _ _ (Memory.wf_setByte _ _ _ h)

theorem State.memOk_writeOpen {s : State} (a n : Nat) (h : s.memOk) : (s.writeOpen a n).memOk :=
  ⟨Memory.wf_openBytes _ _ _ _ h.1, h.2⟩

theorem State.memOk_reencode {s : State} (home sec : Nat) (r : Region341) (h : s.memOk) : (s.reencode home sec r).memOk := by
  unfold State.reencode
  dsimp only
  generalize hu : List.foldl _ s (s.holders sec) = u
  have h1 : u.memOk := by
    rw [← hu]
    refine foldl_keeps State.memOk _ (fun t d ht => ?_) _ s h
    refine State.memOk_setL2 d sec {} ?_
    split
    · exact State.memOk_countReq _ ht
    · exact ht
  generalize hv : (if ((u.dirAt sec).state = 1 ∨ (u.dirAt sec).state = 2) ∧ (u.dirAt sec).busy.isNone then
    u.setDir sec { u.dirAt sec with state := 0 } else u) = v
  have h2 : v.memOk := by rw [← hv]; split <;> exact h1
  split
  · exact h2
  · exact ⟨foldl_keeps (fun m => Memory.wf m = true) _ (fun m j hm => Memory.wf_putStored _ _ _ _ hm) _ _ h2.1, h2.2⟩

theorem State.memOk_forceViews {s : State} (home lo hi : Nat) (h : s.memOk) : (s.forceViews home lo hi).memOk := by
  refine foldl_keeps State.memOk _ (fun t r ht => foldl_keeps State.memOk _ (fun u p hu => ?_) _ t ht) _ s h
  dsimp only
  split
  · exact State.memOk_reencode _ _ _ hu
  · exact hu

theorem State.memOk_llcEvict {s : State} (home line : Nat) (h : s.memOk) : (s.llcEvict home line).memOk := by
  refine foldl_keeps State.memOk _ (fun t i ht => ?_) _ s h
  dsimp only
  split
  · exact State.memOk_reencode _ _ _ ht
  · exact ht

theorem State.memOk_llcUse {s : State} (home sec : Nat) (h : s.memOk) : (s.llcUse home sec).memOk := by
  unfold State.llcUse
  dsimp only
  split
  · exact h
  · split
    · exact h
    · exact State.memOk_llcEvict _ _ h

theorem State.memOk_homeRead {s : State} (home sec : Nat) (h : s.memOk) : (s.homeRead home sec).1.memOk := by
  unfold State.homeRead
  dsimp only
  split
  · exact State.memOk_llcUse _ _ h
  · exact State.memOk_forceViews _ _ _ (State.memOk_llcUse _ _ h)

theorem State.memOk_homeMerge {s : State} (home sec : Nat) (keep : BitVec 64) (data : Sector) (h : s.memOk) :
    (s.homeMerge home sec keep data).memOk := by
  by_cases hk : keep = 0
  · rw [State.homeMerge, if_pos hk]; exact h
  · rw [State.homeMerge, if_neg hk]
    have h := State.memOk_llcUse home sec h
    dsimp only
    cases (s.llcUse home sec).viewOf home (64 * sec) with
    | some r => exact State.memOk_congr h (by dsimp only) (by dsimp only)
    | none =>
      have := State.memOk_forceViews home (64 * sec) (64 * sec + 64) h
      refine ⟨?_, ?_⟩ <;> dsimp only
      · exact Memory.wf_memMerge _ _ _ _ this.1
      · exact this.2

theorem State.memOk_dropL2 {s : State} (die sec : Nat) (h : s.memOk) : (s.dropL2 die sec).memOk := by
  unfold State.dropL2
  dsimp only
  split
  · exact State.memOk_setL2 _ _ _ (State.memOk_homeMerge _ _ _ _ h)
  · exact State.memOk_setL2 _ _ _ h

theorem State.memOk_recallL2 {s : State} (die sec : Nat) (h : s.memOk) : (s.recallL2 die sec).memOk := by
  unfold State.recallL2
  refine State.memOk_dropL2 die sec ?_
  split
  · exact State.memOk_countReq _ h
  · exact h

theorem State.memOk_downL2 {s : State} (die sec : Nat) (h : s.memOk) : (s.downL2 die sec).memOk := by
  unfold State.downL2
  dsimp only
  split
  · exact State.memOk_setL2 _ _ _ (State.memOk_homeMerge _ _ _ _ (State.memOk_countReq _ h))
  · split
    · exact State.memOk_setL2 _ _ _ h
    · exact h

theorem State.memOk_settleSector {s : State} (sec : Nat) (h : s.memOk) : (s.settleSector sec).memOk := by
  have := foldl_keeps State.memOk (fun t d => t.downL2 d sec) (fun t d => State.memOk_downL2 d sec) (s.tracked sec) s h
  unfold State.settleSector
  dsimp only
  split
  · exact State.memOk_congr this rfl rfl
  · exact this

theorem State.memOk_recallSector {s : State} (sec : Nat) (h : s.memOk) : (s.recallSector sec).memOk := by
  have := foldl_keeps State.memOk (fun t d => t.recallL2 d sec) (fun t d => State.memOk_recallL2 d sec) (s.tracked sec) s h
  unfold State.recallSector
  dsimp only
  split
  · exact State.memOk_congr this rfl rfl
  · exact this

theorem State.memOk_devRead {s : State} (home a n : Nat) (h : s.memOk) : (s.devRead home a n).1.memOk := by
  unfold State.devRead
  refine foldl_keeps (fun p : State × Nat => p.1.memOk) _ (fun p sec hp => ?_) _ (s, 0) h
  exact State.memOk_homeRead _ _ (State.memOk_settleSector sec hp)

theorem State.memOk_devWrite {s : State} (home a n v : Nat) (h : s.memOk) : (s.devWrite home a n v).memOk := by
  unfold State.devWrite
  exact foldl_keeps State.memOk _ (fun t sec ht => State.memOk_homeMerge _ _ _ _ (State.memOk_recallSector sec ht)) _ s h

theorem State.memOk_physPut {s : State} (a : Nat) (v : Word64) (h : s.memOk) : (s.physPut a v).memOk := by
  unfold State.physPut
  split
  · exact State.memOk_devWrite _ _ _ _ h
  · exact h

theorem State.memOk_hostWrite {s : State} (a n v : Nat) (h : s.memOk) : (s.hostWrite a n v).memOk :=
  ⟨h.1, Memory.wf_leWrite _ _ _ _ h.2⟩

theorem State.memOk_placeWrite {s : State} (p : Place) (n v : Nat) (h : s.memOk) : (s.placeWrite p n v).memOk := by
  cases p with
  | abuf => exact State.memOk_congr h rfl rfl
  | wbuf => exact State.memOk_congr h rfl rfl
  | mem => exact State.memOk_devWrite _ _ _ _ h
  | host => exact State.memOk_hostWrite _ _ _ h

theorem State.memOk_placeRead {s : State} (p : Place) (n : Nat) (h : s.memOk) : (s.placeRead p n).1.memOk := by
  cases p with
  | abuf => exact h
  | wbuf => exact h
  | mem => exact State.memOk_devRead _ _ _ h
  | host => exact h

theorem State.memOk_coldDie {s : State} (die : Nat) (h : (s.warmDie die).memOk) : (s.coldDie die).memOk :=
  ⟨Memory.wf_filter _ _ h.1, h.2⟩

theorem State.memOk_coldPackage {s : State} (h : s.memOk) : s.coldPackage.memOk := ⟨Memory.wf_filter _ _ h.1, h.2⟩

theorem State.memOk_reset : State.reset.memOk := ⟨rfl, rfl⟩

/-! ## Homes without format regions, sectors that no die holds -/

theorem State.forceViews_plain {s : State} {home : Nat} (hf : s.fmtOn home = []) (lo hi : Nat) : s.forceViews home lo hi = s := by
  simp [State.forceViews, hf]

theorem State.viewOf_plain {s : State} {home : Nat} (hf : s.fmtOn home = []) (pa : Nat) : s.viewOf home pa = none := by
  simp [State.viewOf, hf]

/-- The lines that an LLC holds, and the counter of open values, change. -/
def State.llcAs (s : State) (ws : Map (List Nat)) (ctr : Nat) : State := { s with llcWays := ws, freeCtr := ctr }

theorem State.llcEvict_plain {s : State} {home : Nat} (hf : s.fmtOn home = []) (line : Nat) : s.llcEvict home line = s := by
  simp [State.llcEvict, List.range_succ, State.viewOf_plain hf]

/-- Where no format region is enabled the use of a line changes what the LLC holds, no byte. -/
theorem State.llcUse_plain {s : State} {home : Nat} (hf : s.fmtOn home = []) (sec : Nat) : ∃ ws c, s.llcUse home sec = s.llcAs ws c := by
  unfold State.llcUse
  dsimp only
  split
  · exact ⟨s.llcWays, s.freeCtr, rfl⟩
  · split
    · exact ⟨_, s.freeCtr, rfl⟩
    · rw [State.llcEvict_plain (by exact hf)]
      exact ⟨_, _, rfl⟩

theorem State.homeRead_plain {s : State} {home : Nat} (hf : s.fmtOn home = []) (sec : Nat) :
    ∃ ws c, s.homeRead home sec = (s.llcAs ws c, memSector s.mem sec) := by
  obtain ⟨ws, c, h⟩ := State.llcUse_plain hf sec
  have hf' : (s.llcAs ws c).fmtOn home = [] := hf
  refine ⟨ws, c, ?_⟩
  unfold State.homeRead
  simp only [h, State.viewOf_plain hf', State.forceViews_plain hf']
  rfl

theorem State.homeMerge_plain {s : State} {home : Nat} (hf : s.fmtOn home = []) (sec : Nat) (keep : BitVec 64) (data : Sector) (hk : keep ≠ 0) :
    ∃ ws c, s.homeMerge home sec keep data = { s.llcAs ws c with mem := memMerge s.mem sec keep data, homes := s.noteHome home sec } := by
  obtain ⟨ws, c, h⟩ := State.llcUse_plain hf sec
  have hf' : (s.llcAs ws c).fmtOn home = [] := hf
  refine ⟨ws, c, ?_⟩
  rw [State.homeMerge, if_neg hk]
  simp only [h, State.viewOf_plain hf', State.forceViews_plain hf']
  rfl

/-- A sector that no die holds tracked and that the directory gives to none. -/
def State.atHome (s : State) (sec : Nat) : Prop := s.tracked sec = [] ∧ (s.dirAt sec).state ≠ 1 ∧ (s.dirAt sec).state ≠ 2

theorem State.settleSector_plain {s : State} {sec : Nat} (h : s.atHome sec) : s.settleSector sec = s := by
  simp [State.settleSector, h.1, h.2.2]

theorem State.recallSector_plain {s : State} {sec : Nat} (h : s.atHome sec) : s.recallSector sec = s := by
  simp [State.recallSector, h.1, h.2.1, h.2.2]

/-- The value of n bytes at a in memory, as `devRead` takes them sector by sector. -/
def homeBytes (m : List Host.Cell) (a n : Nat) : Nat := (sectorsOf a n).foldl (fun v sec => v + sectorPart (memSector m sec) sec a n) 0

theorem State.devRead_plain {s : State} {home : Nat} (a n : Nat) (hf : s.fmtOn home = []) (h : ∀ sec ∈ sectorsOf a n, s.atHome sec) :
    ∃ ws c, s.devRead home a n = (s.llcAs ws c, homeBytes s.mem a n) := by
  have key : ∀ (l : List Nat) (ws : Map (List Nat)) (c v : Nat), (∀ sec ∈ l, s.atHome sec) →
      ∃ ws' c', l.foldl (fun (acc : State × Nat) sec =>
        ((acc.1.settleSector sec).homeRead home sec |>.1, acc.2 + sectorPart ((acc.1.settleSector sec).homeRead home sec).2 sec a n)) (s.llcAs ws c, v)
      = (s.llcAs ws' c', l.foldl (fun v sec => v + sectorPart (memSector s.mem sec) sec a n) v) := by
    intro l
    induction l with
    | nil => exact fun ws c v _ => ⟨ws, c, rfl⟩
    | cons x l ih =>
      intro ws c v hl
      rw [List.foldl_cons, List.foldl_cons]
      have hx : (s.llcAs ws c).atHome x := hl x (by simp)
      obtain ⟨ws', c', hr⟩ := State.homeRead_plain (s := s.llcAs ws c) (home := home) hf x
      simp only [State.settleSector_plain hx, hr]
      exact ih ws' c' _ fun sec hsec => hl sec (by simp [hsec])
  exact key _ s.llcWays s.freeCtr 0 h

/-- A write to sectors that no die holds changes local memory alone, and of it only the bytes written; it notes the home. -/
theorem State.devWrite_plain (home a n v : Nat) : ∀ s : State, s.fmtOn home = [] → (∀ sec ∈ sectorsOf a n, s.atHome sec) →
    ∃ m hs ws c, s.devWrite home a n v = { s.llcAs ws c with mem := m, homes := hs }
      ∧ ∀ b, (b < a ∨ a + n ≤ b) → byteAt m b = byteAt s.mem b := by
  unfold State.devWrite
  generalize hl : sectorsOf a n = l
  clear hl
  induction l with
  | nil => exact fun s _ _ => ⟨s.mem, s.homes, s.llcWays, s.freeCtr, rfl, fun _ _ => rfl⟩
  | cons x l ih =>
    intro s hf h
    rw [List.foldl_cons]
    simp only [State.recallSector_plain (h x (by simp))]
    by_cases hk : sectorMask x a n = 0
    · rw [show s.homeMerge home x (sectorMask x a n) (sectorImage x a n v) = s by rw [State.homeMerge, if_pos hk]]
      exact ih s hf fun sec hs => h sec (by simp [hs])
    · obtain ⟨ws, c, hg⟩ := State.homeMerge_plain hf x _ (sectorImage x a n v) hk
      rw [hg]
      obtain ⟨m, hs', ws', c', hm, hb⟩ := ih { s.llcAs ws c with
          mem := memMerge s.mem x (sectorMask x a n) (sectorImage x a n v), homes := s.noteHome home x } hf fun sec hs => h sec (by simp [hs])
      refine ⟨m, hs', ws', c', hm, fun b ho => (hb b ho).trans ?_⟩
      dsimp only
      rw [memMerge, byteAt_leMerge, if_neg]
      rintro ⟨h1, h2, h3⟩
      rw [sectorMask, bit_ofBits] at h3
      simp only [Bool.and_eq_true, decide_eq_true_eq] at h3
      omega

end Sys2Proof.Machine
end

