-- ==== Sys2Proof/Laws/Translate.lean ====
section
/-! SUPPORT. Translation of an address whose page the L0 of the core holds: what it answers, and that it changes the order of use in
that L0 alone (R382, log entry 14). -/
namespace Sys2Proof.Machine

/-! ## A page that the L0 of a core holds -/

/-- The state with other L0 TLBs. -/
def State.l0As (s : State) (L : Map (List TlbEntry)) : State := { s with l0 := L }

/-- The L0 of a core in another order of use. -/
def State.L0Same (s : State) (core : Nat) (L : Map (List TlbEntry)) : Prop :=
  (mget [] L core).length ≤ 64 ∧ ∀ x, x ∈ mget [] L core ↔ x ∈ mget [] s.l0 core

/-- The L0 of the core holds a leaf for an address, and no other entry for it. -/
structure State.Holds (s : State) (core ctx va : Nat) (e : Word64) (level : Nat) : Prop where
  held : { ctx := ctx, page := va / pageBytes level, leaf := e, level := level } ∈ mget [] s.l0 core
  only : ∀ x ∈ mget [] s.l0 core, x.maps ctx va = true → x = { ctx := ctx, page := va / pageBytes level, leaf := e, level := level }

/-- A look-up of such a page finds the leaf and changes the order of use in the L0 alone. -/
theorem State.lookup_holds {s : State} {core ctx va : Nat} {e : Word64} {level : Nat} (h : s.Holds core ctx va e level)
    {L : Map (List TlbEntry)} (hL : s.L0Same core L) : ∃ L', s.L0Same core L' ∧ (s.l0As L).lookup core ctx va = (s.l0As L', .leaf e level) := by
  have hin := (hL.2 _).mpr h.held
  have hm : TlbEntry.maps { ctx := ctx, page := va / pageBytes level, leaf := e, level := level } ctx va = true := by simp [TlbEntry.maps]
  cases hf : (mget [] L core).find? fun x => x.maps ctx va with
  | none => exact absurd hm (by simpa using List.find?_eq_none.mp hf _ hin)
  | some x =>
    have hx := h.only x ((hL.2 _).mp (List.mem_of_find?_eq_some hf)) (by simpa using List.find?_some hf)
    subst hx
    have hlen : (List.erase (mget [] L core) { ctx := ctx, page := va / pageBytes level, leaf := e, level := level }).length + 1
        = (mget [] L core).length := by
      rw [List.length_erase_of_mem hin]
      have := List.length_pos_of_mem hin
      omega
    refine ⟨mset [] L core (({ ctx := ctx, page := va / pageBytes level, leaf := e, level := level } ::
      (mget [] L core).erase { ctx := ctx, page := va / pageBytes level, leaf := e, level := level }).take 64), ⟨?_, fun y => ?_⟩, ?_⟩
    · rw [mget_mset, if_pos rfl]; simp only [List.length_take]; omega
    · rw [mget_mset, if_pos rfl, List.take_of_length_le (by have := hL.1; simp only [List.length_cons]; omega), ← hL.2 y]
      exact (List.perm_cons_erase hin).mem_iff.symm
    · simp [State.lookup, State.l0As, State.fillL0, hf]

/-- Addresses of one 64 KiB page share their entries. -/
theorem State.Holds.page {s : State} {core ctx va vb : Nat} {e : Word64} {level : Nat} (h : s.Holds core ctx va e level)
    (hp : va / 2 ^ 16 = vb / 2 ^ 16) : s.Holds core ctx vb e level := by
  have hq : ∀ l, va / pageBytes l = vb / pageBytes l := by
    intro l
    unfold pageBytes
    split
    · omega
    · split <;> omega
  refine ⟨by rw [← hq]; exact h.held, fun x hx hm => ?_⟩
  rw [← hq]
  exact h.only x hx (by rw [TlbEntry.maps, hq]; exact hm)

/-- Such a page with every right in plain local memory of a home that answers: address pa is where va leads; the sector is not lost. -/
structure State.Maps (s : State) (core ctx va pa home : Nat) (e : Word64) (level : Nat) : Prop where
  holds : s.Holds core ctx va e level
  rights : (bit e 2 && bit e 3 && bit e 4 && !bit e 5) = true
  cls : field e 7 6 = 0
  at' : field e 55 16 * 65536 / pageBytes level * pageBytes level + va % pageBytes level = pa
  home' : s.homeOf (field e 11 8) pa = home
  up : s.homeUp home = true
  kept : (s.dirAt (pa / 64)).state ≠ 6

theorem State.translate_maps {s : State} {core ctx va pa home : Nat} {e : Word64} {level : Nat} (h : s.Maps core ctx va pa home e level)
    (need : Need) {L : Map (List TlbEntry)} (hL : s.L0Same core L) :
    ∃ L', s.L0Same core L' ∧ (s.l0As L).translate core ctx va need = (s.l0As L', .ok (.mem pa 0 home) false) := by
  obtain ⟨L', hL', hn⟩ := State.lookup_holds h.holds hL
  refine ⟨L', hL', ?_⟩
  have hr := h.rights
  have hc := h.cls
  simp only [Bool.and_eq_true, Bool.not_eq_true'] at hr
  obtain ⟨⟨⟨h2, h3⟩, h4⟩, h5⟩ := hr
  have hh : (s.l0As L').homeOf (field e 11 8) pa = home := h.home'
  have hu : (s.l0As L').homeUp home = true := h.up
  have hk : ((s.l0As L').dirAt (pa / 64)).state ≠ 6 := h.kept
  unfold State.translate
  rw [hn]
  have hq : ((0 : Nat) == 1) = false := rfl
  have hb : (((s.l0As L').dirAt (pa / 64)).state != 6) = true := by simpa using hk
  simp only [h2, h3, h4, h5, hc, h.at', hh, hu, hq, hb, Bool.not_true, Bool.and_false, Bool.or_false, Bool.or_true, Bool.and_true,
    Bool.false_eq_true, if_false, if_true, ite_self]

theorem State.Maps.plus {s : State} {core ctx va pa home : Nat} {e : Word64} {level : Nat} (h : s.Maps core ctx va pa home e level) (i : Nat)
    (hi : va % 2 ^ 16 + i < 2 ^ 16) (hh : s.homeOf (field e 11 8) (pa + i) = home)
    (hk : (s.dirAt ((pa + i) / 64)).state ≠ 6) : s.Maps core ctx (va + i) (pa + i) home e level where
  holds := h.holds.page (by omega)
  rights := h.rights
  cls := h.cls
  at' := by
    have ha := h.at'
    have : (va + i) % pageBytes level = va % pageBytes level + i := by
      unfold pageBytes
      split
      · omega
      · split <;> omega
    rw [this]
    omega
  home' := hh
  up := h.up
  kept := hk

end Sys2Proof.Machine
end

