-- ==== Sys2Proof/Machine/HostRead.lean ====
section
/-! DEFINITION. What a read of a register returns to the host (R333, R341, R350, R375, R384, R399-R403, R407, R409, R412,
R415, R417, R418). No read changes the state. A register or a place that the spec gives no value to read reads zero (log
entry 20). -/
namespace Sys2Proof.Machine

/-- BOOTSTAT and the identity words, which answer in every phase (R403). -/
def State.bootRead (s : State) (offset : Nat) : Nat :=
  match offset with
  | 0x00 => s.tail.phase + 256 * s.tail.failCode
  | 0x08 => s.ident0
  | 0x10 => Config.serialNumber.toNat
  | 0x18 => s.ident2
  | _ => 0

/-- The 4 KiB page of a context in its function's BAR 0 (R352, R384). -/
def State.ctxPageRead (s : State) (fn c o : Nat) : Nat :=
  let x := s.cx c
  if !s.ownsCtx fn c then 0
  else if o < 0x80 then (if o % 8 = 0 then (s.qu c (o / 8)).wptr else 0)
  else if o = 0x100 then x.invAddr.toNat
  else if o = 0x110 then (if x.invBusy then 1 else 0) + (if x.invErr then 2 else 0)
  else 0

/-- BAR 0 of a function. -/
def State.bar0Read (s : State) (fn offset : Nat) : Nat :=
  if !s.tail.power then 0
  else if offset < 0x20 then s.bootRead offset
  else if !s.fnUp fn then 0
  else if offset = 0x60 then (s.fn fn).irq.toNat
  else if 0x10000 ≤ offset then s.ctxPageRead fn ((offset - 0x10000) / 0x1000) ((offset - 0x10000) % 0x1000)
  else if fn ≠ 0 then 0
  else if offset = 0x30 then s.tail.ctxTab.toNat
  else if offset = 0x40 then (if s.tail.ctxRefused then 2 else 0) + (if s.tail.ctxErr then 4 else 0)
  else if offset = 0x48 then (s.fn 0).window.toNat
  else if 0x408 ≤ offset ∧ offset < 0x500 ∧ offset % 8 = 0 then (s.fn ((offset - 0x400) / 8)).window.toNat
  else 0

/-- The eight bytes of a list from offset o on, little-endian. -/
def leWord (bs : List Byte) (o : Nat) : Nat := ((bs.drop o).take 8).foldr (fun b v => b.toNat + 256 * v) 0

/-- Word w of partition n (R375). -/
def Partition.word (p : Partition) (w : Nat) : Nat :=
  (match w with | 0 => p.w0 | 1 => p.w1 | 2 => p.w2 | 3 => p.w3 | 4 => p.w4 | 5 => p.w5 | 6 => p.w6 | _ => p.w7).toNat

/-- The B-die's own registers. -/
def State.bDieRead (s : State) (o : Nat) : Nat :=
  if 0x2000 ≤ o ∧ o < 0x2200 then
    let w := (s.di ((o - 0x2000) / 16)).words
    if o % 16 = 0 then w.1 else if o % 16 = 8 then w.2 else 0
  else if o = 0x3008 then
    (if s.resetBusy then 1 else 0) + (if s.tail.resetRefused then 2 else 0) + (if s.tail.resetErr then 4 else 0)
  else if 0x3800 ≤ o ∧ o < 0x3820 then s.tail.nonce.toNat / 2 ^ (8 * (o - 0x3800)) % 2 ^ 64
  else if o = 0x3828 then (if s.tail.reportDone then 1 else 0)
  else if 0x4000 ≤ o ∧ o < 0x8000 then leWord s.tail.report (o - 0x4000)
  else if 0x8000 ≤ o ∧ o < 0x8400 then (s.pa ((o - 0x8000) / 64)).word (o % 64 / 8)
  else 0

/-- The register window of die d in the PF's BAR 2 (R399); other functions have none. -/
def State.bar2Read (s : State) (fn offset : Nat) : Nat :=
  let d := offset / 2 ^ 20
  let o := offset % 2 ^ 20
  let x := s.di d
  let counts := x.kind == 1 || x.kind == 2
  if !s.up ∨ fn ≠ 0 ∨ o % 8 ≠ 0 ∨ x.state = 0 then 0
  else if o = 0 then x.kind + 4 * x.state + 256 * (x.incarn % 256)
  else if o = 0x400 ∧ counts then x.cntctl.toNat
  else if o = 0x408 ∧ counts then x.lreq.toNat
  else if o = 0x410 ∧ counts then x.xreq.toNat
  else if o = 0x418 ∧ counts then x.staleDrop.toNat
  else if o = 0x800 then x.errLast.toNat
  else if o = 0x808 then x.errSoft.toNat
  else if o = 0x810 then x.errHard.toNat
  else if o = 0xC00 then x.droop.toNat
  else if 0x1000 ≤ o ∧ o < 0x1100 ∧ x.kind = 3 then (s.fmtWord d ((o - 0x1000) / 32) (o % 32 / 8)).toNat
  else if d = 0 then s.bDieRead o
  else 0

end Sys2Proof.Machine
end

