-- ==== Sys2Proof/Tests/Slice0.lean ====
section
/-! SUPPORT. Tests: words written out from the spec's encodings, ill-formed terms, single steps with the results of the spec's
worked examples, and states that meet the hypotheses of the statements. -/
namespace Sys2Proof.Machine

set_option Elab.async false

/-! ## Small states -/

/-- One split of one group of one team on the first S-core, at offset 0 of an overlay. -/
def base : State := { State.reset.placeWord 0 with cur := 16384 }

/-- The same on the first G-core. -/
def baseG : State := { State.reset.placeWord 0x91800000 with cur := 8192 }

/-- Scalars set. -/
def State.withS (s : State) (xs : List (Nat × Word64)) : State := xs.foldl (fun t p => t.sset t.cur p.1 p.2) s

/-- A register set in every lane. -/
def State.withV (s : State) (n : Nat) (x : Word32) : State := s.vsets s.cur n (List.range 32) fun _ => x

/-- The issuing split under GMODE with this type, flush and SAT clear, guard p0. -/
def State.ofType (s : State) (t : Nat) : State := s.modSp s.cur fun p => { p with gmode := BitVec.ofNat 12 (32 * t) }

/-- The issuing split in a mode. -/
def State.inMode (s : State) (m : Mode) : State := s.modSp s.cur fun p => { p with mode := m }

/-- A guard of lanes: predicate p1 with these bits. -/
def State.guarded (s : State) (g : BitVec 32) : State := (s.pset s.cur 1 g).modSp s.cur fun p => { p with gmode := p.gmode ||| 0x200 }

/-- The issuing split's team owns ABUF, WBUF and tiles. -/
def State.owning (s : State) : State := s.modTm 1 fun t => { t with abufSize := 4096, wbufSize := 4096, accCount := 4 }

/-- The state after an outcome. -/
def outOf (s : State) (o : Host.Outcome State Fault Refusal) : State := match o with | .next t => t | _ => s

/-! ## States that meet the hypotheses of the statements -/

theorem witness_scalar : base.acts ∧ base.free { ss := [1, 31], ds := [31] } ∧ base.free { ss := [0], ds := [0] }
    ∧ base.free { sq := [1, 7], dq := [7] } ∧ base.free { ss := [3], dq := [7] } ∧ base.free { sq := [7], ds := [31] } := by
  unfold State.acts State.free; decide +kernel

theorem witness_scalar_clz : (0 : Word64).toNat < 2 ^ (64 - 64) ∧ (1 : Word64).toNat < 2 ^ (64 - 63) ∧ 2 ^ (63 - 63) ≤ (1 : Word64).toNat
    ∧ bit (0x80000000 : BitVec 32) 31 = true ∧ ∀ m < 31, bit (0x80000000 : BitVec 32) m = false := by decide +kernel

theorem witness_vector : (base.ofType 15).acts ∧ (base.ofType 15).accepts typesI64 [62, 0, 2]
    ∧ (base.ofType 15).free { sv := [0, 2].flatMap (regs (base.ofType 15).wide), dv := regs (base.ofType 15).wide 62 }
    ∧ (base.ofType 13).accepts typesI [63, 1, 3] ∧ (base.ofType 14).accepts typesA [63, 1, 3] := by
  unfold State.acts State.free State.accepts; decide +kernel

theorem witness_permute : base.acts ∧ (base.ofType 1).accepts [0, 1, 2] [63, 0, 1] ∧ (base.ofType 14).accepts (List.range 15) [63, 0, 1]
    ∧ (base.ofType 14).ty ≠ 15 ∧ base.free { sv := [0, 63], dv := [1], cross := true } ∧ base.free { ss := [31], dv := regs base.wide 63 }
    ∧ base.free { sv := regs base.wide 63, ds := [31], cross := true } ∧ (base.ofType 7).ty < 8
    ∧ (base.guarded 0).guard base.cur = 0 ∧ base.guard base.cur ≠ 0 := by
  unfold State.acts State.free State.accepts; decide +kernel

theorem witness_compare : (base.ofType 15).accepts [0, 1, 2, 3, 15] [0, 62] ∧ (base.ofType 3).free { sv := [0] ++ [63], dq := [7] }
    ∧ fmtOf 14 = some .f4 ∧ fmtOf 15 = none ∧ (15 : Nat) < 2 ^ elW 14 := by
  unfold State.free State.accepts; decide +kernel

theorem witness_float : (base.ofType 7).acts ∧ typesF.contains (base.ofType 7).ty = true ∧ (base.ofType 7).free { sv := [0, 1], dv := [63] }
    ∧ [6, 7, 10, 11, 14].contains (base.ofType 14).ty = true ∧ [4, 5, 8, 9, 12, 13].contains (base.ofType 13).ty = true
    ∧ (base.ofType 3).free { sv := [60], dv := [56, 57, 58, 59, 60, 61, 62, 63] } := by
  unfold State.acts State.free; decide +kernel

/-- A split in iteration i of four of a REP. -/
def inRep (i : Nat) : State := base.modSp base.cur fun p => { p with rep := some { i := i, last := 3, sd := 1, sa := 0, sb := 0 } }

theorem witness_moving : base.me.rep = none ∧ (∃ r, (inRep 2).me.rep = some r ∧ r.i < r.last) ∧ ∃ r, (inRep 3).me.rep = some r ∧ r.last ≤ r.i :=
  ⟨by decide +kernel, ⟨_, rfl, by decide⟩, ⟨_, rfl, by decide⟩⟩

/-- base, with these words in its overlay. -/
def holds (ws : List Nat) : State :=
  { base with chuck := (ws.zipIdx.map fun p => (128 * 64 * 1024 + p.2, BitVec.ofNat 32 p.1)).filter fun p => p.2 ≠ 0 }

theorem witness_rep : (holds [0x08192000, 0x30C40400]).fetch base.cg (pcAdd base.me.pc 1) = some 0x30C40400
    ∧ (holds [0x08192000, 0x0C800005]).fetch base.cg (pcAdd base.me.pc 1) = some 0x0C800005 := by decide +kernel

theorem witness_wait : base.acts ∧ base.grp.ldc ≤ 0 ∧ base.grp.tbc ≤ 62 ∧ ¬ ((base.modGr base.cg fun g => { g with ldc := 62 }).grp.ldc ≤ 61) := by
  unfold State.acts; decide +kernel

theorem witness_special : base.acts ∧ base.free { ds := [31], dv := [63] } ∧ bit ((base.guarded 0x80000000).guard base.cur) 31 = true
    ∧ (∀ m < 31, bit ((base.guarded 0x80000000).guard base.cur) m = false) ∧ (base.withS [(1, 0xFFF), (2, 0x1000), (3, 0x10)]).free { ss := [1, 2, 3] }
    ∧ (0x10 : Word64).toNat / 4 % 8 ≤ 4 ∧ ¬ ((0x1000 : Word64).toNat < 2 ^ 12) := by
  unfold State.acts State.free; decide +kernel

/-- base with predicate p1. -/
def onP (x : BitVec 32) : State := base.pset base.cur 1 x

theorem witness_branch : base.acts ∧ base.free { sq := [7] } ∧ (onP 0).pget base.cur 1 &&& base.me.mask = 0
    ∧ (onP 0xFFFFFFFF).pget base.cur 1 &&& base.me.mask = base.me.mask ∧ (onP 1).pget base.cur 1 &&& base.me.mask ≠ 0
    ∧ (onP 1).pget base.cur 1 &&& base.me.mask ≠ base.me.mask ∧ base.codeLen base.cg base.me.pc = 1024
    ∧ base.freeEntries base.cg = [16385, 16386, 16387] ∧ (base.inMode .emu).acts := by
  unfold State.acts State.free; decide +kernel

theorem witness_branch_full : ((base.modGr base.cg fun g => { g with park := List.replicate 8 (Parked.mk 0 0 0 0 0 0 0 0 none) }).setSp 16385
    { valid := true } |>.setSp 16386 { valid := true } |>.setSp 16387 { valid := true }).roomFor base.cg 1 = false := by decide +kernel

theorem witness_calls : base.me.resident = base.grp.depth ∧ (base.modGr base.cg fun g => { g with depth := 8 }).me.resident ≠ 8
    ∧ base.free { ss := [1] } ∧ (base.sget base.cur 1).toNat % 2 ^ 14 < base.codeLen base.cg base.me.pc
    ∧ base.codeLen base.cg base.me.pc ≤ ((base.withS [(1, 1024)]).sget base.cur 1).toNat % 2 ^ 14
    ∧ (base.ovWaits base.cc base.grp.ctx (pcId (lo32 (base.sget base.cur 1)))).2 = false := by
  unfold State.free; decide +kernel

/-! ### Traps and handlers -/

/-- A split in a trap handler that saved `v`. -/
def inTrap (cause : Nat) : State := base.modSp base.cur fun p =>
  { p with mode := .trap, bank := 3, traps := [{ cause := BitVec.ofNat 8 cause, pc := 0, mode := .normal, gmode := 0, probe := false, bank := 0,
                                                 rep := none, replay := none, fall := 1 }] }

/-- A split in the emulation handler, its level opened at the first frame. -/
def inEmu : State := base.modSp base.cur fun p =>
  { p with mode := .emu, bank := 1, cwp := 1, resident := 2,
           levels := [{ ow := [0, 0xC0000000, 0, 0xFFFFFFFF, 0xFFFFFFFF, 0, 0, 0x102], mode := .normal, gmode := 0, probe := false, bank := 0,
                        entryCwp := 1, rep := none }] }

/-- A context with tables: a page table at 0x10000 whose one leaf maps the first GiB to itself with R, W and O, a vector table at
0x30000 with a handler at word 5 for each cause below 0x20 and EMUPC, and RECBASE 0x100000. -/
def paged (s : State) : State :=
  { s with
    ctxs := mset {} s.ctxs 0 { s.cx 0 with root := 0x10000, vt := 0x30000, stackSz := 4096 },
    mem := [(0x10000, 1), (0x10002, 2), (0x20000, 0x1F)] ++ ((List.range 32).map fun i => (0x30000 + 8 * i, 5))
      ++ [(0x30100, 6), (0x3010A, 0x10)] }

theorem witness_trap : lo32 ((paged base).physWord (0x30000 + 8 * cPriv)) = 5 ∧ base.me.mode ≠ .trap
    ∧ ((paged base).vaWaits base.cc 0 0x100000 needStore).2 = false ∧ (paged base).memOk ∧ (inTrap cPriv).me.mode = .trap
    ∧ (base.inMode .region).me.mode = .region ∧ lo32 (base.physWord ((base.cx 0).vt.toNat + 8 * cPriv)) = 0
    ∧ ((inTrap cPriv).setSp 16385 { valid := true, mask := 1 }).trapHeld 16385 = true := by
  unfold State.memOk; decide +kernel

theorem witness_tret : (inTrap cPriv).me.valid = true ∧ ((inTrap cPriv).me.traps ≠ []) ∧ (inTrap cPriv).me.resident ≠ 0
    ∧ ∀ v ∈ (inTrap cPriv).me.traps, v.rep = none := by decide +kernel

theorem witness_emulation : base.me.valid = true ∧ base.me.mode ≠ .region ∧ base.me.resident = base.grp.depth
    ∧ ((paged base).modGr base.cg fun g => { g with depth := 2 }).me.resident ≠ 2 ∧ lo32 ((paged base).physWord 0x30100) ≠ 0
    ∧ (base.modGr base.cg fun g => { g with probe := true }).grp.probe = true ∧ base.grp.probef.getLsbD 0 = false
    ∧ (inEmu.setSp 16385 { valid := true }).me.levels ≠ [] ∧ inEmu.me.mode = .emu
    ∧ inEmu.free { ss := [1], ds := [2], dv := [3] } ∧ mget 0 inEmu.pendV (rowKey inEmu.cg 0) = 0 ∧ inEmu.me.cwp = 1 ∧ 2 ≤ inEmu.me.resident
    ∧ emretCauses.contains cTrapi = true := by
  unfold State.free; decide +kernel

theorem witness_window : (inTrap cWspill).me.inWindowTrap = true ∧ 1 ≤ (inTrap cWspill).me.resident ∧ (inTrap cPriv).me.inWindowTrap = false
    ∧ 164 * (0 + 1) ≤ (paged (inTrap cWspill)).ctx.stackSz ∧ (∀ i < 40, mget 0 base.pendV (rowKey base.cg (frameRow base.grp.depth 0 i)) = 0)
    ∧ (({ inTrap cWspill with cores := [] } : State).modSp base.cur fun p => { p with mask := 0 }).me.mask = 0 := by decide +kernel

/-- A window trap in a split of one lane whose stack lies in a page that the L0 holds. -/
def windowTrap (cause cwp resident : Nat) : State :=
  let s := (paged (inTrap cause)).modGr base.cg fun g => { g with depth := 2 }
  { s.modSp base.cur fun p => { p with mask := 1, cwp := cwp, resident := resident } with
    l0 := [(128, [{ ctx := 0, page := 0, leaf := 0x1F, level := 2 }])] }

/-- The frame's words translate and may be accessed now. -/
def frameMoves (s : State) (f : Nat) (spill : Bool) : Option Nat :=
  match s.frameLook f spill with
  | .ok (t, moves) => if moves.all fun m => t.nowMay t.cur spill m.2.2 4 then some moves.length else none
  | .error _ => none

theorem witness_spill : frameMoves (windowTrap cWspill 1 2) 0 true = some 41
    ∧ (outOf base (exec (.wspill true) (windowTrap cWspill 1 2))).me.resident = 1 := by decide +kernel
theorem witness_fill : frameMoves (windowTrap cWfill 1 1) 0 false = some 41
    ∧ (outOf base (exec (.wfill true) (windowTrap cWfill 1 1))).me.resident = 2 := by decide +kernel

theorem witness_exit : base.me.cwp = 0 ∧ base.grp.park = [] ∧ base.acts := by
  unfold State.acts; decide +kernel

/-- A split in the window handler's overlay. -/
def inSystem : State := { base.modSp base.cur fun p => { p with pc := 0xFF000000 } with overlays := base.overlays ++ [sysOverlay 128] }

/-- Such a split at its second frame, with links back to offset 3. -/
def called : State :=
  ((List.range 32).foldl (fun s l => s.setLink s.cg l 1 0xFF000003) inSystem).modSp base.cur fun p => { p with cwp := 1, resident := 2 }

theorem witness_ret : 1 ≤ called.me.cwp ∧ 2 ≤ called.me.resident ∧ called.returns = [(0xFF000003, called.me.mask)] ∧ called.me.levels = []
    ∧ (called.ovAnyWaits called.cc 0 [0xFF00]).2 = false ∧ (called.checkAll [0xFF000003]).2 = none
    ∧ (called.residencies [0xFF00] 0).2.isNone = true := by decide +kernel

/-! ### Accesses -/

/-- base with 64 bytes of ABUF at scalar s1, and with an address no aperture holds at s2. -/
def loads : State := (base.owning.withS [(1, 0xFFFF810000000000), (2, 0xFFFFA00000000000), (3, 0xFFFF810000000FFC)])

theorem witness_load : loads.acts ∧ (let c := (loads.checkLanes loads.cur 32 needLoad false true
      ((loads.glanes loads.cur).map fun l => (l, loads.laneAddr loads.cur 1 0 l))).2
    c.wait = false ∧ c.dead = false ∧ c.fail = [] ∧ c.away = [] ∧ c.pass ≠ []) ∧ loads.grp.ldc < 62 ∧ loads.grp.stc < 62
    ∧ loads.free { ss := [1], sv := [0], dv := (List.range 8).map fun i => 56 + i, dq := [7] } := by
  unfold State.acts State.free; decide +kernel

theorem witness_load_none : (let s := loads.guarded 0
    (s.checkLanes s.cur 4 needLoad false true ((s.glanes s.cur).map fun l => (l, s.laneAddr s.cur 1 0 l))).2.pass = []) := by decide +kernel

theorem witness_load_fails : (let c := (loads.checkLanes loads.cur 4 needLoad false true
      ((loads.glanes loads.cur).map fun l => (l, loads.laneAddr loads.cur 2 0 l))).2
    c.wait = false ∧ c.dead = false ∧ c.fail ++ c.away ≠ [] ∧ c.pass = []) ∧ loads.trapHeld loads.cur = false := by decide +kernel

/-- Lane 1 alone reaches past the end of the allocation. -/
def mixed : State := (loads.vset loads.cur 0 1 4).guarded 3

theorem witness_load_mixed : (let c := (mixed.checkLanes mixed.cur 4 needLoad false true
      ((mixed.glanes mixed.cur).map fun l => (l, mixed.laneAddr mixed.cur 3 0 l))).2
    c.wait = false ∧ c.dead = false ∧ c.fail ++ c.away ≠ [] ∧ c.pass ≠ []) ∧ (3 : Nat) % 4 ≠ 0
    ∧ (∀ f ∈ [Fail.mk 1 0 cAlign 0, Fail.mk 0 4 cPerm 5], [0x02, 0x03, 0x04, 0x05, 0x0F].contains f.cause = true) := by decide +kernel

theorem witness_scalar_access : (let c := (loads.checkScal loads.cur 0xFFFF810000000000 8 needLoad).2
    c.wait = false ∧ c.dead = false ∧ c.fail ++ c.away = []) ∧ (let c := (loads.checkScal loads.cur 0xFFFF810000000FF8 8 needStore).2
    c.wait = false ∧ c.fail ++ c.away = []) ∧ (loads.checkScal loads.cur 0xFFFFA00000000000 4 needStore).2.fail ≠ []
    ∧ loads.free { ss := [1, 0, 31], ds := [31] } := by
  unfold State.free; decide +kernel

theorem witness_atomic : (let s := loads.ofType 15
    s.acts ∧ (let c := (s.checkLanes s.cur 8 needAtomic true true ((s.glanes s.cur).map fun l => (l, s.laneAddr s.cur 1 0 l))).2
      c.wait = false ∧ c.dead = false ∧ c.fail ++ c.away = []) ∧ s.free { ss := [1], sv := [0, 60, 61, 62, 63], dv := [60, 61] })
    ∧ ([0, 1, 2, 15].contains (base.ofType 3).ty = false) := by
  unfold State.acts State.free; decide +kernel

/-- An access to one word of ABUF that is about to start. -/
def store1 : MemOp :=
  { id := 0, splits := [16384], gid := 4096, ctx := 0, core := 128, kind := .store,
    units := [{ lane := 0, place := .abuf 128 0, size := 4, off := 0, value := 7 }] }

theorem witness_flight : (∃ u ∈ store1.units, u.done = false) ∧ (∃ u ∈ ({ store1 with kind := .load, rows := [3] } : MemOp).units, u.done = false)
    ∧ store1.isLoad = false ∧ (let s := loads.startOp store1; (s.ops.head?.map fun o => (o.isStore, o.units[0]?.map fun u => s.mayPerform o 0 u))
        = some (true, some true)) ∧ loads.underTest 128 0 0 4 = false := by decide +kernel

theorem witness_flight_done : (match ((loads.startOp store1).ops.head?, (loads.startOp store1).doUnit
      { store1 with id := loads.nextId } 0 { lane := 0, place := .abuf 128 0, size := 4, off := 0, value := 7 }) with
    | (some _, .ok (t, _, bad)) => (mget 0 t.abuf (128 * 2 ^ 22), bad) | _ => (0, true)) = (7, false) := by decide +kernel

/-- A write unit of a copy's claimed granule waits. -/
theorem witness_flight_waits : (let s := (loads.startOp store1).startOp { store1 with kind := .load }
    s.ops[1]?.map fun o => o.units[0]?.map fun u => s.mayPerform o 0 u) = some (some false) := by decide +kernel

/-! ### Memory control, waits, barriers -/

/-- base in a context that may carve, with target 16 at s1 and 3 at s2. -/
def carver : State := ((base.modCx 0 fun c => { c with carve := true }).withS [(1, 16), (2, 3), (4, 0xFF00000000000000), (5, 0x100)])

theorem witness_memory_control : base.acts ∧ base.free { ss := [1], sv := [2] } ∧ base.free { ss := [1], ds := [2] }
    ∧ 2 ^ 56 ≤ (carver.sget carver.cur 4).toNat ∧ carver.ctx.carve = true ∧ base.ctx.carve = false ∧ (carver.co carver.cc).pending = false
    ∧ [0, 4, 8, 12, 16].contains (carver.sget carver.cur 2).toNat = false ∧ [4, 8, 12, 16].contains (carver.sget carver.cur 1).toNat = true
    ∧ carver.abufHeldAbove 128 (carver.abufSize 128 - 49152 * 16) = false
    ∧ (carver.modTm 1 fun t => { t with abufSize := 0x240000 }).abufHeldAbove 128 (carver.abufSize 128 - 49152 * 16) = true
    ∧ ((carver.modCo 128 fun c => { c with pending := true, target := 4 }).co 128).pending = true := by
  unfold State.acts State.free; decide +kernel

theorem witness_pageq : (let s := (paged base).withS [(1, 0x100)]
    s.free { ss := [1], ds := [2] } ∧ (s.vaWaits s.cc s.grp.ctx 0x100 (pageNeed 0)).2 = false
      ∧ (match s.translate s.cc s.grp.ctx 0x100 (pageNeed 1) with | (_, .ok _ _) => true | _ => false) = true) := by
  unfold State.free; decide +kernel

/-- A dirty sector of the die's L2. -/
def dirty : State := base.setL2 2 4 { state := 3, tracked := false, home := 6 }

theorem witness_cctl : base.acts ∧ base.free { ss := [0, 0] }
    ∧ (((dirty.l2Secs 2).filter (inLines (dirty.linesOf 0 0))).filter fun sec => (dirty.l2At 2 sec).state == 3) = [4]
    ∧ (((base.l2Secs 2).filter (inLines (base.linesOf 0 0))).filter fun sec => (base.l2At 2 sec).state == 3) = [] := by
  unfold State.acts State.free; decide +kernel

/-- A split that watches word 0 of its ABUF. -/
def watching : State := loads.modSp loads.cur fun p => { p with wait := .waitv [(0, 0xFFFF810000000000)] 1 }

theorem witness_waitv : (let c := (loads.checkLanes loads.cur 4 needLoad false true
      ((loads.glanes loads.cur).map fun l => (l, (loads.sget loads.cur 1 + sext64 (loads.vget loads.cur 0 l)).toNat))).2
    c.wait = false ∧ c.dead = false ∧ c.fail ++ c.away = [] ∧ c.pass ≠ [])
    ∧ (loads.waitvLook loads.cur [(0, 0xFFFF810000000000)] 1).2 = true ∧ (loads.waitvLook loads.cur [(0, 0xFFFF810000000000)] 0).2 = false
    ∧ (watching.sp 16384).wait = .waitv [(0, 0xFFFF810000000000)] 1 ∧ (watching.sp 16384).valid = true
    ∧ (holds [0x77200000]).fetch (gidOf 16384) 0 = some 0x77200000 ∧ (base.cx 0).state ≠ .saving
    ∧ loads.free { ss := [1, 2], sv := [0] } := by
  unfold State.free; decide +kernel

/-- A split that waits at a SYNC of its lanes. -/
def syncing (m : BitVec 32) : State := base.modSp base.cur fun p => { p with wait := .sync m }

theorem witness_barrier : base.acts ∧ inEmu.acts ∧ base.free { ss := [1] }
    ∧ base.me.mask &&& ~~~ (lo32 ((base.withS [(1, 0xFFFFFFFF)]).sget base.cur 1) &&& ~~~ base.grp.exited) = 0
    ∧ base.me.mask &&& ~~~ (lo32 (base.sget base.cur 1) &&& ~~~ base.grp.exited) ≠ 0 ∧ (base.tm base.grp.team).groups.length < 2
    ∧ (base.barrier base.grp.team 15).arrived = [] ∧ (base.barrier base.grp.team 15).gone base.cg &&& base.me.mask = 0
    ∧ ((List.range 4).filter fun n => (base.sp (4 * base.cg + n)).valid && n != base.cur % 4) = []
    ∧ (let s := base.setSp 16385 { valid := true, wait := .bar 1 2 }
       ((List.range 4).filter fun n => (s.sp (4 * s.cg + n)).valid && n != s.cur % 4) = [1])
    ∧ (let s := syncing 0xFFFFFFFF
       (s.sp 16384).valid = true ∧ (s.sp 16384).wait = .sync 0xFFFFFFFF ∧ s.syncReady 16384 = some [16384])
    ∧ (let s := (syncing 0xFFFFFFFF).modSp 16384 fun p => { p with mask := 1 }
       s.syncReady 16384 = none) := by
  unfold State.acts State.free; decide +kernel

/-! ### Accumulators and regions -/

theorem witness_acc : loads.acts ∧ loads.guard loads.cur ≠ 0 ∧ (loads.guarded 0).guard loads.cur = 0
    ∧ (loads.team.accFirst ≤ 0 ∧ 0 + 4 ≤ loads.team.accFirst + loads.team.accCount) ∧ ¬ (4 + 1 ≤ loads.team.accFirst + loads.team.accCount)
    ∧ loads.tileBusy loads.grp.team [0, 1, 2, 3] = false ∧ loads.free { ss := [4], sv := [56, 63], dv := [0, 7] }
    ∧ [1, 3, 6, 7, 8, 10, 11, 14].contains (loads.ofType 0).ty = false ∧ [1, 3, 6, 7, 8, 10, 11, 14].contains (loads.ofType 14).ty = true
    ∧ (loads.ofType 3).cvtCheck 0xFFFF810000000000 128 0 = none ∧ ((loads.ofType 3).cvtCheck 0xFFFF810000000000 128 4).isSome = true
    ∧ (List.range 16).all (fun i => !loads.abufHeld (128 * i) 64) = true := by
  unfold State.acts State.free; decide +kernel

/-- base in a region of this depth, the abort target at offset 4 and the code in s9. -/
def inRegion' (depth issued : Nat) : State := (base.inMode .region).setRegion base.cur
  (some { target := 4, s := 9, gmode := 0, cwp := 0, resident := 1, depth := depth, ser := false, issued := issued })

theorem witness_region : base.me.valid = true ∧ base.region base.cur = none ∧ base.free { ds := [9] } ∧ base.grp.ldc = 0
    ∧ base.openRegions base.cc < 16 ∧ base.me.mode ≠ .region
    ∧ ((inRegion' 4 0).region base.cur).map (fun r => r.depth) = some 4 ∧ ((inRegion' 3 4095).region base.cur).map (fun r => r.issued) = some 4095
    ∧ ((inRegion' 1 4096).region base.cur).map (fun r => (r.depth, r.issued, r.sectors)) = some (1, 4096, [])
    ∧ (inRegion' 1 0).me.mode = .region := by
  unfold State.free; decide +kernel

/-- The region's commit is awaited, with one constraint on an input of ABUF that fails or holds. -/
def committing (bound : BitVec 64) (ser : Bool) : State := ((inRegion' 1 0).setRegion base.cur
  (some { target := 4, s := 9, gmode := 0, cwp := 0, resident := 1, depth := 1, ser := ser,
          inputs := [{ slot := 32, k := 0, pieces := [(.abuf 128 0, 4, 0)], size := 4 }],
          cons := [{ slot := 32, k := 0, rel := 0, signed := false, w := 32, c := 0, bound := bound, outcome := true }] })).modSp base.cur
  fun p => { p with wait := .commit }

theorem witness_commit : ((committing 0 false).sp base.cur).wait = .commit ∧ (committing 0 false).splitInFlight base.cur = false
    ∧ ((committing 0 false).region base.cur).map (fun r => ((committing 0 false).mayCommit base.cur r,
        firstFailing r (r.inputs.map fun x => (x.slot, x.k, (committing 0 false).reread x)))) = some (true, none)
    ∧ ((committing 1 false).region base.cur).map (fun r => ((committing 1 false).mayCommit base.cur r,
        firstFailing r (r.inputs.map fun x => (x.slot, x.k, (committing 1 false).reread x)))) = some (true, some (32, 0)) := by
  decide +kernel

/-- The sector 1 of the set is not held yet. -/
theorem witness_commit_waits : (let s := committing 0 true
    (s.region base.cur).map (fun r => s.mayCommit base.cur { r with sectors := [(1, 6)] }) = some false) := by decide +kernel

/-! ### The matrix unit, copies, overlays -/

/-- loads with a map of 64 rows of 16 bytes in om1, named by v0, tile 0 by v1 and chunk 0 at WBUF 0 by v2. -/
def matrix : State := ((({ loads with omap := mset 0 loads.omap (loads.cg * 8 + 1) (BitVec.ofNat 256 (1 + 2 ^ 64 * 16 + 2 ^ 128 * 64)) } : State).ofType
  8).withV 0 1)

theorem witness_matrix : matrix.acts ∧ mapOk (BitVec.ofNat 256 (1 + 2 ^ 64 * 16 + 2 ^ 128 * 64)) = true ∧ mapOk 3 = false
    ∧ (matrix.quarters 1 0 2).length = 4 ∧ (∀ q ∈ matrix.quarters 1 0 2, matrix.quarterCheck false q = none)
    ∧ (∀ q ∈ (matrix.withV 1 4).quarters 1 0 2, (matrix.withV 1 4).quarterCheck false q = some cAccrange)
    ∧ (∀ q ∈ matrix.quarters 1 0 2, matrix.quarterCheck true q = none) ∧ matrix.queued matrix.cc + 4 ≤ 256
    ∧ (List.range' 6 9).contains matrix.ty = true ∧ (List.range' 6 6).contains (matrix.ofType 0).ty = false
    ∧ matrix.free { sv := [1, 0, 2], cross := true } ∧ matrix.free { ss := [28, 29, 30, 31], ds := [31] } ∧ matrix.grp.tbc < 62
    ∧ matrix.grp.ctx ∉ (matrix.co matrix.cc).marks ∧ (matrix.co matrix.cc).errlog.find? (fun y => y.ctx == matrix.grp.ctx) = none := by
  unfold State.acts State.free; decide +kernel

theorem witness_errlog : (let s := matrix.modCo matrix.cc fun c => { c with errlog := [{ ctx := 0, word := 5 }] }
    (s.co s.cc).errlog.find? (fun y => y.ctx == s.grp.ctx) = some { ctx := 0, word := 5 }) := by decide +kernel

/-- The state after the MMA above. -/
def queuedMma : State := outOf matrix (exec (.mma false 1 0 2) matrix)

theorem witness_pass : queuedMma.passes.map (fun p => (p.ops.length, (queuedMma.runOps p (queuedMma.tilesBefore p.core p.id) p.ops).2.length))
    = [(4, 4)] := by decide +kernel

theorem witness_pass_held : (let p : MPass := { id := 9, core := 128, sparse := false, boff := 0, nch := 0, ty := 8, ops := [] }
    (queuedMma.runOps p [] []).2 = []) := by decide +kernel

/-- A copy of 256 bytes of ABUF. -/
def copier (len : Word64) : State := (loads.withS [(8, 0xFFFF810000000000), (9, 0xFFFF810000000400), (10, len)]).modTm 1 fun t => { t with producer := 0 }

theorem witness_copy : (copier 256).acts ∧ (copier 256).free { ss := [8, 9, 10, 11], ds := [12] }
    ∧ descOk 0 1 [0xFFFF810000000000, 0xFFFF810000000400, 256, 0] = true ∧ descOk 0 1 [0, 0, 0x100000000, 0] = false
    ∧ (copier 256).copyCheck 0 [0xFFFF810000000000, 0xFFFF810000000400, 256, 0] = none
    ∧ (copier 256).copyCheck 0 [0xFFFF810000000000, 0xFFFF810000000401, 256, 0] = some cAlign
    ∧ (copier 256).copyCheck 0 [0xFFFF810000000000, 0xFFFF810000000004, 256, 0] = some cApert
    ∧ (copier 256).copyCheck 0 [0xFFFF810000000000, 0xFFFF810000000400, 2, 0] = some cAlign
    ∧ dstLen 0 [0xFFFF810000000000, 0xFFFF810000000400, 256, 0] ≠ 0 ∧ dstLen 0 [0, 0, 0, 0] = 0 ∧ (copier 256).grp.cpc < 62
    ∧ (copier 256).copies.length < 256 ∧ (copier 256).grp.index = (copier 256).team.producer
    ∧ (base.modTm 1 fun t => { t with producer := 1 }).team.producer ≠ base.grp.index := by
  unfold State.acts State.free; decide +kernel

theorem witness_copy_forms : descOk 1 1 [0, 0, 0x400010001, 4, 0, 0] = true ∧ descOk 2 1 [0, 0, 4, 0x15] = true ∧ descOk 3 1 [0, 0, 0, 0x400000001, 5] = true
    ∧ descOk 4 1 [0, 0, 4, 2, 1] = true ∧ (copier 0).copyTargets 1 = [1] := by decide +kernel

/-- The state after the CPY above. -/
def copying : State := outOf (copier 256) (exec (.cpy false 12 8) (copier 256))

theorem witness_copy_runs : copying.copies.map (fun c => (c.parked, c.failed, c.committed, dstLen c.form c.desc)) = [(false, 0, 0, 256)]
    ∧ copying.copies.all (fun c => match copying.copyGranule c with | .done t => t.copies.all fun x => x.committed == 256 | _ => false) = true
    ∧ copying.sget copying.cur 12 = 0 ∧ (copying.claimsOut 2) = false := by decide +kernel

theorem witness_copy_over : (outOf copying (exec (.copyGranuleWrite 2) copying)).copies.map (fun c => decide (dstLen c.form c.desc ≤ c.committed))
    = [true] := by decide +kernel

/-- A fill of overlay 7 under way, for which the split waits. -/
def filling : State := { base.modSp base.cur fun p => { p with wait := .fill 50 } with
  fills := [{ id := 50, core := 128, ctx := 0, ovl := 7, len := 1, image := 0, slots := [1], tokens := [(4096 * 4) * 32 + 3], waitsEvict := false }] }

theorem witness_overlay : base.acts ∧ base.free { ss := [1], ds := [2] } ∧ (base.startFill base.cc 0 0 []).2 = .resident
    ∧ (base.startFill base.cc 0 7 []).2 = .failed cOvfault ∧ (filling.startFill base.cc 0 7 [5]).2 = .filling 50
    ∧ base.overlayOf base.cc 0 7 = none ∧ (base.overlayOf base.cc 0 0).map (fun o => o.evp) = some false ∧ base.pinsHeld base.cc 0 0 < 255
    ∧ 255 ≤ (base.modPins base.cc 0 0 fun _ => 255).pinsHeld base.cc 0 0
    ∧ (({ base with overlays := [{ core := 128, ctx := 0, id := 0, slots := [0], evp := true }] } : State).overlayOf 128 0 0).map (fun o => o.evp) = some true
    ∧ (base.ovWaits base.cc 0 0xFF00).2 = false ∧ (∃ o ∈ base.overlays, (o.core == base.cc && o.ctx == base.grp.ctx && o.id == 0) = true) := by
  unfold State.acts State.free; decide +kernel

theorem witness_fill_ends : filling.fills.find? (fun x => x.id == 50) = filling.fills.head? ∧ filling.fills.all (fun f => f.failed == 0) = true
    ∧ (filling.sp base.cur).valid = true ∧ (filling.sp base.cur).wait = .fill 50 := by decide +kernel

/-! ### Graphics, textures, rays -/

/-- A mesh group with an open record, on a G-core. -/
def meshing : State := baseG.modTm 1 fun t => { t with mesh := some {}, draw := some (70, 0) }

/-- A triangle over the pixels (0, 0) to (7, 7) of a target, and a packet of it. -/
def tri : Prim :=
  { verts := [(0, 0, 100, 0x3F800000), (2048, 0, 100, 0x3F800000), (0, 2048, 100, 0x3F800000)], idx := [0, 1, 2],
    cover := 1, primIdx := 0, back := false }
def packet1 : VPacket := { token := 0, draw := 70, rx := 0, ry := 0, prims := [tri], last := true, nattr := 0, attr := 0 }

/-- A draw to one colour target at 0x40000 of 8 by 8 pixels, and a pixel group of it. -/
def drawing (s : State) : State :=
  { s with draws := mset {} s.draws 70 { live := true, pass := { nrt := 1, width := 8, height := 8, targets := [(0, 0, 0x40000)] } } }
def pixels : State :=
  let s := (drawing base).modTm 1 fun t => { t with pix := some 90 }
  { s with
    pix := [{ id := 90, gid := some 4096, sdie := 2, packet := packet1, draw := 70, pixels := [(0, 0, 0, tri)], covered := 1 }] }

theorem witness_graphics : meshing.acts ∧ meshing.openRec = some {} ∧ base.openRec = none ∧ base.myPix = none ∧ pixels.acts
    ∧ pixels.myPix = pixels.pix.head? ∧ meshing.free { sv := [1, 2, 60, 61, 62, 63], dv := [5] } ∧ pixels.free {}
    ∧ meshing.guard meshing.cur ≠ 0 ∧ meshing.ops = [] ∧ pixels.pix.all (fun p => (pixels.pixBefore p).isEmpty) = true
    ∧ (lanesOf (pixels.guard pixels.cur &&& 1 &&& ~~~ 0)) = [0] ∧ 0 < (pixels.dr 70).pass.nrt ∧ pixels.grp.stc < 62
    ∧ pixels.free { sv := [1, 2], dv := [3] } ∧ (let p := pixels.pix.headD { id := 0, gid := none, sdie := 0, packet := packet1, draw := 0, pixels := [], covered := 0 }
       let c := ((pixels.glanes pixels.cur).foldl (fun (x : State × AttrAcc) l => x.1.attrLane p pixels.cur 1 2 x.2 l) (pixels, {})).2
       c.chk.wait = false ∧ c.chk.dead = false ∧ c.chk.fail = [] ∧ c.bad = []) := by
  unfold State.acts State.free; decide +kernel

theorem witness_pixels_before : (let s := ({ pixels with pix := (pixels.pix.map fun p => ({ p with id := 89 } : PixGroup)) ++ pixels.pix } : State)
    s.myPix.map (fun p => (s.pixBefore p).length)) = some 1 := by decide +kernel

theorem witness_meshlet : (0x301 : Nat).testBit 8 = true ∧ (0x301 : Nat).testBit 9 = true ∧ (1 : Nat).testBit 8 = false ∧ (1 : Nat).testBit 9 = false
    ∧ ({} : MeshRec).prims.length < 256 ∧ 256 ≤ ({ prims := List.replicate 256 (0, 0, 0) } : MeshRec).prims.length
    ∧ tri.verts = [(0, 0, 100, 0x3F800000), (2048, 0, 100, 0x3F800000), (0, 2048, 100, 0x3F800000)] ∧ 0 < tri.area
    ∧ tri.covers 0 0 = true ∧ tri.covers 7 7 = false := by decide +kernel

/-- Descriptors of a 1 by 1 image of n8x4 texels at ABUF 256, pitch 4, and of a point sampler, at ABUF 0; v30 names them, and the
texel is 0xFFFFFFFF. -/
def texel (t : Nat) : State :=
  let s := (loads.ofType t).guarded 1
  let put (s : State) (a n v : Nat) : State := s.placeWrite (.abuf 128 a) n v
  (((put (put (put s 0 8 0xFFFF810000000100) 16 4 4) 256 4 0xFFFFFFFF).withV 30 0).withV 31 0xFFFF8100)

theorem witness_texture : (texel 3).acts ∧ (let s := texel 3
    s.ty = 3 ∧ s.free { sv := [0, 1] ++ [30, 31] ++ [], dv := [40, 41, 42, 43], cross := true } ∧ s.grp.ldc < 62) := by
  unfold State.acts State.free; decide +kernel

theorem witness_texture_lanes : ∀ f ∈ [0, 1, 2, 3, 4], (let s := texel (if f < 3 then 3 else 0)
    let c := ((s.glanes s.cur).foldl (fun (x : State × TexAcc) l => x.1.texLane s.cur f 40 0 30 x.2 l) (s, {})).2
    c.chk.wait = false ∧ c.chk.dead = false ∧ c.chk.fail = [] ∧ c.bad = [] ∧ c.chk.pass ≠ []) := by decide +kernel

/-- A query in flight: one lane still to do, or none. -/
def query (todo : Bool) : Ray :=
  { id := 60, gid := 4096, splits := [16384], team := 1, ctx := 0, core := 128, token := 5, base := 0, first := false, rows := [],
    rays := if todo then [(0, [0, 0, 0, 0, 0, 0, 0, 0])] else [] }

theorem witness_ray : base.acts ∧ base.free { ss := [1], ds := [2], sv := (List.range 8).map (fun i => 24 + i), dv := (List.range 4).map fun i => 24 + i }
    ∧ (base.sget base.cur 1).toNat % 64 = 0 ∧ (loads.sget loads.cur 3).toNat % 64 ≠ 0 ∧ base.guard base.cur ≠ 0 ∧ base.rays = []
    ∧ ({ base with rays := [query false] } : State).rays.find? (fun x => x.id == 60) = some (query false) ∧ (query false).todo = [] := by
  unfold State.acts State.free; decide +kernel

/-- A ray along z at the triangle (0, 0, 1), (1, 0, 1), (0, 1, 1). -/
theorem witness_hit : (match rayIn [0x3E800000, 0x3E800000, 0, 0, 0, 0x3F800000, 0, 0x7F800000] with
    | some r => ((hitLeaf r none (0x3F800000 * 2 ^ 64 + 0x3F800000 * 2 ^ 96 + 0x3F800000 * 2 ^ 160 + 0x3F800000 * 2 ^ 224
        + 0x3F800000 * 2 ^ 256) 5).isSome, r.tmin.isSome)
    | none => (false, false)) = (true, true) := by decide +kernel

/-! ### Addresses -/

theorem witness_apertures : (let s := loads
    (s.tm 1).abufOff ≤ 0xFFC ∧ 0xFFC + 4 ≤ (s.tm 1).abufOff + (s.tm 1).abufSize ∧ 0xFFC + 4 ≤ s.abufLeft 128 ∧ s.isG 128 = false
    ∧ 0xFFC + 4 ≤ (s.tm 1).wbufOff + (s.tm 1).wbufSize ∧ needStore.w = true ∧ needLoad.w = false ∧ (s.cx 0).stackSz < 4096 + 4
    ∧ ¬ (4096 ≤ 4095 ∧ 4096 + 4 ≤ (s.tm 1).abufOff + (s.tm 1).abufSize)) := by decide +kernel

theorem witness_stack : (let s := paged base
    0 + 4 ≤ (s.cx 0).stackSz ∧ (match s.translate 128 0 ((s.gr 4096).stackBase.toNat + 4092 / 4 * 128 + 4 * 31 + 0) needStore with
      | (_, .ok (.mem pa _ _) _) => pa == 1023 * 128 + 124 | _ => false) = true) := by decide +kernel

theorem witness_walk : (let s := paged base
    bit (s.walkWord 0x10000).2 0 = true ∧ s.badEntry 3 (s.walkWord 0x10000).2 = false ∧ bit (s.walkWord 0x10000).2 1 = false
    ∧ bit (s.walkWord 0x20000).2 1 = true ∧ s.badEntry 2 (s.walkWord 0x20000).2 = false ∧ bit (s.walkWord 0x20008).2 0 = false ∧ s.badEntry 3 3 = true
    ∧ mget [] s.l0 128 = [] ∧ (s.tlbLook 2 0 0).isNone = true ∧ (∀ l < 4, (s.walkLook 2 0 l 0).isNone = true)
    ∧ s.inService (s.physHome 0x10000) = true ∧ ({ s with dies := [] } : State).inService (({ s with dies := [] } : State).physHome 0x10000) = false
    ∧ s.homeUp (s.homeOf 0 0) = true ∧ (s.dirAt 0).state ≠ 6
    ∧ (s.lookup 128 0 0).2 = .leaf 0x1F 2 ∧ (s.lookup 128 0 (2 ^ 30)).2 = .absent 0 ∧ (s.lookup 128 0 (2 ^ 43)).2 = .absent 0
    ∧ bit (0x1F : Word64) 5 = false) := by decide +kernel

theorem witness_walk_malformed : (let s := { paged base with mem := [(0x10000, 3)], ctxs := (paged base).ctxs }
    (s.lookup 128 0 0).2 = .malformed 3) ∧ (let s := { paged base with mem := [(0x10000, 1), (0x10002, 2), (0x20000, 0x2F)] }
    (s.lookup 128 0 0).2 = .leaf 0x2F 2 ∧ bit (0x2F : Word64) 5 = true) := by decide +kernel

/-! ### Handlers' waits and the schedulers -/

theorem witness_waits : (let s := base.modSp base.cur fun p => { p with wait := .emuLevel }
    (s.sp 16384).valid = true ∧ ∀ j ∈ entries (gidOf 16384), j ≠ 16384 → (s.sp j).valid = true → (s.sp j).levels = [])
    ∧ (let s := inEmu.setSp 16385 { valid := true, wait := .emuLevel }
       ∃ j ∈ entries (gidOf 16385), j ≠ 16385 ∧ (s.sp j).valid = true ∧ (s.sp j).levels ≠ [])
    ∧ (let s := (inTrap cPriv).setSp 16385 { valid := true, wait := .trapBank }
       (s.sp 16385).wait = .trapBank ∧ s.trapHeld 16385 = true)
    ∧ (base.modSp base.cur fun p => { p with wait := .trapBank }).trapHeld 16384 = false
    ∧ base.me.wait = .none ∧ base.me.aged = false ∧ (base.modSp base.cur fun p => { p with aged := true }).pastAge 16384 = true := by decide +kernel

/-! ### Queues, launches, placement -/

/-- 64-bit words in local memory. -/
def State.withWords (s : State) (ws : List (Nat × Nat)) : State := { s with mem := ws.foldl (fun m p => leWrite m p.1 8 p.2) s.mem }

/-- Queue 1 of context 0, its descriptor at 0x50020 and its ring at 0x51000, with this command at its head. -/
def queued (cmd : List Nat) : State :=
  { base with
    ctxs := [(0, { state := .running, root := 0x10000, queuesAt := 0x50000, queues := [(1, { base := 0x51000, size := 4, en := true, wptr := 1 })] })],
    mem := cmd.zipIdx.foldl (fun m p => leWrite m (0x51000 + 8 * p.2) 8 p.1)
      [(0x10000, 1), (0x10002, 2), (0x20000, 0x1F), (0x50021, 0x10), (0x50022, 0x05), (0x50028, 0x24)] }

def placeOf (x : WordXl) : Option Place := match x with | .ok _ p => some p | _ => none
def looks (x : WaitLook) : Nat := match x with | .met _ => 1 | .unmet _ => 2 | .halted _ => 3

theorem witness_doorbell : (let s := queued [0]
    s.tail.phase = 5 ∧ s.ownsCtx 0 0 = true ∧ (s.cx 0).state ≠ .halted ∧ bit (s.physWord 0x50028) 5 = true
    ∧ quOk (s.physWord 0x50020) (s.physWord 0x50028) = true ∧ (1 + 2 ^ 32 - (s.qu 0 1).rptr) % 2 ^ 32 ≤ 2 ^ 4
    ∧ ¬ (17 + 2 ^ 32 - (s.qu 0 1).rptr) % 2 ^ 32 ≤ 2 ^ 4 ∧ quOk 0x51001 0x24 = false ∧ bit (s.physWord 0x50048) 5 = false
    ∧ s.memOk) := by unfold State.memOk; decide +kernel

theorem witness_nop : (queued [0]).atHead 0 1 0 := by unfold State.atHead; decide +kernel
theorem witness_signal_head : (queued [4, 0x60000, 7]).atHead 0 1 4 := by unfold State.atHead; decide +kernel
theorem witness_launch_head : (queued [1, 0x40000]).atHead 0 1 1 := by unfold State.atHead; decide +kernel
theorem witness_draw_head : (queued [2, 0x40000, 0x40040, 1]).atHead 0 1 2 := by unfold State.atHead; decide +kernel
theorem witness_bad_head : (let s := queued [9]; s.serves 0 = true ∧ (s.qu 0 1).hasHead = true ∧ s.cmdOk (s.qu 0 1) = false
    ∧ s.chosenHead (s.cx 0).partition = some (0, 1)) := by decide +kernel

/-- A WAIT whose words have been read and are enough. -/
def waiting (word : Nat) : State :=
  ((queued [0x103, 0x60000, 7]).withWords [(0x60000, word)]).modQu 0 1 fun x => { x with waitOk := true }

theorem witness_wait_command : (waiting 7).atHead 0 1 3 ∧ looks ((waiting 7).lookWait 0 ((waiting 7).qu 0 1) 0 1) = 1 ∧ (waiting 7).waitCount ((waiting 7).qu 0 1) = 1
    ∧ (waiting 6).atHead 0 1 3 ∧ looks ((waiting 6).lookWait 0 ((waiting 6).qu 0 1) 0 1) = 2
    ∧ placeOf ((waiting 6).wordPlace 0 0x60000 { r := true }) = some (.mem 0x60000 0 9) := by
  unfold State.atHead; decide +kernel

theorem witness_signal : placeOf ((queued [4, 0x60000, 7]).wordPlace 0 0x60000 { w := true }) = some (.mem 0x60000 0 9)
    ∧ (match (queued [4, 0x80000000, 7]).wordPlace 0 0x80000000 { w := true } with | .bad _ => true | _ => false) = true
    ∧ ((queued [4, 0x60000, 7]).qu 0 1).cvec = 0 ∧ (((queued [4, 0x60000, 7]).modQu 0 1 fun x => { x with cvec := 3 }).qu 0 1).cvec ≠ 0 := by decide +kernel

/-- A launch with one retired team of one. -/
def ending (sig : Word64) : State :=
  { queued [0] with launches := [(0, { live := true, queue := 1, next := 1, retired := 1, packet := { sigAddr := sig } })], teams := [], groups := [], splits := [] }

/-- A draw whose meshlets, packets and groups are all done. -/
def drawn (sig : Word64) : State := { queued [0] with draws := [(70, { live := true, queue := 1, finished := [0], sigAddr := sig })] }

def signals (x : SignalEnd) : Bool := match x with | .done _ => true | _ => false

theorem witness_ends : (let l := (ending 0x60000).la 0
      l.live = true ∧ l.draw = none ∧ l.retired = l.packet.gridX * l.packet.gridY * l.packet.gridZ) ∧ (base.la 0).retired ≠ 1
    ∧ signals (((ending 0x60000).flush 0 ((ending 0x60000).ownWritten fun x => x.live)).putSignal 0 0x60000 0) = true ∧ (drawn 0).drawDone 70 = true ∧ base.drawDone 70 = false
    ∧ signals (((drawn 0x60000).flush 0 ((drawn 0x60000).ownWritten fun x => x.draw == some 70)).putSignal 0 0x60000 0) = true ∧ (drawn 0x60000).drawDone 70 = true := by decide +kernel

theorem witness_draw_refused : ((queued [2, 0x40000, 0x40040, 1]).diesOf 0 1).isEmpty = false
    ∧ (let q := queued [2, 0x40000, 0x40040, 1]
       let s := { q with dies := q.dies.filter fun d => d.2.kind != 1 }
       (s.diesOf 0 1).isEmpty = true ∧ s.atHead 0 1 2) := by
  unfold State.atHead; decide +kernel

/-- A launch with a team still to place, and a good overlay table at 0x70000. -/
def placing : State :=
  ({ queued [0] with launches := [(0, { live := true })], teams := [], groups := [], splits := [] } : State).withWords [(0x70000, 0x0001_3C00)]
    |>.modCx 0 fun x => { x with ovt := 0x70000 }

theorem witness_placing : (placing.la 0).live = true ∧ placing.serves 0 = true ∧ placing.waitingLaunches 0 = [(0, { live := true })]
    ∧ (placing.ovHeader cmdCore 0).2.quota = 60 ∧ ((placing.modCx 0 fun x => { x with stackPoolSz := 0x20000 }).placeable 0 (placing.la 0) 60 []).isSome = true
    ∧ (placing.placeable 0 (placing.la 0) 60 []).isNone = true
    ∧ ((placing.modCx 0 fun x => { x with stackPoolSz := 0x20000 }).fit 0 {} 60 128).isSome = true := by decide +kernel

/-! ### Coherence -/

/-- A request of die 2 for sector 4 of home 6, and the directory's word for it. -/
def asked (kind cls : Nat) (d : Dir) : State :=
  { base.setDir 4 d with reqs := [{ kind := kind, die := 2, sector := 4, home := 6, cls := cls, inc := 1 }] }

def reqAt (s : State) : Req := s.reqs.headD { kind := 9, die := 0, sector := 0 }

theorem witness_requests : (∀ k < 4, (asked k 2 {}).nextReq k 2 4 = some (reqAt (asked k 2 {}))) ∧ (let s := asked 0 2 {}; let q := reqAt s
      q.die = 2 ∧ q.sector = 4 ∧ (s.di 2).state = 1 ∧ q.inc = (s.di 2).incarn ∧ s.lost 4 q.home = false ∧ q.cls ≠ 3 ∧ (s.dirAt 4).busy = none
      ∧ q.who = 0 ∧ (s.dirAt 4).state = 0 ∧ (s.l2At 2 4).state = 0 ∧ s.ownerOf 4 = none)
    ∧ ((asked 0 2 { state := 1 }).dirAt 4).state = 1 ∧ (let d := (asked 0 2 { state := 2, owner := 3 }).dirAt 4; d.state = 2 ∧ d.owner ≠ 2)
    ∧ ((asked 1 2 { state := 3 }).dirAt 4).state = 3 ∧ (reqAt (asked 0 3 {})).cls = 3
    ∧ (let s := (base.modDi 2 fun d => { d with incarn := 2 }); (s.di 2).state = 1 ∧ (1 : Nat) ≠ (s.di 2).incarn) := by decide +kernel

theorem witness_sharers : (let s := ((asked 2 2 { state := 1 }).setL2 2 4 { state := 1 }).setSharers 4 4
      (s.dirAt 4).state = 1 ∧ (s.l2At 2 4).state = 1 ∧ ∀ i < 32, i ≠ 2 → bit (s.sharersOf 4) i = false)
    ∧ (List.range 32).filter (fun i => bit ((base.setSharers 4 12).sharersOf 4) i && i != 2) = [3] := by decide +kernel

/-- A tracked dirty sector of die 2, and a home's recall of it. -/
def recalled (inval answered : Bool) (busy : Option Req) : State :=
  { (base.setL2 2 4 { state := 3, tracked := true, home := 6, data := 7, dirty := 1 }).setDir 4 { state := 2, owner := 2, busy := busy } with
    recalls := [{ die := 2, sector := 4, home := 6, inval := inval, answered := answered, data := if answered then some 9 else none, dirty := 1 }] }

def req1 : Req := { kind := 1, die := 3, sector := 4, home := 6, inc := 1 }

theorem witness_recalls : (let s := recalled true false none
      (s.di 2).state = 1 ∧ (s.l2At 2 4).state = 3 ∧ (s.l2At 2 4).tracked = true ∧ (s.dirAt 4).busy = none)
    ∧ (let s := recalled true false (some req1)
      (s.dirAt 4).busy ≠ none ∧ (s.recalls.any fun r => r.die == 2 && r.sector == 4 && !r.answered) = true)
    ∧ (∀ b : Bool, ((recalled b false (some req1)).recalls.find? fun r => r.die == 2 && r.sector == 4 && r.inval == b && !r.answered).isSome = true)
    ∧ ((recalled true true (some req1)).recalls.find? fun r => r.die == 2 && r.sector == 4 && r.answered).isSome = true
    ∧ (let s := recalled true true (some req1)
       let v := { s with recalls := [] }.homeMerge 6 4 1 9
       v.recalls = [] ∧ (v.dirAt 4).busy = some req1)
    ∧ (let s := recalled true true none; ∃ x ∈ s.recalls ++ s.recalls, x.sector = 4)
    ∧ base.fmtOn 6 = [] ∧ (1 : BitVec 64) ≠ 0 := by decide +kernel

theorem witness_write_backs : (let s := { recalled true false none with reqs := [{ kind := 5, die := 2, sector := 4, home := 6, inc := 1 }] }
      s.nextReq 5 2 4 = some (reqAt s) ∧ (reqAt s).inc = (s.di 2).incarn ∧ (s.l2At 2 4).state = 3)
    ∧ ((dirty.l2At 2 4).state = 3 ∧ (dirty.l2At 2 4).tracked = false)
    ∧ (let s := asked 7 0 {}; s.nextReq 7 2 4 = some (reqAt s) ∧ (reqAt s).inc = (s.di 2).incarn ∧ s.lost 4 6 = false) := by decide +kernel

/-! ### Frontiers and pixels -/

/-- A closed meshlet of one triangle. -/
def closed : State :=
  (drawing baseG).modTm 1 fun t =>
    { t with draw := some (70, 0), mesh := some { closed := true, prims := [(0, 1, 2)], vtx := [(1, 1)] } }

theorem witness_meshlet_done : (let tm := closed.tm 1
      tm.mesh.isSome = true ∧ tm.draw = some (70, 0) ∧ (tm.mesh.getD {}).closed = true ∧ (closed.dr 70).finished.contains 0 = false
      ∧ (closed.di (dieOf tm.core)).state = 1 ∧ ((closed.tm 1).mesh.getD {}).closer = none) := by decide +kernel

/-- A beacon of context 0 to meshlet f on the channel from die 1 to die 2, and a packet. -/
def beacon : State := { drawing base with faceplate := [(1, 2, .beacon 0 4)] }
def arriving : State := { drawing base with faceplate := [(1, 2, .packet packet1)] }
/-- A held packet that nothing keeps, and a released one. -/
def holding : State := { drawing base with held := [(2, packet1)] }
def released : State := { drawing base with released := [(2, packet1)] }

theorem witness_messages : beacon.channelHead 1 2 = some (0, .beacon 0 4) ∧ arriving.channelHead 1 2 = some (0, .packet packet1)
    ∧ base.nextRelease 2 = none ∧ holding.nextRelease 2 = some (0, packet1) := by decide +kernel

/-- The same with a depth target. -/
def deep : State := (released.modDr 70 fun d => { d with pass := { d.pass with zmode := 2, depth := 0x80000 } })
def sdeep : State := { deep with ctxs := (paged base).ctxs, mem := (paged base).mem }
def placeOf' (x : UnitXl) : Option Place := match x with | .ok _ p => some p | _ => none

theorem witness_raster : (released.di 2).state = 1 ∧ released.nextRaster 2 = some (0, packet1) ∧ (released.dr 70).pass.zmode = 0
    ∧ (sdeep.dr 70).pass.zmode ≠ 0 ∧ sdeep.nextRaster 2 = some (0, packet1) ∧ packet1.quads 8 8 ≠ []
    ∧ (placeOf' (sdeep.unitPlace 2 0 (pixelAddr 0x80000 8 0 0) { r := true, w := true })).isSome = true := by decide +kernel

/-- A pixel group with one out to apply. -/
def outgoing : State := { pixels with pix := pixels.pix.map fun p => ({ p with outs := [(0, 0, 0, 0xFF00FF00)] } : PixGroup) }

theorem witness_outs : (match outgoing.pix.find? (fun p => p.id == 90) with
    | some g => decide ((outgoing.di g.sdie).state = 1) && g.gid.isSome && !g.parked && decide (g.outs.length = 1) && (outgoing.nextOut g).isSome
    | none => false) = true ∧ (4 : Nat) < 5 := by decide +kernel

/-! ### Contexts, partitions, the host -/

/-- A machine in phase 5 with a context descriptor for context 1. -/
def host : State := base.withWords [(512, 1), (520, 0x10000), (552, 0x1000)]

theorem witness_contexts : host.up = true ∧ (host.cx 1).state = .free ∧ host.descGood 1 = true ∧ host.descGood 2 = false ∧ (host.cx 0).state = .running
    ∧ ((host.modCx 1 fun x => { x with state := .halted }).cx 1).state = .halted ∧ (∀ p ∈ ({ host with ctxs := [] } : State).ctxs, p.2.state = .free)
    ∧ (∃ p ∈ host.ctxs, p.2.state ≠ .free) ∧ (host.cx 0).invBusy = false
    ∧ ((host.modCx 0 fun x => { x with invBusy := true, invUpto := 60 }).cx 0).invBusy = true ∧ host.ops = [] ∧ (host.fn 0).atsInvalid = []
    ∧ (∃ o ∈ [store1], o.id < 60 ∧ o.ctx = 0) := by decide +kernel

/-- A context that is being saved, with no group left, and one that is saved. -/
def saving : State := { base.modCx 0 fun x => { x with state := .saving } with teams := [], groups := [], splits := [] }
def saved : State := saving.modCx 0 fun x => { x with state := .saved }

theorem witness_saving : (base.cx 0).state = .running ∧ (saving.cx 0).state = .saving ∧ base.me.valid = true ∧ base.me.stopped = false
    ∧ ((base.modSp base.cur fun p => { p with wait := .stopped }).sp base.cur).stopped = true ∧ (base.inMode .region).me.mode = .region
    ∧ (∀ g ∈ saving.groupsOf 0, ∀ k ∈ saving.valids g, (saving.sp k).stopped = true) ∧ ((saving.dropTokens 0).saveReady 0 = true)
    ∧ (let s := { saving with fills := [{ id := 60, core := 128, ctx := 0, ovl := 3, len := 1, image := 0, slots := [1], tokens := [5], waitsEvict := false }] }
       (s.dropTokens 0).saveReady 0 = false) := by decide +kernel

theorem witness_resume : (saved.cx 0).state = .saved ∧ bit (saved.pa 0).w0 31 = true ∧ (saved.pa 0).want = none ∧ (saved.ovWaits cmdCore 0 sysId).2 = false
    ∧ saved.draws = [] ∧ bit (saved.pa 1).w0 31 = false ∧ base.kept 0 (fun _ => true) = [] := by decide +kernel

/-- A launch of a context of the same class that has no room waits beside context 0. -/
def crowded : State :=
  { base with ctxs := base.ctxs ++ [(1, { state := .ready })], launches := base.launches ++ [(5, { live := true, ctx := 1 })] }

theorem witness_slice : (crowded.kept 0 fun k => decide (crowded.workClass 0 ≤ k.cls)
      && ((crowded.cx k.ctx).state == .ready || (crowded.cx k.ctx).state == .idle)).length = 1 ∧ (crowded.cx 0).state = .running := by decide +kernel

/-- A good setting of partition 1 beside none. -/
def parted : State := { base with partitions := [(1, { w1 := 64, w3 := 0x1000000, w4 := 100 })], ctxs := [] }

theorem witness_partitions : parted.up = true ∧ (parted.pa 1).want = none ∧ bit (parted.pa 1).w0 31 = false ∧ parted.partGood 1 0x8001000F = true
    ∧ parted.partGood 1 0x80000000 = false ∧ bit (base.pa 0).w0 31 = true ∧ (base.pa 0).want = none
    ∧ (let s := parted.modPa 1 fun p => { p with w0 := 0x8001000F }
       s.partGood 1 0x80010007 = true ∧ (∀ c ∈ s.ctxsIn 1, (s.cx c).state ≠ .running ∧ (s.cx c).state ≠ .saving)) := by decide +kernel

/-- A context with a page request whose answer a copy awaits. -/
def asking : State :=
  base.modCx 0 fun x => { x with requests := [{ tag := 5, page := 0, kind := 1, host := false, waiters := [.copy 60] }], prq := 0x30000,
                                 prqPoll := [(0, 0, 1, .copy 60)] }

theorem witness_page_requests : asking.up = true ∧ ((asking.cx 0).requests.find? fun r => !r.host && r.tag == 5).isSome = true
    ∧ ((asking.cx 0).requests.find? fun r => !r.host && r.tag == 6) = none ∧ (base.cx 0).prqPoll = [] ∧ (asking.cx 0).prqPoll ≠ []
    ∧ ((base.modFn 0 fun f => { f with atsAsked := [3], priOutstanding := [3] }).fn 0).atsAsked.contains 3 = true
    ∧ ((base.modFn 1 fun f => { f with priOutstanding := [3] }).fn 1).priOutstanding.contains 3 = true ∧ ∀ p ∈ base.ctxs, p.2.state = .free ∨ p.2.fn ≠ 1 := by
  decide +kernel

theorem witness_page_queue : (let s := asking.withWords [(0x30000, 0x24), (0x30008, 3)]
      (s.prqHeader 0).1 = true ∧ ((s.physWord 0x30008).toNat % 2 ^ 32 + 2 ^ 32 - (s.physWord 0x30010).toNat % 2 ^ 32) % 2 ^ 32 < 2 ^ (s.prqHeader 0).2)
    ∧ (let s := asking.withWords [(0x30000, 0x24), (0x30008, 16)]
      (s.prqHeader 0).1 = true ∧ 2 ^ (s.prqHeader 0).2 ≤ ((s.physWord 0x30008).toNat % 2 ^ 32 + 2 ^ 32 - (s.physWord 0x30010).toNat % 2 ^ 32) % 2 ^ 32) := by
  decide +kernel

theorem witness_host : base.up = true ∧ bit ((base.modFn 1 fun f => { f with pending := 4 }).fn 1).pending 2 = true ∧ bit (base.fn 1).pending 7 = false
    ∧ bit (base.fn 1).irq 2 = false ∧ bit (base.fn 1).mask 2 = true ∧ bit ((base.modFn 1 fun f => { f with mask := 0 }).fn 1).mask 2 = false
    ∧ (base.di 2).state ≠ 0 ∧ (base.di 2).kind = 2 ∧ (base.di 1).kind = 1 ∧ bit (base.fn 1).window 0 = false
    ∧ bit ((base.modFn 31 fun f => { f with window := 1 }).fn 31).window 0 = true ∧ 2 ^ 28 - 1 + [(0 : Byte)].length ≤ 2 ^ 28
    ∧ 2 ^ 28 < 2 ^ 28 + [(0 : Byte)].length ∧ (base.hostFetch 64 1).2 = [0] := by decide +kernel

/-! ### Resets, power, bring-up, errors -/

theorem witness_resets : base.up = true ∧ base.resetBusy = false ∧ base.resetRefused 0 = true ∧ ({ base with partitions := [] } : State).resetRefused 2 = false
    ∧ (base.modDi 2 fun d => { d with coldPending := true }).resetBusy = true ∧ (base.di 6).kind = 3 ∧ (base.di 6).state ≠ 3
    ∧ (base.cx 0).fn = 0 ∧ ((base.modCx 1 fun x => { x with state := .idle, fn := 31 }).cx 1).fn = 31 ∧ Map.wf {} base.ctxs = true := by decide +kernel

/-- Exploration with every die of the part found. -/
def explored : State := { State.reset with tail := { phase := 2, ports := [0, 1], sides := [(0, 2)], fwB := { firstImage with digest := 9 },
                                                     found := (List.range 9).map fun i => (i, ((State.reset.part.siteKind i).getD (0, 0)).1, 0) } }

theorem witness_bring_up : State.reset.tail.power = true ∧ State.reset.tail.phase = 0 ∧ explored.tail.badDies.contains 0 = false
    ∧ (explored.tail.found.all fun f => ((explored.part.siteKind f.1).map fun k => k.1) == some f.2.1) = true ∧ hasKind explored.dieTable 2 = true
    ∧ hasKind explored.dieTable 3 = true ∧ (explored.part.siteKind 0).map (fun k => k.1) ≠ some 9 ∧ hasKind State.reset.dieTable 2 = false
    ∧ (∃ f ∈ explored.tail.found, f.1 = 8) ∧ 0 ∈ explored.tail.ports ∧ 8 ∉ explored.tail.ports
    ∧ (∀ f ∈ ({ explored.tail with found := [(0, 1, 0)] } : Tail).found, f.1 ≠ 2) ∧ (min 2 (1 - 1), max 2 (1 - 1)) ∈ explored.tail.sides
    ∧ (let x := explored.tail.fwA
       x.magic = 0x56574F464D524444 ∧ x.zeros = true ∧ x.edKey = explored.tail.edKey ∧ x.mlKey = explored.tail.mlKey ∧ x.hash = x.digest
       ∧ explored.tail.rollback ≤ x.svn ∧ x.svn < 1) ∧ explored.tail.fwB.hash ≠ explored.tail.fwB.digest := by decide +kernel

/-- Whatever the links do, bring-up goes on or fails in phase 1. -/
theorem witness_links : State.reset.trainLinks.tail.phase = 15 ∨ State.reset.trainLinks.tail.phase = 1 := by
  unfold State.trainLinks
  dsimp only
  split
  · exact .inl rfl
  · exact .inr rfl

theorem witness_self_test : (let s := ({ base with tail := { base.tail with ports := [5] } } : State).modDi 6 fun d => { d with state := 3, coldPending := true }
      s.tail.power = true ∧ 3 ≤ s.tail.phase ∧ (s.di 6).coldPending = true ∧ (s.di 6).state = 3 ∧ s.linked (s.di 6).site = true)
    ∧ (let s := { base with tail := { base.tail with signing := true } }; s.tail.signing = true) ∧ (2 : Word64) ≠ 1
    ∧ (let s := { base with tail := { base.tail with power := false } }; s.tail.power = false) := by decide +kernel

theorem witness_errors : (base.di 2).state = 1 ∧ (base.di 2).mappedOut.contains (2, 3) = false ∧ ((base.modDi 2 fun d => { d with state := 2 }).di 2).state ≠ 1
    ∧ (∃ q ∈ (recalled true false none).recalls, q.die = 2) ∧ (∀ q ∈ base.recalls, q.die ≠ 2) ∧ (base.di 6).kind = 3 ∧ (base.di 6).state ≠ 0
    ∧ (let p : Port := mget {} base.ports 3; p.lanes ≠ 0 ∧ (p.replays[5]?).getD 0 < 16 ∧ p.next[5]? = some 0 ∧ p.next[5]? ≠ some 7)
    ∧ 16 ≤ (({ replays := [0, 0, 0, 0, 0, 16] } : Port).replays[5]?).getD 0 ∧ Map.wf {} base.ports = true
    ∧ base.unitOut 2 3 4 = false ∧ base.testing 2 3 4 = false ∧ (base.modDi 2 fun d => { d with tests := [(3, 4)] }).testing 2 3 4 = true
    ∧ (100 : Nat) < (101 : BitVec 16).toNat ∧ unitExists 2 3 4 = true := by decide +kernel

/-- A format region of die 6 of one block, whose words are good. -/
def formatted (w : Word64) : State :=
  { base with formats := [w, 1, 0x100000, 0x200000].zipIdx.foldl (fun m p => mset 0 m (6 * 8 * 4 + p.2) p.1) [] }

theorem witness_formats : bit ((formatted 0).fmtWord 6 0 0) 0 = false ∧ (formatted 0).fmtGood 6 ((formatted 0).fmtRegion 6 0) = true
    ∧ (formatted 0xA).fmtGood 6 ((formatted 0xA).fmtRegion 6 0) = false ∧ bit ((formatted 1).fmtWord 6 0 0) 0 = true ∧ (formatted 1).views = [] ∧ (formatted 1).l2 = [] := by
  decide +kernel

/-! ### Encodings, steps, frames -/

theorem witness_words : (Instr.sadd true 31 31 31).wf = true ∧ (encodeNat (Instr.sadd true 31 31 31)).isSome = true ∧ decodeNat 0x08192000 = .ok (.rep 3 1 1 0)
    ∧ (0x28 ≤ 0x2F ∧ 0x2F < 0x30 ∧ 0x30 ≤ 0x37) ∧ (0x08192000 : Word32).toNat / 2 ^ 26 < 0x28 ∧ bit (0x06DCC000 : Word32) 25 = true
    ∧ (∃ l : Word32, some (32 : Word32) = some l ∧ l.toNat % 32 = 0) := ⟨rfl, rfl, rfl, by decide, by decide, by decide, ⟨32, rfl, by decide⟩⟩

theorem witness_step : (let s := base.withFetchWord 32 0x20848000
    let u := s.begin'.serve' 16384
    s.tail.power = true ∧ s.agenda = [] ∧ s.turn = [16384] ∧ s.stepNo % 2 = 0 ∧ s.mayIssue 16384 = true ∧ (u.gr 4096).restoring = false
    ∧ (u.sp 16384).eccu = none ∧ (u.overlayOf 128 (u.gr 4096).ctx (pcId (u.sp 16384).pc)).isSome = true
    ∧ u.fetch 4096 (u.sp 16384).pc = some 0x20848000) ∧ State.reset.agenda = [] := by decide +kernel

theorem witness_memory : State.reset.memOk ∧ (∃ t, step State.reset = .next t) ∧ dirty.memOk := by
  refine ⟨by unfold State.memOk; decide +kernel, ⟨_, rfl⟩, by unfold State.memOk; decide +kernel⟩

theorem witness_frames : base.acts ∧ Instr.sadd false 1 2 3 ∈ [Instr.sadd false 1 2 3] ∧ (∃ t, exec (.sadd false 1 2 3) base = .next t)
    ∧ (base.ofType 15).accepts typesI64 [0, 2, 4] ∧ (base.ofType 7).accepts typesF [0, 1, 2] ∧ (base.ofType 1).accepts [0, 1, 2] [0, 1, 2]
    ∧ (base.ofType 13).accepts [4, 5, 8, 9, 12, 13] [0, 1, 2] ∧ typesI64.contains (base.ofType 3).ty = false ∧ typesF.contains base.ty = false := by
  refine ⟨by unfold State.acts; decide +kernel, by simp, ⟨_, rfl⟩, ?_⟩
  unfold State.accepts; decide +kernel

theorem witness_access_frames : (∃ u ∈ store1.units, u.done = false) ∧ base.fmtOn 6 = [] ∧ (∀ sec ∈ sectorsOf 64 4, base.tracked sec = []) := by
  decide +kernel

/-! ### Commands and traps whose words lie in a page that the L0 holds -/

/-- A page of 1 GiB at 0 that the L0 of a core holds, with every right, in memory of class PRIV. -/
def State.holding (s : State) (core : Nat) : State :=
  { s with l0 := mset [] s.l0 core [{ ctx := 0, page := 0, leaf := 0x1F, level := 2 }] }

/-- A launch packet at 0x40000 with its entry in the window handler's overlay, a pass descriptor at 0x40100 that names it, an overlay
table at 0x41000, and the L0 of the command processors holding their page; the head of queue 1 is a LAUNCH, or a DRAW. -/
def packets (cmd : List Nat) : State :=
  let s := queued cmd
  ({ s with
    ctxs := [(0, { s.cx 0 with ovt := 0x41000, stackPoolSz := 0x20000 })],
    overlays := s.overlays ++ [sysOverlay 128],
    mem := [(0x10000, 1), (0x10002, 2), (0x20000, 0x1F), (0x40003, 0xFF), (0x40004, 1), (0x40008, 1), (0x4000C, 1), (0x4001A, 1), (0x40102, 4),
      (0x41001, 0x3C)] ++ (s.mem.filter fun p => decide (0x50000 ≤ p.1)) } : State).holding cmdCore

def packetGot (x : PacketXl) : Bool := match x with | .ok _ _ => true | _ => false

theorem packetGot_iff {x : PacketXl} (h : packetGot x = true) : ∃ t p, x = .ok t p := by cases x <;> first | exact ⟨_, _, rfl⟩ | cases h

theorem witness_launch : (packets [1, 0x40000]).atHead 0 1 1 ∧ ((packets [1, 0x40000]).cmdWord ((packets [1, 0x40000]).qu 0 1) 1).toNat = 0x40000
    ∧ ∃ t p, (packets [1, 0x40000]).loadPacket 0 0x40000 .compute = .ok t p :=
  ⟨by unfold State.atHead; decide +kernel, by decide +kernel, packetGot_iff (by decide +kernel)⟩

/-- A DRAW's descriptor and both its packets load, one after the other. -/
def drawLoads (s : State) : Bool := match s.readWords 0 0x40100 8 with
  | .ok t ws => match passOf ws, t.loadPacket 0 0x40000 .mesh with
    | some pass, .ok u _ => packetGot (u.loadPacket 0 pass.pixlp.toNat .pixel)
    | _, _ => false
  | _ => false

theorem drawLoads_iff {s : State} (h : drawLoads s = true) : ∃ t1 t2 t3 ws pass mesh pix, s.readWords 0 0x40100 8 = .ok t1 ws ∧ passOf ws = some pass
    ∧ t1.loadPacket 0 0x40000 .mesh = .ok t2 mesh ∧ t2.loadPacket 0 pass.pixlp.toNat .pixel = .ok t3 pix := by
  unfold drawLoads at h
  split at h
  · split at h
    · obtain ⟨_, _, h3⟩ := packetGot_iff h
      exact ⟨_, _, _, _, _, _, _, ‹_›, ‹_›, ‹_›, h3⟩
    · cases h
  · cases h

theorem witness_draw : (let s := packets [2, 0x40100, 0x40000, 1]
    s.atHead 0 1 2 ∧ (s.diesOf 0 1).isEmpty = false ∧ (s.diesOf 0 2).isEmpty = false ∧ s.drawFree 0 = true ∧ (s.cmdWord (s.qu 0 1) 1).toNat = 0x40100
    ∧ (s.cmdWord (s.qu 0 1) 2).toNat = 0x40000)
    ∧ ∃ t1 t2 t3 ws pass mesh pix, (packets [2, 0x40100, 0x40000, 1]).readWords 0 0x40100 8 = .ok t1 ws ∧ passOf ws = some pass
      ∧ t1.loadPacket 0 0x40000 .mesh = .ok t2 mesh ∧ t2.loadPacket 0 pass.pixlp.toNat .pixel = .ok t3 pix :=
  ⟨by unfold State.atHead; decide +kernel, drawLoads_iff (by decide +kernel)⟩

/-- base in a context with tables, the L0 of its core holding the page of the trap records. -/
def trapping : State := (paged base).holding 128

/-- The record of a trap at its issue; the page of the records translates and its words are written. -/
def entryRecord (s : State) (t : TrapInfo) : List Nat :=
  [t.cause + 2 ^ 8 * (t.code % 1024) + 2 ^ 18 * t.acc + 2 ^ 32 * ((s.fetch 4096 t.pc).getD 0).toNat, if t.acc = 0 then 0 else t.addr,
   t.lmask.toNat + 2 ^ 32 * t.pmask.toNat, t.pc.toNat + 2 ^ 32 * t.gmode.toNat, t.word4.toNat, 0, 0, 0]

theorem witness_trap_entry : (let s := trapping
    (s.sp 16384).mode ≠ .trap ∧ (s.sp 16384).mode ≠ .region ∧ lo32 (s.physWord ((s.cx 0).vt.toNat + 8 * cPriv)) ≠ 0 ∧ cPriv < 0x20 ∧ cPriv ≠ cEmudepth
    ∧ (s.physWord ((s.cx 0).vt.toNat + 0x108)).toNat + 64 * (128 * s.scanIndex (s.cx 0).partition 128 + 4 * (4096 % 32) + 16384 % 4) = 0x140000
    ∧ (let (u, b) := s.vaWaits 128 0 0x140000 needStore
       b = false ∧ (u.putWords 128 0 0x140000 (entryRecord u (s.uniTrap s.cur cPriv))).isSome = true)) := by decide +kernel

/-- A split in the window handler's overlay may jump to its words, and call them. -/
def jumping : State := inSystem.withS [(1, 0xFF000001)]

theorem witness_far : jumping.acts ∧ (let s := jumping
      s.free { ss := [1] } ∧ (s.ovWaits s.cc s.grp.ctx (pcId (lo32 (s.sget s.cur 1)))).2 = false)
    ∧ (jumping.farCheck 0xFF000001 true).2 = none ∧ (jumping.residency 0xFF00 5 false).2.isNone = true ∧ (base.farCheck 0xFF000001 true).2 = some cPriv
    ∧ jumping.me.resident = jumping.grp.depth ∧ (jumping.modGr base.cg fun g => { g with depth := 4 }).me.resident ≠ 4 := by
  unfold State.acts State.free; decide +kernel

/-! ### Clauses with conditions of their own -/

/-- The overlay table lies in a HOST page whose ATS answer is not held. -/
def unknownTable : State := { paged base with mem := [(0x10000, 1), (0x10002, 2), (0x20000, 0x2F)] }

theorem witness_len : base.lenKnown = true ∧ unknownTable.lenKnown = false ∧ unknownTable.acts ∧ (0 : Nat) < base.nearLen := by
  unfold State.acts; decide +kernel

/-- A second split of the group with the upper lanes, waiting at a SYNC or a barrier of all lanes; the first has the lower ones. -/
def joining (w : Wait) : State :=
  ((base.withS [(1, 0xFFFFFFFF)]).modSp 16384 fun p => { p with mask := 0xFFFF }).setSp 16385 { base.me with mask := 0xFFFF0000, wait := w }

theorem witness_sync_releases : (let s := joining (.sync 0xFFFFFFFF)
    s.acts ∧ s.me.mode ≠ .emu ∧ s.free { ss := [1] } ∧ s.me.mask &&& ~~~ (lo32 (s.sget s.cur 1) &&& ~~~ s.grp.exited) = 0
    ∧ s.valids s.cg = [16384, 16385] ∧ s.syncSet 16385 = some 0xFFFFFFFF
    ∧ (s.waitFor s.cur (.sync 0xFFFFFFFF)).syncReady s.cur = some [16384, 16385] ∧ s.me.rep = none ∧ (s.cx (s.gr (gidOf 16385)).ctx).state ≠ .saving
    ∧ (s.fetch (gidOf 16385) (s.sp 16385).pc).isSome = true) ∧ (joining (.sync 0xFFFF0001)).syncSet 16385 = some 0xFFFF0001 := by
  unfold State.acts State.free; decide +kernel

theorem witness_bar_releases : (let s := (joining (.bar 15 0)).withS [(1, 0)]
    let b := (s.setBarrier s.grp.team 15 { s.barrier s.grp.team 15 with expected := 0 }).waitFor s.cur (.bar 15 0)
    let u := b.noteArrivals s.grp.team 15
    let p := u.barrier s.grp.team 15
    s.acts ∧ s.free { ss := [1] } ∧ (s.sget s.cur 1).toNat % 64 ≤ (s.tm s.grp.team).groups.length
    ∧ p.arrived ≠ [] ∧ (u.teamLive s.grp.team).length ≤ u.arrivals s.grp.team p ∧ (u.barWaiters s.grp.team 15) = [16384, 16385]) := by
  unfold State.acts State.free; decide +kernel

theorem witness_cbar_releases : (let s := joining (.cbar 3)
    let b := s.waitFor s.cur (.cbar 3)
    let gs := (b.clusterTeams s.grp.team).flatMap b.teamLive
    s.acts ∧ s.cg ∈ gs ∧ gs.all (fun g => b.groupAtCbar g 3) = true
    ∧ ((gs.flatMap b.valids).filter fun k => (b.sp k).wait == .cbar 3) = [16384, 16385]) := by
  unfold State.acts; decide +kernel

/-- A pass whose one quarter-op is left. -/
def lastOp : State := { queuedMma with passes := queuedMma.passes.map fun p => { p with ops := p.ops.take 1 } }

theorem witness_last_op : lastOp.passes.map (fun p => (p.ops.length, p.ops.map fun q => (lastOp.tilesBefore p.core p.id).contains q.tile
    || lastOp.opHeld p.core q)) = [(1, [false])] := by decide +kernel

/-- A region whose load brought uncorrectable data, and one that has a sector of a home that does not answer. -/
theorem witness_region_fails : (((committing 0 false).modSp base.cur fun p => { p with eccu := some (1, none) }).sp base.cur).eccu = some (1, none)
    ∧ (let s := { committing 0 false with dies := [] }
       (s.region base.cur).map (fun r => s.setLost { r with sectors := [(1, 6)] }) = some true)
    ∧ ((committing 0 false).region base.cur).map (fun r => (committing 0 false).setLost r) = some false := by decide +kernel

theorem witness_overlay_more : (unknownTable.startFill base.cc 0 7 []).2 = .wait ∧ (base.startFill base.cc 0 0xFF07 [5]).2 = .resident := by decide +kernel

/-- A mesh group with a store of its own under way, and with a ray query under way. -/
theorem witness_close : meshing.relReady meshing.cur = true ∧ (∃ o ∈ ({ meshing with ops := [{ store1 with gid := meshing.cg }] } : State).ops,
      o.gid = meshing.cg ∧ o.isStore = true)
    ∧ ({ meshing with rays := [{ query true with id := 0, gid := meshing.cg, splits := [meshing.cur] }] } : State).relReady meshing.cur = false := by decide +kernel

theorem witness_void_rays : ∀ p ∈ (query true).todo, rayIn p.2 = none := by decide +kernel

theorem witness_shadow : (let j := (placing.modCx 0 fun x => { x with stackPoolSz := 0x20000 }).placeable 0 (placing.la 0) 60 []
    j.map (fun x => ((placing.shadowWaits x.2).2, x.1.pix)) = some (false, none))
    ∧ (unknownTable.shadowWaits [{ core := 128, ctx := 0, shadow := some 0, accCount := 1 }]).2 = true
    ∧ (base.la 77).live = false := by decide +kernel

/-- Every way of the set of sector 4 in the L2 of die 2 holds a line with a request of its own. -/
def fullL2 : State :=
  let s := (List.range 16).foldl (fun s i => s.setL2 2 (400 + 4 * i) { state := 1, home := 6 }) (asked 0 2 {})
  { s with
    l2Ways := mset {} s.l2Ways (s.l2SetOf 2 4) { lines := (List.range 16).map fun i => (i, 100 + i) },
    reqs := s.reqs ++ (List.range 16).map fun i => { kind := 0, die := 2, sector := 400 + 4 * i, home := 6, inc := 1 } }

theorem witness_no_way : fullL2.nextReq 0 2 4 = some (reqAt fullL2) ∧ fullL2.lost 4 6 = false ∧ (fullL2.keepWay (reqAt fullL2)).isNone = true
    ∧ ((asked 0 2 {}).keepWay (reqAt (asked 0 2 {}))).isSome = true ∧ (asked 0 2 {}).dirRoom 6 1 = true := by decide +kernel

/-- Some set of an M-die's directory can be full of other lines, whatever the sets are (log entry 78). -/
theorem witness_full_set : ∃ (s : State) (line : Nat), s.dirRoom 6 line = false := by
  let f (i : Nat) : Nat := Config.directorySet i % 262144
  obtain ⟨y, -, hy⟩ := Finset.exists_le_card_fiber_of_mul_le_card_of_maps_to (s := Finset.range (17 * 262144)) (t := Finset.range 262144) (f := f) (n := 17)
    (fun i _ => Finset.mem_range.mpr (Nat.mod_lt _ (by decide))) ⟨0, Finset.mem_range.mpr (by omega)⟩ (by rw [Finset.card_range, Finset.card_range])
  let xs := ((Finset.range (17 * 262144)).filter fun i => f i = y).toList
  have hlen : 17 ≤ xs.length := by simpa [xs] using hy
  obtain ⟨l, rest, hx⟩ : ∃ l rest, xs = l :: rest := by
    cases h : xs with
    | nil => simp [h] at hlen
    | cons l rest => exact ⟨l, rest, rfl⟩
  have hnd : xs.Nodup := Finset.nodup_toList _
  rw [hx] at hlen hnd
  have hf : ∀ i ∈ l :: rest, f i = y := fun i hi => by
    rw [← hx] at hi; simpa [xs] using (Finset.mem_filter.mp (Finset.mem_toList.mp hi)).2
  let d : Dir := { state := 1, home := 6 }
  let s : State := { State.reset with dir := rest.map fun i => (4 * i, d) }
  have hl : s.dirLines 6 = rest := by
    have : s.dirLines 6 = rest.dedup := by
      have hu : d.used = true := by decide
      have hh : (d.home == 6) = true := by decide
      simp only [State.dirLines, s, List.filter_map, List.map_map, Function.comp_def, hu, hh, Bool.and_self, List.filter_true,
        Nat.mul_div_cancel_left _ (show 0 < 4 by decide), List.map_id']
    rw [this]; exact (List.nodup_cons.mp hnd).2.dedup
  refine ⟨s, l, ?_⟩
  have hm : (s.dirMates 6 l).length = rest.length := by
    unfold State.dirMates
    rw [hl, List.filter_eq_self.mpr fun i hi => ?_]
    simpa [f] using (hf i (List.mem_cons_of_mem _ hi)).trans (hf l List.mem_cons_self).symm
  have hc : rest.contains l = false := by simpa using (List.nodup_cons.mp hnd).1
  simp only [List.length_cons] at hlen
  unfold State.dirRoom
  rw [hl, hm, hc]
  simp only [Bool.or_false, Bool.or_eq_false_iff, decide_eq_false_iff_not]
  omega

theorem witness_stale : (let s := { asked 4 2 {} with reqs := [{ reqAt (asked 4 2 {}) with inc := 9 }] }
      s.staleBack 4 2 4 = some (reqAt s)) ∧ (asked 4 2 {}).staleBack 4 2 4 = none
    ∧ (let s := { asked 6 2 {} with reqs := [{ reqAt (asked 6 2 {}) with inc := 9 }] }
      s.staleBack 6 2 4 = some (reqAt s))
    ∧ (let s := { dirty with reqs := [{ kind := 6, die := 2, sector := 4, home := 6, inc := 1 }] }
      s.staleBack 6 2 4 = none ∧ ∃ q ∈ s.reqs, q.kind = 6 ∧ q.die = 2 ∧ q.sector = 4)
    ∧ (let w := (dirty.l1Holders 2 4).foldl (fun t c => t.cleanL1 c 4) dirty
      (w.l2At 2 4).state = 3 ∧ (w.l2At 2 4).tracked = false ∧ w.lineBarred 2 1 = false)
    ∧ (let s := recalled true false (some req1); (s.recalls.headD { die := 0, sector := 0, inval := true, home := 0 }).inc ≠ (s.di 6).incarn)
    ∧ ((base.di 2).kind = 1 ∨ (base.di 2).kind = 2)
    ∧ ({ drawing base with faceplate := [(1, 2, .stale)] } : State).channelHead 1 2 = some (0, .stale) := by decide +kernel

/-- An invalidation of context 0 while a region of the split holds an input from before it. -/
theorem witness_region_keeps : (let s := (committing 0 false).modCx 0 fun x => { x with invBusy := true, invUpto := 60 }
    (s.cx 0).invBusy = true ∧ ∃ p ∈ s.regions, ∃ r, p.2 = some r ∧ (s.gr (gidOf p.1)).ctx = 0 ∧ r.since ≤ 60 ∧ r.inputs ≠ []) := by decide +kernel

theorem witness_saves : base.wants 0 = [] ∧ saved.chosenAgain 0 = true
    ∧ (let s : State := { saved with ctxs := saved.ctxs ++ [(1, { state := .ready })], launches := [(5, { live := true, ctx := 1, cls := 3 })] }
       s.chosenAgain 0 = false) ∧ ((saved.modPa 0 fun p => { p with want := some 0 }).pa 0).want ≠ none
    ∧ (parted.pa 1).w0 ≠ 0x0000000F ∧ bit (0x0000000F : Word64) 31 = false := by decide +kernel

/-- A sector that a commit holds. -/
theorem witness_host_waits : base.hostQueue = [] ∧ (∀ sec ∈ sectorsOf 64 4, base.secFree sec = true)
    ∧ (∃ sec ∈ sectorsOf 256 4, (base.setDir 4 { state := 4, owner := 2 }).secFree sec = false) := by decide +kernel

theorem witness_units : (base.di 2).kind = 2 ∧ unitExists 2 3 47 = true ∧ unitExists 2 3 48 = false ∧ unitExists 1 3 31 = true ∧ unitExists 3 5 11 = true
    ∧ unitExists 3 5 12 = false ∧ unitExists 3 2 63 = true ∧ unitExists 2 1 255 = true ∧ unitExists 2 0 (128 * 31 + 111) = true
    ∧ ({ base with peers := [(3, some {})] } : State).peerUp 3 = true ∧ (base.setDir 0 { own := some 2 }).ownerOf 4 = some 2
    ∧ ({ state := 2, owner := 2 } : Dir).owner = 2 := by decide +kernel

/-! ### Rounded arithmetic, the split table, batches -/

/-- NaNs, infinities, zeros, subnormals and finite numbers of fp32. -/
theorem witness_rounded : (let f := Fmt.fp32
    f ∈ [Fmt.fp32, .fp16, .bf16] ∧ f.mag 0x7F800000 = f.maxFin + 1 ∧ f.mag 0x80000000 = 0 ∧ f.neg 0x80000000 = true ∧ f.maxFin + 1 < f.mag 0x7FC00000
    ∧ f.mag 0x3F800000 ≤ f.maxFin ∧ 0 < f.mag 1 ∧ f.mag 1 < 2 ^ f.mb ∧ 0xFFC00000 < 2 ^ f.width
    ∧ f.signed 0x3F800000 + f.signed 0xBF800000 = 0 ∧ f.signed 0x3F800000 + f.signed 0x3F800000 ≠ 0) := by decide +kernel

theorem witness_batches : (let s := base.modGr base.cg fun g => { g with batches := [{ num := 0, ops := [], tiles := [], flags := [(1, 0x10)], counted := false }] }
    ((s.gr s.cg).batches.filter fun b => b.ops == []).length = 1 ∧ bit (0x10 : BitVec 5) 4 = true) := by decide +kernel

/-- Two paths of one head whose parent is an entry that is gone, and a full table with a parked path. -/
def twoPaths : State := (base.modSp 16384 fun p => { p with mask := 0xFFFF, parent := 2, saved := 7 }).setSp 16385 { base.me with mask := 0xFFFF0000, parent := 2, saved := 7 }
def fullTable : State := ((twoPaths.setSp 16386 { base.me with mask := 0 }).setSp 16387 { base.me with mask := 0 }).modGr base.cg fun g =>
  { g with park := [Parked.mk 0 5 0 2 7 0 0 1 none] }

theorem witness_paths : 16384 ∈ entries base.cg ∧ twoPaths.freeEntries base.cg = [16386, 16387] ∧ fullTable.freeEntries base.cg = []
    ∧ twoPaths.pathsApart base.cg ∧ fullTable.pathsApart base.cg ∧ (fullTable.pathMasks base.cg).all (fun x => x &&& 0 == 0) = true
    ∧ (fullTable.gr base.cg).park ≠ [] ∧ (fullTable.sp 16384).valid = true ∧ fusable (twoPaths.sp 16384) (twoPaths.sp 16385) = true
    ∧ twoPaths.dueHeads base.cg = [] ∧ (base.modSp 16384 fun p => { p with parent := 0, saved := 7 }).dueHeads base.cg = [16384]
    ∧ (∀ i ∈ entries base.cg, ∀ j ∈ entries base.cg, i < j → fusable (base.sp i) (base.sp j) = false) := by
  unfold State.pathsApart; decide +kernel

theorem witness_failing_forms : (let s := mixed
    let lanes := (s.glanes s.cur).map fun l => (l, s.laneAddr s.cur 3 0 l)
    let ok (x : State × Checked) : Bool := decide (x.2.wait = false ∧ x.2.dead = false ∧ x.2.fail ≠ [] ∧ x.2.pass ≠ [] ∧ x.1.cur = s.cur)
    ok (s.checkLanes s.cur 4 needLoad false true lanes) = true ∧ ok (s.checkLanes s.cur 4 needStore false true lanes) = true
    ∧ ok (s.checkLanes s.cur 4 needAtomic true true lanes) = true ∧ atomType 0 (s.ofType 0).ty = true
    ∧ s.free { ss := [3], sv := [0, 1], dv := [1], dq := [7] } ∧ s.grp.ldc < 62 ∧ 62 ≤ (s.modGr s.cg fun g => { g with ldc := 62 }).grp.ldc
    ∧ 62 ≤ (s.modGr s.cg fun g => { g with stc := 62 }).grp.stc) := by
  unfold State.free; decide +kernel

theorem witness_trap_record : (let fs := [Fail.mk 4 16 cXlate 9, Fail.mk 1 8 cXlate 5, Fail.mk 0 1 cAlign 0]
    let t := mixed.laneTrap mixed.cur 1 fs
    (fs.map fun f => f.lane).Nodup ∧ (∀ f ∈ fs, f.lane < 32) ∧ ∃ f ∈ fs, f.cause = t.cause ∧ ∀ g ∈ fs, g.cause = t.cause → f.lane ≤ g.lane) := by
  decide +kernel

/-- A load of one lane that is about to end, of one word or of two. -/
def load1 (n : Nat) : MemOp :=
  { store1 with kind := .load, rows := [3], lanes := 1, units := (List.range n).map fun i => { lane := 0, place := .abuf 128 (2 * i), size := 2, off := 2 * i } }

theorem witness_units_done : (let o := { load1 1 with id := loads.nextId }
    let s := loads.startOp (load1 1)
    (s.ops.find? fun x => x.id == o.id).map (fun x => (x.units.length, x.rows, x.size, x.isLoad)) = some (1, [3], 4, true)
    ∧ o.rows.length = max 1 (o.size / 4) ∧ o.rows.Nodup
    ∧ (∀ x ∈ o.units.set 0 { lane := 0, place := .abuf 128 0, size := 2, off := 0, done := true }, x.done = true)
    ∧ (let p := load1 2; ∃ x ∈ p.units.set 0 { lane := 0, place := .abuf 128 0, size := 2, off := 0, done := true }, x.done = false)
    ∧ ({ load1 1 with size := 2 } : MemOp).size < 4) := by decide +kernel

/-- The sector 0x1800 of die 2's L2 in a state. -/
def heldIn (st : Nat) : State := if st = 0 then loads else loads.setL2 2 0x1800 { state := st, tracked := true, home := 6, data := 5 }

theorem witness_memory_units : (∀ p ∈ [Place.abuf 128 0, .host 64 0, .mem 0x60000 2 6], loads.placeLost p = false ∧ loads.placeTested 128 p 4 = false
      ∧ loads.placeBad p = false) ∧ loads.soft = [] ∧ loads.poison = [] ∧ 0x60000 % 64 + 4 ≤ 64 ∧ dieOf 128 = 2
    ∧ (∀ st < 4, ((heldIn st).l2At 2 0x1800).state = st) ∧ loads.l1At 128 0x1800 = none
    ∧ ((loads.setL1 128 0x1800 (some { cls := 1, home := 6, data := 5, dirty := 0 })).l1At 128 0x1800).isSome = true := by decide +kernel

theorem witness_unit_starts : store1.kind = .store ∧ (∀ u ∈ store1.units, u.hi = none) ∧ loads.soft = [] ∧ loads.underTest 128 0 0 4 = false := by
  decide +kernel

/-! ### Open regions -/

/-- loads in a region whose split has tags, kept scalars, constraints and inputs as given. -/
def regional (r : Region) : State := (loads.inMode .region).setRegion loads.cur (some r)

def region0 : Region := { target := 4, s := 9, gmode := 0, cwp := 0, resident := 1, depth := 1, ser := false }
def con0 (rel n : Nat) : Constraint := { slot := 32, k := n, rel := rel, signed := false, w := 64, c := 0, bound := 0, outcome := true }
def key0 (n : Nat) : Nat := loads.scalarKey loads.cur n

theorem witness_inside : (regional region0).me.valid = true ∧ (regional region0).me.mode = .region
    ∧ ((regional region0).region loads.cur) = some region0 ∧ region0.issued < 4096
    ∧ (regional region0).free { ss := [1, 2], ds := [3] } ∧ ((region0.savedS).any fun p => p.1 == key0 3) = false
    ∧ (let r := { region0 with tagS := [(key0 1, { k := 0, c := 0, part := 0 }), (key0 2, { k := 1, c := 0, part := 0 })] }
       (r.tagS.find? fun p => p.1 == key0 1).isSome = true ∧ (r.tagS.find? fun p => p.1 == key0 2).isSome = true
       ∧ (r.tagS.find? fun p => p.1 == key0 3).isSome = false ∧ (regional r).region loads.cur = some r)
    ∧ (∀ q ∈ region0.cons, ¬ (q.slot = 32 ∧ q.k = 0 ∧ (q.rel = 6 ∨ (q.rel = 0 ∧ q.outcome = true ∧ q.c = 0))))
    ∧ ¬ (∀ q ∈ [con0 6 0], ¬ (q.slot = 32 ∧ q.k = 0 ∧ (q.rel = 6 ∨ (q.rel = 0 ∧ q.outcome = true ∧ q.c = 0))))
    ∧ 8 ≤ ((List.replicate 8 (con0 2 3)).filter fun q => q.slot == 32).length ∧ (0 : Nat) ≠ 1
    ∧ 16 < ((5, (0 : Word64)) :: (List.range 16).map fun i => (100 + i, (0 : Word64))).length := by
  unfold State.free; decide +kernel

/-- base in a context whose first GiB is of class COH, with the leaf in the L0. -/
def coh (s : State) : State :=
  { paged s with mem := (paged s).mem.map fun p => if p.1 = 0x20000 then (p.1, 0x9F) else p,
                 l0 := mset [] s.l0 128 [{ ctx := 0, page := 0, leaf := 0x9F, level := 2 }] }

/-- A region in such a context; s1 is 0x60000. -/
def protected' : State := coh ((regional region0).withS [(1, 0x60000)])

theorem witness_inside_accesses : (let s := protected'
    let (u, c) := s.checkScal s.cur 0x60000 8 needLoad
    let ps := (c.pass.head?.map fun p => p.2).getD []
    c.wait = false ∧ c.dead = false ∧ c.fail ++ c.away = [] ∧ (∀ p ∈ ps, p.1.barred = false) ∧ protectedSectors ps ≠ [] ∧ u.grp.ldc < 62
    ∧ (protectedSectors ps).dedup.length ≤ 128 ∧ s.free { ss := [1, 0, 2], ds := [3] }
    ∧ (let (_, c) := s.checkScal s.cur 0x60000 8 needStore; c.wait = false ∧ c.dead = false ∧ c.fail ++ c.away = [])
    ∧ ([({ slot := 32, pieces := ps, size := 8, value := 7, tag := none } : RStore)].filter fun q => q.slot == 32 && overlap q.pieces ps).length = 1)
    ∧ (let s := regional region0
       let (_, c) := s.checkScal s.cur 0xFFFF810000000000 8 needLoad
       let ps := (c.pass.head?.map fun p => p.2).getD []
       c.fail ++ c.away = [] ∧ protectedSectors ps = [] ∧ (∀ p ∈ ps, p.1.barred = false))
    ∧ 4 ≤ ((List.range 4).map fun k => ({ slot := 32, k := k, pieces := [], size := 8 } : Input)).length
    ∧ 8 ≤ (([(32, 8)].find? fun p => p.1 == 32).map fun p => p.2).getD 0 := by
  unfold State.free; decide +kernel

theorem witness_abort_marks : (let r : Region := { region0 with savedS := [(key0 3, 7)], savedP := [(key0 1, 1)], savedV := [(5, 2)], savedL := [(6, 3)] }
    (key0 3, 7) ∈ r.savedS ∧ key0 3 ≠ (regional r).scalarKey loads.cur r.s ∧ (∀ w, (key0 3, w) ∈ r.savedS → w = 7) ∧ r.s ≠ 0)
    ∧ (let s := (regional region0).startOp { load1 1 with inRegion := true, splits := [loads.cur] }
       ∃ o ∈ s.ops, o.inRegion = true ∧ loads.cur ∈ o.splits) := by
  refine ⟨⟨by decide +kernel, by decide +kernel, ?_, by decide +kernel⟩, by decide +kernel⟩
  intro w h; simpa using h

/-- A region of two stores to one COH word, and of a tagged scalar and a tagged vector register. -/
def commits : Region :=
  let p (n : Nat) : RStore := { slot := 32, pieces := [(.mem 0x60000 2 6, 4, 0)], size := 4, value := BitVec.ofNat 256 n, tag := none }
  { region0 with stores := [p 1, p 2], tagS := [(key0 1, { k := 0, c := 4, part := 0 })], tagV := [(7, { k := 0, c := 0, part := 0 })],
                 inputs := [{ slot := 32, k := 0, pieces := [(.abuf 128 0, 8, 0)], size := 8 }] }

theorem witness_commit_effects : (let s := regional commits
    s.region s.cur = some commits ∧ firstFailing commits (commits.inputs.map fun x => (x.slot, x.k, s.reread x)) = none
    ∧ (commits.tagS.map fun p => p.1).Nodup ∧ (commits.tagV.map fun p => p.1).Nodup ∧ s.l1Secs (coreOf (gidOf s.cur)) = [] ∧ s.fmtOn 6 = []
    ∧ (∀ b ∈ commits.stores, b.plain = false ∧ b.tag = none ∧ b.pieces = [(.mem 0x60000 2 6, 4, 0)]) ∧ 0x60000 % 64 + 4 ≤ 64) := by decide +kernel

/-! ### Quarter-ops, granules, slots -/

/-- The four quarters of the MMA above again, with the first four queued, and the batch that MFENCE makes of them. -/
def queuedMore : State := { queuedMma with cur := matrix.cur }
def fenced : State := outOf queuedMma (exec (.mfence false 0) queuedMma)

theorem witness_queue : queuedMore.acts ∧ queuedMore.passes ≠ [] ∧ (queuedMore.passes.map fun p => p.id).Nodup
    ∧ (∀ p ∈ queuedMore.passes, p.id < queuedMore.nextId) ∧ queuedMore.queued queuedMore.cc + 4 ≤ 256
    ∧ matrix.guard matrix.cur &&& ((0xFF : BitVec 32) <<< 24) ≠ 0 ∧ mget 0 matrix.omap (matrix.cg * 8 + 1) ≠ 0 ∧ 29 ≤ (29 : BitVec 5).toNat
    ∧ (queuedMma.passes.all fun p => p.ops.all fun q => (queuedMma.gr q.gid).unclosed.contains q.id) = true
    ∧ (fenced.passes.all fun p => p.ops.all fun q => !(fenced.gr q.gid).unclosed.contains q.id) = true := by
  unfold State.acts; decide +kernel

theorem witness_granule : (match copying.copies.head? with
    | some c => (match copying.copyGranule c with | .done _ => true | _ => false) && c.form == 0 && c.committed == 0 && c.got.isEmpty
        && (List.range 256).all fun o => (srcOf 0 c.desc o).all fun x => copying.aperture c.core ((dw c.desc 0).toNat + x / 4 * 4) 4 == some 2
          && copying.aperture c.core ((dw c.desc 1).toNat + o / 4 * 4) 4 == some 2
    | none => false) = true
    ∧ (copying.tm 1).abufOff + 256 ≤ 2 ^ 22 := by decide +kernel

theorem witness_slots : (let f := filling.fills.head?.getD { id := 0, core := 0, ctx := 0, ovl := 0, len := 0, image := 0, slots := [], tokens := [], waitsEvict := true }
    f.slots.Nodup ∧ ([(0, (5 : Word32)), (1023, 6)].map fun x => x.1).Nodup ∧ (∀ x ∈ [(0, (5 : Word32)), (1023, 6)], x.1 < 1024 * f.slots.length)) := by
  decide +kernel

theorem witness_query : (let t := (base.ovWaits base.cc base.grp.ctx 0xFF00).1
    (base.ovWaits base.cc base.grp.ctx 0xFF00).2 = false ∧ t.cur = base.cur ∧ (t.ovHeader t.cc t.grp.ctx).1 = t ∧ t.pinsHeld t.cc t.grp.ctx 0 < 256 ∧ t.slotsUsed t.cc t.grp.ctx < 256 ∧ (t.ovHeader t.cc t.grp.ctx).2.quota < 256
    ∧ (t.overlayOf t.cc t.grp.ctx 0).map (fun o => o.slots.length) = some 1 ∧ (t.ovQuery t.cc t.grp.ctx 0).1.cur = t.cur) := by decide +kernel

/-! ### TLBs, walks, homes -/

/-- A page table whose top entry the walk cache holds, and one whose leaf the die's TLB holds. -/
def walked : State := (paged base).fillWalk 2 0 3 0 ((paged base).walkWord 0x10000).2
def looked : State := (paged base).fillTlb 2 0 { ctx := 0, page := 0, leaf := 0x1F, level := 2 }

theorem witness_walk_cache : (walked.walkLook 2 0 3 0).isSome = true ∧ (mget [] looked.l0 128).find? (fun y => y.maps 0 0) = none := by decide +kernel

/-- Whatever the sets of the TLB are (log entry 14). -/
theorem witness_tlb : (looked.tlbLook 2 0 0x3FFFFFFF).isSome = true := by
  have h : looked.tlb = mset [] [] (tlbSetKey 2 0 2 0) [{ ctx := 0, page := 0, leaf := 0x1F, level := 2 }] := rfl
  have k : tlbSetKey 2 0 2 0x3FFFFFFF = tlbSetKey 2 0 2 0 := rfl
  have e (n : Nat) : mget [] looked.tlb n = if n = tlbSetKey 2 0 2 0 then [{ ctx := 0, page := 0, leaf := 0x1F, level := 2 }] else [] := by
    rw [h, mget_mset]; rfl
  simp only [State.tlbLook, List.findSome?_cons, e, k]
  split_ifs <;> rfl

theorem witness_queue_behind : ({ base with hostQueue := [.read 0 4] } : State).hostQueue ≠ [] ∧ base.hostQueue = [] := by decide +kernel

/-- A request of peer 3 that the link brought, and one of die 2 for an OWN block. -/
def peerAsks : State :=
  { base with peers := [(3, some {})], reqs := [{ kind := 1, die := 31, sector := 4, home := 6, who := 5, holder := 3, inc := 1 }] }

theorem witness_peer_request : (let s := peerAsks
    let q := reqAt s
    s.nextReq 1 31 4 = some q ∧ (s.di 31).kind ≠ 3 ∧ q.who = 5 ∧ s.peerUp q.holder = true ∧ q.inc = s.peerInc q.holder ∧ s.reqTested q = false
    ∧ s.lost 4 q.home = false ∧ q.cls ≠ 3 ∧ s.dirRoom q.home 1 = true ∧ (s.dirAt 4).state = 0 ∧ (s.dirAt 4).busy = none)
    ∧ (let s := asked 0 3 {}
       let q := reqAt s
       (s.keepWay q).isSome = true ∧ s.dirRoom q.home 0 = true ∧ s.reqTested q = false ∧ q.who = 0 ∧ s.ownerOf 4 = none)
    ∧ (let s := asked 0 2 { state := 3 }; s.nextReq 0 2 4 = some (reqAt s) ∧ (s.dirAt 4).state = 3)
    ∧ ((asked 3 1 {}).keepWay (reqAt (asked 3 1 {}))).isSome = true ∧ ((asked 3 1 {}).l2At 2 4).state = 0 := by decide +kernel

theorem witness_write_back_ways : (let s := recalled true false none
      { s with recalls := [] }.mayLeave 2 4 = true ∧ s.staleBack 4 2 4 = none)
    ∧ (let s := (base.setL2 2 4 { state := 3, home := 6 }).setDir 0 { own := some 2, home := 6 }
       (s.l2At 2 4).tracked = false ∧ s.ownerOf 4 = some 2 ∧ s.mayLeave 2 4 = true ∧ (s.l2At 2 4).state = 3)
    ∧ (let s := { base.setL2 2 4 { state := 3, tracked := true, home := 6 } with reqs := [{ kind := 2, die := 2, sector := 4, home := 6, inc := 1 }] }
       s.mayLeave 2 4 = false ∧ (s.dirAt 4).busy = none) ∧ dirty.testing 2 1 (dirty.l2Slice 2 4) = false ∧ dirty.homeTested 6 4 = false
    ∧ dirty.mayLeave 2 4 = true := by decide +kernel

/-! ### Meshlets' lanes, and outs -/

theorem witness_closer : (let s := closed.modTm 1 fun t => { t with mesh := t.mesh.map fun r => { r with closer := some (0, 3, 5) } }
    ((s.tm 1).mesh.bind fun r => r.closer) = some (0, 3, 5) ∧ ((s.tm 1).groups.find? fun g => (s.gr g).index == 0).isSome = true
    ∧ bit (3 : BitVec 32) 1 = true) := by decide +kernel

theorem witness_groups_of_quads : (packet1.quads 8 8).length ≠ 0 ∧ (match packet1.quads 8 8 with | q :: _ => q.cov.any id | [] => false) = true := by decide +kernel

/-- A pixel group with an out, in a context whose first GiB is of class COH; the sector of the pixel in a state. -/
def blending (st : Nat) : State :=
  let s : State := { outgoing with ctxs := (coh base).ctxs, mem := (coh base).mem }
  if st = 0 then s else s.setL2 2 0x1000 { state := st, tracked := true, home := 6 }

theorem witness_blend : (∀ st < 4, let s := blending st
    (match s.pix.head? with
    | some g => (g.pixel 0).isSome && (s.dr g.draw).pass.targets[0]?.isSome
        && match s.unitPlace g.sdie (s.dr g.draw).ctx (pixelAddr 0x40000 8 0 0) { w := true } with
          | .ok t (.mem pa 2 home) => !(t.copies.any fun c => c.claims.contains (Place.mem pa 2 home).granule) && !t.placeTested (unitCore g.sdie) (.mem pa 2 home) 4
              && !t.placeBad (.mem pa 2 home) && decide (pa % 64 + 4 ≤ 64) && (t.l2At 2 (pa / 64)).state == st
          | _ => false
    | none => false) = true) := by decide +kernel

/-! ### The host's side, peers -/

/-- A context whose pages are HOST pages, with an engine that waits for a PRI request. -/
def engineWaits : State :=
  { (paged base).modCx 0 fun x => { x with prqPoll := [(0, 0, 1, .copy 60)] } with mem := [(0x10000, 1), (0x10002, 2), (0x20000, 0x2F)] }

theorem witness_pri : engineWaits.up = true ∧ (engineWaits.cx 0).prqPoll ≠ [] ∧ (∀ e ∈ (engineWaits.cx 0).prqPoll, (engineWaits.hostUnit 0 e.1).isSome = true)
    ∧ (let g := engineWaits.fn (engineWaits.cx 0).fn; g.priOutstanding.length < g.priAlloc)
    ∧ (let g := (engineWaits.modFn 0 fun f => { f with priAlloc := 0 }).fn 0; g.priAlloc ≤ g.priOutstanding.length ∧ g.priStopped = false)
    ∧ (∀ e ∈ (asking.cx 0).prqPoll, asking.hostUnit 0 e.1 = none) ∧ (∃ u ∈ [((128 : Nat), (3 : Nat))], u.2 = 3) ∧ Map.wf {} base.funcs = true
    ∧ [((2 : Nat), false), (3, true)] = [(2, false)] ++ (3, true) :: [] ∧ (∀ u ∈ [((2 : Nat), false)], u.1 ≠ 3) := by decide +kernel

theorem witness_functions : (base.modFn 1 fun f => { f with vfEn := true }).fnUp 1 = true ∧ base.fnUp 1 = false ∧ bit (1 : Word64) 0 = true
    ∧ (base.di 0).state ≠ 0 ∧ (base.di 0).kind = 0 ∧ bit (0x8000000000000000 : Word64) 63 = true
    ∧ (∀ sec ∈ sectorsOf 64 4, base.secNow sec = true ∧ base.testing 6 2 0 = false) ∧ (sectorsOf 256 4).any (fun sec => !({ base with filter := [(4, 3)] } : State).secNow sec) = true
    ∧ (64 + 4 ≤ 2 ^ 28 ∧ 64 % 4 = 0) ∧ (base.hostFetch 64 4).2 ≠ [] := by decide +kernel

theorem witness_updates : ({ base with tail := { base.tail with slot := some 0 } } : State).up = true
    ∧ ({ base with tail := { base.tail with slot := some 1 } } : State).up = true ∧ (5 : Nat) < 6 ∧ (383 : Nat) < 384 := by decide +kernel

/-- R404: bytes 0-7 of the header are the magic, bytes 56-63 the last of the SHA-384; the seventh bit from the top. -/
theorem test_firmware_words : (putImage firstImage 0 7).magic = 7 ∧ (putImage firstImage 8 0x500000003).svn = 3 ∧ (putImage firstImage 8 0x500000003).len = 5
    ∧ (putImage firstImage 56 0x200000000000000).hash = 0x200000000000000 <<< 320 ∧ (putImage firstImage 4 7) = firstImage := by decide +kernel

theorem witness_host_ready : ∀ home < 32, base.homeTested home 1 = false := by decide +kernel

/-- A peer in service that holds sector 4 exclusively. -/
def peerHolds : State := { base.setDir 4 { state := 2, owner := 31, home := 6 } with peers := [(3, some {})], filter := [(4, 3)] }

theorem witness_peers : peerHolds.peerUp 3 = true ∧ peerHolds.peerUp 4 = false ∧ (4, 3) ∈ peerHolds.filter ∧ (peerHolds.dirAt 4).state = 2
    ∧ (peerHolds.dirAt 4).owner = 31 ∧ mget none base.peers 3 = none ∧ atomType 0 0 = true ∧ (1 : Nat) = peerHolds.peerInc 3
    ∧ (∃ q ∈ ({ peerHolds with recalls := [{ die := 31, sector := 4, inval := true }] } : State).recalls, q.answered = false ∧ q.die = 31
        ∧ (q.sector, 35 - 32) ∈ peerHolds.filter) ∧ (LinkMsg.join ≠ .request 0 4) := by decide +kernel

theorem witness_more_saves : (base.modSp base.cur fun p => { p with wait := .close }).me.wait = .close ∧ base.me.wait ≠ .close := by decide +kernel

theorem witness_no_formats : ∀ d, base.fmtOn d = [] ∧ base.badSecs = [] := by
  intro d
  refine ⟨?_, rfl⟩
  unfold State.fmtOn
  rw [List.map_eq_nil_iff, List.filter_eq_nil_iff]
  intro n _ h
  have : bit (base.fmtWord d n 0) 0 = bit (0 : Word64) 0 := congrArg (bit · 0) (show base.fmtWord d n 0 = 0 from rfl)
  rw [this] at h
  cases h

/-! ## Decoding (R51, R56-R73): a word of every instruction, written out from its row of the encoding tables, S bit set -/

/-- A word decodes to an instruction. -/
def decodesTo (p : Word32 × Instr) : Bool := match decode p.1 with | .ok i => i == p.2 | .error _ => false

theorem test_words_00 : [
    (0x02000001, .nop true), (0x02000002, .exit true), (0x02000003, .ret true), (0x02000004, .yield true), (0x02100005, .tret true 1),
    (0x02000006, .brk true), (0x02000007, .wspill true), (0x02000008, .wfill true), (0x022D8009, .emret true 2 27),
    (0x0210000A, .probe true 1), (0x02D0000B, .splq true 13)].all decodesTo = true := by rfl

theorem test_words_01 : [
    (0x0759E000, .mode true 5 6 3 1 1)].all decodesTo = true := by rfl

theorem test_words_02 : [
    (0x085D7800, .rep 11 5 3 6)].all decodesTo = true := by rfl

theorem test_words_03 : [
    (0x0FA80033, .bra true 6 2 524339)].all decodesTo = true := by rfl

theorem test_words_04 : [
    (0x13000033, .call true 16777267)].all decodesTo = true := by rfl

theorem test_words_05 : [
    (0x160D8000, .callx true 27), (0x160D8001, .brx true 27), (0x160D8002, .callo true 27),
    (0x160D8003, .jmpo true 27)].all decodesTo = true := by rfl

theorem test_words_06 : [
    (0x1A680A00, .srd true 13 5), (0x1A680A01, .swr true 13 5), (0x1A001602, .trap true 11),
    (0x1A680A03, .vsrd true 13 5)].all decodesTo = true := by rfl

theorem test_words_07 : [
    (0x1E0AE58C, .wait true 1 23 11 6)].all decodesTo = true := by rfl

theorem test_words_08 : [
    (0x22DDD800, .sadd true 13 27 22), (0x22DDD801, .ssub true 13 27 22), (0x22DDD802, .smul true 13 27 22),
    (0x22DDD803, .smulh true 13 27 22), (0x22DDD804, .sdiv true 13 27 22), (0x22DDD805, .srem true 13 27 22),
    (0x22DDD806, .sand true 13 27 22), (0x22DDD807, .sor true 13 27 22), (0x22DDD808, .sxor true 13 27 22), (0x22DD8009, .snot true 13 27),
    (0x22DDD80A, .sshl true 13 27 22), (0x22DDD80B, .sshr true 13 27 22), (0x22DDD80C, .ssra true 13 27 22),
    (0x22DDD80D, .smin true 13 27 22), (0x22DDD80E, .smax true 13 27 22), (0x22DDD80F, .sminn true 13 27 22),
    (0x22DDD810, .smaxn true 13 27 22), (0x22DDD811, .scmpEq true 13 27 22), (0x22DDD812, .scmpNe true 13 27 22),
    (0x22DDD813, .scmpLt true 13 27 22), (0x22DDD814, .scmpLe true 13 27 22), (0x22DDD815, .scmpLtn true 13 27 22),
    (0x22DDD816, .scmpLen true 13 27 22), (0x22DD8017, .smov true 13 27), (0x22DD8018, .spopc true 13 27), (0x22DD8019, .sclz true 13 27),
    (0x22DD801A, .sbrev true 13 27)].all decodesTo = true := by rfl

theorem test_words_09 : [
    (0x26DDC033, .saddi true 13 27 16435)].all decodesTo = true := by rfl

theorem test_words_0a : [
    (0x2AD04033, .sli true 13 16435)].all decodesTo = true := by rfl

theorem test_words_0b : [
    (0x2EDDC033, .slih true 13 27 16435)].all decodesTo = true := by rfl

theorem test_words_0c : [
    (0x336B7B00, .vadd true 45 27 54), (0x336B7B01, .vsub true 45 27 54), (0x336B7B02, .vmul true 45 27 54),
    (0x336B7B03, .vmulh true 45 27 54), (0x336B7B04, .vmad true 45 27 54), (0x336B7B05, .vand true 45 27 54),
    (0x336B7B06, .vor true 45 27 54), (0x336B7B07, .vxor true 45 27 54), (0x336B6008, .vnot true 45 27), (0x336B7B09, .vshl true 45 27 54),
    (0x336B7B0A, .vshr true 45 27 54), (0x336B7B0B, .vsra true 45 27 54), (0x336B7B0C, .vmin true 45 27 54),
    (0x336B7B0D, .vmax true 45 27 54), (0x336B600E, .vabs true 45 27), (0x336B600F, .vneg true 45 27), (0x336B6010, .vmov true 45 27),
    (0x336B7B11, .vbsel true 45 27 54), (0x336B6012, .vpopc true 45 27), (0x336B6013, .vclz true 45 27), (0x336B7B14, .vavg true 45 27 54),
    (0x336B7B15, .vdiv true 45 27 54), (0x336B7B16, .vrem true 45 27 54)].all decodesTo = true := by rfl

theorem test_words_0d : [
    (0x376B7033, .vaddi true 45 27 4147)].all decodesTo = true := by rfl

theorem test_words_0e : [
    (0x3B681033, .vli true 45 4147)].all decodesTo = true := by rfl

theorem test_words_0f : [
    (0x3F6B7B00, .vbfe true 45 27 54), (0x3F6B7B01, .vbfi true 45 27 54), (0x3F6B7B02, .vprmt true 45 27 54),
    (0x3F6B7B03, .vshuf true 45 27 54), (0x3E6B6004, .vpackb true 13 27), (0x3F6B6005, .vbcast true 45 27),
    (0x3E6B6B06, .vext true 13 27 22), (0x3F6B6287, .vscan true 45 27 5),
    (0x3F6B6288, .vreduce true 45 27 5)].all decodesTo = true := by rfl

theorem test_words_10 : [
    (0x435E0000, .pand true 5 3 6), (0x435E0001, .por true 5 3 6), (0x435E0002, .pxor true 5 3 6), (0x43580003, .pnot true 5 3),
    (0x43580004, .pmov true 5 3), (0x4340B805, .pfrom true 5 23), (0x4218B806, .pto true 3 23), (0x4218B807, .ppopc true 3 23),
    (0x43580008, .pfirst true 5 3)].all decodesTo = true := by rfl

theorem test_words_11 : [
    (0x462B7B00, .vcmpEq true 5 27 54), (0x462B7B01, .vcmpNe true 5 27 54), (0x462B7B02, .vcmpLt true 5 27 54),
    (0x462B7B03, .vcmpLe true 5 27 54), (0x462B7B04, .vcmpGt true 5 27 54), (0x462B7B05, .vcmpGe true 5 27 54),
    (0x462B7B06, .vcmpUn true 5 27 54), (0x476B7B08, .vcmpvEq true 45 27 54), (0x476B7B09, .vcmpvNe true 45 27 54),
    (0x476B7B0A, .vcmpvLt true 45 27 54), (0x476B7B0B, .vcmpvLe true 45 27 54), (0x476B7B0C, .vcmpvGt true 45 27 54),
    (0x476B7B0D, .vcmpvGe true 45 27 54), (0x476B7B0E, .vcmpvUn true 45 27 54)].all decodesTo = true := by rfl

theorem test_words_12 : [
    (0x4B6B7B00, .fadd true 45 27 54), (0x4B6B7B01, .fsub true 45 27 54), (0x4B6B7B02, .fmul true 45 27 54),
    (0x4B6B7B03, .fmin true 45 27 54), (0x4B6B7B04, .fmax true 45 27 54), (0x4B6B6005, .fabs true 45 27), (0x4B6B6006, .fneg true 45 27),
    (0x4B6B7B07, .fdiv true 45 27 54), (0x4B6B7B08, .fscale true 45 27 54)].all decodesTo = true := by rfl

theorem test_words_13 : [
    (0x4F6B6000, .frcp true 45 27), (0x4F6B6001, .frsq true 45 27), (0x4F6B6002, .fsqrt true 45 27), (0x4F6B6003, .fexp2 true 45 27),
    (0x4F6B6004, .flog2 true 45 27), (0x4F6B6005, .fsinp true 45 27), (0x4F6B6006, .fcosp true 45 27)].all decodesTo = true := by rfl

theorem test_words_14 : [
    (0x536B7B00, .fma true 45 27 54), (0x536B7B01, .fms true 45 27 54), (0x536B7B02, .fnma true 45 27 54)].all decodesTo = true := by rfl

theorem test_words_15 : [
    (0x576B7B00, .idot true 45 27 54), (0x576B7B01, .fdot true 45 27 54)].all decodesTo = true := by rfl

theorem test_words_16 : [
    (0x5B6B6300, .fcvt true 45 27 6), (0x5B6B6301, .frnd true 45 27 6), (0x5B6B6302, .fclass true 45 27 6), (0x5B6B6303, .f2i true 45 27 6),
    (0x5B6B6304, .i2f true 45 27 6)].all decodesTo = true := by rfl

theorem test_words_17 : [
    (0x5FADC54D, .ld true 53 23 5 2 3 1)].all decodesTo = true := by rfl

theorem test_words_18 : [
    (0x63ADC54E, .st true 53 23 5 2 3 2)].all decodesTo = true := by rfl

theorem test_words_19 : [
    (0x67ADC54D, .ldn true 53 23 5 2 3 1)].all decodesTo = true := by rfl

theorem test_words_1a : [
    (0x6ADDD800, .sldB32 true 13 27 22), (0x6ADDD801, .sldB64 true 13 27 22), (0x6ADDD802, .sstB32 true 13 27 22),
    (0x6ADDD803, .sstB64 true 13 27 22), (0x6ADDD804, .sldB32Acq true 13 27 22), (0x6ADDD805, .sldB64Acq true 13 27 22),
    (0x6ADDD806, .sstB32Rel true 13 27 22), (0x6ADDD807, .sstB64Rel true 13 27 22)].all decodesTo = true := by rfl

theorem test_words_1b : [
    (0x6FADC567, .atom true 53 23 5 6 3 1)].all decodesTo = true := by rfl

theorem test_words_1c : [
    (0x73ADC567, .red true 53 23 5 6 3 1)].all decodesTo = true := by rfl

theorem test_words_1d : [
    (0x76018400, .fence true 3 1), (0x761DD801, .cctl true 1 27 22), (0x761DD802, .pref true 1 27 22), (0x76DD8403, .pageq true 13 27 1),
    (0x76DDD804, .waitv true 13 27 22), (0x76DD8005, .carve true 13 27)].all decodesTo = true := by rfl

theorem test_words_1e : [
    (0x7A0D8000, .sync true 27), (0x7A3D8001, .bar true 3 27), (0x7A300002, .cbar true 3),
    (0x7A3D8003, .bara true 3 27)].all decodesTo = true := by rfl

theorem test_words_1f : [
    (0x7E5D8000, .accLd true 5 27), (0x7E5D8001, .accSt true 5 27), (0x7E0D8002, .accZero true 27),
    (0x7EDDD803, .accCvt true 13 27 22)].all decodesTo = true := by rfl

theorem test_words_20 : [
    (0x8370002D, .rgbeg true 23 45), (0x82040000, .rgend true), (0x8208000B, .rgabt true 11),
    (0x837C0000, .rgst true 23)].all decodesTo = true := by rfl

theorem test_words_21 : [
    (0x876B7B00, .mma true 45 27 54), (0x876B7B01, .mmas true 45 27 54), (0x86D00002, .mfence true 13), (0x865D8003, .omap true 5 27),
    (0x86D00004, .merrq true 13)].all decodesTo = true := by rfl

theorem test_words_22 : [
    (0x8ADD8000, .cpy true 13 27), (0x8ADA0001, .cpyt true 13 20), (0x8ADA8002, .cpyr true 13 21), (0x8ADB0003, .cpyg true 13 22),
    (0x8ADB8004, .cpyb true 13 23), (0x8ADD8005, .cpyq true 13 27)].all decodesTo = true := by rfl

theorem test_words_23 : [
    (0x8EDD8000, .ovlLd true 13 27), (0x8E0D8001, .ovlHint true 27), (0x8E0D8002, .ovlEv true 27), (0x8EDD8003, .ovlPin true 13 27),
    (0x8E0D8004, .ovlUnpin true 27), (0x8EDD8005, .ovlQ true 13 27)].all decodesTo = true := by rfl

theorem test_words_24 : [
    (0x936B7B00, .mshEmit true 45 27 54), (0x936B7B01, .mshClose true 45 27 54), (0x936B7B02, .pixAttr true 45 27 54),
    (0x92136003, .pixOut true 2 27), (0x92000004, .pixKill true), (0x92000005, .pixOrd true)].all decodesTo = true := by rfl

theorem test_words_25 : [
    (0x976B7B00, .tex true 45 27 54), (0x976B7B01, .texl true 45 27 54), (0x976B7B02, .texg true 45 27 54),
    (0x976B7B03, .imgLd true 45 27 54), (0x976B7B04, .imgSt true 45 27 54)].all decodesTo = true := by rfl

theorem test_words_26 : [
    (0x9ADDD800, .ray true 13 27 22), (0x9ADDD801, .rayh true 13 27 22)].all decodesTo = true := by rfl

theorem test_words_27 : [
    (0x9ED28000, .owrd true 13 5), (0x9EDD8801, .xregRd true 13 27 2), (0x9EDD8802, .xregWr true 13 27 2)].all decodesTo = true := by rfl

/-! ## Ill-formed terms, and words that are no instruction -/

/-- One ill-formed term for each check of `Instr.wf`. -/
theorem test_ill_formed : [Instr.emret false 3 0, .emret false 0 1, .mode false 0 0 5 0 0, .bra false 1 3 0, .srd false 0 0x0E, .swr false 0 0x15,
    .vsrd false 0 0x24, .vscan false 0 0 6, .vreduce false 0 0 7, .ld false 0 1 0 6 0 0, .ld false 0 1 0 0 6 0, .ld false 63 1 0 3 0 0,
    .ld false 0 0 63 0 0 0, .ld false 0 1 0 0 0 2, .st false 57 1 0 5 0 0, .st false 0 1 0 0 0 1, .ldn false 61 1 0 4 0 0, .atom false 0 1 0 12 0 0,
    .atom false 0 0 63 0 0 0, .red false 0 1 0 8 0 0, .red false 0 1 0 0 7 0, .fence false 6 1, .fence false 0 0, .pref false 3 0 0,
    .pageq false 1 1 3, .omap false 0 29, .cpy false 1 0, .cpyt false 1 27, .cpyr false 1 29, .cpyg false 1 28, .cpyb false 1 28,
    .mshEmit false 0 61 0, .mshClose false 0 0 63, .tex false 0 0 1, .texl false 61 0 0, .texg false 0 59 0, .imgLd false 0 62 0,
    .imgSt false 0 0 31, .ray false 0 0 25, .rayh false 0 0 26].all (fun i => !i.wf) = true := by rfl

/-- A word decodes to no instruction. -/
def rejected (w : Word32) : Bool := match decode w with | .ok _ => false | .error _ => true

/-- Reserved codes and minors, and fields that must be zero (R57, R74); R76's example is 0x1C0FFF83. -/
theorem test_rejected : [0, 0x00300009, 0x00008009, 0x04028000, 0x0C700000, 0x18001C00, 0x1C0FFF83, 0x2000007F, 0x00000401, 0x3C000307,
    0xA0000000, 0xC0000000, 0xFFFFFFFF].all rejected = true := by rfl

/-! ## Single steps: results of the spec's worked examples, or by hand -/

/-- The state after an instruction that answers a next state, the same state otherwise. -/
def run (s : State) (i : Instr) : State := outOf s (exec i s)

/-- A vector register in lane 0. -/
def State.v0 (s : State) (n : Nat) : Word32 := s.vget s.cur n 0

/-- The worked example of R124. -/
theorem test_sdiv : (let s := base.withS [(9, -7), (10, 2)]
    (run s (.sdiv false 8 9 10)).sget s.cur 8 = -3 ∧ (run s (.srem false 8 9 10)).sget s.cur 8 = -1
    ∧ (run s (.sdiv false 8 9 0)).sget s.cur 8 = 0xFFFFFFFFFFFFFFFF ∧ (run s (.srem false 8 9 0)).sget s.cur 8 = -7) := by decide +kernel

/-- The least number by -1: the quotient wraps. -/
theorem test_sdiv_least : (let s := base.withS [(9, 0x8000000000000000), (10, -1)]
    (run s (.sdiv false 8 9 10)).sget s.cur 8 = 0x8000000000000000 ∧ (run s (.srem false 8 9 10)).sget s.cur 8 = 0) := by decide +kernel

theorem test_smulh : (run (base.withS [(1, -1), (2, 2)]) (.smulh false 3 1 2)).sget base.cur 3 = -1 := by decide +kernel
theorem test_ssra : (run (base.withS [(1, -8), (2, 65)]) (.ssra false 1 1 2)).sget base.cur 1 = -4 := by decide +kernel
theorem test_sclz : (run (base.withS [(1, 1)]) (.sclz false 2 1)).sget base.cur 2 = 63 := by decide +kernel
theorem test_sminn : (run (base.withS [(1, -1), (2, 1)]) (.sminn false 3 1 2)).sget base.cur 3 = 1 := by decide +kernel
theorem test_slih : (run (run (base.withS []) (.sli false 1 (-1))) (.slih false 1 1 0x7FFF)).sget base.cur 1 = 0xFFFFFFFFFFFFFFFF := by decide +kernel
theorem test_s0 : (run (base.withS [(1, 5)]) (.smov false 0 1)).sget base.cur 0 = 0 := by decide +kernel

/-- The worked example of R126: s16x2, with and without SAT. -/
theorem test_vadd : (let s := ((base.ofType 4).withV 32 0x7FF00005).withV 8 0x0020FFFE
    (run s (.vadd false 24 32 8)).v0 24 = 0x80100003
    ∧ (run (s.modSp s.cur fun p => { p with gmode := p.gmode ||| 2 }) (.vadd false 24 32 8)).v0 24 = 0x7FFF0003) := by decide +kernel

/-- A guard leaves the other lanes alone (R25). -/
theorem test_guard : (let s := run (((base.ofType 0).withV 1 7).guarded 2) (.vmov false 2 1)
    s.vget s.cur 2 1 = 7 ∧ s.vget s.cur 2 0 = 0) := by decide +kernel

/-- The worked example of R130. -/
theorem test_vprmt : (let s := (((base.ofType 0).withV 3 0x0000C510).withV 1 0x88442211).withV 2 0xDDCCBBAA
    (run s (.vprmt false 3 1 2)).v0 3 = 0xFFBB2211 ∧ (run (s.withV 3 0x4510) (.vprmt false 3 1 2)).v0 3 = 0xAABB2211) := by decide +kernel

/-- The worked example of R133: lanes 0, 1, 2 and 5 hold 1 to 4. -/
theorem test_vscan : (let s := ((([(0, 1), (1, 2), (2, 3), (5, 4)].foldl (fun t p => t.vset t.cur 1 p.1 p.2) (base.ofType 1))).guarded 0x27)
    let t := run s (.vscan false 2 1 0)
    let u := run s (.vreduce false 2 1 0)
    [0, 1, 2, 3, 5].map (fun l => t.vget t.cur 2 l) = [1, 3, 6, 0, 10] ∧ [0, 1, 2, 3, 5].map (fun l => u.vget u.cur 2 l) = [10, 10, 10, 0, 10]) := by
  decide +kernel

/-- v24 and v25 of the worked example of the packed add-compare-select step. -/
def metrics : State :=
  [(24, 0, 0x00030007), (25, 0, 0x00050004), (24, 1, 0x00020002), (25, 1, 0x00020001)].foldl
    (fun (t : State) (p : Nat × Nat × Word32) => t.vset t.cur p.1 p.2.1 p.2.2) (base.ofType 4)

theorem test_compare_select : (let t := run metrics (.vcmpvLt false 30 25 24)
    let u := run t (.vbsel false 30 25 24)
    [0, 1, 2].map (fun l => t.vget t.cur 30 l) = [0x0000FFFF, 0x0000FFFF, 0] ∧ (run t (.vpackb false 9 30)).sget t.cur 9 = 5
    ∧ [0, 1].map (fun l => u.vget u.cur 30 l) = [0x00030004, 0x00020001]) := by decide +kernel

/-- The worked examples of R136. -/
theorem test_predicates : (run base (.pfirst false 4 0)).pget base.cur 4 = 1 ∧ (run base (.pnot false 1 0)).pget base.cur 1 = 0
    ∧ (run base (.pmov false 0 1)).pget base.cur 0 = 0xFFFFFFFF := by decide +kernel

/-- The worked example of IDOT (R160), with and without SAT. -/
theorem test_idot : (let s := (((base.ofType 8).withV 1 0x7F7F7F7F).withV 2 0x7F7F7F7F).withV 3 0x7FFFFD78
    (run s (.idot false 3 1 2)).v0 3 = 0x8000F97C
    ∧ (run (s.modSp s.cur fun p => { p with gmode := p.gmode ||| 2 }) (.idot false 3 1 2)).v0 3 = 0x7FFFFFFF) := by decide +kernel

/-- The worked example of FDOT (R161): one rounding. -/
theorem test_fdot : (let s := ((((base.ofType 7).withV 25 0x3F803F80).withV 26 0x3F803F80).withV 24 0x4B800000).guarded 1
    let t := run s (.fdot false 24 25 26)
    t.v0 24 = 0x4B800001 ∧ mget 0 t.flags (t.cg * 32) = 0) := by decide +kernel

/-- The worked example of FCVT (R164), rne and rna; NX is set. -/
theorem test_fcvt : (let s := ((((base.ofType 7).withV 26 0x3F808000).withV 27 0x40400000).guarded 1)
    let t := run s (.fcvt false 24 26 3)
    t.v0 24 = 0x40403F80 ∧ mget 0 t.flags (t.cg * 32) ≠ 0
    ∧ (run (s.modSp s.cur fun p => { p with gmode := p.gmode ||| 0x10 }) (.fcvt false 24 26 3)).v0 24 = 0x40403F81) := by decide +kernel

/-- The worked example of I2F (R169). -/
theorem test_i2f : (let s := [(26, 3), (27, 17), (28, 500), (29, -9)].foldl (fun (t : State) (p : Nat × Word32) => t.withV p.1 p.2) (base.ofType 10)
    (run (s.guarded 1) (.i2f false 24 26 1)).v0 24 = 0xD17E5844) := by decide +kernel

/-- The worked example of FSCALE (R157): an exact subnormal, and FTZ. -/
theorem test_fscale : (let s := (((base.ofType 6).withV 1 0x0400).withV 2 0xFFFF).guarded 1
    (run s (.fscale false 3 1 2)).v0 3 = 0x0200
    ∧ (run (s.modSp s.cur fun p => { p with gmode := p.gmode ||| 1 }) (.fscale false 3 1 2)).v0 3 = 0) := by decide +kernel

/-- 1.0 + 2 = 3, 1 / 3 to nearest, and 0 / 0. -/
theorem test_floats : (let s := (((base.ofType 3).withV 1 0x3F800000).withV 2 0x40400000).guarded 1
    (run s (.fadd false 3 1 1)).v0 3 = 0x40000000 ∧ (run s (.fdiv false 3 1 2)).v0 3 = 0x3EAAAAAB ∧ (run s (.fdiv false 3 0 0)).v0 3 = 0x7FC00000
    ∧ (run s (.fsqrt false 3 1)).v0 3 = 0x3F800000) := by decide +kernel

/-- MODE p3, bf16x2, rtz, sat: the fields of GMODE (R64). -/
theorem test_mode : (run base (.mode false 3 7 1 1 0)).me.gmode = 0x6E6 := by decide +kernel

/-- The worked example of R27: v50 at CWP 4 and v10 at CWP 5 are one row. -/
theorem test_window : (let s := (base.modGr base.cg fun g => { g with depth := 4 })
    let at' (c n : Nat) : Nat := (s.modSp s.cur fun p => { p with cwp := c }).row s.cur n
    at' 4 50 = at' 5 10 ∧ at' 5 50 = at' 4 50 + 40) := by decide +kernel

/-- The fall-through of a word with S = 1 lies two words on (R51). -/
theorem test_pc_by_S : (run base (.nop true)).me.pc = 2 ∧ (run base (.nop false)).me.pc = 1 := by decide +kernel

/-- The worked example of R101: 20 words back, and BRA.any. -/
theorem test_bra : (run (base.modSp base.cur fun p => { p with pc := 30 }) (.bra false 0 3 0xFFFEC)).me.pc = 10
    ∧ (run (onP 0) (.bra false 1 0 5)).me.pc = 1 := by decide +kernel

/-- A branch that its lanes take apart (R103, R16): the children and the parent. -/
theorem test_bra_divides : (let t := run (onP 0xFF) (.bra false 1 0 5)
    (t.sp 16384).valid = true ∧ (t.sp 16385).valid = true ∧ (t.sp 16385).parent = 0 ∧ (t.sp 16384).mask ||| (t.sp 16385).mask = 0xFFFFFFFF
    ∧ (t.sp 16384).mask &&& (t.sp 16385).mask = 0) := by decide +kernel

theorem test_call_ret : (let s := inSystem.modGr base.cg fun g => { g with depth := 2 }
    let t := run s (.call false 12)
    t.me.pc = 0xFF00000C ∧ t.me.cwp = 1 ∧ t.me.resident = 2 ∧ (run t (.ret false)).me.pc = 0xFF000001 ∧ (run t (.ret false)).me.cwp = 0) := by
  decide +kernel

theorem test_exit : ((run base (.exit false)).sp 16384).valid = false := by decide +kernel

/-- REP 4, 1, 1, 0 and VADD v24, v32, v8: four iterations, the second of v33 into v25 (the worked example of R59). -/
theorem test_rep : (run (holds [0x08192000, 0x30C40400]) (.rep 3 1 1 0)).me.rep = some { i := 0, last := 3, sd := 1, sa := 1, sb := 0 }
    ∧ issued false 0x30C40400 (some { i := 1, last := 3, sd := 1, sa := 1, sb := 0 }) none = .vadd false 25 33 8 := by decide +kernel

/-- WAIT ld 0 st 63 cp 63 tb 1 with a load outstanding: the split waits. -/
theorem test_wait : (run (base.modGr base.cg fun g => { g with ldc := 1 }) (.wait false 0 63 63 1)).me.pc = 0
    ∧ (run base (.wait false 0 63 63 1)).me.pc = 1 := by decide +kernel

/-- Stores and loads of ABUF: what is stored is what is loaded. -/
theorem test_places : (let s := loads.placeWrite (.abuf 128 4) 4 0x12345678; s.placeRead (.abuf 128 4) 4 |>.2) = 0x12345678 := by decide +kernel

/-- The worked example of R330. -/
theorem test_home : hashHome 2 12 0x1234000 = 1 ∧ hashHome 2 16 0x1234000 = 0 := by decide +kernel

/-- The step fetches the word placed for it, and runs it as the first instruction after reset. -/
theorem test_step : (let s := State.reset.withFetchWord 32 0x20240003
    (outOf s (step s)).me.pc = 1 ∧ (match step s with | .next _ => true | _ => false) = true) := by decide +kernel

/-- A word that is no instruction enters the handler at EMUPC (R285, R289), its word and the fall-through recorded. -/
theorem test_emulation_entry : (let s := ((paged base).modGr base.cg fun g => { g with depth := 2 }).modCx 0 fun c => { c with root := 0 }
    let t := run s (issued false 0x1C0FFF83 none none)
    t.me.mode = .emu ∧ t.me.pc = 6 ∧ t.me.cwp = 1 ∧ t.me.bank = 1 ∧ (run t (.owrd false 25 1)).sget t.cur 25 = 0x1C0FFF83
    ∧ (run t (.emret false 0 0)).me.mode = .normal) := by decide +kernel

/-- A privileged form outside a handler traps: with no vector table the context halts (R394). -/
theorem test_privilege : ((run base (.tret false 0)).cx 0).state = .halted := by decide +kernel

/-- ACC.ZERO and the tiles of a team (R198). -/
theorem test_acc_zero : (let s := { loads.owning.withS [(4, 0x10002)] with tiles := [((128 * 2048 + 2) * 256 + 7, 9), ((128 * 2048 + 3) * 256, 5)] }
    (run s (.accZero false 4)).tiles = [((128 * 2048 + 3) * 256, 5)]) := by decide +kernel

end Sys2Proof.Machine
end

section
/-! PROOF of O57. One lemma per function of the model that brings a state: given a state with canonical memories (`State.memOk`) it
brings one. The lemmas stand in the order of the model's files, under the model's names, so that the proof about a function is the
chain of the lemmas about the functions it calls. What changes neither memory is `State.memOk.upd`. -/
namespace Sys2Proof.Machine

set_option Elab.async false

/-- What a step that goes on leaves has canonical memories. -/
def NextOk (o : Out) : Prop := ∀ t, o = .next t → t.memOk

/-- What an answer brings satisfies `Q`, what a failure brings satisfies `P`. -/
structure ExceptOk {ε α : Type} (P : ε → Prop) (Q : α → Prop) (x : Except ε α) : Prop where
  error {e} : x = .error e → P e
  ok {a} : x = .ok a → Q a

/-! ## How the statement passes through the shapes in which meanings are written -/

section Shapes
variable {α β : Type}

theorem State.memOk.upd {s t : State} (h : s.memOk) (hm : t.mem = s.mem := by rfl) (hh : t.hostMem = s.hostMem := by rfl) : t.memOk
    :=
  State.memOk_congr h hm hh

theorem State.memOk.of_eq {p : State × α} {t : State} {x : α} (h : p.1.memOk) (e : p = (t, x)) : t.memOk := by
  rw [e] at h; exact h

theorem State.memOk.ite {c : Prop} [Decidable c] {s t : State} (hs : s.memOk) (ht : t.memOk) : (if c then s else t).memOk := by
  split <;> assumption

theorem State.memOk.iteFst {c : Prop} [Decidable c] {p q : State × α} (hp : p.1.memOk) (hq : q.1.memOk) : (if c then p else
    q).1.memOk := by
  split <;> assumption

theorem State.memOk.foldl {s : State} {f : State → α → State} {l : List α} (h : s.memOk) (hf : ∀ t x, t.memOk → (f t x).memOk) :
    (l.foldl f s).memOk := foldl_keeps State.memOk f hf l s h

theorem State.memOk.foldlFst {p : State × β} {f : State × β → α → State × β} {l : List α} (h : p.1.memOk)
    (hf : ∀ q x, q.1.memOk → (f q x).1.memOk) : (l.foldl f p).1.memOk := foldl_keeps (fun q => q.1.memOk) f hf l p h

theorem State.memOk.next {s : State} (h : s.memOk) : NextOk (.next s) := by
  rintro t ⟨⟩; exact h

theorem State.memOk.issue {s : State} {f : State → State} (h : s.memOk) (hf : ∀ t, t.memOk → (f t).memOk) : NextOk (issue s f) := by
  unfold Machine.issue
  split
  · exact (hf _ h).next
  · rintro t ⟨⟩

theorem ExceptOk.pure {ε : Type} {P : ε → Prop} {Q : α → Prop} {a : α} (h : Q a) : ExceptOk P Q (.ok a) :=
  ⟨nofun, by rintro _ ⟨⟩; exact h⟩

theorem ExceptOk.throw {ε : Type} {P : ε → Prop} {Q : α → Prop} {e : ε} (h : P e) : ExceptOk P Q (.error e) :=
  ⟨by rintro _ ⟨⟩; exact h, nofun⟩

theorem ExceptOk.bind {ε : Type} {P : ε → Prop} {Q : α → Prop} {R : β → Prop} {x : Except ε α} {f : α → Except ε β}
    (h : ExceptOk P Q x) (hf : ∀ a, Q a → ExceptOk P R (f a)) : ExceptOk P R (x >>= f) := by
  cases x with
  | error e => exact .throw (h.error rfl)
  | ok a => exact hf a (h.ok rfl)

theorem ExceptOk.foldlM {ε : Type} {P : ε → Prop} {Q : β → Prop} {f : β → α → Except ε β} (hf : ∀ b a, Q b → ExceptOk P Q (f b a)) :
    ∀ (l : List α) (b : β), Q b → ExceptOk P Q (l.foldlM f b)
  | [], _, h => .pure h
  | a :: l, _, h => (hf _ a h).bind fun c hc => ExceptOk.foldlM hf l c hc

theorem ExceptOk.ite {ε : Type} {P : ε → Prop} {Q : α → Prop} {c : Prop} [Decidable c] {x y : Except ε α} (hx : ExceptOk P Q x)
    (hy : ExceptOk P Q y) : ExceptOk P Q (if c then x else y) := by
  split <;> assumption

theorem ExceptOk.map {ε : Type} {P : ε → Prop} {Q : α → Prop} {R : β → Prop} {x : Except ε α} {f : α → β} (h : ExceptOk P Q x)
    (hf : ∀ a, Q a → R (f a)) : ExceptOk P R (x.map f) := by
  cases x with
  | error e => exact .throw (h.error rfl)
  | ok a => exact .pure (hf a (h.ok rfl))

/-- A step that finds something, or leaves a state in which it waits: either state has canonical memories. -/
abbrev TriedOk (x : Except State (State × α)) : Prop := ExceptOk State.memOk (fun p => p.1.memOk) x

/-- The same of a step that finds nothing more. -/
abbrev DoneOk (x : Except State State) : Prop := ExceptOk State.memOk State.memOk x

theorem State.memOk.found {s : State} {x : α} (h : s.memOk) : TriedOk (.ok (s, x)) := .pure h

theorem State.memOk.waits {s : State} (h : s.memOk) : TriedOk (α := α) (.error s) := .throw h

/-- A residency check: the state it leaves, and where the instruction ends or stalls here, that state. -/
def PairOk (p : State × Option State) : Prop := p.1.memOk ∧ ∀ t, p.2 = some t → t.memOk

theorem State.memOk.goesOn {s : State} (h : s.memOk) : PairOk (s, none) := ⟨h, by rintro _ ⟨⟩⟩

theorem State.memOk.stops {s t : State} (hs : s.memOk) (ht : t.memOk) : PairOk (s, some t) :=
  ⟨hs, by rintro _ ⟨⟩; exact ht⟩

theorem PairOk.ite {c : Prop} [Decidable c] {p q : State × Option State} (hp : PairOk p) (hq : PairOk q) : PairOk (if c then p else
    q) := by
  split <;> assumption

end Shapes


/-! ## Machine/Regs -/

theorem State.memOk.setSp {s : State} {k v} (h : s.memOk) : (s.setSp k v).memOk := h

theorem State.memOk.modSp {s : State} {k f} (h : s.memOk) : (s.modSp k f).memOk := h.setSp

theorem State.memOk.setGr {s : State} {g v} (h : s.memOk) : (s.setGr g v).memOk := h

theorem State.memOk.modGr {s : State} {g f} (h : s.memOk) : (s.modGr g f).memOk := h.setGr

theorem State.memOk.setTm {s : State} {t v} (h : s.memOk) : (s.setTm t v).memOk := h

theorem State.memOk.modTm {s : State} {t f} (h : s.memOk) : (s.modTm t f).memOk := h.setTm

theorem State.memOk.modLa {s : State} {n f} (h : s.memOk) : (s.modLa n f).memOk := h

theorem State.memOk.modDr {s : State} {n f} (h : s.memOk) : (s.modDr n f).memOk := h

theorem State.memOk.modCx {s : State} {c f} (h : s.memOk) : (s.modCx c f).memOk := h

theorem State.memOk.modDi {s : State} {d f} (h : s.memOk) : (s.modDi d f).memOk := h

theorem State.memOk.modCo {s : State} {c f} (h : s.memOk) : (s.modCo c f).memOk := h

theorem State.memOk.modFn {s : State} {n f} (h : s.memOk) : (s.modFn n f).memOk := h

theorem State.memOk.modPa {s : State} {n f} (h : s.memOk) : (s.modPa n f).memOk := h

theorem State.memOk.setRegion {s : State} {k r} (h : s.memOk) : (s.setRegion k r).memOk := h

theorem State.memOk.fresh {s : State} (h : s.memOk) : (s.fresh).memOk := h

theorem State.memOk.sset {s : State} {k n v} (h : s.memOk) : (s.sset k n v).memOk := h.ite h.upd

theorem State.memOk.pset {s : State} {k n v} (h : s.memOk) : (s.pset k n v).memOk := h.ite h.upd

theorem State.memOk.rowSet {s : State} {g row l v} (h : s.memOk) : (s.rowSet g row l v).memOk := h

theorem State.memOk.vset {s : State} {k n l v} (h : s.memOk) : (s.vset k n l v).memOk := h.rowSet

theorem State.memOk.vsets {s : State} {k n ls f} (h : s.memOk) : (s.vsets k n ls f).memOk := h.foldl fun _ _ h => h.vset

theorem State.memOk.orFlag {s : State} {g l f} (h : s.memOk) : (s.orFlag g l f).memOk := h

theorem State.memOk.setLink {s : State} {g l c v} (h : s.memOk) : (s.setLink g l c v).memOk := h

theorem State.memOk.waitFor {s : State} {k w} (h : s.memOk) : (s.waitFor k w).memOk := h.modSp

theorem State.memOk.wake {s : State} (h : s.memOk) : (s.wake).memOk := h

theorem State.memOk.ready {s : State} {k} (h : s.memOk) : (s.ready k).memOk := h.modSp

/-! ## Machine/Home -/

theorem State.memOk.setDir {s : State} {sec v} (h : s.memOk) : (s.setDir sec v).memOk := h

theorem State.memOk.setSharers {s : State} {sec v} (h : s.memOk) : (s.setSharers sec v).memOk := h

theorem State.memOk.loseSector {s : State} {sec} (h : s.memOk) : (s.loseSector sec).memOk := h

theorem State.memOk.countStale {s : State} {die} (h : s.memOk) : (s.countStale die).memOk := h.modDi.ite h

theorem State.memOk.raiseIrq {s : State} {fn v} (h : s.memOk) : (s.raiseIrq fn v).memOk := h.modFn

theorem State.memOk.errorIrq {s : State} (h : s.memOk) : (s.errorIrq).memOk := h.raiseIrq

theorem State.memOk.startTest {s : State} {die kind number} (h : s.memOk) : (s.startTest die kind number).memOk :=
  h.ite h.modDi.errorIrq

theorem State.memOk.meetBad {s : State} {die sec home} (h : s.memOk) : (s.meetBad die sec home).memOk :=
  h.loseSector.startTest.ite (h.loseSector.startTest.ite h.loseSector)

theorem State.memOk.llcMove {s : State} {home slice} (h : s.memOk) : (s.llcMove home slice).memOk :=
  h.upd.foldl fun _ _ h => (State.memOk_llcUse _ _ h)

theorem State.memOk.walkWord {s : State} {a} (h : s.memOk) : (s.walkWord a).1.memOk := State.memOk_homeRead _ _ h

/-! ## Machine/Translate -/

theorem State.memOk.walkRead {s : State} {level table va} (h : s.memOk) : (s.walkRead level table va).1.memOk := iteFst h.walkWord h

theorem State.memOk.fillWalk {s : State} {die ctx level va e} (h : s.memOk) : (s.fillWalk die ctx level va e).memOk := h

theorem State.memOk.walkFrom {die ctx} : ∀ {level table va} {s : State}, s.memOk → (s.walkFrom die ctx level table va).1.memOk
  | 0, _, _, _, h => h
  | level + 1, table, va, s, h => by
    unfold State.walkFrom
    split
    · exact h.walkFrom
    · split
      · next e => exact h.walkRead.of_eq e
      · next t _ e =>
        have ht : t.memOk := h.walkRead.of_eq e
        exact ht.iteFst (ht.iteFst (ht.iteFst ht.fillWalk.walkFrom))

theorem State.memOk.fillTlb {s : State} {die va e} (h : s.memOk) : (s.fillTlb die va e).memOk := h

theorem State.memOk.fillL0 {s : State} {core e} (h : s.memOk) : (s.fillL0 core e).memOk := h

theorem State.memOk.lookup {s : State} {core ctx va} (h : s.memOk) : (s.lookup core ctx va).1.memOk := by
  unfold State.lookup
  split
  · exact h.fillL0
  · split
    · exact h.fillL0
    · split
      · next t _ _ e3 => exact (h.walkFrom.of_eq e3).fillTlb.fillL0
      · next t _ e3 => exact h.walkFrom.of_eq e3

theorem State.memOk.setPeer {s : State} {peer p} (h : s.memOk) : (s.setPeer peer p).memOk := h

theorem State.memOk.hostPlace {s : State} {die ctx need addr} (h : s.memOk) : (s.hostPlace die ctx need addr).1.memOk := by
  unfold State.hostPlace
  dsimp only
  split
  · exact iteFst h h.modFn
  · exact iteFst h (iteFst h h)

theorem State.memOk.translate {s : State} {core ctx va need} (h : s.memOk) : (s.translate core ctx va need).1.memOk := by
  unfold State.translate
  split
  · next t _ e =>
      split
      · exact h.lookup.of_eq e
      · exact h.lookup.of_eq e
      · exact h.lookup.of_eq e
      · exact (h.lookup.of_eq e).iteFst ((h.lookup.of_eq e).hostPlace.iteFst ((h.lookup.of_eq e).iteFst (h.lookup.of_eq e)))

theorem State.memOk.resolve {s : State} {k lane va size need} (h : s.memOk) : (s.resolve k lane va size need).1.memOk := by
  unfold State.resolve
  extract_lets g core gr tm
  split
  · exact h.translate
  split
  · exact h.iteFst (h.iteFst h)
  split
  · exact h.iteFst h
  split
  · exact h.iteFst h.translate
  · exact h

theorem State.memOk.setL1 {s : State} {core sec v} (h : s.memOk) : (s.setL1 core sec v).memOk := h

theorem State.memOk.countMiss {s : State} {core cls sec home} (h : s.memOk) : (s.countMiss core cls sec home).memOk :=
  (State.memOk_countReq _ h).ite h

theorem State.memOk.nowSector {s : State} {core sec cls home} (h : s.memOk) : (s.nowSector core sec cls home).1.memOk := by
  unfold State.nowSector
  split
  · exact iteFst h (State.memOk_homeRead _ _ (State.memOk_settleSector _ h))
  · exact iteFst h (iteFst h (State.memOk_homeRead _ _ (State.memOk_settleSector _ h))).setL1

theorem State.memOk.nowRead {s : State} {core p n} (h : s.memOk) : (s.nowRead core p n).1.memOk := by
  unfold State.nowRead
  split
  · exact iteFst (h.ite h.countMiss).nowSector (State.memOk_devRead _ _ _ h)
  · exact State.memOk_placeRead _ _ h

theorem State.memOk.nowWrite {s : State} {core p n v} (h : s.memOk) : (s.nowWrite core p n v).memOk := by
  unfold State.nowWrite
  split
  · dsimp only
    split
    · refine State.memOk.ite ?_ h.setL1
      exact State.memOk_devWrite _ _ _ _ h.setL1
    · exact (State.memOk_setL2 _ _ _ h).ite (State.memOk_devWrite _ _ _ _ h)
  · exact State.memOk_placeWrite _ _ _ h

theorem State.memOk.vaRead {s : State} {core ctx va n} (h : s.memOk) : (s.vaRead core ctx va n).1.memOk := by
  unfold State.vaRead
  split
  · next t _ _ e => exact (h.translate.of_eq e).nowRead
  · next t _ e => exact h.translate.of_eq e

theorem State.memOk.vaWaits {s : State} {core ctx va need} (h : s.memOk) : (s.vaWaits core ctx va need).1.memOk := by
  unfold State.vaWaits
  split
  · next t e => exact h.translate.of_eq e
  · next t _ _ e => exact h.translate.of_eq e
  · next t _ e => exact h.translate.of_eq e

theorem State.memOk.vaWrite {s t : State} {core ctx va n v} (h : s.memOk) (e : s.vaWrite core ctx va n v = some t) : t.memOk := by
  unfold State.vaWrite at e
  split at e
  · next e' => cases e; exact (h.translate.of_eq e').nowWrite
  · cases e

/-! ## Machine/Chuck -/

theorem State.memOk.ovHeader {s : State} {core c} (h : s.memOk) : (s.ovHeader core c).1.memOk := by
  unfold State.ovHeader
  split
  next e =>
    split <;> exact h.vaRead.of_eq e

theorem State.memOk.ovWaits {s : State} {core c id} (h : s.memOk) : (s.ovWaits core c id).1.memOk := by
  unfold State.ovWaits
  dsimp only
  split
  · next e => exact h.vaWaits.of_eq e
  · next t e =>
    have ht : t.memOk := h.vaWaits.of_eq e
    refine State.memOk.iteFst ?_ ?_
    · exact ht.ovHeader
    · exact ht.ovHeader.vaWaits

theorem State.memOk.ovAnyWaits {s : State} {core c ids} (h : s.memOk) : (s.ovAnyWaits core c ids).1.memOk :=
  h.foldlFst fun _ _ h => h.iteFst h.ovWaits

theorem State.memOk.ovEntry {s : State} {core c id} (h : s.memOk) : (s.ovEntry core c id).1.memOk := by
  unfold State.ovEntry
  grind [State.memOk.ovHeader, State.memOk.vaRead]

theorem State.memOk.targetLen {s : State} {core c id} (h : s.memOk) : (s.targetLen core c id).1.memOk := iteFst h h.ovEntry

theorem State.memOk.pageWords {s : State} {core p at' acc} (h : s.memOk) : (s.pageWords core p at' acc).1.memOk := by
  unfold State.pageWords
  split
  · exact (State.memOk_forceViews _ _ _ ((h.foldl fun _ _ h => (State.memOk_settleSector _ h).countMiss).foldl fun _ _ h =>
        (State.memOk_llcUse _ _ h))).foldlFst fun _ _ h => h.nowSector
  · exact h
  · exact h

theorem State.memOk.readImage {core c image} : ∀ {n i acc} {s : State}, s.memOk → (s.readImage core c image i n acc).1.memOk
  | 0, _, _, _, h => h
  | n + 1, i, acc, s, h => by
    unfold State.readImage
    split
    · next e =>
      have ht := h.translate.of_eq e
      refine ht.iteFst ?_
      split
      · exact ht.loseSector
      · exact ht.iteFst ht.pageWords.readImage
    all_goals next e => exact h.translate.of_eq e

theorem State.memOk.makeRoom {core c quota len t} : ∀ {n} {s : State}, s.memOk → s.makeRoom core c quota len n = some t → t.memOk
  | 0, _, _, e => nomatch e
  | n + 1, s, h, e => by
    unfold State.makeRoom at e
    split at e
    · cases e; exact h
    · split at e
      · cases e
      · exact h.upd.makeRoom e

theorem State.memOk.startFill {s : State} {core c ovl tok} (h : s.memOk) : (s.startFill core c ovl tok).1.memOk := by
  unfold State.startFill
  split
  · exact h.upd
  refine h.iteFst ?_
  split
  · next t _ _ e _ =>
    have ht : t.memOk := h.ovWaits.of_eq e
    refine ht.iteFst (ht.iteFst ?_)
    dsimp only
    split
    · exact ht.ovEntry
    · exact ht.ovEntry.fresh.upd
  · next e _ => exact h.ovWaits.of_eq e
  · next e _ =>
    have ht := (h.ovWaits.of_eq e).ovEntry (core := core) (c := c) (id := ovl)
    dsimp only
    split
    · exact ht
    split
    · next e => exact ht.readImage.of_eq e
    · next e => exact ht.readImage.of_eq e
    · next t _ e =>
      have hu : t.memOk := ht.readImage.of_eq e
      split
      · exact hu.ovHeader
      · next e => exact (hu.ovHeader.makeRoom e).fresh.upd

theorem State.memOk.restartFill {s : State} {f} (h : s.memOk) : (s.restartFill f).memOk := by
  unfold State.restartFill
  dsimp only
  split
  · next e => exact h.ovWaits.of_eq e
  · next t e =>
    have ht : t.memOk := h.ovWaits.of_eq e
    split
    · next e => exact (ht.ovEntry.of_eq e).upd
    · next u _ _ e =>
      have hu : u.memOk := ht.ovEntry.of_eq e
      split
      · next e => exact hu.readImage.of_eq e
      · next e => exact (hu.readImage.of_eq e).upd
      · next e =>
        split
        · next e' => exact ((hu.readImage.of_eq e).ovHeader.makeRoom e').upd
        · exact (hu.readImage.of_eq e).ovHeader.upd

theorem State.memOk.settleChuck {s : State} (h : s.memOk) : (s.settleChuck).memOk :=
  ((h.upd.ite h).foldl fun _ _ h => h.restartFill.ite h).ite (h.upd.ite h)

/-! ## Machine/Split -/

theorem State.memOk.mapOrder {s : State} {f} (h : s.memOk) : (s.mapOrder f).memOk := h

theorem State.memOk.newPath {s : State} {k stop pc mask} (h : s.memOk) : (s.newPath k stop pc mask).memOk := by
  unfold State.newPath
  dsimp only
  split
  · exact h.mapOrder.setSp
  · exact h.mapOrder.modGr.fresh

theorem State.memOk.divide {s : State} {k pc stay paths} (h : s.memOk) : (s.divide k pc stay paths).memOk :=
  h.modSp.foldl fun _ _ h => h.newPath

theorem State.memOk.restoreHeads {g} : ∀ {n} {s : State}, s.memOk → (s.restoreHeads g n).memOk
  | 0, _, h => h
  | n + 1, s, h => by
    unfold State.restoreHeads
    dsimp only
    split
    · exact h
    · exact h.modSp.restoreHeads

theorem State.memOk.popPark {s : State} {g k} (h : s.memOk) : (s.popPark g k).memOk := by
  unfold State.popPark
  split
  · exact h
  · exact h.mapOrder.modGr.setSp

theorem State.memOk.freeEntry {s : State} {k} (h : s.memOk) : (s.freeEntry k).memOk :=
  (h.mapOrder.fresh.setSp.foldl fun _ _ h => h.modSp).modGr.restoreHeads.popPark

theorem State.memOk.addMark {s : State} {m} (h : s.memOk) : (s.addMark m).memOk := h

theorem State.memOk.fuse {s : State} {i j} (h : s.memOk) : (s.fuse i j).memOk := h.fresh.addMark.modSp.mapOrder.freeEntry

theorem State.memOk.fuseAll {g} : ∀ {n} {s : State}, s.memOk → (s.fuseAll g n).memOk
  | 0, _, h => h
  | n + 1, s, h => by
    unfold State.fuseAll
    split
    · exact h.fuse.fuseAll
    · exact h

/-! ## Machine/Halt -/

theorem State.memOk.releaseHeld {s : State} {st holder} (h : s.memOk) : (s.releaseHeld st holder).memOk := h

theorem State.memOk.dropGroup {s : State} {g} (h : s.memOk) : (s.dropGroup g).memOk := by
  have hs : ((entries g).foldl (fun t k => ((t.releaseHeld 4 k).setRegion k none).setSp k {}) s).memOk :=
    h.foldl fun _ _ h => h.releaseHeld.setRegion.setSp
  exact (hs.setGr (g := g) (v := {})).upd

theorem State.memOk.dropWork {s : State} {c} (h : s.memOk) : (s.dropWork c).memOk :=
  State.memOk.foldl (f := fun t i => t.releaseHeld 3 i) (h.foldl fun _ _ h => h.dropGroup) fun _ _ h => h.releaseHeld

theorem State.memOk.haltCtx {s : State} {c i} (h : s.memOk) : (s.haltCtx c i).memOk := by
  have hd : ∀ {f}, ((s.dropWork c).modCx c f).memOk := h.dropWork.modCx
  refine h.ite (hd.wake.ite (State.memOk.raiseIrq (State.memOk.foldl ?_ fun _ _ h => State.memOk_physPut _ _ h)).wake)
  exact State.memOk_physPut _ _ (State.memOk_physPut _ _ (State.memOk_physPut _ _ hd))

theorem State.memOk.haltSplit {s : State} {k cause dbl addr} (h : s.memOk) : (s.haltSplit k cause dbl addr).memOk := h.haltCtx

/-! ## Machine/Ops -/

theorem State.memOk.advance {s : State} {e} (h : s.memOk) : (s.advance e).memOk := h.modSp

theorem State.memOk.stopHere {s : State} {k pc} (h : s.memOk) : (s.stopHere k pc).memOk := by
  unfold State.stopHere
  dsimp only
  split
  · exact h
  · split
    · exact h.setSp.ite h
    · exact h

theorem State.memOk.goto {s : State} {pc} (h : s.memOk) : (s.goto pc).memOk := h.modSp

theorem State.memOk.orphanLoads {s : State} {k} (h : s.memOk) : (s.orphanLoads k).memOk := h

theorem State.memOk.restoreRegs {s : State} {r} (h : s.memOk) : (s.restoreRegs r).memOk := h

theorem State.memOk.regAbort {s : State} {k a} (h : s.memOk) : (s.regAbort k a).memOk := by
  unfold State.regAbort
  split
  · exact h
  · next r _ =>
    have hr : (((s.orphanLoads k).restoreRegs r).releaseHeld 4 k).memOk := h.orphanLoads.restoreRegs.releaseHeld
    exact (State.memOk.sset (State.memOk.modSp (State.memOk.setRegion hr.upd))).wake

theorem State.memOk.putWords {core c t} : ∀ {ws a} {s : State}, s.memOk → s.putWords core c a ws = some t → t.memOk
  | [], _, _, h, e => by cases e; exact h
  | w :: ws, a, s, h, e => by
    unfold State.putWords at e
    split at e
    · next e' => exact (h.vaWrite e').putWords e
    · cases e

theorem State.memOk.entryHalt {s : State} {k cause} (h : s.memOk) : (s.entryHalt k cause).memOk := by
  unfold State.entryHalt
  dsimp only
  split <;> exact h.haltCtx

theorem State.memOk.ensureCode {s : State} {k} (h : s.memOk) : (s.ensureCode k).memOk := by
  unfold State.ensureCode
  dsimp only
  split
  · exact h
  · split
    · next t e2 => exact h.startFill.of_eq e2
    · next t _ e2 => exact (h.startFill.of_eq e2).waitFor
    · next t e2 => exact (h.startFill.of_eq e2).waitFor
    · next t _ e2 => exact (h.startFill.of_eq e2).entryHalt

theorem State.memOk.enterTrap {s : State} {k t pc at'} (h : s.memOk) : (s.enterTrap k t pc at').memOk :=
  h.setSp.sset.ensureCode

theorem State.memOk.trap {s : State} {k t} (h : s.memOk) : (s.trap k t).memOk := by
  unfold State.trap
  extract_lets
  refine h.haltSplit.ite (h.regAbort.ite (h.haltSplit.ite ?_))
  extract_lets
  refine h.haltSplit.ite (h.modSp.ite ?_)
  extract_lets
  split
  next u _ e =>
  have hu : u.memOk := h.vaWaits.of_eq e
  refine hu.modSp.ite ?_
  dsimp only
  split
  · exact hu.haltSplit
  · next e => exact (hu.putWords e).enterTrap

theorem State.memOk.trapU {s : State} {cause} (h : s.memOk) : (s.trapU cause).memOk := h.trap

theorem State.memOk.returnTrap {s : State} {k again} (h : s.memOk) : (s.returnTrap k again).memOk := by
  unfold State.returnTrap
  dsimp only
  split
  · exact h
  · exact h.setSp

theorem State.memOk.enterEmu {s : State} {cause word live} (h : s.memOk) : (s.enterEmu cause word live).memOk :=
  h.haltSplit.ite (h.waitFor.ite (h.trapU.ite (h.haltSplit.ite h.setSp.ensureCode)))

theorem State.memOk.nonNative {s : State} {cause word live} (h : s.memOk) : (s.nonNative cause word live).memOk :=
  (h.regAbort.ite h.regAbort).ite (h.modGr.advance.ite h.enterEmu)

theorem State.memOk.undef {s : State} (h : s.memOk) : (s.undef).memOk := h.nonNative

theorem State.memOk.stall {s : State} (h : s.memOk) : (s.stall).memOk := h.waitFor

theorem State.memOk.abortIn {s : State} {k detail slot} (h : s.memOk) : DoneOk (abortIn s k detail slot) := .throw h.regAbort

theorem State.memOk.abortWhole {s : State} {k detail} (h : s.memOk) : (abortWhole s k detail).memOk := h.regAbort

theorem State.memOk.addCons {s : State} {k c} (h : s.memOk) : DoneOk (s.addCons k c) := by
  unfold State.addCons
  split
  · exact .pure h
  · exact h.abortIn.ite (.pure h.setRegion)

theorem State.memOk.concretise {s : State} {k slot x} (h : s.memOk) : DoneOk (s.concretise k slot x) := by
  unfold State.concretise
  split
  · exact .pure h
  · exact .ite (.pure h) h.addCons

theorem State.memOk.setTag {s : State} {k t v} (h : s.memOk) : (s.setTag k t v).memOk := by
  unfold State.setTag
  split
  · exact h.setRegion
  · exact h

theorem State.memOk.concLoc {s : State} {k t} (h : s.memOk) : DoneOk (s.concLoc k t) := by
  unfold State.concLoc
  split
  · exact .pure h
  · exact h.concretise.map fun _ h => h.setTag

theorem State.memOk.concAll {s : State} {k ts} (h : s.memOk) : DoneOk (s.concAll k ts) :=
  ExceptOk.foldlM (fun _ _ h => h.concLoc) _ _ h

theorem State.memOk.tagWork {s : State} {k u} (h : s.memOk) : ∀ {tag}, TriedOk (s.tagWork k u tag)
  | .own => h.found
  | .conc => h.concAll.bind fun _ h => h.concAll.bind fun _ h => h.found
  | .linS d a b sub => by
    simp only [State.tagWork]
    split
    · exact h.found
    · exact h.found
    · exact .ite (h.concLoc.bind fun _ h => h.found) h.found
    · exact h.concAll.bind fun _ h => h.found
  | .immS d a i => by
    simp only [State.tagWork]
    split <;> exact h.found
  | .movS d a => by
    simp only [State.tagWork]
    split <;> exact h.found
  | .cmpS c a b rel sg => by
    simp only [State.tagWork]
    split
    · exact h.found
    · exact h.addCons.bind fun _ h => h.found
    · exact h.addCons.bind fun _ h => h.found
    · exact h.concAll.bind fun _ h => h.found
  | .linV d a b sub wide => by
    refine ExceptOk.foldlM (fun acc l h => ?_) _ _ h
    dsimp only
    split
    · exact h.concAll.bind fun _ h => h.found
    · exact .ite (h.concAll.bind fun _ h => h.found) (h.concAll.bind fun _ h => h.found)
    · exact h.concAll.bind fun _ h => h.found
  | .immV d a i wide => by
    refine ExceptOk.foldlM (fun acc l h => ?_) _ _ h
    dsimp only
    split
    · exact State.memOk.found h
    · exact h.concAll.bind fun _ h => h.found
  | .movV d a wide => h.found
  | .cmpV a b rel sg wide => by
    refine ExceptOk.foldlM (fun acc l h => ?_) _ _ h
    dsimp only
    split
    · exact h.concAll.bind fun _ h => h.addCons.bind fun _ h => h.found
    · exact h.concAll.bind fun _ h => h.addCons.bind fun _ h => h.found
    · exact h.concAll.bind fun _ h => h.found

theorem State.memOk.saveDests {s : State} {k u} (h : s.memOk) : DoneOk (s.saveDests k u) := by
  unfold State.saveDests
  split
  · exact .pure h
  · exact .ite (.throw h.abortWhole) (.ite h.abortIn (.pure h.setRegion))

theorem State.memOk.countIssue {s : State} {k} (h : s.memOk) : DoneOk (s.countIssue k) := by
  unfold State.countIssue
  split
  · exact .pure h
  · exact .ite (.throw h.abortWhole) (.pure h.setRegion)

theorem State.memOk.retag {s : State} {k ls u new} (h : s.memOk) : (s.retag k ls u new).memOk :=
  (h.foldl fun _ _ h => h.setTag).foldl fun _ _ h => h.ite h.setTag

theorem State.memOk.inRegionDo {s : State} {k u tag eff} (h : s.memOk) (heff : ∀ t, t.memOk → (eff t).memOk) :
    (s.inRegionDo k u tag eff).memOk := by
  have hr : TriedOk (do
      let s ← s.countIssue k
      let s ← s.saveDests k u
      s.tagWork k u tag) := h.countIssue.bind fun _ h => h.saveDests.bind fun _ h => h.tagWork
  unfold State.inRegionDo
  dsimp only
  split
  · next e => exact hr.error e
  · next e => exact (heff _ (hr.ok e)).retag

theorem State.memOk.form {s : State} {e u tag eff} (h : s.memOk) (heff : ∀ t, t.memOk → (eff t).memOk) :
    (s.form e u tag eff).memOk :=
  have hr := h.inRegionDo heff
  .ite h.stall (.ite (hr.advance.ite hr) (heff _ h).advance)

theorem State.memOk.whenFree {s : State} {u f} (h : s.memOk) (hf : ∀ t, t.memOk → (f t).memOk) : (s.whenFree u f).memOk :=
  .ite h.stall (.ite (h.inRegionDo hf) (hf _ h))

theorem State.memOk.barred {s : State} {code detail} (h : s.memOk) : (s.barred code detail).memOk := h.regAbort

/-! ## Machine/Operands -/

theorem State.memOk.putOp {s : State} {k n l wide v} (h : s.memOk) : (s.putOp k n l wide v).memOk := h.vset.vset.ite h.vset

theorem State.memOk.putLanes {s : State} {n wide f} (h : s.memOk) : (s.putLanes n wide f).memOk := h.foldl fun _ _ h => h.putOp

theorem State.memOk.scal2 {s : State} {e d a b tag f} (h : s.memOk) : (s.scal2 e d a b tag f).memOk := h.form (fun _ h => h.sset)

theorem State.memOk.scal1 {s : State} {e d a tag f} (h : s.memOk) : (s.scal1 e d a tag f).memOk := h.form (fun _ h => h.sset)

theorem State.memOk.vec {s : State} {e ok d srcs tag f} (h : s.memOk) : (s.vec e ok d srcs tag f).memOk :=
  h.undef.ite (h.form (fun _ h => h.putLanes))

/-! ## Machine/Flags -/

theorem State.memOk.orLanes {s : State} {ls f} (h : s.memOk) : (s.orLanes ls f).memOk := h.foldl fun _ _ h => h.orFlag

theorem State.memOk.vecFl {s : State} {e ok srcs dsts f} (h : s.memOk) : (s.vecFl e ok srcs dsts f).memOk :=
  h.undef.ite (h.form (fun _ h => (h.foldl fun _ _ h => h.foldl fun _ _ h => h.vset).orLanes))

/-! ## Machine/FloatArith -/

theorem State.memOk.fform {s : State} {e d srcs f} (h : s.memOk) : (s.fform e d srcs f).memOk := h.vecFl

theorem State.memOk.execFadd {e d a b} {s : State} (h : s.memOk) : NextOk (execFadd e d a b s) := h.issue (fun _ h => h.fform)

theorem State.memOk.execFsub {e d a b} {s : State} (h : s.memOk) : NextOk (execFsub e d a b s) := h.issue (fun _ h => h.fform)

theorem State.memOk.execFmul {e d a b} {s : State} (h : s.memOk) : NextOk (execFmul e d a b s) := h.issue (fun _ h => h.fform)

theorem State.memOk.execFmin {e d a b} {s : State} (h : s.memOk) : NextOk (execFmin e d a b s) := h.issue (fun _ h => h.fform)

theorem State.memOk.execFmax {e d a b} {s : State} (h : s.memOk) : NextOk (execFmax e d a b s) := h.issue (fun _ h => h.fform)

theorem State.memOk.execFdiv {e d a b} {s : State} (h : s.memOk) : NextOk (execFdiv e d a b s) := h.issue (fun _ h => h.fform)

theorem State.memOk.execFscale {e d a b} {s : State} (h : s.memOk) : NextOk (execFscale e d a b s) := h.issue (fun _ h => h.fform)

theorem State.memOk.execFabs {e d a} {s : State} (h : s.memOk) : NextOk (execFabs e d a s) := h.issue (fun _ h => h.fform)

theorem State.memOk.execFneg {e d a} {s : State} (h : s.memOk) : NextOk (execFneg e d a s) := h.issue (fun _ h => h.fform)

theorem State.memOk.execFrcp {e d a} {s : State} (h : s.memOk) : NextOk (execFrcp e d a s) := h.issue (fun _ h => h.fform)

theorem State.memOk.execFrsq {e d a} {s : State} (h : s.memOk) : NextOk (execFrsq e d a s) := h.issue (fun _ h => h.fform)

theorem State.memOk.execFsqrt {e d a} {s : State} (h : s.memOk) : NextOk (execFsqrt e d a s) := h.issue (fun _ h => h.fform)

theorem State.memOk.execFexp2 {e d a} {s : State} (h : s.memOk) : NextOk (execFexp2 e d a s) := h.issue (fun _ h => h.fform)

theorem State.memOk.execFlog2 {e d a} {s : State} (h : s.memOk) : NextOk (execFlog2 e d a s) := h.issue (fun _ h => h.fform)

theorem State.memOk.execFsinp {e d a} {s : State} (h : s.memOk) : NextOk (execFsinp e d a s) := h.issue (fun _ h => h.fform)

theorem State.memOk.execFcosp {e d a} {s : State} (h : s.memOk) : NextOk (execFcosp e d a s) := h.issue (fun _ h => h.fform)

theorem State.memOk.execFma {e d a b} {s : State} (h : s.memOk) : NextOk (execFma e d a b s) := h.issue (fun _ h => h.fform)

theorem State.memOk.execFms {e d a b} {s : State} (h : s.memOk) : NextOk (execFms e d a b s) := h.issue (fun _ h => h.fform)

theorem State.memOk.execFnma {e d a b} {s : State} (h : s.memOk) : NextOk (execFnma e d a b s) := h.issue (fun _ h => h.fform)

theorem State.memOk.execIdot {e d a b} {s : State} (h : s.memOk) : NextOk (execIdot e d a b s) := h.issue (fun _ h => h.vecFl)

theorem State.memOk.execFdot {e d a b} {s : State} (h : s.memOk) : NextOk (execFdot e d a b s) := h.issue (fun _ h => h.vecFl)

/-! ## Machine/FloatConv -/

theorem State.memOk.convert {s : State} {e ok d a src dst f} (h : s.memOk) : (s.convert e ok d a src dst f).memOk :=
  h.undef.ite h.vecFl

theorem State.memOk.execFcvt {e d a t} {s : State} (h : s.memOk) : NextOk (execFcvt e d a t s) := h.issue (fun _ h => h.convert)

theorem State.memOk.execFrnd {e d a t} {s : State} (h : s.memOk) : NextOk (execFrnd e d a t s) := h.issue (fun _ h => h.convert)

theorem State.memOk.execFclass {e d a t} {s : State} (h : s.memOk) : NextOk (execFclass e d a t s) := h.issue (fun _ h => h.convert)

theorem State.memOk.execF2i {e d a t} {s : State} (h : s.memOk) : NextOk (execF2i e d a t s) := h.issue (fun _ h => h.convert)

theorem State.memOk.execI2f {e d a t} {s : State} (h : s.memOk) : NextOk (execI2f e d a t s) := h.issue (fun _ h => h.convert)

/-! ## Machine/Access -/

theorem State.memOk.ask {s : State} {q} (h : s.memOk) : (s.ask q).memOk := h.ite (State.memOk_countReq _ h).upd

theorem State.memOk.evictSector {s : State} {die sec} (h : s.memOk) : (s.evictSector die sec).memOk :=
  State.memOk_setL2 _ _ _ (((State.memOk_homeMerge _ _ _ _ (State.memOk_countReq _ h)).ite h).setDir.ite ((State.memOk_homeMerge _
      _ _ _ (State.memOk_countReq _ h)).ite h))

theorem State.memOk.releaseBlock {s : State} {sec} (h : s.memOk) : (s.releaseBlock sec).memOk := by
  unfold State.releaseBlock
  split
  · exact h
  · exact (h.foldl fun _ _ h => h.ite h.evictSector).setDir

theorem State.memOk.touchL2 {s : State} {die sec} (h : s.memOk) : (s.touchL2 die sec).memOk := by
  unfold State.touchL2
  dsimp only
  split <;> exact h

theorem State.memOk.roomL2 {s t : State} {die sec} (h : s.memOk) (e : s.roomL2 die sec = some t) : t.memOk := by
  unfold State.roomL2 at e
  dsimp only at e
  split at e
  · cases e; exact h.touchL2
  · split at e
    · cases e; exact h.upd
    · split at e
      · cases e
      · cases e; exact State.memOk.upd (State.memOk.foldl h fun _ _ h => h.evictSector)

theorem State.memOk.cleanL1 {s : State} {core sec} (h : s.memOk) : (s.cleanL1 core sec).memOk := by
  unfold State.cleanL1
  split
  · exact h
  refine h.ite ?_
  dsimp only
  split
  · exact (State.memOk_homeMerge _ _ _ _ (State.memOk_countReq _ h)).setL1
  · next t e =>
    have ht : t.memOk := h.roomL2 e
    refine State.memOk.setL1 (State.memOk_setL2 _ _ _ (State.memOk.iteFst ht ?_))
    exact State.memOk_homeRead _ _ (State.memOk_countReq _ ht)

theorem State.memOk.evictL1 {s : State} {core line} (h : s.memOk) :
    (s.evictL1 core line).memOk := h.foldl fun _ _ h => h.cleanL1.setL1

theorem State.memOk.touchL1 {s : State} {core sec} (h : s.memOk) : (s.touchL1 core sec).memOk := by
  unfold State.touchL1
  dsimp only
  split <;> exact h

theorem State.memOk.roomL1 {s : State} {core sec} (h : s.memOk) : (s.roomL1 core sec).memOk := by
  unfold State.roomL1
  refine h.touchL1.ite ?_
  dsimp only
  split
  · exact h.upd
  · split
    · exact h
    · exact h.evictL1.upd

theorem State.memOk.shedL1 {s : State} {die sec} (h : s.memOk) : (s.shedL1 die sec).memOk := h.foldl fun _ _ h => h.cleanL1.setL1

theorem State.memOk.cleanAllL1 {s : State} {core} (h : s.memOk) : (s.cleanAllL1 core).memOk := h.foldl fun _ _ h => h.cleanL1

theorem State.memOk.dropCleanL1 {s : State} {core level} (h : s.memOk) : (s.dropCleanL1 core level).memOk := by
  grind [State.dropCleanL1, State.memOk.foldl, State.memOk.setL1, State.memOk.cleanL1]

theorem State.memOk.fillL1 {s : State} {core sec cls home x} (h : s.memOk) : (s.fillL1 core sec cls home x).memOk := h.roomL1.setL1

theorem State.memOk.readSector {s : State} {core sec cls home scope} (h : s.memOk) : TriedOk (s.readSector core sec cls home scope)
    := by
  have hc {k} : ((s.countReq k).homeRead home sec).1.memOk := State.memOk_homeRead _ _ (State.memOk_countReq _ h)
  refine .ite (.pure (State.memOk_homeRead _ _ h)) (.ite ?_ (.ite ?_ (.ite (.pure hc) (.ite h.touchL2.found h.ask.waits))))
  · split
    · exact h.touchL1.found
    · exact .ite (h.cleanL1.touchL2.fillL1.ite h.cleanL1.touchL2).found h.cleanL1.ask.waits
  · split
    · exact h.touchL1.found
    · exact .ite (h.touchL2.fillL1.ite h.touchL2).found h.ask.waits

theorem State.memOk.exclusive {s : State} {core sec cls home atomic} (h : s.memOk) : TriedOk (s.exclusive core sec cls home atomic)
    :=
  have hs : ∀ {d}, (if atomic = true then s.shedL1 d sec else s).memOk := h.shedL1.ite h
  .ite (.ite h.found h.ask.waits) (.ite (.ite h.found h.ask.waits) (.ite hs.found hs.ask.waits))

theorem State.memOk.writeL2 {s : State} {d sec keep data} (h : s.memOk) : (s.writeL2 d sec keep data).memOk :=
  State.memOk_setL2 _ _ _ h.touchL2

theorem State.memOk.refreshL1 {s : State} {core sec keep data} (h : s.memOk) : (s.refreshL1 core sec keep data).memOk := by
  unfold State.refreshL1
  split
  · exact h.setL1
  · exact h

theorem State.memOk.writeSector {s : State} {core sec cls home keep data op unit} (h : s.memOk) :
    TriedOk (s.writeSector core sec cls home keep data op unit) := by
  refine .ite (State.memOk_homeMerge _ _ _ _ h).found (.ite h.ask.waits (.ite ?_ ?_))
  · split
    · next e => exact (h.readSector.error e).waits
    · next e =>
      split
      · exact ((h.readSector.ok e).touchL1.setL1).found
      · exact State.memOk.found (h.readSector.ok e)
  · split
    · next e => exact (h.exclusive.error e).waits
    · next e => exact ((h.exclusive.ok e).writeL2.refreshL1).found

theorem State.memOk.atomSector {s : State} {core sec cls home f} (h : s.memOk) : TriedOk (s.atomSector core sec cls home f) := by
  refine .ite (State.memOk_homeMerge _ _ _ _ (State.memOk_homeRead _ _ h)).found ?_
  split
  · next e => exact (h.exclusive.error e).waits
  · next e => exact ((h.exclusive.ok e).writeL2.refreshL1).found

theorem State.memOk.unpoison {s : State} {core space o n} (h : s.memOk) : (s.unpoison core space o n).memOk := h

theorem State.memOk.detect {s : State} {core space o} (h : s.memOk) : (s.detect core space o).memOk := h.startTest

theorem State.memOk.noteOwn {s : State} {launch p} (h : s.memOk) : (s.noteOwn launch p).memOk := by
  unfold State.noteOwn
  split
  · exact h.modLa.ite h
  · exact h

theorem State.memOk.flatWrite {s : State} {p n v} (h : s.memOk) : (s.flatWrite p n v).memOk := by
  unfold State.flatWrite
  split
  · exact (State.memOk_placeWrite _ _ _ h).unpoison
  · exact State.memOk_placeWrite _ _ _ h

theorem State.memOk.atomHalf {s : State} {core p new} (h : s.memOk) : TriedOk (s.atomHalf core p new) := by
  unfold State.atomHalf
  split
  · exact h.atomSector.map fun _ h => h
  · refine State.memOk.found ?_
    split
    · exact h.flatWrite
    · exact h

theorem State.memOk.atomPair {s : State} {o u op ty p q} (h : s.memOk) : TriedOk (s.atomPair o u op ty p q) :=
  h.atomHalf.bind fun _ h => h.atomHalf.bind fun _ h => h.atomHalf.bind fun _ h => h.atomHalf.bind fun _ h => h.found

theorem State.memOk.forgetOp {s : State} {o} (h : s.memOk) : (s.forgetOp o).memOk := h.upd.modGr.wake

theorem State.memOk.failOp {s : State} {o hit} (h : s.memOk) : (s.failOp o hit).memOk := by
  unfold State.failOp
  split
  · exact h.regAbort
  · exact h.forgetOp.ite h.haltCtx

theorem State.memOk.correct {s : State} {core space o n} (h : s.memOk) : (s.correct core space o n).memOk := h.upd.detect.ite h

theorem State.memOk.meetPlace {s : State} {core p} (h : s.memOk) : (s.meetPlace core p).memOk := by
  unfold State.meetPlace
  split
  · exact h.meetBad.ite h
  · exact h

theorem State.memOk.doUnit {s : State} {o i u} (h : s.memOk) : TriedOk (s.doUnit o i u) := by
  refine .ite h.failOp.waits (.ite h.waits (.ite (h.foldl fun _ _ h => h.meetPlace).found ?_))
  split
  · exact h.atomPair
  split
  · dsimp only
    split
    · exact h.writeSector.map fun _ h => h
    · exact h.atomSector.map fun _ h => h
    · exact h.readSector.map fun _ h => h
  · cases u.place.poisonAt with
    | none =>
      dsimp only
      split
      · exact h.flatWrite.found
      · exact h.flatWrite.found
      · exact h.found
    | some q =>
      dsimp only
      split
      · exact h.correct.flatWrite.found
      · exact h.correct.flatWrite.found
      · split
        · exact h.correct.detect.found
        · exact h.correct.found

/-! ## Machine/Complete -/

theorem State.memOk.writeRows {s : State} {o} (h : s.memOk) : (s.writeRows o).memOk :=
  h.foldl fun _ _ h => h.foldl fun _ _ h => h.rowSet

theorem State.memOk.writeScalar {s : State} {o} (h : s.memOk) : (s.writeScalar o).memOk := h.ite h.upd

theorem State.memOk.observe {s : State} {o} (h : s.memOk) : (s.observe o).memOk := by
  grind [State.observe, State.memOk.foldl, State.memOk.setRegion]

theorem State.memOk.putEccu {s : State} {k pc m} (h : s.memOk) : (s.putEccu k pc m).memOk := h.modSp

theorem State.memOk.markEccu {s : State} {o} (h : s.memOk) : (s.markEccu o).memOk := by
  unfold State.markEccu
  dsimp only
  split
  · exact h
  · split
    · exact h.putEccu
    · exact h.putEccu
    · exact h

theorem State.memOk.takeEccu {s : State} {k x} (h : s.memOk) : (s.takeEccu k x).memOk := h.modSp.trap

theorem State.memOk.finishOp {s : State} {o} (h : s.memOk) : (s.finishOp o).memOk := by
  have hd : ∀ {t : State}, t.memOk → (if o.acq = true then t.dropCleanL1 o.core (acqDrop o.scope) else t).memOk := fun h =>
      h.dropCleanL1.ite h
  have hs := hd (t := { s with ops := s.ops.filter fun x => x.id != o.id }) h
  exact .wake (.ite (.upd hs.writeRows.writeScalar.observe.markEccu) hs.modGr)

theorem State.memOk.startOp {s : State} {o} (h : s.memOk) : (s.startOp o).memOk := by
  have hs : ∀ {o : MemOp} {t : State}, t.memOk → (if o.isLoad = true then
      let s := t.modGr o.gid fun g => { g with ldc := g.ldc + 1 }
      let s := { s with pendV := o.rows.foldl (fun m r => mset 0 m (rowKey o.gid r) (o.id + 1)) s.pendV }
      if o.sreg = 0 then s else { s with pendS := mset 0 s.pendS (o.sreg - 1) (o.id + 1) }
    else t.modGr o.gid fun g => { g with stc := g.stc + 1 }).memOk := fun h => .ite (.ite (.upd h) (.upd h)) h.modGr
  have hf : ∀ {o : MemOp}, ({ s.fresh with ops := s.ops ++ [o] } : State).memOk := h
  exact .ite (.finishOp (hs hf)) (hs hf)

theorem State.memOk.unitDone {s : State} {id i v bad} (h : s.memOk) : (s.unitDone id i v bad).memOk := by
  unfold State.unitDone
  split
  · exact h
  · exact h.upd.finishOp.ite h.upd.wake

theorem State.memOk.askHold {s : State} {k sec home} (h : s.memOk) : (s.askHold k sec home).memOk := by
  unfold State.askHold
  split
  · exact h.ite h.ask
  · exact h

theorem State.memOk.performUnit {s : State} {id i} (h : s.memOk) : (s.performUnit id i).memOk := by
  unfold State.performUnit
  split
  · exact h
  split
  · exact h
  next o _ _ u _ =>
  refine h.ite ?_
  have hc : ∀ {c : Prop} [Decidable c], (if c then s.cleanAllL1 o.core else s).memOk := h.cleanAllL1.ite h
  dsimp only
  split
  · refine State.memOk.ite (h.failOp.ite (h.ite (h.meetPlace.unitDone.ite (State.memOk.ite ?_ h.askHold)))) ?_
    · exact (State.memOk_homeRead _ _ h).unitDone
    · split
      · next e => exact hc.doUnit.error e
      · next t _ _ e =>
        have ht : t.memOk := hc.doUnit.ok e
        exact (ht.noteOwn.ite ht).unitDone
  · split
    · next e => exact hc.doUnit.error e
    · next t _ _ e =>
      have ht : t.memOk := hc.doUnit.ok e
      exact (ht.noteOwn.ite ht).unitDone

theorem State.memOk.execLoadDataReturn {op unit} {s : State} (h : s.memOk) : NextOk (execLoadDataReturn op unit s) :=
  (h.performUnit.ite h).next

theorem State.memOk.execStorePerformed {op unit} {s : State} (h : s.memOk) : NextOk (execStorePerformed op unit s) :=
  (h.performUnit.ite h).next

/-! ## Machine/Lanes -/

theorem State.memOk.stackWords {k lane va need} : ∀ {n off} {s : State}, s.memOk → (s.stackWords k lane va need off n).1.memOk
  | 0, _, _, h => h
  | n + 1, off, s, h => by
    unfold State.stackWords
    split
    · next t _ _ e =>
      have ht : t.memOk := h.resolve.of_eq e
      split
      · next e => exact ht.stackWords.of_eq e
      · next e => exact ht.stackWords.of_eq e
    · next e => exact h.resolve.of_eq e

theorem State.memOk.piecesOf {s : State} {k lane va size need} (h : s.memOk) : (s.piecesOf k lane va size need).1.memOk := by
  unfold State.piecesOf
  split
  · exact h
  · split
    · next t _ e2 =>
        split
        · exact h.resolve.of_eq e2
        · split <;> next t _ e5 => exact (h.resolve.of_eq e2).stackWords.of_eq e5
    · next t _ e2 => exact h.resolve.of_eq e2
    · next t _ e2 => exact h.resolve.of_eq e2

theorem State.memOk.meetPieces {s : State} {core ps} (h : s.memOk) :
    (s.meetPieces core ps).memOk := h.foldl fun _ _ h => h.meetPlace

theorem State.memOk.checkLane {s : State} {k size need rmw host c l va} (h : s.memOk) :
    (s.checkLane k size need rmw host c l va).1.memOk := by
  unfold State.checkLane
  split
  · next t _ e => exact (h.piecesOf.of_eq e).iteFst ((h.piecesOf.of_eq e).meetPieces.iteFst (h.piecesOf.of_eq e))
  · next t _ _ e => exact h.piecesOf.of_eq e
  · next t _ e => exact h.piecesOf.of_eq e
  · next t e => exact h.piecesOf.of_eq e
  · next t e => exact h.piecesOf.of_eq e
  · next t _ _ e => exact h.piecesOf.of_eq e

theorem State.memOk.checkLanes {s : State} {k size need rmw host ls} (h : s.memOk) :
    (s.checkLanes k size need rmw host ls).1.memOk :=
  h.foldlFst fun _ _ h => h.checkLane

theorem State.memOk.settleLanes {s : State} {e acc fs} (h : s.memOk) : (s.settleLanes e acc fs).memOk := h.advance.ite h.trap

theorem State.memOk.addSectors {s : State} {k slot ps} (h : s.memOk) : DoneOk (s.addSectors k slot ps) := by
  unfold State.addSectors
  split
  · exact .pure h
  · exact h.abortIn.ite (.pure h.setRegion)

theorem State.memOk.regionRead {s : State} {k slot plain ps size} (h : s.memOk) : TriedOk (s.regionRead k slot plain ps size) := by
  have hab : ∀ {d}, TriedOk ((Machine.abortIn s k d slot).map fun t => (t, (none : Option Got))) := h.abortIn.map fun _ h => h
  unfold State.regionRead
  split
  · exact h.found
  refine hab.ite ?_
  split
  · exact h.found.ite hab
  refine h.found.ite ?_
  split
  · exact h.found.ite h.found
  · refine hab.ite (h.setRegion.addSectors.bind fun _ h => ?_)
    dsimp only
    split
    · exact h.found
    · exact h.concretise.bind fun _ h => h.found

theorem State.memOk.regionWrite {s : State} {k slot plain ps size v tag} (h : s.memOk) :
    DoneOk (s.regionWrite k slot plain ps size v tag) := by
  have hd : ∀ {t : State} {c : Prop} [Decidable c], t.memOk →
      (if c then (protectedSectors ps).foldl (fun t p => t.askHold k p.1 p.2) t else t).memOk := fun h => (h.foldl fun _ _ h =>
          h.askHold).ite h
  unfold State.regionWrite
  split
  · exact .pure h
  · refine h.abortIn.ite (h.abortIn.ite ?_)
    dsimp only
    split
    · exact .pure (hd h.setRegion)
    · exact h.setRegion.addSectors.bind fun _ h => .pure (hd h)

/-! ## Machine/Acc -/

theorem State.memOk.tileSet {s : State} {core tile e v} (h : s.memOk) : (s.tileSet core tile e v).memOk := h

theorem State.memOk.correctTile {s : State} {core tile} (h : s.memOk) : (s.correctTile core tile).memOk := h.upd.detect.ite h

theorem State.memOk.accForm {s : State} {e u first n check eff} (h : s.memOk) (heff : ∀ t, t.memOk → (eff t).memOk) :
    (s.accForm e u first n check eff).memOk := by
  grind [State.accForm, State.memOk.barred, State.memOk.stall, State.memOk.advance, State.memOk.trap]

theorem State.memOk.execAccLd {e k a} {s : State} (h : s.memOk) : NextOk (execAccLd e k a s) :=
  h.issue (fun _ h => h.accForm (fun _ h => h.correctTile.foldl fun _ _ h => h.vsets))

theorem State.memOk.execAccSt {e k a} {s : State} (h : s.memOk) : NextOk (execAccSt e k a s) :=
  h.issue (fun _ h => h.accForm (fun _ h => h.foldl fun _ _ h => h.foldl fun _ _ h => h.tileSet))

theorem State.memOk.zeroTile {s : State} {core tile} (h : s.memOk) : (s.zeroTile core tile).memOk := h

theorem State.memOk.execAccZero {e a} {s : State} (h : s.memOk) : NextOk (execAccZero e a s) :=
  h.issue (fun _ h => h.accForm (fun _ h => h.foldl fun _ _ h => h.zeroTile))

theorem State.memOk.execAccCvt {e d a b} {s : State} (h : s.memOk) : NextOk (execAccCvt e d a b s) :=
  h.issue (fun _ h => h.undef.ite (h.stall.ite (h.accForm (fun _ h => (h.correctTile.foldl fun _ _ h => h.flatWrite).orLanes))))

/-! ## Machine/Control -/

theorem State.memOk.plain {s : State} {e eff} (h : s.memOk) (heff : ∀ t, t.memOk → (eff t).memOk) : (s.plain e eff).memOk := by
  grind [State.plain, State.memOk.form]

theorem State.memOk.execNop {e} {s : State} (h : s.memOk) : NextOk (execNop e s) := by
  grind [Machine.execNop, State.memOk.issue, State.memOk.plain]

theorem State.memOk.exitSplit {s : State} (h : s.memOk) : (s.exitSplit).memOk := h.modGr.freeEntry

theorem State.memOk.execExit {_e} {s : State} (h : s.memOk) : NextOk (execExit _e s) := h.issue (fun _ h => h.barred.ite
    h.exitSplit)

theorem State.memOk.execYield {e} {s : State} (h : s.memOk) : NextOk (execYield e s) :=
  h.issue (fun _ h => h.plain (fun _ h => h.ite h.modSp))

theorem State.memOk.execTret {_e n} {s : State} (h : s.memOk) : NextOk (execTret _e n s) := by
  unfold Machine.execTret
  refine h.issue fun s h => ?_
  split
  · exact h.trapU
  · split
    · exact h.returnTrap.stopHere
    · exact h.returnTrap

theorem State.memOk.execBrk {_e} {s : State} (h : s.memOk) : NextOk (execBrk _e s) := h.issue (fun _ h => h.trapU)

theorem State.memOk.execTrap {_e c} {s : State} (h : s.memOk) : NextOk (execTrap _e c s) := h.issue (fun _ h => h.trap)

theorem State.memOk.frameTrap {s : State} {k lane va cause spill w} (h : s.memOk) : (s.frameTrap k lane va cause spill w).memOk :=
  h.trap

theorem State.memOk.frameLook {s : State} {f spill} (h : s.memOk) : TriedOk (s.frameLook f spill) := by
  refine ExceptOk.foldlM (fun acc it h => ?_) _ _ h
  dsimp only
  split
  · next e => exact State.memOk.found (h.resolve.of_eq e)
  · next e => exact .throw (h.resolve.of_eq e).stall
  · next e => exact .throw (h.resolve.of_eq e).haltSplit
  · next e => exact .throw (h.resolve.of_eq e).frameTrap
  · next e => exact .throw (h.resolve.of_eq e).frameTrap

theorem State.memOk.frameWord {s : State} {f spill m} (h : s.memOk) : (s.frameWord f spill m).memOk := by
  unfold State.frameWord
  split
  · exact h.nowWrite
  · split
    · next t _ e2 =>
        split
        · exact (h.nowRead.of_eq e2).rowSet
        · exact (h.nowRead.of_eq e2).setLink

theorem State.memOk.moveFrame {s : State} {f spill moves} (h : s.memOk) : (s.moveFrame f spill moves).memOk :=
  (h.foldl fun _ _ h => h.frameWord).modSp

theorem State.memOk.window {s : State} {e f spill} (h : s.memOk) : (s.window e f spill).memOk := by
  unfold State.window
  refine h.trapU.ite (h.stall.ite ?_)
  split
  · next e => exact h.frameLook.error e
  · next t _ e =>
    have ht : t.memOk := h.frameLook.ok e
    exact ht.stall.ite ht.moveFrame.advance

theorem State.memOk.execWspill {e} {s : State} (h : s.memOk) : NextOk (execWspill e s) := h.issue (fun _ h => h.window.ite h.trapU)

theorem State.memOk.execWfill {e} {s : State} (h : s.memOk) : NextOk (execWfill e s) := h.issue (fun _ h => h.window.ite h.trapU)

theorem State.memOk.execSplq {e d} {s : State} (h : s.memOk) : NextOk (execSplq e d s) :=
  h.issue (fun _ h => h.form (fun _ h => h.sset))

theorem State.memOk.execMode {e g t r s' f} {s : State} (h : s.memOk) : NextOk (execMode e g t r s' f s) :=
  h.issue (fun _ h => h.plain (fun _ h => h.modSp))

theorem State.memOk.execRep {c d a b} {s : State} (h : s.memOk) : NextOk (execRep c d a b s) := by
  unfold Machine.execRep
  refine h.issue fun s h => ?_
  split
  · exact h.undef
  · exact h.undef.ite (h.whenFree (fun _ h => h.modSp))

theorem State.memOk.nearForm {s : State} {f} (h : s.memOk) (hf : ∀ t, t.memOk → (f t).memOk) : (s.nearForm f).memOk := by
  grind [State.nearForm, State.memOk.stall, State.memOk.ovWaits]

theorem State.memOk.split {s : State} {pc stay paths} (h : s.memOk) : (s.split pc stay paths).memOk :=
  h.abortWhole.ite (h.trapU.ite h.divide)

theorem State.memOk.execBra {e p c i} {s : State} (h : s.memOk) : NextOk (execBra e p c i s) := by
  unfold Machine.execBra
  dsimp only
  refine h.issue fun s h => ?_
  refine h.whenFree fun s h => ?_
  split
  · exact h.goto
  · split
    · exact h.trapU
    · refine h.nearForm fun s h => ?_
      split
      · exact h.trapU
      · exact h.goto.ite h.split

theorem State.memOk.farCheck {s : State} {pc far} (h : s.memOk) : (s.farCheck pc far).1.memOk := by
  unfold State.farCheck
  dsimp only
  split
  · exact h
  · split
    · next t e2 => exact h.targetLen.of_eq e2
    · next t _ e2 => exact (h.targetLen.of_eq e2).iteFst (h.targetLen.of_eq e2)

theorem State.memOk.residency {s : State} {id major ret} (h : s.memOk) : PairOk (s.residency id major ret) := by
  refine .ite h.goesOn (.ite (h.ovWaits.stops h.ovWaits.stall) ?_)
  have hs := (h.ovWaits (core := s.cc) (c := s.grp.ctx) (id := id)).ovHeader (core := (s.ovWaits s.cc s.grp.ctx id).1.cc)
    (c := (s.ovWaits s.cc s.grp.ctx id).1.grp.ctx)
  refine .ite (hs.stops hs.trapU) (.ite (hs.stops hs.regAbort) ?_)
  split
  · next e => exact State.memOk.goesOn (hs.startFill.of_eq e)
  · next e =>
    have ht := hs.startFill.of_eq e
    exact ht.stops ht.waitFor
  · next e =>
    have ht := hs.startFill.of_eq e
    exact ht.stops ht.stall
  · next e =>
    have ht := hs.startFill.of_eq e
    exact ht.stops ht.trapU

theorem State.memOk.residencies {s : State} {ids major} (h : s.memOk) : PairOk (s.residencies ids major) := by
  refine foldl_keeps PairOk _ (fun acc id h => ?_) _ _ h.goesOn
  split
  · next e => exact h.1.stops (h.2 _ e)
  · exact h.1.residency

theorem State.memOk.saveLinks {s : State} (h : s.memOk) : (s.saveLinks).memOk := by
  unfold State.saveLinks
  split
  · exact h
  · exact h.setRegion

theorem State.memOk.openFrame {s : State} {ret} (h : s.memOk) : (s.openFrame ret).memOk :=
  h.modSp.saveLinks.foldl fun _ _ h => h.setLink

theorem State.memOk.nearCall {s : State} {e off opens} (h : s.memOk) : (s.nearCall e off opens).memOk := by
  unfold State.nearCall
  refine h.nearForm fun s h => ?_
  split
  · exact h.trapU
  · exact h.trapU.ite (h.openFrame.ite h).goto

theorem State.memOk.farCall {s : State} {e pc opens} (h : s.memOk) : (s.farCall e pc opens).memOk := by
  refine h.ovWaits.stall.ite ?_
  split
  · next e => exact (h.ovWaits.farCheck.of_eq e).trapU
  · next t e =>
    have ht : t.memOk := h.ovWaits.farCheck.of_eq e
    refine ht.trapU.ite ?_
    split
    · next e => exact ht.residency.2 _ (congrArg Prod.snd e)
    · next e =>
      have hu := ht.residency.1.of_eq e
      exact (hu.openFrame.ite hu).goto

theorem State.memOk.execCall {e i} {s : State} (h : s.memOk) : NextOk (execCall e i s) :=
  h.issue (fun _ h => h.whenFree (fun _ h => h.nearCall))

theorem State.memOk.execCallx {e a} {s : State} (h : s.memOk) : NextOk (execCallx e a s) :=
  h.issue (fun _ h => h.whenFree (fun _ h => h.nearCall))

theorem State.memOk.execBrx {e a} {s : State} (h : s.memOk) : NextOk (execBrx e a s) :=
  h.issue (fun _ h => h.whenFree (fun _ h => h.nearCall))

theorem State.memOk.execCallo {e a} {s : State} (h : s.memOk) : NextOk (execCallo e a s) :=
  h.issue (fun _ h => h.whenFree (fun _ h => h.farCall))

theorem State.memOk.execJmpo {e a} {s : State} (h : s.memOk) : NextOk (execJmpo e a s) :=
  h.issue (fun _ h => h.whenFree (fun _ h => h.farCall))

theorem State.memOk.checkAll {s : State} {ts} (h : s.memOk) : (s.checkAll ts).1.memOk := by
  grind [State.checkAll, State.memOk.foldlFst, State.memOk.farCheck]

theorem State.memOk.execRet {e} {s : State} (h : s.memOk) : NextOk (execRet e s) := by
  refine h.issue fun s h => .ite (h.barred.ite h.exitSplit) (h.whenFree fun s h => h.trapU.ite ?_)
  have hw := h.ovAnyWaits (core := s.cc) (c := s.grp.ctx) (ids := s.returns.map fun p => pcId p.1)
  refine hw.trapU.ite (hw.stall.ite ?_)
  split
  · next e => exact (hw.checkAll.of_eq e).trapU
  · next t e =>
    have ht : t.memOk := hw.checkAll.of_eq e
    refine ht.abortWhole.ite (ht.trapU.ite (ht.trapU.ite ?_))
    split
    · next e => exact ht.residencies.2 _ (congrArg Prod.snd e)
    · next e =>
      have hu := ht.residencies.1.of_eq e
      dsimp only
      split
      · exact hu.modSp
      · exact hu.modSp.goto
      · exact hu.modSp.divide

theorem State.memOk.execSrd {e r n} {s : State} (h : s.memOk) : NextOk (execSrd e r n s) := by
  unfold Machine.execSrd
  refine h.issue fun s h => ?_
  split
  · exact h.undef
  · exact h.form (fun _ h => h.sset)

theorem State.memOk.execVsrd {e r n} {s : State} (h : s.memOk) : NextOk (execVsrd e r n s) :=
  h.issue (fun _ h => h.undef.ite (h.form (fun _ h => h.vsets)))

theorem State.memOk.execSwr {e r n} {s : State} (h : s.memOk) : NextOk (execSwr e r n s) := by
  refine h.issue fun s h => .ite h.undef (.ite (h.whenFree fun s h => .ite h.undef h.modSp.advance) (.ite (h.form fun s h => ?_)
    (.ite (h.form fun s h => h.modGr) h.trapU)))
  exact h.foldl fun t _ h => h.upd

theorem State.memOk.retireBatches {s : State} {g} (h : s.memOk) : (s.retireBatches g).memOk :=
  h.modGr.foldl fun _ _ h => h.foldl fun _ _ h => h.foldl fun _ _ h => h.orFlag

theorem State.memOk.execWait {e l s' c t} {s : State} (h : s.memOk) : NextOk (execWait e l s' c t s) :=
  h.issue (fun _ h => (h.plain (fun _ h => h.ite h.retireBatches)).ite h.stall)

/-! ## Machine/PageReq -/

theorem State.memOk.postEntry {s : State} {q} (h : s.memOk) : (s.postEntry q).1.memOk :=
  iteFst h.modCx (iteFst h (iteFst h (State.memOk_physPut _ _ (State.memOk_physPut _ _ (State.memOk_physPut _ _
      (State.memOk_physPut _ _ (State.memOk_physPut _ _ h))))).modCx.raiseIrq))

theorem State.memOk.postPri {s : State} {q unit write} (h : s.memOk) : (s.postPri q unit write).1.memOk :=
  iteFst h (iteFst h.modCx (iteFst h h.modFn.modCx))

theorem State.memOk.post {s : State} {q} (h : s.memOk) : (s.post q).1.memOk := by
  unfold State.post
  split
  · exact h.postPri
  · exact h.postEntry

/-! ## Machine/MemCtl -/

theorem State.memOk.fenceWith {s : State} {src dst cores acq rel both scope rays} (h : s.memOk) :
    (s.fenceWith src dst cores acq rel both scope rays).memOk :=
  h.fresh.addMark

theorem State.memOk.execFence {e c r} {s : State} (h : s.memOk) : NextOk (execFence e c r s) :=
  h.issue (fun _ h => h.plain (fun _ h => h.ite h.fenceWith))

theorem State.memOk.askWriteBack {s : State} {die sec drop} (h : s.memOk) : (s.askWriteBack die sec drop).memOk := h.ask

theorem State.memOk.cctlStep {s : State} {n r} (h : s.memOk) : (s.cctlStep n r).1.memOk :=
  iteFst (((h.foldl fun _ _ h => h.cleanL1).foldl fun _ _ h => h.setL1).ite (h.foldl fun _ _ h => h.cleanL1)) (iteFst ((h.foldl fun
      _ _ h => (State.memOk_setL2 _ _ _ h)).ite h) (h.foldl fun _ _ h => h.askWriteBack))

theorem State.memOk.execCctl {e n a b} {s : State} (h : s.memOk) : NextOk (execCctl e n a b s) :=
  h.issue (fun _ h => h.barred.ite (h.whenFree (fun _ h => h.cctlStep.advance.ite h.cctlStep.stall)))

theorem State.memOk.prefLane {s : State} {n lane va} (h : s.memOk) : (s.prefLane n lane va).memOk := by
  unfold State.prefLane
  dsimp only
  split
  · next t _ _ _ _ e =>
      split
      · exact h.resolve.of_eq e
      · split
        · exact (h.resolve.of_eq e).touchL2.fillL1
        · split
          · exact h.resolve.of_eq e
          · exact (h.resolve.of_eq e).ask
  · next t _ e => exact h.resolve.of_eq e

theorem State.memOk.execPref {e n a b} {s : State} (h : s.memOk) : NextOk (execPref e n a b s) :=
  h.issue (fun _ h => h.form (fun _ h => h.ite (h.foldl fun _ _ h => h.prefLane)))

theorem State.memOk.pageq {s : State} {va kind} (h : s.memOk) : (s.pageq va kind).1.memOk := by
  unfold State.pageq
  split
  · exact h
  · split
    · next t _ _ e2 => exact h.translate.of_eq e2
    · next t e2 => exact h.translate.of_eq e2
    · next t _ e2 =>
        split
        · next t e4 => exact (h.translate.of_eq e2).post.of_eq e4
        · next t _ e4 => exact (h.translate.of_eq e2).post.of_eq e4

theorem State.memOk.execPageq {e d a k} {s : State} (h : s.memOk) : NextOk (execPageq e d a k s) :=
  h.issue (fun _ h => h.barred.ite (h.whenFree (fun _ h => h.trapU.ite h.pageq.sset.advance)))

theorem State.memOk.waitvLook {s : State} {k watched value} (h : s.memOk) : (s.waitvLook k watched value).1.memOk := by
  grind [State.waitvLook, State.memOk.foldlFst, State.memOk.resolve, State.memOk.haltSplit, State.memOk.nowRead]

theorem State.memOk.finishAt {s : State} {k} (h : s.memOk) : (s.finishAt k).memOk := h.setSp.stopHere

theorem State.memOk.execWaitv {e d a b} {s : State} (h : s.memOk) : NextOk (execWaitv e d a b s) := by
  refine h.issue fun s h => ?_
  have hc : ∀ {k size need rmw host ls}, (s.checkLanes k size need rmw host ls).1.memOk := h.checkLanes
  refine h.barred.ite (h.stall.ite (hc.stall.ite (hc.trapU.ite (hc.trap.ite (hc.advance.ite ?_)))))
  exact hc.waitvLook.advance.ite hc.waitvLook.waitFor

theorem State.memOk.waitvRead {s : State} {k} (h : s.memOk) : (s.waitvRead k).memOk := by
  unfold State.waitvRead
  split
  · exact (h.waitvLook.finishAt.ite h.waitvLook).ite h
  · exact h

theorem State.memOk.execWaitvWake {split} {s : State} (h : s.memOk) : NextOk (execWaitvWake split s) := h.waitvRead.next

theorem State.memOk.execWaitvReread {split} {s : State} (h : s.memOk) : NextOk (execWaitvReread split s) := h.waitvRead.next

theorem State.memOk.execWaitvTimeout {split} {s : State} (h : s.memOk) : NextOk (execWaitvTimeout split s) := by
  unfold Machine.execWaitvTimeout
  refine State.memOk.next ?_
  split
  · exact h.finishAt.ite h
  · exact h

theorem State.memOk.zeroAbuf {s : State} {core lo hi} (h : s.memOk) : (s.zeroAbuf core lo hi).memOk := h

theorem State.memOk.shrinkCarve {s : State} {core n} (h : s.memOk) : (s.shrinkCarve core n).memOk :=
  (h.foldl fun _ _ h => h.evictL1).upd.modCo.zeroAbuf

theorem State.memOk.growCarve {s : State} {core n} (h : s.memOk) : (s.growCarve core n).memOk := h.modCo

theorem State.memOk.carve {s : State} {core v} (h : s.memOk) : (s.carve core v).1.memOk :=
  iteFst h (iteFst h.modCo (iteFst h.shrinkCarve (iteFst h.modCo h.growCarve)))

theorem State.memOk.execCarve {e d a} {s : State} (h : s.memOk) : NextOk (execCarve e d a s) :=
  h.issue (fun _ h => h.barred.ite (h.whenFree (fun _ h => h.trapU.ite (h.sset.advance.ite h.carve.sset.advance))))

theorem State.memOk.execCarveComplete {core} {s : State} (h : s.memOk) : NextOk (execCarveComplete core s) := (h.growCarve.ite
    h).next

theorem State.memOk.flushL2 {s : State} {die sec} (h : s.memOk) : (s.flushL2 die sec).memOk := h.ite h.evictSector

theorem State.memOk.flushL1 {s : State} {core level} (h : s.memOk) : (s.flushL1 core level).memOk := by
  grind [State.flushL1, State.memOk.foldl, State.memOk.cleanAllL1, State.memOk.setL1]

theorem State.memOk.flushUntracked {s : State} {dies level} (h : s.memOk) : (s.flushUntracked dies level).memOk :=
  (h.foldl fun _ _ h => h.flushL1).foldl fun _ _ h => h.foldl fun _ _ h => h.flushL2

/-! ## Machine/Sync -/

theorem State.memOk.trapAll {s : State} {ks cause} (h : s.memOk) : (s.trapAll ks cause).memOk := h.foldl fun _ _ h => h.trap.ite h

theorem State.memOk.execSync {_e a} {s : State} (h : s.memOk) : NextOk (execSync _e a s) :=
  h.issue (fun _ h => h.barred.ite (h.trapU.ite (h.whenFree (fun _ h => h.trapU.ite (h.waitFor.ite h.trapAll)))))

theorem State.memOk.settleSync {s : State} {g} (h : s.memOk) : (s.settleSync g).memOk := by
  grind [State.settleSync, State.memOk.foldl, State.memOk.finishAt, State.memOk.fenceWith]

theorem State.memOk.setBarrier {s : State} {t id b} (h : s.memOk) : (s.setBarrier t id b).memOk := h.modTm

theorem State.memOk.arriveAt {s : State} {e id named waits} (h : s.memOk) : (s.arriveAt e id named waits).memOk :=
  h.trapU.ite (h.waitFor.ite (h.trapU.ite (h.setBarrier.waitFor.ite h.setBarrier.advance)))

theorem State.memOk.execBar {e i a} {s : State} (h : s.memOk) : NextOk (execBar e i a s) :=
  h.issue (fun _ h => h.barred.ite (h.trapU.ite (h.whenFree (fun _ h => h.arriveAt))))

theorem State.memOk.execBara {e i a} {s : State} (h : s.memOk) : NextOk (execBara e i a s) :=
  h.issue (fun _ h => h.barred.ite (h.trapU.ite (h.whenFree (fun _ h => h.arriveAt))))

theorem State.memOk.noteArrivals {s : State} {t id} (h : s.memOk) : (s.noteArrivals t id).memOk := h.ite h.setBarrier

theorem State.memOk.nextPhase {s : State} {t id b} (h : s.memOk) : (s.nextPhase t id b).memOk :=
  h.setBarrier.foldl fun _ _ h => h.ready.ite h

theorem State.memOk.settleBarrier {s : State} {t id} (h : s.memOk) : (s.settleBarrier t id).memOk :=
  h.noteArrivals.ite ((h.noteArrivals.foldl fun _ _ h => h.addMark).fresh.foldl fun _ _ h => h.finishAt).nextPhase.wake

theorem State.memOk.execCbar {_e i} {s : State} (h : s.memOk) : NextOk (execCbar _e i s) :=
  h.issue (fun _ h => h.barred.ite (h.trapU.ite (h.trapU.ite h.waitFor)))

theorem State.memOk.settleCbar {s : State} {t id} (h : s.memOk) : (s.settleCbar t id).memOk :=
  h.ite (h.fenceWith.foldl fun _ _ h => h.finishAt)

theorem State.memOk.settleStuck {s : State} {g} (h : s.memOk) : (s.settleStuck g).memOk := h.trapAll

/-! ## Machine/Copy -/

theorem State.memOk.claimPlace {s : State} {id core p n} (h : s.memOk) : (s.claimPlace id core p n).memOk := by
  unfold State.claimPlace
  split
  · exact h
  · split
    · exact (h.upd.foldl fun _ _ h => h.ask).ite h.upd
    · exact h

theorem State.memOk.claimAll {s : State} {id form core ctx d targets lo} (h : s.memOk) :
    (s.claimAll id form core ctx d targets lo).memOk := by
  grind [State.claimAll, State.memOk.foldl, State.memOk.claimPlace, State.memOk.translate]

theorem State.memOk.takeToken {s : State} {k d id} (h : s.memOk) : (s.takeToken k d id).memOk := h.ite h.upd

theorem State.memOk.writeToken {s : State} {key id v} (h : s.memOk) : (s.writeToken key id v).memOk := h.ite h.upd

theorem State.memOk.copyForm {s : State} {e form d a} (h : s.memOk) : (s.copyForm e form d a).memOk := by
  unfold State.copyForm
  extract_lets k regs
  refine h.barred.ite (h.stall.ite (h.undef.ite ?_))
  split
  · exact h.trap
  · refine h.sset.advance.ite (h.stall.ite ?_)
    have hc : ∀ {c : Copy} {form core ctx desc ts}, (((({ s.fresh with copies := s.copies ++ [c] } : State).takeToken k d.toNat
        s.nextId).modGr
        s.cg fun g => { g with cpc := g.cpc + 1 }).claimAll s.nextId form core ctx desc ts 0).memOk := by
      intros
      exact .claimAll (.modGr (.takeToken h))
    exact .ite hc.advance.waitFor hc.advance

theorem State.memOk.execCpy {e d a} {s : State} (h : s.memOk) : NextOk (execCpy e d a s) := h.issue (fun _ h => h.copyForm)

theorem State.memOk.execCpyt {e d a} {s : State} (h : s.memOk) : NextOk (execCpyt e d a s) := h.issue (fun _ h => h.copyForm)

theorem State.memOk.execCpyr {e d a} {s : State} (h : s.memOk) : NextOk (execCpyr e d a s) := h.issue (fun _ h => h.copyForm)

theorem State.memOk.execCpyg {e d a} {s : State} (h : s.memOk) : NextOk (execCpyg e d a s) := h.issue (fun _ h => h.copyForm)

theorem State.memOk.execCpyb {e d a} {s : State} (h : s.memOk) : NextOk (execCpyb e d a s) := h.issue (fun _ h => h.copyForm)

theorem State.memOk.execCpyq {e d a} {s : State} (h : s.memOk) : NextOk (execCpyq e d a s) :=
  h.issue (fun _ h => h.barred.ite (h.trapU.ite (h.form (fun _ h => h.sset))))

/-- What a step of a copy leaves has canonical memories, however it ends. -/
def CopyStep.memOk : CopyStep → Prop
  | .done s | .wait s | .fault s _ _ | .ends s _ => s.memOk

/-- A step of a copy that finds something, or ends it. -/
abbrev CopyOk {α : Type} (x : Except CopyStep (State × α)) : Prop := ExceptOk CopyStep.memOk (fun p => p.1.memOk) x

theorem State.memOk.copyPlace {s : State} {core ctx va need dst} (h : s.memOk) : CopyOk (s.copyPlace core ctx va need dst) := by
  unfold State.copyPlace
  split
  · next e => exact .pure (h.translate.of_eq e)
  · next e => exact .throw (h.translate.of_eq e)
  · next e => exact .throw (h.translate.of_eq e)
  · next e => exact .throw (h.translate.of_eq e)
  · next e =>
    have ht := h.translate.of_eq e
    refine .throw ?_
    split <;> exact ht

theorem State.memOk.copyAt {s : State} {c va n need dst} (h : s.memOk) : CopyOk (s.copyAt c va n need dst) := by
  unfold State.copyAt
  split
  · exact h.copyPlace
  · exact .ite (.throw h) (.pure h)
  · exact .ite (.throw h) (.pure h)
  · exact .throw h

theorem State.memOk.engineRead {s : State} {core id p n} (h : s.memOk) : CopyOk (s.engineRead core id p n) := by
  unfold State.engineRead
  split
  · refine .ite (.throw h) (.ite (.throw h) (.ite (.pure (State.memOk_homeRead _ _ h)) (.ite (.throw h) (.ite (.throw h.meetBad)
        ?_))))
    split
    · next e => exact .throw (h.readSector.error e)
    · next e => exact .pure (h.readSector.ok e)
  · split
    · exact .ite (.throw h.correct.detect) (.pure h.correct)
    · exact .pure h

theorem State.memOk.copyRead {s : State} {c va} (h : s.memOk) : CopyOk (s.copyRead c va) := by
  unfold State.copyRead
  extract_lets half
  split
  · exact .pure h
  · refine h.copyAt.bind fun q h => ?_
    obtain ⟨s, p⟩ := q
    have hr : CopyOk (do
        let (s, v) ← s.engineRead c.core c.id p.unit8 8
        return ({ s with copies := updWhere s.copies (fun x => x.id == c.id) fun x =>
          { x with got := x.got ++ [(va / 8, v)],
                   spec := if c.form = 1 ∨ c.form = 3 then x.spec
                           else max x.spec (min (dstLen c.form c.desc) (va / 8 * 8 + 8 - (dw c.desc 0).toNat)) } }, half v)) :=
      (State.memOk.engineRead h).bind fun _ h => .pure h
    have hw : CopyOk (do
        if s.storeMeets c.after p.unit8 8 || s.placeTested c.core p 4 then throw (.wait s)
        let (s, v) ← s.engineRead c.core c.id p.unit8 8
        return ({ s with copies := updWhere s.copies (fun x => x.id == c.id) fun x =>
          { x with got := x.got ++ [(va / 8, v)],
                   spec := if c.form = 1 ∨ c.form = 3 then x.spec
                           else max x.spec (min (dstLen c.form c.desc) (va / 8 * 8 + 8 - (dw c.desc 0).toNat)) } }, half v)) :=
      .ite (.throw h) hr
    dsimp only
    split
    · exact .ite (.throw h) hw
    · exact .throw h
    · exact hw

theorem State.memOk.copyWord {s : State} {c o} (h : s.memOk) : CopyOk (s.copyWord c o) := by
  unfold State.copyWord
  refine .ite (h.copyRead.bind fun _ h => (State.memOk.copyRead h).bind fun _ h => .pure h) ?_
  split
  · exact .pure h
  · exact h.copyRead.map fun _ h => h

theorem State.memOk.getD {s : State} {o : Option State} (h : s.memOk) (ho : ∀ t, o = some t → t.memOk) : (o.getD s).memOk := by
  cases o with
  | none => exact h
  | some t => exact ho t rfl

theorem State.memOk.copySector {s : State} {core sec home keep data} (h : s.memOk) :
    (s.copySector core sec home keep data).memOk := by
  have ht := h.foldl (f := fun t x => if x = dieOf core then t else t.recallL2 x sec) (l := s.tracked sec)
    fun _ _ h => h.ite (State.memOk_recallL2 _ _ h)
  have hr := ht.getD (o := State.roomL2 _ (dieOf core) sec) fun _ e => ht.roomL2 e
  exact State.memOk.refreshL1 (State.memOk.setDir (State.memOk_setL2 _ _ _ (State.memOk_homeRead _ _ hr)))

theorem State.memOk.madeGood {s : State} {die sec cls home keep} (h : s.memOk) : (s.madeGood die sec cls home keep).memOk :=
  h.ite ((h.upd.setDir.ite h.upd).setDir.ite (h.upd.setDir.ite h.upd))

theorem State.memOk.copyStore {s : State} {c sec cls home keep data} (h : s.memOk) : (s.copyStore c sec cls home keep data).memOk :=
  h.madeGood.copySector.ite ((State.memOk_homeMerge _ _ _ _ h.madeGood).ite ((h.madeGood.cleanL1.ite
      h.madeGood).refreshL1.noteOwn.writeL2.ite (State.memOk_homeMerge _ _ _ _ (h.madeGood.cleanL1.ite
          h.madeGood).refreshL1.noteOwn)))

theorem State.memOk.stageWords {c place} (hp : ∀ (t : State) o, t.memOk → CopyOk (place t o)) :
    ∀ {n o} {s : State}, s.memOk → CopyOk (s.stageWords c place o n)
  | 0, _, _, h => .pure h
  | n + 1, o, s, h => by
    unfold State.stageWords
    split
    · next e => exact .throw (h.copyWord.error e)
    · next e => exact State.memOk.stageWords hp (h.copyWord.ok e)
    · next t _ e =>
      have ht : t.memOk := h.copyWord.ok e
      split
      · next e => exact .throw ((hp _ _ ht).error e)
      · next u _ e =>
        have hu : u.memOk := (hp _ _ ht).ok e
        split
        · next e => exact .throw ((State.memOk.stageWords hp hu).error e)
        · next v _ e =>
          have hv : v.memOk := (State.memOk.stageWords hp hu).ok e
          exact .pure hv

theorem State.memOk.writeStaged {s : State} {c ws} (h : s.memOk) : (s.writeStaged c ws).memOk := by
  refine State.memOk.foldl (.foldl (.ite (h.foldl fun _ _ h => h.shedL1) h) fun _ _ h => h.flatWrite) fun _ _ h => ?_
  extract_lets mine
  clear_value mine
  split
  · exact h
  · exact h.copyStore

theorem State.memOk.dstPlace {c} {s : State} {o} (h : s.memOk) : CopyOk (State.dstPlace c s o) := by
  unfold State.dstPlace
  split
  · next t _ _ e =>
    have ht : t.memOk := h.copyAt.ok e
    exact .ite (.throw ht) (.pure ht)
  · exact h.copyAt

theorem State.memOk.settleGranules {s : State} {c done} (h : s.memOk) : (s.settleGranules c done).memOk :=
  h.foldl fun _ _ h => h.copySector

theorem State.memOk.advanceCopy {s : State} {c pos done} (h : s.memOk) : (s.advanceCopy c pos done).memOk := h.settleGranules

theorem State.memOk.specTo {s : State} {id pos} (h : s.memOk) : (s.specTo id pos).memOk := h

theorem State.memOk.claimLate {s : State} {c ws} (h : s.memOk) : (s.claimLate c ws).memOk := by
  refine h.foldl fun _ _ h => ?_
  split
  · exact h
  · exact h.ite h.claimPlace

theorem State.memOk.copyGranule {s : State} {c} (h : s.memOk) : (s.copyGranule c).memOk := by
  have hi : ∀ {c : Prop} [Decidable c] {x y : CopyStep}, x.memOk → y.memOk → (if c then x else y).memOk := by
    intros; split <;> assumption
  refine hi (hi h ?_) ?_
  · have hs {o n} := h.stageWords (c := c) (place := fun s o => .ok (s, .abuf 0 o)) (fun _ _ h => .pure h) (o := o) (n := n)
    split
    · next e => exact hs.error e
    · next t _ e =>
      have ht : t.memOk := hs.ok e
      exact hi ht.specTo ht.writeStaged.advanceCopy
  · have hs {o n} := h.stageWords (c := c) (place := State.dstPlace c) (fun _ _ h => h.dstPlace) (o := o) (n := n)
    split
    · next e => exact hs.error e
    · next t _ e =>
      have ht : t.memOk := hs.ok e
      exact hi ht.claimLate (hi ht.claimLate.specTo ht.claimLate.writeStaged.advanceCopy)

theorem State.memOk.failCopy {s : State} {id cause} (h : s.memOk) : (s.failCopy id cause).memOk := h

theorem State.memOk.parkCopy {s : State} {c va write} (h : s.memOk) : (s.parkCopy c va write).memOk := by
  unfold State.parkCopy
  grind [State.memOk.post, State.memOk.modCx, State.memOk.failCopy, State.memOk]

theorem State.memOk.copyStep {s : State} {c} (h : s.memOk) : (s.copyStep c).memOk := by
  have hg := h.copyGranule (c := c)
  unfold State.copyStep
  split
  · next e => rw [e] at hg; exact State.memOk.wake hg
  · next e => rw [e] at hg; exact hg
  · next e => rw [e] at hg; exact State.memOk.parkCopy hg
  · next e => rw [e] at hg; exact State.memOk.failCopy hg

theorem State.memOk.execCopyGranuleWrite {copy} {s : State} (h : s.memOk) : NextOk (execCopyGranuleWrite copy s) := by
  unfold Machine.execCopyGranuleWrite
  refine State.memOk.next ?_
  split
  · exact h
  · exact h.ite h.copyStep

theorem State.memOk.claimsTaken {s : State} {id} (h : s.memOk) : (s.claimsTaken id).memOk := by
  grind [State.claimsTaken, State.memOk.foldl, State.memOk.wake, State.memOk.stopHere, State.memOk.ready]

theorem State.memOk.endCopy {s : State} {c} (h : s.memOk) : (s.endCopy c).memOk :=
  .wake (.claimsTaken (.modGr (.writeToken (.dropCleanL1 h))))

theorem State.memOk.execCopyComplete {copy} {s : State} (h : s.memOk) : NextOk (execCopyComplete copy s) := by
  unfold Machine.execCopyComplete
  refine State.memOk.next ?_
  split
  · exact h
  · exact h.endCopy.ite h

/-! ## Machine/Region -/

theorem State.memOk.execRgbeg {e a d} {s : State} (h : s.memOk) : NextOk (execRgbeg e a d s) := by
  refine h.issue fun s h => h.trapU.ite (h.nearForm fun s h => ?_)
  split
  · exact h.trapU
  split
  · refine h.regAbort.ite ?_
    split
    · next e => exact h.countIssue.error e
    · next e =>
      refine State.memOk.advance ?_
      split
      · exact (h.countIssue.ok e).setRegion
      · exact h.countIssue.ok e
  · exact h.stall.ite h.setRegion.modSp.advance

theorem State.memOk.askNext {s : State} {k} (h : s.memOk) : (s.askNext k).memOk := by
  unfold State.askNext
  dsimp only
  split
  · exact h
  · split
    · exact h
    · exact h.regAbort.ite h.askHold

theorem State.memOk.execRgend {e} {s : State} (h : s.memOk) : NextOk (execRgend e s) := by
  refine h.issue fun s h => ?_
  dsimp only
  split
  · exact h.trapU
  split
  · next e => exact h.countIssue.error e
  · next t e =>
    have ht : t.memOk := h.countIssue.ok e
    split
    · exact ht
    · grind [State.memOk.setRegion, State.memOk.advance, State.memOk.askNext, State.memOk.waitFor]

theorem State.memOk.execRgabt {_e c} {s : State} (h : s.memOk) : NextOk (execRgabt _e c s) :=
  h.issue (fun _ h => h.regAbort.ite h.trapU)

theorem State.memOk.execRgst {e a} {s : State} (h : s.memOk) : NextOk (execRgst e a s) :=
  h.issue (fun _ h => h.form (fun _ h => h.sset))

theorem State.memOk.reeval {s : State} {r news} (h : s.memOk) : (s.reeval r news).memOk := h

theorem State.memOk.commitStore {s : State} {k core news b} (h : s.memOk) : (s.commitStore k core news b).memOk := by
  grind [State.commitStore, State.memOk.foldl, State.memOk_homeMerge, State.memOk.noteOwn, State.memOk.nowWrite,
      State.memOk.flatWrite]

theorem State.memOk.commit {s : State} {k r} (h : s.memOk) : (s.commit k r).memOk := by
  unfold State.commit
  dsimp only
  split
  · exact h.regAbort
  · exact (h.cleanAllL1.reeval.foldl fun _ _ h => h.commitStore).releaseHeld.setRegion.dropCleanL1.modSp.finishAt.wake

theorem State.memOk.execRegionCommit {split} {s : State} (h : s.memOk) : NextOk (execRegionCommit split s) := by
  unfold Machine.execRegionCommit
  refine State.memOk.next ?_
  split
  · exact h
  · split
    · exact h
    · split
      · exact h.takeEccu
      · exact h.regAbort.ite (h.commit.ite h.askNext)

theorem State.memOk.execRegionSerialTimeout {split} {s : State} (h : s.memOk) : NextOk (execRegionSerialTimeout split s) := by
  unfold Machine.execRegionSerialTimeout
  refine State.memOk.next ?_
  split
  · exact h
  · exact h.upd.regAbort.ite h

/-! ## Machine/Coherence -/

theorem State.memOk.dropReq {s : State} {q} (h : s.memOk) : (s.dropReq q).memOk := h

theorem State.memOk.fillL2 {s : State} {die sec home st tracked} (h : s.memOk) : (s.fillL2 die sec home st tracked).memOk := by
  have hr : ((s.roomL2 die sec).getD s).memOk := h.getD fun _ e => h.roomL2 e
  exact .ite (State.memOk_setL2 _ _ _ hr) (State.memOk_setL2 _ _ _ (State.memOk_homeRead _ _ hr))

theorem State.memOk.prefetched {s : State} {q} (h : s.memOk) : (s.prefetched q).memOk := h.fillL1.ite h

theorem State.memOk.grantClaim {s : State} {q st} (h : s.memOk) : (s.grantClaim q st).memOk := (State.memOk_recallL2 _ _ h).setDir

theorem State.memOk.grantCopy {s : State} {q} (h : s.memOk) : (s.grantCopy q).memOk := h

theorem State.memOk.grantHold {s : State} {q} (h : s.memOk) : (s.grantHold q).memOk := by
  unfold State.grantHold
  split
  · exact h.releaseHeld
  · exact (h.setRegion.askNext.ite h.setRegion).wake

theorem State.memOk.grantX {s : State} {q} (h : s.memOk) : (s.grantX q).memOk := h.setDir

theorem State.memOk.tellSwitch {s : State} {m} (h : s.memOk) : (s.tellSwitch m).memOk := h

theorem State.memOk.grantPeer {s : State} {q} (h : s.memOk) : (s.grantPeer q).memOk :=
  have hr := State.memOk_homeRead q.home q.sector h
  .ite (.setSharers (.upd hr)) (.setDir (.upd hr))

theorem State.memOk.grantRecall {s : State} {q} (h : s.memOk) : (s.grantRecall q).memOk := .upd h

theorem State.memOk.grant {s : State} {q} (h : s.memOk) : (s.grant q).memOk :=
  have hd : ∀ {v}, (s.setDir q.sector v).memOk := h.setDir
  hd.grantClaim.grantCopy.claimsTaken.ite (hd.grantClaim.grantHold.ite (hd.grantRecall.wake.ite (hd.grantPeer.wake.ite
    (hd.fillL2.setSharers.prefetched.wake.ite hd.fillL2.grantX.prefetched.wake))))

theorem State.memOk.serveCoh {s : State} {q} (h : s.memOk) : (s.serveCoh q).memOk :=
  h.grant.ite (h.setDir.foldl fun _ _ h => h.tellSwitch).upd

theorem State.memOk.claimOwned {s : State} {q o} (h : s.memOk) : (s.claimOwned q o).memOk :=
  (State.memOk_setL2 _ _ _ (h.fillL2.ite h)).grantCopy.claimsTaken

theorem State.memOk.serveOwn {s : State} {q} (h : s.memOk) : (s.serveOwn q).memOk := by
  unfold State.serveOwn
  split
  · exact (State.memOk_homeRead _ _ h).tellSwitch.wake
  · split
    · exact h.setDir.claimOwned.ite h.setDir.fillL2.wake
    · exact h.claimOwned.ite (h.fillL2.wake.ite h.wake)

theorem State.memOk.failWaiting {s : State} {die sec} (h : s.memOk) : (s.failWaiting die sec).memOk := by
  grind [State.failWaiting, State.memOk.foldl, State.memOk.failOp]

theorem State.memOk.failHold {s : State} {k sec} (h : s.memOk) : (s.failHold k sec).memOk := by
  unfold State.failHold
  split
  · exact h.regAbort
  · split
    · exact h.failOp
    · exact h.regAbort

theorem State.memOk.refuse {s : State} {q} (h : s.memOk) : (s.refuse q).memOk :=
  (h.grantCopy.claimsTaken.ite h.failCopy.claimsTaken).ite (h.failHold.ite (h.tellSwitch.ite (h.ite h.failWaiting.wake)))

theorem State.memOk.recallEntry {s : State} {home sec} (h : s.memOk) : (s.recallEntry home sec).memOk := h.serveCoh

theorem State.memOk.evictEntry {s : State} {home line} (h : s.memOk) : (s.evictEntry home line).memOk :=
  h.ite ((h.upd.foldl fun _ _ h => h.releaseBlock).foldl fun _ _ h => h.recallEntry)

theorem State.memOk.keepWay {s t : State} {q} (h : s.memOk) (e : s.keepWay q = some t) : t.memOk := by
  unfold State.keepWay at e
  split at e
  · exact h.roomL2 e
  · cases e; exact h

theorem State.memOk.serve {s : State} {kind die sec} (h : s.memOk) : (s.serve kind die sec).memOk := by
  unfold State.serve
  split
  · exact h
  · split
    · exact h
    · split
      · exact h.dropReq
      · split
        · exact h.dropReq.refuse
        · split
          · exact h
          · split
            · exact h
            · next t e6 => exact h.evictEntry.ite ((h.keepWay e6).dropReq.serveOwn.ite (h.keepWay e6).dropReq.serveCoh)

theorem State.memOk.execRds {die sector} {s : State} (h : s.memOk) : NextOk (execRds die sector s) := h.serve.next

theorem State.memOk.recallPeers {s : State} {die sec} (h : s.memOk) : (s.recallPeers die sec).memOk := h.recallEntry.ite h

theorem State.memOk.execRdx {die sector} {s : State} (h : s.memOk) : NextOk (execRdx die sector s) := (h.recallPeers.ite
    h.serve).next

theorem State.memOk.execUpg {die sector} {s : State} (h : s.memOk) : NextOk (execUpg die sector s) := h.serve.next

theorem State.memOk.execRdu {die sector} {s : State} (h : s.memOk) : NextOk (execRdu die sector s) := by
  unfold Machine.execRdu
  refine State.memOk.next ?_
  split
  · exact h
  · split
    · exact h
    · split
      · exact h.dropReq
      · split
        · exact h.dropReq.refuse
        · split
          · exact h
          · next t e5 => exact ((h.keepWay e5).dropReq.fillL2.ite (h.keepWay e5).dropReq).prefetched.wake

theorem State.memOk.spend {s : State} {kind die sec home} (h : s.memOk) : (s.spend kind die sec home).memOk := by
  unfold State.spend
  split
  · exact h.dropReq
  · exact State.memOk_countReq _ h

theorem State.memOk.execWrb {die sector} {s : State} (h : s.memOk) : NextOk (execWrb die sector s) := by
  refine State.memOk.next (h.ite ?_)
  split
  · exact h.dropReq
  have hs := h.spend (kind := 4) (die := die) (sec := sector) (home := (s.l2At die sector).home)
  have hg : ∀ (u : State) rs, u.memOk → ({ u with recalls := rs } : State).memOk := fun _ _ h => h.upd
  refine State.memOk.ite ?_ (.ite (.ite (hg _ _ (State.memOk_setL2 die sector {} hs)) h) (.ite h (.wake ?_)))
  · split
    · exact h.dropReq.wake
    · exact h
  · have hm := fun i j k v => State.memOk_setL2 die sector {} (State.memOk_homeMerge i j k v hs)
    exact .ite (.setDir (hm _ _ _ _)) (hm _ _ _ _)

theorem State.memOk.execWrc {die sector} {s : State} (h : s.memOk) : NextOk (execWrc die sector s) := by
  unfold Machine.execWrc
  refine State.memOk.next ?_
  split
  · exact h
  · exact h.ite (h.dropReq.ite (h.dropReq.wake.ite (State.memOk_setL2 _ _ _ (State.memOk_homeMerge _ _ _ _ h.dropReq)).wake))

theorem State.memOk.execWrm {die sector} {s : State} (h : s.memOk) : NextOk (execWrm die sector s) := by
  have hc : ∀ {c : Prop} [Decidable c] {ls : List Nat}, (if c then s else ls.foldl (fun t c => t.cleanL1 c sector) s).memOk :=
    h.ite (h.foldl fun _ _ h => h.cleanL1)
  refine State.memOk.next (h.ite ?_)
  split
  · exact h.dropReq
  refine State.memOk.ite ?_ (.ite hc (.wake (State.memOk_setL2 _ _ _ (State.memOk_homeMerge _ _ _ _ hc.spend))))
  split
  · exact hc.dropReq.wake
  · exact hc

theorem State.memOk.execWrt {die sector} {s : State} (h : s.memOk) : NextOk (execWrt die sector s) := by
  unfold Machine.execWrt
  refine State.memOk.next ?_
  split
  · exact h
  · exact h.ite (h.dropReq.ite (h.dropReq.refuse.ite (State.memOk_homeMerge _ _ _ _ h.dropReq).unitDone))

theorem State.memOk.answer {s : State} {die sec inval} (h : s.memOk) : (s.answer die sec inval).memOk := by
  unfold State.answer
  split
  · exact h
  · exact h.upd.countStale.ite (((State.memOk_countReq _ h).ite h).ite ((State.memOk_setL2 _ _ _ ((State.memOk_countReq _ h).ite
        h)).ite (((State.memOk_countReq _ h).ite h).ite (State.memOk_setL2 _ _ _ ((State.memOk_countReq _ h).ite h))))).upd

theorem State.memOk.execInvalidation {die sector} {s : State} (h : s.memOk) : NextOk (execInvalidation die sector s) :=
  (h.answer.ite h).next

theorem State.memOk.execDowngrade {die sector} {s : State} (h : s.memOk) : NextOk (execDowngrade die sector s) := (h.answer.ite
    h).next

theorem State.memOk.afterRecalls {s : State} {sec inval} (h : s.memOk) : (s.afterRecalls sec inval).memOk :=
  h.setDir.ite (h.setDir.setSharers.ite h)

theorem State.memOk.execCoherenceAck {die sector} {s : State} (h : s.memOk) : NextOk (execCoherenceAck die sector s) := by
  refine State.memOk.next ?_
  split
  · exact h
  next r _ =>
  refine State.memOk.ite h ?_
  have hm : ∀ {x y}, (({ s with recalls := s.recalls.erase r } : State).homeMerge r.home sector x y).memOk := State.memOk_homeMerge
      _ _ _ _ h
  cases r.data with
  | none =>
    refine State.memOk.ite h ?_
    split
    · exact State.memOk.grant (.afterRecalls h)
    · exact h
  | some x =>
    refine State.memOk.ite hm ?_
    split
    · exact hm.afterRecalls.grant
    · exact hm

theorem State.memOk.loseBlocks {s : State} {die} (h : s.memOk) : (s.loseBlocks die).memOk :=
  h.foldl fun _ _ h => h.foldl fun _ _ h => h.setDir

theorem State.memOk.purgeDie {s : State} {die} (h : s.memOk) : (s.purgeDie die).memOk := h.loseBlocks

theorem State.memOk.contain {s : State} {die} (h : s.memOk) : (s.contain die).memOk :=
  h.ite ((h.modDi.purgeDie.foldl fun _ _ h => h.refuse).foldl fun _ _ h => h.haltCtx).errorIrq.wake

theorem State.memOk.purgePeer {s : State} {peer} (h : s.memOk) : (s.purgePeer peer).memOk := h

theorem State.memOk.losePeer {s : State} {peer} (h : s.memOk) : (s.losePeer peer).memOk :=
  h.ite (h.purgePeer.setPeer.foldl fun _ _ h => h.refuse).errorIrq.wake

theorem State.memOk.execLossOfService {die} {s : State} (h : s.memOk) : NextOk (execLossOfService die s) :=
  (h.contain.ite h.losePeer).next

theorem State.memOk.execCoherenceTimeout {die} {s : State} (h : s.memOk) : NextOk (execCoherenceTimeout die s) :=
  ((h.contain.ite h.losePeer).ite h).next

/-! ## Machine/Compare -/

theorem State.memOk.vcmp {s : State} {e rel d a b} (h : s.memOk) : (s.vcmp e rel d a b).memOk :=
  h.undef.ite (h.form (fun _ h => h.pset.orLanes))

theorem State.memOk.vcmpv {s : State} {e rel d a b} (h : s.memOk) : (s.vcmpv e rel d a b).memOk := h.vecFl

theorem State.memOk.execVcmpEq {e d a b} {s : State} (h : s.memOk) : NextOk (execVcmpEq e d a b s) := h.issue (fun _ h => h.vcmp)

theorem State.memOk.execVcmpNe {e d a b} {s : State} (h : s.memOk) : NextOk (execVcmpNe e d a b s) := h.issue (fun _ h => h.vcmp)

theorem State.memOk.execVcmpLt {e d a b} {s : State} (h : s.memOk) : NextOk (execVcmpLt e d a b s) := h.issue (fun _ h => h.vcmp)

theorem State.memOk.execVcmpLe {e d a b} {s : State} (h : s.memOk) : NextOk (execVcmpLe e d a b s) := h.issue (fun _ h => h.vcmp)

theorem State.memOk.execVcmpGt {e d a b} {s : State} (h : s.memOk) : NextOk (execVcmpGt e d a b s) := h.issue (fun _ h => h.vcmp)

theorem State.memOk.execVcmpGe {e d a b} {s : State} (h : s.memOk) : NextOk (execVcmpGe e d a b s) := h.issue (fun _ h => h.vcmp)

theorem State.memOk.execVcmpUn {e d a b} {s : State} (h : s.memOk) : NextOk (execVcmpUn e d a b s) := h.issue (fun _ h => h.vcmp)

theorem State.memOk.execVcmpvEq {e d a b} {s : State} (h : s.memOk) : NextOk (execVcmpvEq e d a b s) := h.issue (fun _ h => h.vcmpv)

theorem State.memOk.execVcmpvNe {e d a b} {s : State} (h : s.memOk) : NextOk (execVcmpvNe e d a b s) := h.issue (fun _ h => h.vcmpv)

theorem State.memOk.execVcmpvLt {e d a b} {s : State} (h : s.memOk) : NextOk (execVcmpvLt e d a b s) := h.issue (fun _ h => h.vcmpv)

theorem State.memOk.execVcmpvLe {e d a b} {s : State} (h : s.memOk) : NextOk (execVcmpvLe e d a b s) := h.issue (fun _ h => h.vcmpv)

theorem State.memOk.execVcmpvGt {e d a b} {s : State} (h : s.memOk) : NextOk (execVcmpvGt e d a b s) := h.issue (fun _ h => h.vcmpv)

theorem State.memOk.execVcmpvGe {e d a b} {s : State} (h : s.memOk) : NextOk (execVcmpvGe e d a b s) := h.issue (fun _ h => h.vcmpv)

theorem State.memOk.execVcmpvUn {e d a b} {s : State} (h : s.memOk) : NextOk (execVcmpvUn e d a b s) := h.issue (fun _ h => h.vcmpv)

/-! ## Machine/Emulation -/

theorem State.memOk.levelForm {s : State} {f} (h : s.memOk) (hf : ∀ v, (f v).memOk) : (s.levelForm f).memOk := by
  unfold State.levelForm
  refine h.trapU.ite ?_
  split
  · exact h.trapU
  · exact hf _

theorem State.memOk.execOwrd {e d n} {s : State} (h : s.memOk) : NextOk (execOwrd e d n s) :=
  h.issue fun _ h => h.levelForm fun _ => h.form fun _ h => h.sset

theorem State.memOk.execXregRd {e d a p} {s : State} (h : s.memOk) : NextOk (execXregRd e d a p s) :=
  h.issue fun _ h => h.levelForm fun _ => h.stall.ite (h.form fun _ h => h.vsets.ite h.sset)

theorem State.memOk.xWrite {s : State} {v space n d} (h : s.memOk) : (s.xWrite v space n d).memOk := by
  unfold State.xWrite
  split
  · exact h.foldl fun _ _ h => h.rowSet
  · exact h.ite h.upd
  · exact h.ite h.upd

theorem State.memOk.execXregWr {e d a p} {s : State} (h : s.memOk) : NextOk (execXregWr e d a p s) :=
  h.issue fun _ h => h.levelForm fun _ => h.trapU.ite (h.stall.ite (h.form fun _ h => h.xWrite))

theorem State.memOk.execEmret {_e n a} {s : State} (h : s.memOk) : NextOk (execEmret _e n a s) := by
  refine h.issue fun s h => h.undef.ite (h.levelForm fun v => h.trapU.ite (h.stall.ite (h.trapU.ite (h.trapU.ite ?_))))
  exact .ite (.stopHere h.setSp) (.ite (.trap h.setSp) h.setSp)

theorem State.memOk.execProbe {e n} {s : State} (h : s.memOk) : NextOk (execProbe e n s) :=
  h.issue (fun _ h => h.plain (fun _ h => h.modSp.ite h.modGr))

theorem State.memOk.execEmulationEntry {cause word live} {s : State} (h : s.memOk) : NextOk (execEmulationEntry cause word live s)
    :=
  h.issue (fun _ h => h.nonNative)

theorem State.memOk.execEmulationLevelWaitEnd {split} {s : State} (h : s.memOk) : NextOk (execEmulationLevelWaitEnd split s) :=
  (h.ready.ite h).next

theorem State.memOk.execTrapBankWaitEnd {split} {s : State} (h : s.memOk) : NextOk (execTrapBankWaitEnd split s) :=
  (h.ready.ite h).next

theorem State.memOk.execSchedulerAgeThreshold {split} {s : State} (h : s.memOk) : NextOk (execSchedulerAgeThreshold split s) :=
  (h.modSp.ite h).next

/-! ## Machine/Mesh -/

theorem State.memOk.gfxForm {s : State} {allowed u f} (h : s.memOk) (hf : ∀ t, t.memOk → (f t).memOk) :
    (s.gfxForm allowed u f).memOk := by
  grind [State.gfxForm, State.memOk.barred, State.memOk.trapU, State.memOk.stall]

theorem State.memOk.execMshEmit {e d a b} {s : State} (h : s.memOk) : NextOk (execMshEmit e d a b s) :=
  h.issue (fun _ h => h.undef.ite (h.gfxForm (fun _ h => h.modTm.advance)))

theorem State.memOk.execMshClose {e d a b} {s : State} (h : s.memOk) : NextOk (execMshClose e d a b s) :=
  h.issue (fun _ h => h.undef.ite (h.gfxForm (fun _ h => h.advance.ite (h.stall.ite h.cleanAllL1.modTm.modSp))))

theorem State.memOk.sendBeacons {s : State} {c} (h : s.memOk) : (s.sendBeacons c).memOk := h.foldl fun _ _ h => h.ite h.upd

theorem State.memOk.meshletSent {s : State} {draw m} (h : s.memOk) : (s.meshletSent draw m).memOk := h.modDr.sendBeacons

theorem State.memOk.closeDone {s : State} {team status} (h : s.memOk) : (s.closeDone team status).memOk := by
  unfold State.closeDone
  dsimp only
  split
  · exact h
  · split
    · exact h
    · exact (h.modTm.foldl fun _ _ h => h.rowSet).foldl fun _ _ h => h.ite (h.modSp.ite h.finishAt)

theorem State.memOk.execMeshletCompressDone {team} {s : State} (h : s.memOk) : NextOk (execMeshletCompressDone team s) := by
  unfold Machine.execMeshletCompressDone
  dsimp only
  refine State.memOk.next ?_
  split
  · exact h.ite h.upd.meshletSent.closeDone
  · exact h

theorem State.memOk.releaseAll {sdie} : ∀ {n} {s : State}, s.memOk → (s.releaseAll sdie n).memOk
  | 0, _, h => h
  | n + 1, s, h => by
    unfold State.releaseAll
    split
    · exact h
    · exact State.memOk.releaseAll (.upd h)

theorem State.memOk.checkSpill {s : State} {part} (h : s.memOk) : (s.checkSpill part).memOk :=
  h.ite ((State.memOk_writeOpen _ _ h).ite (h.foldl fun _ _ h => h.haltCtx))

theorem State.memOk.execFrontierBeacon {gdie sdie} {s : State} (h : s.memOk) : NextOk (execFrontierBeacon gdie sdie s) := by
  unfold Machine.execFrontierBeacon
  refine State.memOk.next ?_
  split
  · exact h.upd.releaseAll
  · exact h

theorem State.memOk.execVisibilityPacket {gdie sdie} {s : State} (h : s.memOk) : NextOk (execVisibilityPacket gdie sdie s) := by
  unfold Machine.execVisibilityPacket
  refine State.memOk.next ?_
  split
  · exact h.upd.releaseAll.checkSpill
  · exact h.upd.countStale
  · exact h

/-! ## Machine/Queue -/

theorem State.memOk.modQu {s : State} {c q f} (h : s.memOk) : (s.modQu c q f).memOk := h.modCx

theorem State.memOk.takeDoorbell {s : State} {fn ctx queue wptr} (h : s.memOk) : (s.takeDoorbell fn ctx queue wptr).memOk :=
  h.ite (h.ite (h.haltCtx.ite (State.memOk_physPut _ _ h).modQu))

theorem State.memOk.ringDoorbell {s : State} {fn ctx queue wptr} (h : s.memOk) : (s.ringDoorbell fn ctx queue wptr).memOk :=
  h.takeDoorbell.ite h.upd

theorem State.memOk.execDoorbell {fn ctx queue wptr} {s : State} (h : s.memOk) : NextOk (execDoorbell fn ctx queue wptr s) :=
  h.ringDoorbell.next

theorem State.memOk.startHead {s : State} {c q} (h : s.memOk) : (s.startHead c q).memOk := (State.memOk_physPut _ _ h).modQu.modPa

theorem State.memOk.cmdErr {s : State} {c addr} (h : s.memOk) : (s.cmdErr c addr).memOk := h.haltCtx

theorem State.memOk.onHead {s : State} {c q op f} (h : s.memOk) (hf : ∀ t x1, t.memOk → (f t x1).memOk) :
    (s.onHead c q op f).memOk := by
  grind [State.onHead, State.memOk.cmdErr]

theorem State.memOk.onChosen {s : State} {c q op f} (h : s.memOk) (hf : ∀ t x1, t.memOk → (f t x1).memOk) :
    (s.onChosen c q op f).memOk := by
  grind [State.onChosen, State.memOk.onHead]

/-- The state that a translation for the command processors leaves. -/
def WordXl.state : WordXl → State
  | .ok s _ | .wait s | .bad s => s

theorem State.memOk.wordPlace {s : State} {c va need} (h : s.memOk) : (s.wordPlace c va need).state.memOk := by
  unfold State.wordPlace
  split
  · exact h
  · split
    · next t _ _ e =>
      have ht : t.memOk := h.translate.of_eq e
      split <;> exact ht
    all_goals next e => exact h.translate.of_eq e

/-- The state that a look at the words of a WAIT leaves. -/
def WaitLook.state : WaitLook → State
  | .met s | .unmet s | .halted s => s

theorem State.memOk.lookWait {c x} : ∀ {n i} {s : State}, s.memOk → (s.lookWait c x i n).state.memOk
  | 0, _, _, h => h
  | n + 1, i, s, h => by
    have hu : ∀ r : WaitLook, r.state.memOk → (match r with | .met t => WaitLook.unmet t | r => r).state.memOk := by
      rintro (t | t | t) hr <;> exact hr
    have hw := h.wordPlace (c := c) (va := (s.cmdWord x (1 + 2 * i)).toNat) (need := { r := true })
    unfold State.lookWait
    dsimp only
    split
    · next e => rw [e] at hw; exact hu _ (State.memOk.lookWait hw)
    · next e => rw [e] at hw; exact State.memOk.cmdErr hw
    · next t p e =>
      rw [e] at hw
      have hr : (t.placeRead p 8).1.memOk := State.memOk_placeRead p 8 hw
      split
      · exact hu _ (State.memOk.lookWait hr)
      · exact State.memOk.lookWait hr

theorem State.memOk.pollWait {s : State} {c q x f} (h : s.memOk) (hf : ∀ t, t.memOk → (f t).memOk) :
    (s.pollWait c q x f).memOk := by
  have hl := h.lookWait (c := c) (x := x) (i := 0) (n := s.waitCount x)
  unfold State.pollWait
  split
  · next e => rw [e] at hl; exact hf _ (State.memOk.modQu hl)
  · next e => rw [e] at hl; exact State.memOk.modQu hl
  · next e => rw [e] at hl; exact hl

theorem State.memOk.rereadWaits {s : State} (h : s.memOk) : s.rereadWaits.memOk :=
  h.foldl fun _ _ h => (h.pollWait fun _ h => h).ite h

theorem State.memOk.endIrq {s : State} {c q} (h : s.memOk) : (s.endIrq c q).memOk := h.ite h.raiseIrq

theorem State.memOk.execNopCommand {ctx queue} {s : State} (h : s.memOk) : NextOk (execNopCommand ctx queue s) :=
  State.memOk.next (h.onChosen fun _ _ h => h.startHead)

theorem State.memOk.execWaitCommand {ctx queue} {s : State} (h : s.memOk) : NextOk (execWaitCommand ctx queue s) :=
  State.memOk.next (h.onHead fun _ _ h => h.pollWait fun _ h => h.startHead.ite h)

theorem State.memOk.execWaitCommandPoll {ctx queue} {s : State} (h : s.memOk) : NextOk (execWaitCommandPoll ctx queue s) :=
  State.memOk.next (h.ite (h.pollWait fun _ h => h))

/-- The state that the write of a signal word leaves. -/
def SignalEnd.state : SignalEnd → State
  | .done s | .wait s | .halted s => s

theorem State.memOk.putSignal {s : State} {c va v} (h : s.memOk) : (s.putSignal c va v).state.memOk := by
  have hw := h.wordPlace (c := c) (va := va) (need := { w := true })
  unfold State.putSignal
  split
  · next e => rw [e] at hw; exact State.memOk.rereadWaits (State.memOk_placeWrite _ _ _ hw)
  · next e => rw [e] at hw; exact hw
  · next e => rw [e] at hw; exact State.memOk.cmdErr hw

theorem State.memOk.execSignal {ctx queue} {s : State} (h : s.memOk) : NextOk (execSignal ctx queue s) := by
  refine State.memOk.next (h.onChosen fun s x h => ?_)
  have hw := h.putSignal (c := ctx) (va := (s.cmdWord x 1).toNat) (v := s.cmdWord x 2)
  split
  · next e => rw [e] at hw; exact State.memOk.endIrq (State.memOk.startHead hw)
  · next e => rw [e] at hw; exact hw
  · next e => rw [e] at hw; exact hw

/-! ## Machine/LaunchCmd -/

theorem State.memOk.packetAllowed {s : State} {c p} (h : s.memOk) : (s.packetAllowed c p).1.memOk := by
  have ho : (s.ovHeader cmdCore c).1.memOk := h.ovHeader
  unfold State.packetAllowed
  dsimp only
  split
  · exact ho
  · exact ho.ovEntry

theorem State.memOk.launchAcquire {s : State} {part} (h : s.memOk) : (s.launchAcquire part).memOk := h.flushUntracked

theorem State.memOk.addLaunch {s : State} {l} (h : s.memOk) : (s.addLaunch l).memOk := h.launchAcquire.fresh

/-- The state that reading words leaves. -/
def WordsXl.state : WordsXl → State
  | .ok s _ | .wait s | .bad s => s

theorem State.memOk.readWords {c} : ∀ {n va} {s : State}, s.memOk → (s.readWords c va n).state.memOk
  | 0, _, _, h => h
  | n + 1, va, s, h => by
    have hw := h.wordPlace (c := c) (va := va) (need := { r := true })
    unfold State.readWords
    split
    · next e => rw [e] at hw; exact hw
    · next e => rw [e] at hw; exact hw
    · next t p e =>
      rw [e] at hw
      have ht : t.memOk := hw
      have hr := State.memOk.readWords (c := c) (n := n) (va := va + 8) (State.memOk_placeRead p 8 ht)
      dsimp only
      split
      · next e => rw [e] at hr; exact hr
      · exact hr

/-- The state that loading a packet leaves. -/
def PacketXl.state : PacketXl → State
  | .ok s _ | .wait s | .refused s => s

theorem State.memOk.loadPacket {s : State} {c va use} (h : s.memOk) : (s.loadPacket c va use).state.memOk := by
  have hr := h.readWords (c := c) (va := va) (n := 8)
  unfold State.loadPacket
  split
  · exact h
  split
  · next e => rw [e] at hr; exact hr
  · next e => rw [e] at hr; exact hr
  · next t _ e =>
    rw [e] at hr
    have ht : t.memOk := hr
    split
    · exact ht
    · dsimp only
      split
      · exact ht.ovWaits
      · split <;> exact ht.ovWaits.packetAllowed

theorem State.memOk.execLaunch {ctx queue} {s : State} (h : s.memOk) : NextOk (execLaunch ctx queue s) := by
  refine State.memOk.next (h.onChosen fun s x h => ?_)
  have hp := h.loadPacket (c := ctx) (va := (s.cmdWord x 1).toNat) (use := .compute)
  dsimp only
  split
  · next e => rw [e] at hp; exact hp
  · next e => rw [e] at hp; exact State.memOk.cmdErr hp
  · next e => rw [e] at hp; exact State.memOk.addLaunch (State.memOk.startHead hp)

theorem State.memOk.startDraw {s : State} {c q cls pass mesh pix n sigAddr sigVal} (h : s.memOk) :
    (s.startDraw c q cls pass mesh pix n sigAddr sigVal).memOk :=
  h.fresh.upd.modCx.addLaunch.addLaunch.sendBeacons

theorem State.memOk.execDraw {ctx queue} {s : State} (h : s.memOk) : NextOk (execDraw ctx queue s) := by
  refine State.memOk.next (h.onChosen fun s x h => ?_)
  have hr := h.readWords (c := ctx) (va := (s.cmdWord x 1).toNat) (n := 8)
  dsimp only
  refine h.cmdErr.ite (h.ite ?_)
  split
  · next e => rw [e] at hr; exact hr
  · next e => rw [e] at hr; exact State.memOk.cmdErr hr
  · next t _ e =>
    rw [e] at hr
    have ht : t.memOk := hr
    split
    · exact ht.cmdErr
    · next pass _ =>
      have hm := ht.loadPacket (c := ctx) (va := (s.cmdWord x 2).toNat) (use := .mesh)
      split
      · next e => rw [e] at hm; exact hm
      · next e => rw [e] at hm; exact State.memOk.cmdErr hm
      · next u _ e =>
        rw [e] at hm
        have hu : u.memOk := hm
        have hx := hu.loadPacket (c := ctx) (va := pass.pixlp.toNat) (use := .pixel)
        split
        · next e => rw [e] at hx; exact hx
        · next e => rw [e] at hx; exact State.memOk.cmdErr hx
        · next e => rw [e] at hx; exact State.memOk.startDraw (State.memOk.startHead hx)

/-! ## Machine/Scalar -/

theorem State.memOk.execSadd {e d a b} {s : State} (h : s.memOk) : NextOk (execSadd e d a b s) := h.issue (fun _ h => h.scal2)

theorem State.memOk.execSsub {e d a b} {s : State} (h : s.memOk) : NextOk (execSsub e d a b s) := h.issue (fun _ h => h.scal2)

theorem State.memOk.execSmul {e d a b} {s : State} (h : s.memOk) : NextOk (execSmul e d a b s) := h.issue (fun _ h => h.scal2)

theorem State.memOk.execSmulh {e d a b} {s : State} (h : s.memOk) : NextOk (execSmulh e d a b s) := h.issue (fun _ h => h.scal2)

theorem State.memOk.execSdiv {e d a b} {s : State} (h : s.memOk) : NextOk (execSdiv e d a b s) := h.issue (fun _ h => h.scal2)

theorem State.memOk.execSrem {e d a b} {s : State} (h : s.memOk) : NextOk (execSrem e d a b s) := h.issue (fun _ h => h.scal2)

theorem State.memOk.execSand {e d a b} {s : State} (h : s.memOk) : NextOk (execSand e d a b s) := h.issue (fun _ h => h.scal2)

theorem State.memOk.execSor {e d a b} {s : State} (h : s.memOk) : NextOk (execSor e d a b s) := h.issue (fun _ h => h.scal2)

theorem State.memOk.execSxor {e d a b} {s : State} (h : s.memOk) : NextOk (execSxor e d a b s) := h.issue (fun _ h => h.scal2)

theorem State.memOk.execSshl {e d a b} {s : State} (h : s.memOk) : NextOk (execSshl e d a b s) := h.issue (fun _ h => h.scal2)

theorem State.memOk.execSshr {e d a b} {s : State} (h : s.memOk) : NextOk (execSshr e d a b s) := h.issue (fun _ h => h.scal2)

theorem State.memOk.execSsra {e d a b} {s : State} (h : s.memOk) : NextOk (execSsra e d a b s) := h.issue (fun _ h => h.scal2)

theorem State.memOk.execSmin {e d a b} {s : State} (h : s.memOk) : NextOk (execSmin e d a b s) := h.issue (fun _ h => h.scal2)

theorem State.memOk.execSmax {e d a b} {s : State} (h : s.memOk) : NextOk (execSmax e d a b s) := h.issue (fun _ h => h.scal2)

theorem State.memOk.execSminn {e d a b} {s : State} (h : s.memOk) : NextOk (execSminn e d a b s) := h.issue (fun _ h => h.scal2)

theorem State.memOk.execSmaxn {e d a b} {s : State} (h : s.memOk) : NextOk (execSmaxn e d a b s) := h.issue (fun _ h => h.scal2)

theorem State.memOk.execScmpEq {e d a b} {s : State} (h : s.memOk) : NextOk (execScmpEq e d a b s) := h.issue (fun _ h => h.scal2)

theorem State.memOk.execScmpNe {e d a b} {s : State} (h : s.memOk) : NextOk (execScmpNe e d a b s) := h.issue (fun _ h => h.scal2)

theorem State.memOk.execScmpLt {e d a b} {s : State} (h : s.memOk) : NextOk (execScmpLt e d a b s) := h.issue (fun _ h => h.scal2)

theorem State.memOk.execScmpLe {e d a b} {s : State} (h : s.memOk) : NextOk (execScmpLe e d a b s) := h.issue (fun _ h => h.scal2)

theorem State.memOk.execScmpLtn {e d a b} {s : State} (h : s.memOk) : NextOk (execScmpLtn e d a b s) := h.issue (fun _ h => h.scal2)

theorem State.memOk.execScmpLen {e d a b} {s : State} (h : s.memOk) : NextOk (execScmpLen e d a b s) := h.issue (fun _ h => h.scal2)

theorem State.memOk.execSnot {e d a} {s : State} (h : s.memOk) : NextOk (execSnot e d a s) := h.issue (fun _ h => h.scal1)

theorem State.memOk.execSmov {e d a} {s : State} (h : s.memOk) : NextOk (execSmov e d a s) := h.issue (fun _ h => h.scal1)

theorem State.memOk.execSpopc {e d a} {s : State} (h : s.memOk) : NextOk (execSpopc e d a s) := h.issue (fun _ h => h.scal1)

theorem State.memOk.execSclz {e d a} {s : State} (h : s.memOk) : NextOk (execSclz e d a s) := h.issue (fun _ h => h.scal1)

theorem State.memOk.execSbrev {e d a} {s : State} (h : s.memOk) : NextOk (execSbrev e d a s) := h.issue (fun _ h => h.scal1)

theorem State.memOk.execSaddi {e d a i} {s : State} (h : s.memOk) : NextOk (execSaddi e d a i s) := h.issue (fun _ h => h.scal1)

theorem State.memOk.execSli {e d i} {s : State} (h : s.memOk) : NextOk (execSli e d i s) :=
  h.issue (fun _ h => h.form (fun _ h => h.sset))

theorem State.memOk.execSlih {e d a i} {s : State} (h : s.memOk) : NextOk (execSlih e d a i s) := h.issue (fun _ h => h.scal1)

/-! ## Machine/VectorInt -/

theorem State.memOk.vec2 {s : State} {e ok d a b tag f} (h : s.memOk) : (s.vec2 e ok d a b tag f).memOk := h.vec

theorem State.memOk.vec3 {s : State} {e ok d a b f} (h : s.memOk) : (s.vec3 e ok d a b f).memOk := h.vec

theorem State.memOk.vec1 {s : State} {e ok d a tag f} (h : s.memOk) : (s.vec1 e ok d a tag f).memOk := h.vec

theorem State.memOk.execVadd {e d a b} {s : State} (h : s.memOk) : NextOk (execVadd e d a b s) := h.issue (fun _ h => h.vec2)

theorem State.memOk.execVsub {e d a b} {s : State} (h : s.memOk) : NextOk (execVsub e d a b s) := h.issue (fun _ h => h.vec2)

theorem State.memOk.execVmul {e d a b} {s : State} (h : s.memOk) : NextOk (execVmul e d a b s) := h.issue (fun _ h => h.vec2)

theorem State.memOk.execVmulh {e d a b} {s : State} (h : s.memOk) : NextOk (execVmulh e d a b s) := h.issue (fun _ h => h.vec2)

theorem State.memOk.execVand {e d a b} {s : State} (h : s.memOk) : NextOk (execVand e d a b s) := h.issue (fun _ h => h.vec2)

theorem State.memOk.execVor {e d a b} {s : State} (h : s.memOk) : NextOk (execVor e d a b s) := h.issue (fun _ h => h.vec2)

theorem State.memOk.execVxor {e d a b} {s : State} (h : s.memOk) : NextOk (execVxor e d a b s) := h.issue (fun _ h => h.vec2)

theorem State.memOk.execVshl {e d a b} {s : State} (h : s.memOk) : NextOk (execVshl e d a b s) := h.issue (fun _ h => h.vec2)

theorem State.memOk.execVshr {e d a b} {s : State} (h : s.memOk) : NextOk (execVshr e d a b s) := h.issue (fun _ h => h.vec2)

theorem State.memOk.execVsra {e d a b} {s : State} (h : s.memOk) : NextOk (execVsra e d a b s) := h.issue (fun _ h => h.vec2)

theorem State.memOk.execVmin {e d a b} {s : State} (h : s.memOk) : NextOk (execVmin e d a b s) := h.issue (fun _ h => h.vec2)

theorem State.memOk.execVmax {e d a b} {s : State} (h : s.memOk) : NextOk (execVmax e d a b s) := h.issue (fun _ h => h.vec2)

theorem State.memOk.execVavg {e d a b} {s : State} (h : s.memOk) : NextOk (execVavg e d a b s) := h.issue (fun _ h => h.vec2)

theorem State.memOk.execVdiv {e d a b} {s : State} (h : s.memOk) : NextOk (execVdiv e d a b s) := h.issue (fun _ h => h.vec2)

theorem State.memOk.execVrem {e d a b} {s : State} (h : s.memOk) : NextOk (execVrem e d a b s) := h.issue (fun _ h => h.vec2)

theorem State.memOk.execVmad {e d a b} {s : State} (h : s.memOk) : NextOk (execVmad e d a b s) := h.issue (fun _ h => h.vec3)

theorem State.memOk.execVbsel {e d a b} {s : State} (h : s.memOk) : NextOk (execVbsel e d a b s) := h.issue (fun _ h => h.vec3)

theorem State.memOk.execVnot {e d a} {s : State} (h : s.memOk) : NextOk (execVnot e d a s) := h.issue (fun _ h => h.vec1)

theorem State.memOk.execVabs {e d a} {s : State} (h : s.memOk) : NextOk (execVabs e d a s) := h.issue (fun _ h => h.vec1)

theorem State.memOk.execVneg {e d a} {s : State} (h : s.memOk) : NextOk (execVneg e d a s) := h.issue (fun _ h => h.vec1)

theorem State.memOk.execVmov {e d a} {s : State} (h : s.memOk) : NextOk (execVmov e d a s) := h.issue (fun _ h => h.vec1)

theorem State.memOk.execVpopc {e d a} {s : State} (h : s.memOk) : NextOk (execVpopc e d a s) := h.issue (fun _ h => h.vec1)

theorem State.memOk.execVclz {e d a} {s : State} (h : s.memOk) : NextOk (execVclz e d a s) := h.issue (fun _ h => h.vec1)

theorem State.memOk.execVaddi {e d a i} {s : State} (h : s.memOk) : NextOk (execVaddi e d a i s) := h.issue (fun _ h => h.vec1)

theorem State.memOk.execVli {e d i} {s : State} (h : s.memOk) : NextOk (execVli e d i s) := h.issue (fun _ h => h.vec)

/-! ## Machine/Permute -/

theorem State.memOk.execVbfe {e d a b} {s : State} (h : s.memOk) : NextOk (execVbfe e d a b s) := h.issue (fun _ h => h.vec2)

theorem State.memOk.execVbfi {e d a b} {s : State} (h : s.memOk) : NextOk (execVbfi e d a b s) := h.issue (fun _ h => h.vec3)

theorem State.memOk.execVprmt {e d a b} {s : State} (h : s.memOk) : NextOk (execVprmt e d a b s) := h.issue (fun _ h => h.vec3)

theorem State.memOk.execVshuf {e d a b} {s : State} (h : s.memOk) : NextOk (execVshuf e d a b s) :=
  h.issue (fun _ h => h.undef.ite (h.form (fun _ h => h.putLanes)))

theorem State.memOk.execVpackb {e d a} {s : State} (h : s.memOk) : NextOk (execVpackb e d a s) :=
  h.issue (fun _ h => h.undef.ite (h.form (fun _ h => h.ite h.sset)))

theorem State.memOk.execVbcast {e d a} {s : State} (h : s.memOk) : NextOk (execVbcast e d a s) :=
  h.issue (fun _ h => h.undef.ite (h.form (fun _ h => h.putLanes)))

theorem State.memOk.execVext {e d a b} {s : State} (h : s.memOk) : NextOk (execVext e d a b s) :=
  h.issue (fun _ h => h.undef.ite (h.form (fun _ h => h.ite h.sset)))

theorem State.memOk.execVscan {e d a o} {s : State} (h : s.memOk) : NextOk (execVscan e d a o s) := h.issue (fun _ h => h.vec)

theorem State.memOk.execVreduce {e d a o} {s : State} (h : s.memOk) : NextOk (execVreduce e d a o s) := h.issue (fun _ h => h.vec)

/-! ## Machine/Texture -/

theorem State.memOk.texTap {s : State} {k l form v mine c t p} (h : s.memOk) : (s.texTap k l form v mine c t p).1.memOk := by
  unfold State.texTap
  dsimp only
  split
  · exact h
  · split <;> next t _ e2 => exact h.piecesOf.of_eq e2

theorem State.memOk.texAll {k l form v} : ∀ {ps mine c t} {s : State}, s.memOk → (s.texAll k l form v ps mine c t).1.memOk
  | [], _, _, _, _, h => h
  | p :: ps, mine, c, t, s, h => by
    unfold State.texAll
    split
    · next e => exact State.memOk.texAll (h.texTap.of_eq e)
    · next e => exact h.texTap.of_eq e

theorem State.memOk.readBlock {s : State} {k l va scope ps} (h : s.memOk) : (s.readBlock k l va scope ps).1.memOk := by
  unfold State.readBlock
  extract_lets o
  split
  · exact h
  · have hf := ExceptOk.foldlM (P := State.memOk) (Q := fun r : State × Nat × Bool => r.1.memOk)
      (f := fun acc u => (acc.1.doUnit o 0 u).map fun r => (r.1, acc.2.1 + r.2.1.toNat * 256 ^ u.off, acc.2.2 || r.2.2))
      (fun b u hb => (State.memOk.doUnit hb).map fun _ h => h) o.units (s, 0, false) h
    split
    · next e => exact hf.ok e
    · next e => exact hf.error e

theorem State.memOk.texLane {s : State} {k form d a b c l} (h : s.memOk) : (s.texLane k form d a b c l).1.memOk := by
  unfold State.texLane
  dsimp only
  split
  · next t _ e => exact h.piecesOf.of_eq e
  · next t _ e =>
      split
      · exact h.piecesOf.of_eq e
      · split
        · next t e4 => exact (h.piecesOf.of_eq e).readBlock.of_eq e4
        · next t _ _ e4 =>
            split
            · exact (h.piecesOf.of_eq e).readBlock.of_eq e4
            · split
              · exact (h.piecesOf.of_eq e).readBlock.of_eq e4
              · split
                · next t _ _ e8 => exact ((h.piecesOf.of_eq e).readBlock.of_eq e4).texAll.of_eq e8
                · next t _ e8 => exact ((h.piecesOf.of_eq e).readBlock.of_eq e4).texAll.of_eq e8

theorem State.memOk.texForm {s : State} {e form d a b} (h : s.memOk) : (s.texForm e form d a b).memOk := by
  have ht : ∀ {ls : List Nat}, (ls.foldl (fun (x : State × TexAcc) l => x.1.texLane s.cur form d a b x.2 l) (s, {})).1.memOk :=
    h.foldlFst fun _ _ h => h.texLane
  refine h.undef.ite (h.barred.ite (h.stall.ite (ht.stall.ite (ht.trap.ite (ht.stall.ite ?_)))))
  exact State.memOk.settleLanes ((ht.ite ht.startOp).ite (ht.ite ht.startOp).putEccu)

theorem State.memOk.execTex {e d a b} {s : State} (h : s.memOk) : NextOk (execTex e d a b s) := h.issue (fun _ h => h.texForm)

theorem State.memOk.execTexl {e d a b} {s : State} (h : s.memOk) : NextOk (execTexl e d a b s) := h.issue (fun _ h => h.texForm)

theorem State.memOk.execTexg {e d a b} {s : State} (h : s.memOk) : NextOk (execTexg e d a b s) := h.issue (fun _ h => h.texForm)

theorem State.memOk.execImgLd {e d a b} {s : State} (h : s.memOk) : NextOk (execImgLd e d a b s) := h.issue (fun _ h => h.texForm)

theorem State.memOk.execImgSt {e d a b} {s : State} (h : s.memOk) : NextOk (execImgSt e d a b s) := h.issue (fun _ h => h.texForm)

/-! ## Machine/Pixel -/

theorem State.memOk.wordRmw {s : State} {core p f} (h : s.memOk) : (s.wordRmw core p f).1.memOk := by
  unfold State.wordRmw
  split
  · dsimp only
    split
    · next e => exact h.atomSector.ok e
    · next e => exact h.atomSector.error e
  · have hr : (s.placeRead p 4).1.memOk := State.memOk_placeRead p 4 h
    dsimp only
    split
    · exact State.memOk_placeWrite _ _ _ hr
    · exact hr

theorem State.memOk.unitAsk {s : State} {c va die core who} (h : s.memOk) : (s.unitAsk c va die core who).memOk := by
  unfold State.unitAsk
  split
  · next t e => exact h.post.of_eq e
  · next t e => exact (h.post.of_eq e).modCx
  · next t e => exact (h.post.of_eq e).haltCtx

theorem State.memOk.depthQuad {s : State} {core place zmode q} (h : s.memOk) : (s.depthQuad core place zmode q).1.memOk := by
  refine State.memOk.foldlFst h fun acc c hacc => ?_
  exact .iteFst hacc hacc.wordRmw

theorem State.memOk.wordReady {s : State} {core p} (h : s.memOk) : TriedOk (s.wordReady core p) := by
  unfold State.wordReady
  refine .ite h.waits (.ite h.waits (.ite (State.memOk.waits h.meetPlace) ?_))
  split
  · exact .ite h.found (h.exclusive.map fun _ h => h)
  · exact h.found

theorem State.memOk.wordsReady {s : State} {core ps} (h : s.memOk) : (s.wordsReady core ps).1.memOk := by
  refine State.memOk.foldlFst h fun q p hq => ?_
  have hw := hq.wordReady (core := core) (p := p)
  split
  · next e => exact hw.ok e
  · next e => exact hw.error e

theorem State.memOk.launchQuads {s : State} {sdie i v qs} (h : s.memOk) : (s.launchQuads sdie i v qs).memOk :=
  h.upd.foldl fun _ _ h => h.fresh

theorem State.memOk.parkRaster {s : State} {i b} (h : s.memOk) : (s.parkRaster i b).memOk := h

/-- The state that a translation for a unit of a die leaves. -/
def UnitXl.state : UnitXl → State
  | .ok s _ | .wait s | .away s | .halt s _ => s

theorem State.memOk.unitPlace {s : State} {die c va need} (h : s.memOk) : (s.unitPlace die c va need).state.memOk := by
  unfold State.unitPlace
  split
  · exact h
  · split
    · next t _ _ e =>
      have ht : t.memOk := h.translate.of_eq e
      split
      · split <;> exact ht
      · exact ht
    · next e => exact h.translate.of_eq e
    · next e => exact h.translate.of_eq e
    · next e => exact h.translate.of_eq e
    · next t _ _ e =>
      have ht : t.memOk := h.translate.of_eq e
      split <;> exact ht

theorem State.memOk.execRasterisePacket {sdie} {s : State} (h : s.memOk) : NextOk (execRasterisePacket sdie s) := by
  refine State.memOk.next (h.ite ?_)
  split
  · exact h
  · next i v _ =>
    extract_lets d qs at' base
    refine h.launchQuads.ite ?_
    have hp := h.unitPlace (die := sdie) (c := d.ctx) (va := base) (need := { r := true, w := true })
    split
    · next e => rw [e] at hp; exact hp
    · next e => rw [e] at hp; exact State.memOk.haltCtx hp
    · next e => rw [e] at hp; exact State.memOk.unitAsk (State.memOk.parkRaster hp)
    · next t p e =>
      rw [e] at hp
      have ht : t.memOk := hp
      extract_lets place ps
      have hw : (t.wordsReady (unitCore sdie) ps).1.memOk := ht.wordsReady
      have hn : (ps.foldl (fun t p => t.noteOwn (t.pixLaunch v.draw) p) (t.wordsReady (unitCore sdie) ps).1).memOk :=
        hw.foldl fun _ _ h => h.noteOwn
      dsimp only
      refine hw.ite (.launchQuads ?_)
      exact State.memOk.foldlFst hn fun _ _ h => h.depthQuad

theorem State.memOk.attrWords {k l} : ∀ {vs} {s : State}, s.memOk → (s.attrWords k l vs).1.memOk
  | [], _, h => h
  | va :: vs, s, h => by
    unfold State.attrWords
    split
    · next e => exact h.piecesOf.of_eq e
    · next t _ e =>
      have ht : t.memOk := h.piecesOf.of_eq e
      refine State.memOk.iteFst ht ?_
      split
      · next e => exact ht.readBlock.of_eq e
      · next u _ _ e =>
        have hu := State.memOk.attrWords (k := k) (l := l) (vs := vs) (ht.readBlock.of_eq e)
        split
        · next e => exact hu.of_eq e
        · exact hu

theorem State.memOk.attrLane {s : State} {p k a b c l} (h : s.memOk) : (s.attrLane p k a b c l).1.memOk := by
  unfold State.attrLane
  dsimp only
  split
  · exact h
  · split
    · exact h
    · split
      · exact h
      · split <;> next t _ _ e4 => exact h.attrWords.of_eq e4

theorem State.memOk.execPixAttr {e d a b} {s : State} (h : s.memOk) : NextOk (execPixAttr e d a b s) := by
  unfold Machine.execPixAttr
  refine h.issue fun s h => ?_
  refine h.gfxForm fun s h => ?_
  split
  · exact h
  · next p _ =>
    have ha : ∀ {ls : List Nat}, (ls.foldl (fun (x : State × AttrAcc) l => x.1.attrLane p s.cur a.toNat b.toNat x.2 l) (s,
        {})).1.memOk :=
      h.foldlFst fun _ _ h => h.attrLane
    exact ha.stall.ite (ha.trap.ite (State.memOk.settleLanes ((ha.foldl fun _ _ h => h.vset).ite (ha.foldl fun _ _ h =>
        h.vset).putEccu)))

theorem State.memOk.modPix {s : State} {id f} (h : s.memOk) : (s.modPix id f).memOk := h

theorem State.memOk.execPixOut {e t a} {s : State} (h : s.memOk) : NextOk (execPixOut e t a s) := by
  unfold Machine.execPixOut
  refine h.issue fun s h => ?_
  refine h.gfxForm fun s h => ?_
  split
  · exact h
  · exact h.advance.ite (h.stall.ite h.fresh.modPix.modGr.advance)

theorem State.memOk.execPixKill {e} {s : State} (h : s.memOk) : NextOk (execPixKill e s) := by
  unfold Machine.execPixKill
  refine h.issue fun s h => ?_
  refine h.gfxForm fun s h => ?_
  split
  · exact h
  · exact h.modPix.advance

theorem State.memOk.execPixOrd {e} {s : State} (h : s.memOk) : NextOk (execPixOrd e s) := by
  unfold Machine.execPixOrd
  refine h.issue fun s h => ?_
  refine h.gfxForm fun s h => ?_
  split
  · exact h
  · exact h.stall.ite h.fenceWith.advance

theorem State.memOk.outDone {s : State} {p o} (h : s.memOk) : (s.outDone p o).memOk := by
  unfold State.outDone
  dsimp only
  refine h.modPix.ite ?_
  split
  · exact h.modPix.modGr.wake
  · exact h.modPix

theorem State.memOk.applyOut {s : State} {p o} (h : s.memOk) : (s.applyOut p o).1.memOk := by
  unfold State.applyOut
  dsimp only
  split
  · next x y _ fmt op base _ _ =>
    have hp := h.unitPlace (die := p.sdie) (c := (s.dr p.draw).ctx)
      (va := pixelAddr base.toNat (s.dr p.draw).pass.width x y) (need := { w := true })
    split
    · next e => rw [e] at hp; exact hp
    · next e => rw [e] at hp; exact State.memOk.haltCtx hp
    · next e => rw [e] at hp; exact State.memOk.unitAsk (State.memOk.modPix hp)
    · next t pl e =>
      rw [e] at hp
      have hw := State.memOk.wordReady (s := t) (core := unitCore p.sdie) (p := pl) hp
      split
      · next e => exact hw.error e
      · next u _ e =>
        have hu : u.memOk := hw.ok e
        exact hu.wordRmw.noteOwn.outDone
  · exact h.outDone

theorem State.memOk.applyOuts {id} : ∀ {n} {s : State}, s.memOk → (s.applyOuts id n).memOk
  | 0, _, h => h
  | n + 1, s, h => by
    unfold State.applyOuts
    split
    · exact h
    · refine h.ite ?_
      split
      · exact h
      · split
        · next e => exact State.memOk.applyOuts (h.applyOut.of_eq e)
        · next e => exact h.applyOut.of_eq e

theorem State.memOk.execBlendApply {group} {s : State} (h : s.memOk) : NextOk (execBlendApply group s) := by
  unfold Machine.execBlendApply
  refine State.memOk.next ?_
  split
  · exact h
  · exact h.applyOuts.ite h

/-! ## Machine/Place -/

theorem State.memOk.clearGroup {s : State} {g} (h : s.memOk) : (s.clearGroup g).memOk :=
  (State.memOk.dropGroup (g := g) h).upd

theorem State.memOk.zeroTiles {s : State} {core lo hi} (h : s.memOk) : (s.zeroTiles core lo hi).memOk := h

theorem State.memOk.zeroVirtual {core c} : ∀ {n va} {s : State}, s.memOk → (s.zeroVirtual core c va n).memOk
  | 0, _, _, h => h
  | _ + 1, va, s, h => State.memOk.zeroVirtual (s := (s.vaWrite core c va 64 0).getD s) (h.getD fun _ e => h.vaWrite e)

theorem State.memOk.rangeWaits {core c} : ∀ {n va} {s : State}, s.memOk → (s.rangeWaits core c va n).1.memOk
  | 0, _, _, h => h
  | _ + 1, va, s, h => State.memOk.rangeWaits (s := (s.vaWaits core c va { w := true }).1) h.vaWaits

theorem State.memOk.shadowWaits : ∀ {ts} {s : State}, s.memOk → (s.shadowWaits ts).1.memOk
  | [], _, h => h
  | t :: ts, s, h => by
    refine State.memOk.shadowWaits (ts := ts) ?_
    split
    · exact h.rangeWaits
    · exact h

theorem State.memOk.prepare {s : State} {t azero} (h : s.memOk) : (s.prepare t azero).memOk := by
  grind [State.prepare, State.memOk.zeroVirtual, State.memOk.zeroTiles, State.memOk.zeroAbuf]

theorem State.memOk.startGroup {s : State} {g r entry mask} (h : s.memOk) : (s.startGroup g r entry mask).memOk :=
  h.clearGroup.setGr.setSp.ensureCode

theorem State.memOk.startTeam {s : State} {t p mask} (h : s.memOk) : (s.startTeam t p mask).memOk :=
  h.fresh.setTm.prepare.modCx.foldl fun _ _ h => h.ite h.startGroup

theorem State.memOk.withoutTeams {s : State} {p} (h : s.memOk) : (s.withoutTeams p).memOk := h

theorem State.memOk.scanWaiting : ∀ {ls res} {s : State}, s.memOk → (s.scanWaiting ls res).1.memOk
  | [], _, _, h => h
  | (id, l) :: ls, res, s, h => by
    unfold State.scanWaiting
    dsimp only
    split
    · exact h.ovHeader
    · exact State.memOk.scanWaiting h.ovHeader

theorem State.memOk.placement {s : State} {id} (h : s.memOk) : (s.placement id).memOk := by
  grind [State.placement, State.memOk.foldl, State.memOk.scanWaiting, State.memOk.ovHeader, State.memOk.shadowWaits,
      State.memOk.modLa, State.memOk.modPix, State.memOk.startTeam]

theorem State.memOk.execTeamPlacement {launchId} {s : State} (h : s.memOk) : NextOk (execTeamPlacement launchId s) :=
    h.placement.next

/-! ## Machine/EndOf -/

theorem State.memOk.flush {s : State} {part blocks} (h : s.memOk) : (s.flush part blocks).memOk :=
  h.flushUntracked.foldl fun _ _ h => h.releaseBlock

theorem State.memOk.finishWork {s : State} {c q sigAddr sigVal p f} (h : s.memOk) (hf : ∀ t, t.memOk → (f t).memOk) :
    (s.finishWork c q sigAddr sigVal p f).memOk := by
  have hp : ((s.flush (s.cx c).partition (s.ownWritten p)).putSignal c sigAddr.toNat sigVal).state.memOk := h.flush.putSignal
  refine .ite (.endIrq (hf _ h.flush)) ?_
  split
  · next e => rw [e] at hp; exact .endIrq (hf _ hp)
  · next e => rw [e] at hp; exact hp
  · next e => rw [e] at hp; exact hp

theorem State.memOk.execEndOfLaunch {launchId} {s : State} (h : s.memOk) : NextOk (execEndOfLaunch launchId s) :=
  State.memOk.next (h.ite (h.finishWork fun _ h => h.upd))

theorem State.memOk.execDrawEnd {drawId} {s : State} (h : s.memOk) : NextOk (execDrawEnd drawId s) :=
  State.memOk.next (h.ite (h.finishWork fun _ h => h.upd))

/-! ## Machine/Ray -/

theorem State.memOk.setRay {s : State} {id f} (h : s.memOk) : (s.setRay id f).memOk := h

theorem State.memOk.failRay {s : State} {id cause} (h : s.memOk) : (s.failRay id cause).memOk := h.setRay

theorem State.memOk.parkRay {s : State} {r va} (h : s.memOk) : (s.parkRay r va).memOk := by
  unfold State.parkRay
  dsimp only
  split
  · next t e => exact h.setRay.post.of_eq e
  · next t e => exact (h.setRay.post.of_eq e).modCx
  · next t e => exact (h.setRay.post.of_eq e).failRay

/-- However a traversal ends, the state it leaves has canonical memories. -/
def TravEnd.memOk : TravEnd → Prop
  | .done s _ | .stopped s _ => s.memOk
  | .away x _ => x.memOk

/-- A part of a traversal: what it leaves, or how it ends. -/
abbrev TravOk {α : Type} (x : Except TravEnd (State × α)) : Prop := ExceptOk TravEnd.memOk (fun p => p.1.memOk) x

theorem State.memOk.rayPlace {s : State} {r va} (h : s.memOk) : CopyOk (s.rayPlace r va) := by
  unfold State.rayPlace
  split
  · exact h.copyPlace
  · exact .ite (.throw h) (.pure h)
  · exact .ite (.throw h) (.pure h)
  · exact .throw h

theorem State.memOk.rayRead {s : State} {r off} (h : s.memOk) : CopyOk (s.rayRead r off) := by
  refine ExceptOk.bind h.rayPlace fun a ha => ?_
  have ha : a.1.memOk := ha
  exact .ite (.throw ha) ha.engineRead

theorem State.memOk.visitNode {s : State} {r t off} (h : s.memOk) : TravOk (s.visitNode r t off) := by
  unfold State.visitNode
  split
  · next e => exact .throw (h.rayRead.error e)
  · next u n e =>
    have hu : u.memOk := h.rayRead.ok e
    exact .ite (.throw hu) (.ite (.pure hu) (.ite (.throw hu) (.pure hu)))

theorem State.memOk.visitLeaves {r q} : ∀ {n off t} {s : State}, s.memOk → TravOk (s.visitLeaves r q t off n)
  | 0, _, _, _, h => .pure h
  | n + 1, off, t, s, h => by
    unfold State.visitLeaves
    split
    · next e => exact .throw (h.rayRead.error e)
    · next u x e =>
      have hu : u.memOk := h.rayRead.ok e
      dsimp only
      split
      · exact State.memOk.visitLeaves hu
      · exact .ite (.throw hu) (State.memOk.visitLeaves hu)

theorem State.memOk.traverse {r q} : ∀ {fuel t} {s : State}, s.memOk → (s.traverse r q t fuel).memOk
  | 0, _, _, h => h
  | fuel + 1, t, s, h => by
    unfold State.traverse
    split
    · exact h
    · exact State.memOk.traverse h
    · extract_lets t' lim p
      split
      · exact State.memOk.traverse h
      · split
        · have hv := h.visitLeaves (r := r) (q := q) (t := t') (off := p % 2 ^ 28) (n := p / 2 ^ 28 + 1)
          split
          · next e => exact hv.error e
          · next e => exact State.memOk.traverse (hv.ok e)
        · have hv := h.visitNode (r := r) (t := t') (off := p % 2 ^ 28)
          split
          · next e => exact hv.error e
          · next e => exact State.memOk.traverse (hv.ok e)

theorem State.memOk.traceLane {s : State} {r q} (h : s.memOk) : (s.traceLane r q).memOk := by
  unfold State.traceLane
  split
  · next e => exact h.visitNode.error e
  · next e => exact State.memOk.traverse (h.visitNode.ok e)

theorem State.memOk.traceLanes {r} : ∀ {ps} {s : State}, s.memOk → (s.traceLanes r ps).memOk
  | [], _, h => h
  | p :: ps, s, h => by
    unfold State.traceLanes
    extract_lets put
    have hput : ∀ t ws n lim, t.memOk → (put t ws n lim).memOk := fun t ws n lim ht => ht.setRay
    split
    · exact State.memOk.traceLanes (hput _ _ _ _ h)
    · next q _ =>
      have ht := h.traceLane (r := r) (q := q)
      split
      · next e => rw [e] at ht; exact State.memOk.traceLanes (hput _ _ _ _ ht)
      · next e => rw [e] at ht; exact State.memOk.traceLanes (hput _ _ _ _ ht)
      · next e =>
        rw [e] at ht
        dsimp only
        split
        · exact ht
        · exact ht
        · exact State.memOk.parkRay (State.memOk.setRay ht)
        · exact State.memOk.failRay (State.memOk.setRay ht)

theorem State.memOk.endRay {s : State} {r} (h : s.memOk) : (s.endRay r).memOk :=
  (h.foldl fun _ _ h => h.foldl fun _ _ h => h.rowSet).upd.writeToken.wake

theorem State.memOk.execRayQueryComplete {query} {s : State} (h : s.memOk) : NextOk (execRayQueryComplete query s) := by
  unfold Machine.execRayQueryComplete
  dsimp only
  refine State.memOk.next ?_
  split
  · exact h
  · split
    · exact h
    · split
      · exact h.traceLanes.endRay.ite h.traceLanes
      · exact h.traceLanes

theorem State.memOk.rayForm {s : State} {e first d a b} (h : s.memOk) : (s.rayForm e first d a b).memOk :=
  h.undef.ite (h.barred.ite (h.stall.ite (h.trapU.ite (h.sset.advance.ite (h.stall.ite h.fresh.upd.upd.takeToken.advance)))))

theorem State.memOk.execRay {e d a b} {s : State} (h : s.memOk) : NextOk (execRay e d a b s) := h.issue (fun _ h => h.rayForm)

theorem State.memOk.execRayh {e d a b} {s : State} (h : s.memOk) : NextOk (execRayh e d a b s) := h.issue (fun _ h => h.rayForm)

/-! ## Machine/OverlayOps -/

theorem State.memOk.ovForm {s : State} {u f} (h : s.memOk) (hf : ∀ t, t.memOk → (f t).memOk) : (s.ovForm u f).memOk := by
  grind [State.ovForm, State.memOk.barred, State.memOk.whenFree]

theorem State.memOk.execOvlLd {e d a} {s : State} (h : s.memOk) : NextOk (execOvlLd e d a s) := by
  refine h.issue fun s h => h.ovForm fun s h => ?_
  dsimp only
  split
  · next e => exact .advance (.sset (h.startFill.of_eq e))
  · next e => exact .advance (.takeToken (h.startFill.of_eq e))
  · next e => exact .advance (.sset (h.startFill.of_eq e))
  · next e => exact .stall (h.startFill.of_eq e)

theorem State.memOk.execOvlHint {e a} {s : State} (h : s.memOk) : NextOk (execOvlHint e a s) := by
  unfold Machine.execOvlHint
  refine h.issue fun s h => ?_
  refine h.ovForm fun s h => ?_
  split
  · next t e => exact (h.startFill.of_eq e).stall
  · next t _ e => exact (h.startFill.of_eq e).advance

theorem State.memOk.modPins {s : State} {core c id f} (h : s.memOk) : (s.modPins core c id f).memOk := h.upd.ite h.upd

theorem State.memOk.execOvlEv {e a} {s : State} (h : s.memOk) : NextOk (execOvlEv e a s) :=
  h.issue (fun _ h => h.ovForm (fun _ h => h.trapU.ite (h.stall.ite h.upd.advance)))

theorem State.memOk.execOvlPin {e d a} {s : State} (h : s.memOk) : NextOk (execOvlPin e d a s) :=
  h.issue (fun _ h => h.ovForm (fun _ h => h.sset.advance.ite (h.sset.advance.ite h.modPins.sset.advance)))

theorem State.memOk.execOvlUnpin {e a} {s : State} (h : s.memOk) : NextOk (execOvlUnpin e a s) :=
  h.issue (fun _ h => h.ovForm (fun _ h => h.modPins.advance))

theorem State.memOk.ovQuery {s : State} {core c id} (h : s.memOk) : (s.ovQuery core c id).1.memOk := h.ovHeader

theorem State.memOk.execOvlQ {e d a} {s : State} (h : s.memOk) : NextOk (execOvlQ e d a s) := by
  refine h.issue fun s h => h.ovForm fun s h => ?_
  have hw : (s.ovWaits s.cc s.grp.ctx sysId).1.memOk := h.ovWaits
  dsimp only
  exact .ite hw.stall (.advance (.sset hw.ovQuery))

theorem State.memOk.placeOverlay {s : State} {f} (h : s.memOk) : (s.placeOverlay f).memOk := h

theorem State.memOk.fillOver {s : State} {id} (h : s.memOk) : (s.fillOver id).memOk := h

theorem State.memOk.execOverlayFillComplete {fill} {s : State} (h : s.memOk) : NextOk (execOverlayFillComplete fill s) := by
  refine State.memOk.next ?_
  split
  · exact h
  · have hu : ∀ (u : State) ps, u.memOk → ({ u with pendS := ps } : State).memOk := fun _ _ h => h.upd
    have hf : ∀ fs, ({ s with fills := fs } : State).memOk := fun _ => h.upd
    exact h.ite (.wake (.fillOver (hu _ _ (State.memOk.foldl (.ite (State.memOk.placeOverlay (hf _)) (hf _)) fun _ _ h => h.upd))))

/-! ## Machine/Settle -/

theorem State.memOk.meetFence {s : State} {m} (h : s.memOk) : (s.meetFence m).memOk :=
  h.foldl fun _ _ h => (h.cleanAllL1.ite h).ite (h.cleanAllL1.ite h).dropCleanL1

theorem State.memOk.settleFences {s : State} (h : s.memOk) : (s.settleFences).memOk :=
  h.ite (h.upd.foldl fun _ _ h => h.meetFence).wake

theorem State.memOk.retireGroups {s : State} (h : s.memOk) : (s.retireGroups).memOk := h.foldl fun _ _ h => h.modGr

theorem State.memOk.dropPins {s : State} {core c} (h : s.memOk) : (s.dropPins core c).memOk := h.ite h.upd

theorem State.memOk.retireTeam {s : State} {id} (h : s.memOk) : (s.retireTeam id).memOk := by
  grind [State.retireTeam, State.memOk.foldl, State.memOk.dropGroup, State.memOk.modTm, State.memOk.modLa, State.memOk.wake,
      State.memOk.dropPins, State.memOk]

theorem State.memOk.dropTeams {s : State} (h : s.memOk) : (s.dropTeams).memOk := h.upd.ite h

theorem State.memOk.settleTeams {s : State} (h : s.memOk) : (s.settleTeams).memOk := by
  grind [State.settleTeams, State.memOk.foldl, State.memOk.retireGroups, State.memOk.dropTeams, State.memOk.retireTeam]

theorem State.memOk.settleSplits {s : State} (h : s.memOk) : (s.settleSplits).memOk :=
  ((h.foldl fun _ _ h => h.foldl fun _ _ h => h.settleBarrier).foldl fun _ _ h => h.foldl fun _ _ h => h.settleCbar).foldl fun _ _
      h => h.settleSync.fuseAll.settleStuck

theorem State.memOk.markHeads {s : State} {c} (h : s.memOk) :
    (s.markHeads c).memOk := h.foldl fun _ _ h => h.modQu.ite (h.modQu.ite h)

theorem State.memOk.settleCtx {s : State} {c} (h : s.memOk) : (s.settleCtx c).memOk := by
  unfold State.settleCtx
  dsimp only
  split
  · exact h.markHeads.modCx.ite h.markHeads
  · exact h.markHeads.ite h.markHeads.modCx
  · exact h.markHeads.ite h.markHeads.modCx
  · exact h.markHeads

theorem State.memOk.settle {s : State} (h : s.memOk) : (s.settle).memOk := by
  grind [State.settle, State.memOk.foldl, State.memOk.settleFences, State.memOk.settleTeams, State.memOk.settleSplits,
      State.memOk.settleChuck, State.memOk.settleCtx]

/-! ## Machine/Save -/

theorem State.memOk.requestSave {s : State} {c cores} (h : s.memOk) : (s.requestSave c cores).memOk := h.modCx.ite (h.modCx.ite h)

theorem State.memOk.asideOf {s : State} {c} (h : s.memOk) : (s.asideOf c).memOk := h

theorem State.memOk.askSave {s : State} {c} (h : s.memOk) : (s.askSave c).memOk := h.requestSave

theorem State.memOk.execSaveRequest {ctx} {s : State} (h : s.memOk) : NextOk (execSaveRequest ctx s) := h.askSave.next

theorem State.memOk.endSlice {s : State} {c} (h : s.memOk) : (s.endSlice c).memOk := h.ite (h.ite h.requestSave)

theorem State.memOk.execTimeSliceExpiry {ctx} {s : State} (h : s.memOk) : NextOk (execTimeSliceExpiry ctx s) := h.endSlice.next

theorem State.memOk.forceStop {s : State} {k} (h : s.memOk) : (s.forceStop k).memOk := by
  unfold State.forceStop
  dsimp only
  split
  · exact h
  · split
    · exact h
    · exact (h.regAbort.ite h).modSp

theorem State.memOk.forceSave {s : State} {c} (h : s.memOk) : (s.forceSave c).memOk := by
  grind [State.forceSave, State.memOk.foldl, State.memOk.forceStop, State.memOk.modCx]

theorem State.memOk.execForcedSave {ctx} {s : State} (h : s.memOk) : NextOk (execForcedSave ctx s) := h.forceSave.next

theorem State.memOk.settleSaves {s : State} (h : s.memOk) : (s.settleSaves).memOk :=
  ((h.foldl fun _ _ h => h.askSave.ite h).foldl fun _ _ h => h.endSlice.ite h).foldl fun _ _ h => h.forceSave.ite h

theorem State.memOk.dropTokens {s : State} {c} (h : s.memOk) : (s.dropTokens c).memOk :=
  h.foldl fun t x h => (h.writeToken (key := x.token) (id := x.id) (v := 0)).upd

theorem State.memOk.parkWork {s : State} {x} (h : s.memOk) : (s.parkWork x).memOk := (h.foldl fun _ _ h => h.releaseHeld).upd.modCx

theorem State.memOk.leave {s : State} {x} (h : s.memOk) : (s.leave x).memOk := by
  grind [State.leave, State.memOk.foldl, State.memOk.parkWork, State.memOk.clearGroup, State.memOk.modPix, State.memOk.modTm,
      State.memOk.dropPins, State.memOk]

theorem State.memOk.writeSave {s : State} {c core} (h : s.memOk) : (s.writeSave c core).memOk := State.memOk_writeOpen _ _ h

theorem State.memOk.spillGraphics {s : State} {c} (h : s.memOk) : (s.spillGraphics c).memOk := (State.memOk_writeOpen _ _ h).ite h

theorem State.memOk.saveAll {s : State} {c} (h : s.memOk) : (s.saveAll c).memOk := by
  grind [State.saveAll, State.memOk.foldl, State.memOk.flush, State.memOk.leave, State.memOk.spillGraphics, State.memOk.writeSave,
      State.memOk.modCx, State.memOk]

theorem State.memOk.execSaveComplete {ctx} {s : State} (h : s.memOk) : NextOk (execSaveComplete ctx s) :=
  (h.ite ((h.dropTokens.ite h).saveAll.ite (h.dropTokens.ite h))).next

theorem State.memOk.putRegs {s : State} {x gs} (h : s.memOk) : (s.putRegs x gs).memOk := h.foldl fun _ _ h => h

theorem State.memOk.shadowWords {s : State} {core c va n} (h : s.memOk) : (s.shadowWords core c va n).1.memOk :=
  h.foldlFst fun _ _ h => h.vaRead

theorem State.memOk.moveTiles {s : State} {x t} (h : s.memOk) : (s.moveTiles x t).memOk := by
  unfold State.moveTiles
  split
  · exact State.memOk.upd h.shadowWords
  · exact h.zeroVirtual.foldl fun _ _ h => h.getD fun _ e => h.vaWrite e
  · exact h

theorem State.memOk.putBytes {s : State} {x t} (h : s.memOk) : (s.putBytes x t).memOk := by
  have hz : ∀ a b, (s.zeroAbuf t.core a b).memOk := fun _ _ => h.zeroAbuf
  have hu : ∀ (u : State) a b c, u.memOk → ({ u with abuf := a, tiles := b, poison := c } : State).memOk := fun _ _ _ _ h => h.upd
  refine .ite (.ite h h.zeroTiles) (.ite (.moveTiles ?_) ?_)
  · exact State.memOk.upd (hz t.abufOff (t.abufOff + t.abufSize))
  · exact hu _ _ _ _ (.moveTiles (.zeroTiles (hz _ _)))

theorem State.memOk.putWork {s : State} {x gs core} (h : s.memOk) : (s.putWork x gs core).memOk :=
  (h.foldl fun _ _ h => h.upd.ite h.upd.upd).foldl fun _ _ h => h.upd.ite h.upd.upd

theorem State.memOk.reclaim {s : State} {xs} (h : s.memOk) : (s.reclaim xs).memOk := by
  grind [State.reclaim, State.memOk.foldl, State.memOk.claimAll]

theorem State.memOk.putTeam {s : State} {x core a} (h : s.memOk) : (s.putTeam x core a).memOk := by
  grind [State.putTeam, State.memOk.foldl, State.memOk.dropCleanL1, State.memOk.cleanAllL1, State.memOk.clearGroup,
      State.memOk.setTm, State.memOk.setGr, State.memOk.setSp, State.memOk.putWork, State.memOk.putBytes, State.memOk.putRegs,
          State.memOk.modPix]

theorem State.memOk.restoreCluster {s t : State} {quota launch cluster res} (h : s.memOk) (e : s.restoreCluster quota launch
    cluster res = some t) :
    t.memOk := by
  unfold State.restoreCluster at e
  obtain ⟨x0, -, e⟩ := Option.bind_eq_some_iff.mp e
  obtain ⟨ps, -, rfl⟩ := Option.map_eq_some_iff.mp e
  have hu : ∀ (u : State) ls, u.memOk → ({ u with lastSaves := ls } : State).memOk := fun _ _ h => h.upd
  exact hu _ _ (State.memOk.reclaim (State.memOk.foldl (State.memOk.upd (s := s) h) fun _ _ h => h.putTeam))

theorem State.memOk.restoreAll {quota} : ∀ {ls res} {s : State}, s.memOk → (s.restoreAll quota ls res).memOk
  | [], _, _, h => h
  | (l, k) :: ls, res, s, h => by
    unfold State.restoreAll
    refine .ite (State.memOk.restoreAll h) ?_
    split
    · next e => exact State.memOk.restoreAll (h.restoreCluster e)
    · exact State.memOk.restoreAll h

theorem State.memOk.reloadStream {s : State} {c} (h : s.memOk) : (s.reloadStream c).memOk :=
  State.memOk.foldl (State.memOk.foldl (.upd h) fun _ _ h => .upd h) fun _ _ h => h.releaseAll

theorem State.memOk.resume {s : State} {c} (h : s.memOk) : (s.resume c).memOk :=
  h.ite (h.ovWaits.ite ((h.ovWaits.reloadStream.ite h.ovWaits).ovHeader.restoreAll.modCx.ite h.ovWaits))

theorem State.memOk.execContextResume {ctx} {s : State} (h : s.memOk) : NextOk (execContextResume ctx s) := h.resume.next

theorem State.memOk.fillRestored {g} : ∀ {ids} {s : State}, s.memOk → (s.fillRestored g ids).1.memOk
  | [], _, h => h
  | id :: ids, s, h => by
    unfold State.fillRestored
    refine .iteFst (State.memOk.fillRestored h) ?_
    split
    · next e => exact State.memOk.fillRestored (h.startFill.of_eq e)
    · next e => exact State.memOk.haltCtx (h.startFill.of_eq e)
    · next e => exact State.memOk.fillRestored (h.startFill.of_eq e)

theorem State.memOk.restoreDone {s : State} {g} (h : s.memOk) : (s.restoreDone g).1.memOk := by
  grind [State.restoreDone, State.memOk.foldl, State.memOk.foldlFst, State.memOk.fillRestored, State.memOk.modGr]

/-! ## Machine/Host -/

theorem State.memOk.modTail {s : State} {f} (h : s.memOk) : (s.modTail f).memOk := h

theorem State.memOk.ctxStat {s : State} {refused} (h : s.memOk) : (s.ctxStat refused).memOk := h.modTail

theorem State.memOk.loadCtx {s : State} {ctx} (h : s.memOk) : (s.loadCtx ctx).memOk := h.ite (h.ctxStat.ite h.modCx.ctxStat)

theorem State.memOk.execContextLoad {ctx} {s : State} (h : s.memOk) : NextOk (execContextLoad ctx s) := h.loadCtx.next

theorem State.memOk.freeCtx {s : State} {c} (h : s.memOk) : (s.freeCtx c).memOk := h.dropWork

theorem State.memOk.releaseCtx {s : State} {ctx} (h : s.memOk) : (s.releaseCtx ctx).memOk := by
  unfold State.releaseCtx
  split
  · exact h
  · split
    · exact h.ctxStat
    · exact h.freeCtx.ctxStat
    · exact h.freeCtx.ctxStat
    · exact h.freeCtx.ctxStat
    · exact h.ctxStat

theorem State.memOk.execContextRelease {ctx} {s : State} (h : s.memOk) : NextOk (execContextRelease ctx s) := h.releaseCtx.next

theorem State.memOk.putCtxtab {s : State} {value} (h : s.memOk) : (s.putCtxtab value).memOk := h.ite (h.modTail.ite h.modTail)

theorem State.memOk.execCtxtabWrite {value} {s : State} (h : s.memOk) : NextOk (execCtxtabWrite value s) := h.putCtxtab.next

theorem State.memOk.dropAts {s : State} {mine unit} (h : s.memOk) : (s.dropAts mine unit).memOk := h

theorem State.memOk.dropMaps {s : State} {c va} (h : s.memOk) : (s.dropMaps c va).memOk := h.upd.dropAts

theorem State.memOk.invalidate {s : State} {c va} (h : s.memOk) : (s.invalidate c va).memOk := h.ite (h.modCx.ite h.dropMaps.modCx)

theorem State.memOk.execInvalidatePage {ctx} {s : State} (h : s.memOk) : NextOk (execInvalidatePage ctx s) := h.invalidate.next

theorem State.memOk.execInvalidateContext {ctx} {s : State} (h : s.memOk) : NextOk (execInvalidateContext ctx s) :=
    h.invalidate.next

theorem State.memOk.cleanCores {s : State} (h : s.memOk) : (s.cleanCores).memOk := by
  grind [State.cleanCores, State.memOk.foldl, State.memOk.cleanAllL1]

theorem State.memOk.execInvalidationComplete {ctx} {s : State} (h : s.memOk) : NextOk (execInvalidationComplete ctx s) := by
  unfold Machine.execInvalidationComplete
  dsimp only
  refine State.memOk.next ?_
  split
  · exact (h.cleanCores.modCx.ite h).ite (h.cleanCores.modCx.ite h).cleanCores.modFn
  · exact h.cleanCores.modCx.ite h

theorem State.memOk.execAtsTranslationCompletion {fn unit r w} {s : State} (h : s.memOk) :
    NextOk (execAtsTranslationCompletion fn unit r w s) :=
  State.memOk.next (h.ite (.wake (.upd h)))

theorem State.memOk.execAtsInvalidateRequest {fn unit} {s : State} (h : s.memOk) : NextOk (execAtsInvalidateRequest fn unit s) :=
  (h.ite h.dropAts.modFn.wake).next

theorem State.memOk.unpark {s : State} {c x} (h : s.memOk) : (s.unpark c x).memOk := by
  cases x with
  | pageq => exact h
  | copy => exact h.upd
  | ray => exact h.setRay
  | blend => exact h.modPix
  | depth => exact h.upd

theorem State.memOk.failWaiter {s : State} {c x} (h : s.memOk) : (s.failWaiter c x).memOk := by
  cases x with
  | pageq => exact h
  | copy => exact h.failCopy
  | ray => exact h.failRay.ite h
  | blend => exact h.haltCtx
  | depth => exact h.haltCtx

theorem State.memOk.answerPage {s : State} {c p failed} (h : s.memOk) : (s.answerPage c p failed).memOk := by
  unfold State.answerPage
  split
  · exact h
  · exact (h.modCx.foldl fun _ _ h => h.failWaiter.ite h.unpark).wake

theorem State.memOk.execPageRequestGrant {ctx tag} {s : State} (h : s.memOk) : NextOk (execPageRequestGrant ctx tag s) :=
  (h.answerPage.ite h).next

theorem State.memOk.execPageRequestFail {ctx tag} {s : State} (h : s.memOk) : NextOk (execPageRequestFail ctx tag s) :=
  (h.answerPage.ite h).next

theorem State.memOk.execPrqRptrPoll {ctx} {s : State} (h : s.memOk) : NextOk (execPrqRptrPoll ctx s) :=
  (h.ite (h.modCx.foldl fun _ _ h => h.unpark.ite h.failWaiter).wake).next

theorem State.memOk.execPrgResponse {fn unit code} {s : State} (h : s.memOk) : NextOk (execPrgResponse fn unit code s) := by
  unfold Machine.execPrgResponse
  refine State.memOk.next ?_
  split
  · exact h
  · exact h.ite (h.modFn.dropAts.foldl fun _ _ h => h.answerPage)

theorem State.memOk.execPriReenable {fn} {s : State} (h : s.memOk) : NextOk (execPriReenable fn s) := h.modFn.next

theorem State.memOk.clearIrq {s : State} {fn bits} (h : s.memOk) : (s.clearIrq fn bits).memOk := h.modFn.ite h

theorem State.memOk.execIrqcauseClear {fn bits} {s : State} (h : s.memOk) : NextOk (execIrqcauseClear fn bits s) := h.clearIrq.next

theorem State.memOk.execMsiXVectorUnmask {fn vector} {s : State} (h : s.memOk) : NextOk (execMsiXVectorUnmask fn vector s) :=
  (h.ite h.modFn).next

theorem State.memOk.hostSector {s : State} {a n v} (h : s.memOk) : (s.hostSector a n v).memOk :=
  h.ite (((State.memOk_devWrite _ _ _ _ h.upd.setDir).setDir.ite h).ite (State.memOk_devWrite _ _ _ _ h))

theorem State.memOk.hostBytes {s : State} {a bs} (h : s.memOk) : (s.hostBytes a bs).memOk := h.foldl fun _ _ h => h.hostSector

theorem State.memOk.hostMeets {s : State} {sec} (h : s.memOk) : (s.hostMeets sec).memOk := h.meetBad.ite h

theorem State.memOk.hostFetch {s : State} {a n} (h : s.memOk) : (s.hostFetch a n).1.memOk := by
  grind [State.hostFetch, State.memOk.foldl, State.memOk.foldlFst, State.memOk.hostMeets, State.memOk_devRead]

theorem State.memOk.answerRead {s : State} {bs} (h : s.memOk) : (s.answerRead bs).memOk := h.modTail

theorem State.memOk.hostUpdate {s : State} {a n f} (h : s.memOk) : (s.hostUpdate a n f).1.memOk :=
  h.hostFetch.ite h.hostFetch.hostBytes.wake

theorem State.memOk.hostDo {s : State} {x} (h : s.memOk) : (s.hostDo x).memOk := by
  unfold State.hostDo
  split
  · exact h.hostBytes.wake
  · exact State.memOk.answerRead h.hostFetch
  · dsimp only
    exact State.memOk.answerRead h.hostUpdate
  · exact h.hostUpdate
  · exact h.takeDoorbell

theorem State.memOk.hostTurns : ∀ {xs} {s : State}, s.memOk → (s.hostTurns xs).memOk
  | [], _, h => h.upd
  | _ :: _, _, h => .ite (State.memOk.hostTurns h.hostDo) h.upd

theorem State.memOk.hostSend {s : State} {x} (h : s.memOk) : (s.hostSend x).memOk := h.hostTurns

theorem State.memOk.settleHost {s : State} (h : s.memOk) : (s.settleHost).memOk := h.ite h.hostTurns

theorem State.memOk.execHostMemoryWrite {fn offset bytes} {s : State} (h : s.memOk) : NextOk (execHostMemoryWrite fn offset bytes
    s) := by
  unfold Machine.execHostMemoryWrite
  refine State.memOk.next ?_
  split
  · exact h.hostSend
  · exact h

theorem State.memOk.execHostMemoryRead {fn offset ask} {s : State} (h : s.memOk) : NextOk (execHostMemoryRead fn offset ask s) := by
  unfold Machine.execHostMemoryRead
  refine State.memOk.next ?_
  split
  · split
    · exact h.hostSend
    · exact h.answerRead
  · split
    · exact h.hostSend.ite h.answerRead
    · exact h.answerRead

theorem State.memOk.resetFn {s : State} {fn} (h : s.memOk) : (s.resetFn fn).memOk :=
  (h.foldl fun _ _ h => h.freeCtx.dropAts).modFn.wake

theorem State.memOk.execFunctionLevelReset {vf} {s : State} (h : s.memOk) : NextOk (execFunctionLevelReset vf s) :=
  (h.resetFn.ite h).next

theorem State.memOk.clearVf {s : State} {vf} (h : s.memOk) : (s.clearVf vf).memOk := h.resetFn.modFn

theorem State.memOk.execVfEnableClear {vf} {s : State} (h : s.memOk) : NextOk (execVfEnableClear vf s) := (h.clearVf.ite h).next

theorem State.memOk.execPfFunctionLevelReset {s : State} (h : s.memOk) : NextOk (execPfFunctionLevelReset s) := by
  have hv : ((List.range 31).foldl (fun t i => t.clearVf (i + 1)) s).memOk := h.foldl fun _ _ h => h.clearVf
  have hp : ∀ (u : State) ps, u.memOk → ({ u with partitions := ps } : State).memOk := fun _ _ h => h.upd
  exact State.memOk.next (.modTail (hp _ _ (.modFn hv.resetFn)))

/-! ## Machine/Reset -/

theorem State.memOk.warmDie {s : State} {die} (h : s.memOk) : (s.warmDie die).memOk := by
  grind [State.warmDie, State.memOk.foldl, State.memOk.clearGroup, State.memOk.releaseHeld, State.memOk.modDi, State.memOk]

theorem State.memOk.trainSite {s : State} {site} (h : s.memOk) : (s.trainSite site).memOk := h.upd.modTail

theorem State.memOk.coldDie {s : State} {die} (h : s.memOk) : (s.coldDie die).memOk :=
  State.memOk_coldDie die h.warmDie

theorem State.memOk.fillSystem {s : State} {die} (h : s.memOk) : (s.fillSystem die).memOk := h.foldl fun _ _ h => h

theorem State.memOk.askReset {s : State} {refused f} (h : s.memOk) (hf : ∀ t, t.memOk → (f t).memOk) :
    (s.askReset refused f).memOk := by
  grind [State.askReset, State.memOk.modTail]

theorem State.memOk.askWarm {s : State} {die} (h : s.memOk) : (s.askWarm die).memOk := h.askReset (fun _ h => h.warmDie.wake)

theorem State.memOk.askCold {s : State} {die} (h : s.memOk) : (s.askCold die).memOk := h.askReset (fun _ h => h.coldDie.modDi.wake)

theorem State.memOk.execWarmDieReset {die} {s : State} (h : s.memOk) : NextOk (execWarmDieReset die s) := h.askWarm.next

theorem State.memOk.execColdDieReset {die} {s : State} (h : s.memOk) : NextOk (execColdDieReset die s) := h.askCold.next

theorem State.memOk.clearCommands {s : State} {c} (h : s.memOk) : (s.clearCommands c).memOk := h.ite h.dropWork.modCx

theorem State.memOk.askWarmPackage {s : State} (h : s.memOk) : (s.askWarmPackage).memOk := by
  grind [State.askWarmPackage, State.memOk.foldl, State.memOk.askReset, State.memOk.clearCommands, State.memOk.warmDie,
      State.memOk.wake, State.memOk]

theorem State.memOk.execWarmPackageReset {s : State} (h : s.memOk) : NextOk (execWarmPackageReset s) := h.askWarmPackage.next

theorem State.memOk.execColdPackageReset {s : State} (h : s.memOk) : NextOk (execColdPackageReset s) :=
  (h.askReset (fun _ h => (State.memOk_coldPackage h))).next

theorem State.memOk.execPowerOn {s : State} (h : s.memOk) : NextOk (execPowerOn s) := (h.ite (State.memOk_coldPackage
    h.modTail)).next

theorem State.memOk.execPowerOff {s : State} (h : s.memOk) : NextOk (execPowerOff s) := (State.memOk_coldPackage h).modTail.next

theorem State.memOk.bootFails {s : State} {code} (h : s.memOk) : (s.bootFails code).memOk := h.modTail

theorem State.memOk.trainLinks {s : State} (h : s.memOk) : (s.trainLinks).memOk := by
  grind [State.trainLinks, State.memOk.foldl, State.memOk.modTail, State.memOk.trainSite, State.memOk.bootFails]

theorem State.memOk.settleBoot {s : State} (h : s.memOk) : (s.settleBoot).memOk := h.trainLinks.ite h

theorem State.memOk.execExplore {site answer} {s : State} (h : s.memOk) : NextOk (execExplore site answer s) :=
  (h.ite (h.ite h.modTail)).next

theorem State.memOk.loadReady {s : State} {slot svn} (h : s.memOk) : (s.loadReady slot svn).memOk :=
  (h.upd.foldl fun _ _ h => h.fillSystem.ite h).modTail

theorem State.memOk.execExploreEnd {s : State} (h : s.memOk) : NextOk (execExploreEnd s) :=
  (h.ite (h.bootFails.ite (h.bootFails.ite (h.bootFails.ite (h.loadReady.ite (h.loadReady.ite h.bootFails)))))).next

theorem State.memOk.execBringUpSelfTestDone {die pass} {s : State} (h : s.memOk) : NextOk (execBringUpSelfTestDone die pass s) :=
  (h.ite (h.modTail.ite (h.ite (((h.upd.ite h).modDi.fillSystem.wake.ite (h.upd.ite h).modDi).ite (h.modDi.errorIrq.ite
      h.modDi))))).next

theorem State.memOk.enablePart {s : State} {n w0} (h : s.memOk) : (s.enablePart n w0).memOk := h.ite (h.modPa.ite h)

theorem State.memOk.execPartitionEnable {n w0} {s : State} (h : s.memOk) : NextOk (execPartitionEnable n w0 s) := h.enablePart.next

theorem State.memOk.saveWhole {s : State} {c} (h : s.memOk) : (s.saveWhole c).memOk := h

theorem State.memOk.applyWant {s : State} {n} (h : s.memOk) : (s.applyWant n).memOk := by
  grind [State.applyWant, State.memOk.foldl, State.memOk.saveWhole, State.memOk.warmDie, State.memOk.wake, State.memOk.modPa]

theorem State.memOk.changePart {s : State} {n w0} (h : s.memOk) : (s.changePart n w0).memOk :=
  h.ite ((h.ite h.modPa).ite (h.ite (h.foldl fun _ _ h => h.requestSave).modPa.applyWant))

theorem State.memOk.execPartitionReconfigure {n w0} {s : State} (h : s.memOk) : NextOk (execPartitionReconfigure n w0 s) :=
  h.changePart.next

/-! ## Machine/Errors -/

theorem State.memOk.loseTeam {s : State} {id} (h : s.memOk) : (s.loseTeam id).memOk := by
  grind [State.loseTeam, State.memOk.foldl, State.memOk.releaseHeld, State.memOk.clearGroup, State.memOk.dropPins, State.memOk]

theorem State.memOk.coreLost {s : State} {core} (h : s.memOk) : (s.coreLost core).memOk := by
  grind [State.coreLost, State.memOk.foldl, State.memOk.loseTeam, State.memOk.haltCtx, State.memOk]

theorem State.memOk.emptySlice {s : State} {die n} (h : s.memOk) : (s.emptySlice die n).memOk := h.foldl fun _ _ h => h.evictSector

theorem State.memOk.loseLane {s : State} {port} (h : s.memOk) : (s.loseLane port).memOk := h.upd.ite h.upd.losePeer

theorem State.memOk.mapOut {s : State} {die kind number} (h : s.memOk) : (s.mapOut die kind number).memOk := by
  refine h.ite ?_
  split
  · exact h.modDi.emptySlice
  · exact h.modDi.coreLost
  · exact h.modDi.llcMove
  · exact h.modDi.loseLane
  · exact h.modDi.contain
  · exact h.modDi

theorem State.memOk.execSelfTestComplete {die kind number pass} {s : State} (h : s.memOk) : NextOk (execSelfTestComplete die kind
    number pass s) :=
  (h.ite (h.startTest.ite (h.modDi.ite h.modDi.mapOut).errorIrq.wake)).next

theorem State.memOk.execDroopEvent {die excess} {s : State} (h : s.memOk) : NextOk (execDroopEvent die excess s) :=
  (h.ite (h.modDi.ite h.modDi.errorIrq)).next

theorem State.memOk.execPowerLimitAdjust {die n} {s : State} (h : s.memOk) : NextOk (execPowerLimitAdjust die n s) :=
  (h.ite h.modDi).next

theorem State.memOk.askReport {s : State} {value} (h : s.memOk) : (s.askReport value).memOk := h.ite h.modTail

theorem State.memOk.execAttestationRequest {value} {s : State} (h : s.memOk) : NextOk (execAttestationRequest value s) :=
  h.askReport.next

theorem State.memOk.execAttestationReportDone {s : State} (h : s.memOk) : NextOk (execAttestationReportDone s) :=
  (h.modTail.ite h).next

theorem State.memOk.setFmt0 {s : State} {die n en err} (h : s.memOk) : (s.setFmt0 die n en err).memOk := h

theorem State.memOk.enableFmt {s : State} {die n} (h : s.memOk) : (s.enableFmt die n).memOk := h.ite (h.setFmt0.ite h.setFmt0)

theorem State.memOk.execFormatRegionEnable {die n} {s : State} (h : s.memOk) : NextOk (execFormatRegionEnable die n s) :=
  h.enableFmt.next

theorem State.memOk.disableFmt {s : State} {die n} (h : s.memOk) : (s.disableFmt die n).memOk :=
  h.ite (h.foldl fun _ _ h => (State.memOk_reencode _ _ _ h)).setFmt0

theorem State.memOk.execFormatRegionDisable {die n} {s : State} (h : s.memOk) : NextOk (execFormatRegionDisable die n s) :=
  h.disableFmt.next

theorem State.memOk.peerAsks {s : State} {peer kind sec} (h : s.memOk) : (s.peerAsks peer kind sec).memOk := h

theorem State.memOk.peerWrites {s : State} {peer sec data dirty} (h : s.memOk) : (s.peerWrites peer sec data dirty).memOk :=
  h.upd.upd.ite ((State.memOk_homeMerge _ _ _ _ h.upd).setDir.wake.ite ((State.memOk_homeMerge _ _ _ _ h.upd).wake.ite h.upd))

theorem State.memOk.filterEvicts {s : State} {sec} (h : s.memOk) : (s.filterEvicts sec).memOk := h.upd.ite (h.upd.ite h)

theorem State.memOk.peerAnswers {s : State} {sec data dirty} (h : s.memOk) : (s.peerAnswers sec data dirty).memOk := h

theorem State.memOk.peerJoins {s : State} {port peer} (h : s.memOk) : (s.peerJoins port peer).memOk := by
  unfold State.peerJoins
  dsimp only
  split
  · exact h.upd.setPeer
  · exact h.upd.ite h.upd.setPeer

theorem State.memOk.takeMsg {s : State} {port channel peer x} (h : s.memOk) : (s.takeMsg port channel peer x).memOk := by
  cases x with
  | request => exact h.peerAsks.ite h
  | writeBack => exact h.peerWrites
  | evict => exact h.filterEvicts
  | answer => exact h.peerAnswers
  | write => exact h.hostSend.ite h
  | reduce => exact h.hostSend.ite h
  | join => exact h.peerJoins
  | other => exact h.upd

theorem State.memOk.retrain {s : State} {port} (h : s.memOk) : (s.retrain port).memOk := h.upd.startTest

theorem State.memOk.execLinkFlit {port channel seq crcOk payload} {s : State} (h : s.memOk) : NextOk (execLinkFlit port channel seq
    crcOk payload s) :=
  (h.ite ((h.upd.retrain.ite h.upd).ite (h.upd.ite (h.upd.takeMsg.ite h.upd)))).next

/-! ## Machine/HostWrite -/

theorem State.memOk.writeCtxcmd {s : State} {v} (h : s.memOk) : (s.writeCtxcmd v).memOk :=
  h.ite (h.modTail.ite (h.releaseCtx.ite h.loadCtx))

theorem State.memOk.ctxPageWrite {s : State} {fn c o v} (h : s.memOk) : (s.ctxPageWrite fn c o v).memOk :=
  h.ite (h.ringDoorbell.ite (h.answerPage.ite (h.modCx.ite (h.invalidate.ite h))))

theorem State.memOk.bar0Write {s : State} {fn offset v} (h : s.memOk) : (s.bar0Write fn offset v).memOk :=
  h.ctxPageWrite.ite (h.clearIrq.ite (h.ite (h.putCtxtab.ite (h.writeCtxcmd.ite (h.modFn.ite (h.modFn.ite h))))))

theorem State.memOk.writeResetctl {s : State} {v} (h : s.memOk) : (s.writeResetctl v).memOk := by
  unfold State.writeResetctl
  split
  · exact h
  · split
    · exact h.askReset (fun _ h => (State.memOk_coldPackage h))
    · exact h.askWarmPackage
    · exact h.askCold
    · exact h.askWarm

theorem State.memOk.writeFmt {s : State} {d n w v} (h : s.memOk) : (s.writeFmt d n w v).memOk :=
  (h.disableFmt.ite h).ite (h.upd.enableFmt.ite h.upd)

theorem State.memOk.writePart {s : State} {n w v} (h : s.memOk) : (s.writePart n w v).memOk := by
  unfold State.writePart
  split
  · exact h.enablePart.ite h.changePart
  · exact h.modPa
  · exact h.modPa
  · exact h.modPa
  · exact h.modPa
  · exact h.modPa
  · exact h.modPa
  · exact h.modPa

theorem State.memOk.writeCounts {s : State} {d o v} (h : s.memOk) : (s.writeCounts d o v).memOk := h.modDi

theorem State.memOk.bDieWrite {s : State} {o v} (h : s.memOk) : (s.bDieWrite o v).memOk :=
  h.writeResetctl.ite (h.modTail.ite (h.askReport.ite (h.writePart.ite h)))

theorem State.memOk.bar2Write {s : State} {d o v} (h : s.memOk) : (s.bar2Write d o v).memOk :=
  h.ite (h.writeCounts.ite (h.writeFmt.ite (h.bDieWrite.ite h)))

theorem State.memOk.execRegisterWrite {fn bar offset value} {s : State} (h : s.memOk) : NextOk (execRegisterWrite fn bar offset
    value s) :=
  (h.ite ((h.modFn.ite h).ite (h.modTail.ite (h.ite (h.bar0Write.ite (h.bar2Write.ite h)))))).next

/-! ## Machine/Matrix -/

theorem State.memOk.execOmap {e n a} {s : State} (h : s.memOk) : NextOk (execOmap e n a s) :=
  h.issue (fun _ h => h.undef.ite (h.stall.ite (h.undef.ite (h.barred.ite h.upd.advance))))

theorem State.memOk.enqueue {s : State} {sparse q} (h : s.memOk) : (s.enqueue sparse q).memOk := by
  unfold State.enqueue
  split
  exact h.fresh.upd.modGr

theorem State.memOk.mma {s : State} {e sparse d a b} (h : s.memOk) : (s.mma e sparse d a b).memOk := by
  unfold State.mma
  dsimp only
  split
  · exact h.undef
  · split
    · exact h.barred
    · split
      · exact h.stall
      · split
        · exact h.trap
        · exact h.stall.ite (h.foldl fun _ _ h => h.enqueue).advance

theorem State.memOk.execMma {e d a b} {s : State} (h : s.memOk) : NextOk (execMma e d a b s) := h.issue (fun _ h => h.mma)

theorem State.memOk.execMmas {e d a b} {s : State} (h : s.memOk) : NextOk (execMmas e d a b s) := h.issue (fun _ h => h.mma)

theorem State.memOk.execMfence {e d} {s : State} (h : s.memOk) : NextOk (execMfence e d s) :=
  h.issue (fun _ h => h.barred.ite (h.stall.ite (h.form (fun _ h => h.modGr.sset))))

theorem State.memOk.merrq {s : State} (h : s.memOk) : (s.merrq).1.memOk := by
  unfold State.merrq
  dsimp only
  split
  · exact h.modCo
  · exact h.modCo.modCo

theorem State.memOk.execMerrq {e d} {s : State} (h : s.memOk) : NextOk (execMerrq e d s) :=
  h.issue (fun _ h => h.barred.ite (h.form (fun _ h => h.merrq.sset)))

theorem State.memOk.logErr {s : State} {core c w} (h : s.memOk) : (s.logErr core c w).memOk := h.modCo

theorem State.memOk.logBad {s : State} {core each} (h : s.memOk) : (s.logBad core each).memOk :=
  (h.foldl fun _ _ h => h.logErr).foldl fun _ _ h => h.detect.ite h.detect

theorem State.memOk.correctReads {s : State} {p q} (h : s.memOk) : (s.correctReads p q).memOk :=
  h.ite (((h.ite h.correctTile).foldl fun _ _ h => h.correct.ite h).foldl fun _ _ h => h.correct.correct)

theorem State.memOk.opDone {s : State} {q fl} (h : s.memOk) : (s.opDone q fl).memOk := h.modGr

theorem State.memOk.runOp {s : State} {p q} (h : s.memOk) :
    (s.runOp p q).memOk := (h.correctReads.foldl fun _ _ h => h.tileSet).opDone

theorem State.memOk.runOps {p} : ∀ {qs before} {s : State}, s.memOk → (s.runOps p before qs).1.memOk
  | [], _, _, h => h
  | _ :: _, _, _, h => .iteFst (State.memOk.runOps h) (State.memOk.runOps h.runOp)

theorem State.memOk.execMatrixPass {core pass} {s : State} (h : s.memOk) : NextOk (execMatrixPass core pass s) := by
  unfold Machine.execMatrixPass
  refine State.memOk.next ?_
  split
  · exact h
  · exact h.ite ((h.runOps.foldl fun _ _ h => h.modTm).upd.logBad.wake.ite (h.runOps.foldl fun _ _ h => h.modTm).upd.wake)

/-! ## Machine/Memory -/

theorem State.memOk.markResident {s : State} {v size here away} (h : s.memOk) : (s.markResident v size here away).memOk :=
  (h.foldl fun _ _ h => h.vsets).pset

theorem State.memOk.regionLane {s : State} {k v size va acc p} (h : s.memOk) : TriedOk (s.regionLane k v size va acc p) := by
  refine h.regionRead.map fun r hr => ?_
  split <;> exact hr

theorem State.memOk.regionLanes {k v size va} : ∀ {ps acc} {s : State}, s.memOk → TriedOk (s.regionLanes k v size va ps acc)
  | [], _, _, h => h.found
  | p :: ps, acc, s, h => by
    have hl := h.regionLane (k := k) (v := v) (size := size) (va := va) (acc := acc) (p := p)
    unfold State.regionLanes
    split
    · next e => exact .throw (hl.error e)
    · next t e =>
      have ht : t.memOk := hl.ok e
      exact ht.found
    · next e => exact State.memOk.regionLanes (hl.ok e)

theorem State.memOk.regionLoad {s : State} {e u addr v size ldn va c} (h : s.memOk) :
    (s.regionLoad e u addr v size ldn va c).memOk := by
  unfold State.regionLoad
  extract_lets k ls r
  have hr : TriedOk r := h.countIssue.bind fun _ h => h.saveDests.bind fun _ h => h.tagWork.bind fun _ h => State.memOk.regionLanes
      h
  clear_value r
  split
  · exact hr.error rfl
  · exact h.stall
  · next t a =>
    have ht : t.memOk := hr.ok rfl
    refine h.stall.ite (.advance ?_)
    have hv := fun u (hu : State.memOk u) => State.memOk.foldl (l := a.now) hu
      (f := fun t p => ((dataRegs v size).zip (loadWords size (s.ty == 1) p.2)).foldl (fun t q => t.vset k q.1 p.1 q.2) t)
      fun _ _ h => h.foldl fun _ _ h => h.vset
    exact .ite (hv _ (.retag (.ite ht.pset ht))) (.startOp (hv _ (.retag (.ite ht.pset ht))))

theorem State.memOk.loadVec {s : State} {e v a o z scope order ldn} (h : s.memOk) :
    (s.loadVec e v a o z scope order ldn).memOk := by
  have hc : ∀ {k size need rmw host ls}, (s.checkLanes k size need rmw host ls).1.memOk := h.checkLanes
  refine h.stall.ite (hc.stall.ite (hc.trap.ite (.ite (hc.trap.ite (hc.regAbort.ite hc.regionLoad)) (hc.stall.ite ?_))))
  exact State.memOk.settleLanes ((hc.markResident.ite hc).ite (hc.markResident.ite hc).startOp)

theorem State.memOk.execLd {e v a o z c r} {s : State} (h : s.memOk) : NextOk (execLd e v a o z c r s) :=
  h.issue (fun _ h => h.loadVec)

theorem State.memOk.execLdn {e v a o z c r} {s : State} (h : s.memOk) : NextOk (execLdn e v a o z c r s) :=
  h.issue (fun _ h => h.loadVec)

theorem State.memOk.storeTag {s : State} {k v l size} (h : s.memOk) : TriedOk (s.storeTag k v l size) := by
  unfold State.storeTag
  split
  · exact h.found
  · exact h.concAll.map fun _ h => h

theorem State.memOk.regionStore {s : State} {e u addr v size va c} (h : s.memOk) : (s.regionStore e u addr v size va c).memOk := by
  unfold State.regionStore
  extract_lets k r
  have hr : DoneOk r := h.countIssue.bind fun _ h => h.tagWork.bind fun _ h =>
    ExceptOk.foldlM (fun _ _ h => (State.memOk.storeTag h).bind fun _ h => State.memOk.regionWrite h) _ _ h
  clear_value r
  split
  · exact hr.error rfl
  · exact .advance (hr.ok rfl)

theorem State.memOk.execSt {e v a o z c r} {s : State} (h : s.memOk) : NextOk (execSt e v a o z c r s) := by
  refine h.issue fun s h => ?_
  have hc : ∀ {k size need rmw host ls}, (s.checkLanes k size need rmw host ls).1.memOk := h.checkLanes
  refine h.stall.ite (hc.stall.ite (hc.trap.ite (.ite (hc.trap.ite hc.regionStore) (hc.stall.ite ?_))))
  exact State.memOk.settleLanes (hc.ite hc.startOp)

theorem State.memOk.checkScal {s : State} {k va size need} (h : s.memOk) :
    (s.checkScal k va size need).1.memOk := iteFst h h.checkLane

theorem State.memOk.forward {s : State} {k v tag} (h : s.memOk) : TriedOk (s.forward k v tag) := by
  unfold State.forward
  split
  · exact h.found
  · exact .ite h.found (h.concretise.map fun _ h => h)

theorem State.memOk.loadScal {s : State} {e d a b size acq} (h : s.memOk) : (s.loadScal e d a b size acq).memOk := by
  unfold State.loadScal
  extract_lets k u va
  refine h.stall.ite ?_
  split
  next t c ec =>
  have ht : t.memOk := h.checkScal.of_eq ec
  refine .ite ht.stall (.ite ht.trap ?_)
  split
  · exact ht.trap
  · extract_lets ps o r
    refine .ite ?_ (.ite ht.stall (.advance ht.startOp))
    have hr : TriedOk r := ht.countIssue.bind fun _ h => h.saveDests.bind fun _ h => h.tagWork.bind fun _ h =>
        State.memOk.regionRead h
    clear_value r
    split
    · exact hr.error rfl
    · exact h.stall
    · exact h.stall.ite (.advance (.startOp (.retag (hr.ok rfl))))
    · next t' v tag =>
      have ht' : t'.memOk := hr.ok rfl
      split
      · next e => exact ht'.forward.error e
      · next e => exact .advance (.sset (.retag (ht'.forward.ok e)))

theorem State.memOk.storeScal {s : State} {e d a b size rel} (h : s.memOk) : (s.storeScal e d a b size rel).memOk := by
  unfold State.storeScal
  extract_lets k u va
  refine h.stall.ite ?_
  split
  next t c ec =>
  have ht : t.memOk := h.checkScal.of_eq ec
  refine .ite ht.stall (.ite ht.trap ?_)
  split
  · exact ht.trap
  · extract_lets ps v r
    refine .ite ?_ (.ite ht.stall (.advance ht.startOp))
    have hr : DoneOk r := ht.countIssue.bind fun _ h => h.tagWork.bind fun _ h => State.memOk.regionWrite h
    clear_value r
    split
    · exact hr.error rfl
    · exact .advance (hr.ok rfl)

theorem State.memOk.execSldB32 {e d a b} {s : State} (h : s.memOk) : NextOk (execSldB32 e d a b s) := h.issue (fun _ h =>
    h.loadScal)

theorem State.memOk.execSldB64 {e d a b} {s : State} (h : s.memOk) : NextOk (execSldB64 e d a b s) := h.issue (fun _ h =>
    h.loadScal)

theorem State.memOk.execSstB32 {e d a b} {s : State} (h : s.memOk) : NextOk (execSstB32 e d a b s) := h.issue (fun _ h =>
    h.storeScal)

theorem State.memOk.execSstB64 {e d a b} {s : State} (h : s.memOk) : NextOk (execSstB64 e d a b s) := h.issue (fun _ h =>
    h.storeScal)

theorem State.memOk.execSldB32Acq {e d a b} {s : State} (h : s.memOk) : NextOk (execSldB32Acq e d a b s) :=
  h.issue (fun _ h => h.barred.ite h.loadScal)

theorem State.memOk.execSldB64Acq {e d a b} {s : State} (h : s.memOk) : NextOk (execSldB64Acq e d a b s) :=
  h.issue (fun _ h => h.barred.ite h.loadScal)

theorem State.memOk.execSstB32Rel {e d a b} {s : State} (h : s.memOk) : NextOk (execSstB32Rel e d a b s) :=
  h.issue (fun _ h => h.barred.ite h.storeScal)

theorem State.memOk.execSstB64Rel {e d a b} {s : State} (h : s.memOk) : NextOk (execSstB64Rel e d a b s) :=
  h.issue (fun _ h => h.barred.ite h.storeScal)

theorem State.memOk.atomic {s : State} {e v a o op scope rel returns} (h : s.memOk) :
    (s.atomic e v a o op scope rel returns).memOk := by
  have hc : ∀ {k size need rmw host ls}, (s.checkLanes k size need rmw host ls).1.memOk := h.checkLanes
  refine h.undef.ite (h.barred.ite (h.stall.ite (hc.stall.ite (hc.trap.ite (hc.stall.ite ?_)))))
  exact State.memOk.settleLanes (hc.ite hc.startOp)

theorem State.memOk.execAtom {e v a o p c l} {s : State} (h : s.memOk) : NextOk (execAtom e v a o p c l s) :=
  h.issue (fun _ h => h.atomic)

theorem State.memOk.execRed {e v a o p c l} {s : State} (h : s.memOk) : NextOk (execRed e v a o p c l s) :=
  h.issue (fun _ h => h.atomic)

/-! ## Machine/Predicate -/

theorem State.memOk.pform {s : State} {e d srcs v} (h : s.memOk) : (s.pform e d srcs v).memOk := h.form (fun _ h => h.pset)

theorem State.memOk.execPand {e d a b} {s : State} (h : s.memOk) : NextOk (execPand e d a b s) := h.issue (fun _ h => h.pform)

theorem State.memOk.execPor {e d a b} {s : State} (h : s.memOk) : NextOk (execPor e d a b s) := h.issue (fun _ h => h.pform)

theorem State.memOk.execPxor {e d a b} {s : State} (h : s.memOk) : NextOk (execPxor e d a b s) := h.issue (fun _ h => h.pform)

theorem State.memOk.execPnot {e d a} {s : State} (h : s.memOk) : NextOk (execPnot e d a s) := h.issue (fun _ h => h.pform)

theorem State.memOk.execPmov {e d a} {s : State} (h : s.memOk) : NextOk (execPmov e d a s) := h.issue (fun _ h => h.pform)

theorem State.memOk.execPfirst {e d a} {s : State} (h : s.memOk) : NextOk (execPfirst e d a s) := h.issue (fun _ h => h.pform)

theorem State.memOk.execPfrom {e d s'} {s : State} (h : s.memOk) : NextOk (execPfrom e d s' s) :=
  h.issue (fun _ h => h.form (fun _ h => h.pset))

theorem State.memOk.execPto {e a s'} {s : State} (h : s.memOk) : NextOk (execPto e a s' s) :=
  h.issue (fun _ h => h.form (fun _ h => h.sset))

theorem State.memOk.execPpopc {e a s'} {s : State} (h : s.memOk) : NextOk (execPpopc e a s' s) :=
  h.issue (fun _ h => h.form (fun _ h => h.sset))

/-! ## Machine/Issue -/

theorem State.memOk.afterIssue {s : State} {k was} (h : s.memOk) : (s.afterIssue k was).memOk :=
  (h.setSp.ite h).stopHere.ite (h.setSp.ite h)

theorem State.memOk.clearYields {s : State} {k} (h : s.memOk) : (s.clearYields k).memOk := h

theorem State.memOk.begin' {s : State} (h : s.memOk) : (s.begin').memOk := h

theorem State.memOk.serve' {s : State} {k} (h : s.memOk) : (s.serve' k).memOk := .upd h

theorem State.memOk.after {s : State} (h : s.memOk) : (s.after).memOk := by
  grind [State.after, State.memOk.foldl, State.memOk.settleSaves, State.memOk.settleHost, State.memOk.settle,
      State.memOk.settleBoot, State.memOk.applyWant]

/-! ## Machine/Step -/

theorem State.memOk.exec {i : Instr} {s : State} (h : s.memOk) : NextOk (exec i s) :=
  match i with
  | .nop .. => h.execNop
  | .exit e => h.execExit (_e := e)
  | .ret e => h.execRet (e := e)
  | .yield .. => h.execYield
  | .tret e _ => h.execTret (_e := e)
  | .brk e => h.execBrk (_e := e)
  | .wspill .. => h.execWspill
  | .wfill .. => h.execWfill
  | .emret e _ _ => h.execEmret (_e := e)
  | .probe .. => h.execProbe
  | .splq .. => h.execSplq
  | .mode .. => h.execMode
  | .rep .. => h.execRep
  | .bra .. => h.execBra
  | .call .. => h.execCall
  | .callx .. => h.execCallx
  | .brx .. => h.execBrx
  | .callo .. => h.execCallo
  | .jmpo .. => h.execJmpo
  | .srd .. => h.execSrd
  | .swr .. => h.execSwr
  | .trap e _ => h.execTrap (_e := e)
  | .vsrd .. => h.execVsrd
  | .wait .. => h.execWait
  | .sadd .. => h.execSadd
  | .ssub .. => h.execSsub
  | .smul .. => h.execSmul
  | .smulh .. => h.execSmulh
  | .sdiv .. => h.execSdiv
  | .srem .. => h.execSrem
  | .sand .. => h.execSand
  | .sor .. => h.execSor
  | .sxor .. => h.execSxor
  | .snot .. => h.execSnot
  | .sshl .. => h.execSshl
  | .sshr .. => h.execSshr
  | .ssra .. => h.execSsra
  | .smin .. => h.execSmin
  | .smax .. => h.execSmax
  | .sminn .. => h.execSminn
  | .smaxn .. => h.execSmaxn
  | .scmpEq .. => h.execScmpEq
  | .scmpNe .. => h.execScmpNe
  | .scmpLt .. => h.execScmpLt
  | .scmpLe .. => h.execScmpLe
  | .scmpLtn .. => h.execScmpLtn
  | .scmpLen .. => h.execScmpLen
  | .smov .. => h.execSmov
  | .spopc .. => h.execSpopc
  | .sclz .. => h.execSclz
  | .sbrev .. => h.execSbrev
  | .saddi .. => h.execSaddi
  | .sli .. => h.execSli
  | .slih .. => h.execSlih
  | .vadd .. => h.execVadd
  | .vsub .. => h.execVsub
  | .vmul .. => h.execVmul
  | .vmulh .. => h.execVmulh
  | .vmad .. => h.execVmad
  | .vand .. => h.execVand
  | .vor .. => h.execVor
  | .vxor .. => h.execVxor
  | .vnot .. => h.execVnot
  | .vshl .. => h.execVshl
  | .vshr .. => h.execVshr
  | .vsra .. => h.execVsra
  | .vmin .. => h.execVmin
  | .vmax .. => h.execVmax
  | .vabs .. => h.execVabs
  | .vneg .. => h.execVneg
  | .vmov .. => h.execVmov
  | .vbsel .. => h.execVbsel
  | .vpopc .. => h.execVpopc
  | .vclz .. => h.execVclz
  | .vavg .. => h.execVavg
  | .vdiv .. => h.execVdiv
  | .vrem .. => h.execVrem
  | .vaddi .. => h.execVaddi
  | .vli .. => h.execVli
  | .vbfe .. => h.execVbfe
  | .vbfi .. => h.execVbfi
  | .vprmt .. => h.execVprmt
  | .vshuf .. => h.execVshuf
  | .vpackb .. => h.execVpackb
  | .vbcast .. => h.execVbcast
  | .vext .. => h.execVext
  | .vscan .. => h.execVscan
  | .vreduce .. => h.execVreduce
  | .pand .. => h.execPand
  | .por .. => h.execPor
  | .pxor .. => h.execPxor
  | .pnot .. => h.execPnot
  | .pmov .. => h.execPmov
  | .pfrom .. => h.execPfrom
  | .pto .. => h.execPto
  | .ppopc .. => h.execPpopc
  | .pfirst .. => h.execPfirst
  | .vcmpEq .. => h.execVcmpEq
  | .vcmpNe .. => h.execVcmpNe
  | .vcmpLt .. => h.execVcmpLt
  | .vcmpLe .. => h.execVcmpLe
  | .vcmpGt .. => h.execVcmpGt
  | .vcmpGe .. => h.execVcmpGe
  | .vcmpUn .. => h.execVcmpUn
  | .vcmpvEq .. => h.execVcmpvEq
  | .vcmpvNe .. => h.execVcmpvNe
  | .vcmpvLt .. => h.execVcmpvLt
  | .vcmpvLe .. => h.execVcmpvLe
  | .vcmpvGt .. => h.execVcmpvGt
  | .vcmpvGe .. => h.execVcmpvGe
  | .vcmpvUn .. => h.execVcmpvUn
  | .fadd .. => h.execFadd
  | .fsub .. => h.execFsub
  | .fmul .. => h.execFmul
  | .fmin .. => h.execFmin
  | .fmax .. => h.execFmax
  | .fabs .. => h.execFabs
  | .fneg .. => h.execFneg
  | .fdiv .. => h.execFdiv
  | .fscale .. => h.execFscale
  | .frcp .. => h.execFrcp
  | .frsq .. => h.execFrsq
  | .fsqrt .. => h.execFsqrt
  | .fexp2 .. => h.execFexp2
  | .flog2 .. => h.execFlog2
  | .fsinp .. => h.execFsinp
  | .fcosp .. => h.execFcosp
  | .fma .. => h.execFma
  | .fms .. => h.execFms
  | .fnma .. => h.execFnma
  | .idot .. => h.execIdot
  | .fdot .. => h.execFdot
  | .fcvt .. => h.execFcvt
  | .frnd .. => h.execFrnd
  | .fclass .. => h.execFclass
  | .f2i .. => h.execF2i
  | .i2f .. => h.execI2f
  | .ld .. => h.execLd
  | .st .. => h.execSt
  | .ldn .. => h.execLdn
  | .sldB32 .. => h.execSldB32
  | .sldB64 .. => h.execSldB64
  | .sstB32 .. => h.execSstB32
  | .sstB64 .. => h.execSstB64
  | .sldB32Acq .. => h.execSldB32Acq
  | .sldB64Acq .. => h.execSldB64Acq
  | .sstB32Rel .. => h.execSstB32Rel
  | .sstB64Rel .. => h.execSstB64Rel
  | .atom .. => h.execAtom
  | .red .. => h.execRed
  | .fence .. => h.execFence
  | .cctl .. => h.execCctl
  | .pref .. => h.execPref
  | .pageq .. => h.execPageq
  | .waitv .. => h.execWaitv
  | .carve .. => h.execCarve
  | .sync e _ => h.execSync (_e := e)
  | .bar .. => h.execBar
  | .cbar e _ => h.execCbar (_e := e)
  | .bara .. => h.execBara
  | .accLd .. => h.execAccLd
  | .accSt .. => h.execAccSt
  | .accZero .. => h.execAccZero
  | .accCvt .. => h.execAccCvt
  | .rgbeg .. => h.execRgbeg
  | .rgend .. => h.execRgend
  | .rgabt e _ => h.execRgabt (_e := e)
  | .rgst .. => h.execRgst
  | .mma .. => h.execMma
  | .mmas .. => h.execMmas
  | .mfence .. => h.execMfence
  | .omap .. => h.execOmap
  | .merrq .. => h.execMerrq
  | .cpy .. => h.execCpy
  | .cpyt .. => h.execCpyt
  | .cpyr .. => h.execCpyr
  | .cpyg .. => h.execCpyg
  | .cpyb .. => h.execCpyb
  | .cpyq .. => h.execCpyq
  | .ovlLd .. => h.execOvlLd
  | .ovlHint .. => h.execOvlHint
  | .ovlEv .. => h.execOvlEv
  | .ovlPin .. => h.execOvlPin
  | .ovlUnpin .. => h.execOvlUnpin
  | .ovlQ .. => h.execOvlQ
  | .mshEmit .. => h.execMshEmit
  | .mshClose .. => h.execMshClose
  | .pixAttr .. => h.execPixAttr
  | .pixOut .. => h.execPixOut
  | .pixKill .. => h.execPixKill
  | .pixOrd .. => h.execPixOrd
  | .tex .. => h.execTex
  | .texl .. => h.execTexl
  | .texg .. => h.execTexg
  | .imgLd .. => h.execImgLd
  | .imgSt .. => h.execImgSt
  | .ray .. => h.execRay
  | .rayh .. => h.execRayh
  | .owrd .. => h.execOwrd
  | .xregRd .. => h.execXregRd
  | .xregWr .. => h.execXregWr
  | .emulationEntry .. => h.execEmulationEntry
  | .emulationLevelWaitEnd .. => h.execEmulationLevelWaitEnd
  | .trapBankWaitEnd .. => h.execTrapBankWaitEnd
  | .schedulerAgeThreshold .. => h.execSchedulerAgeThreshold
  | .loadDataReturn .. => h.execLoadDataReturn
  | .storePerformed .. => h.execStorePerformed
  | .copyGranuleWrite .. => h.execCopyGranuleWrite
  | .copyComplete .. => h.execCopyComplete
  | .matrixPass .. => h.execMatrixPass
  | .overlayFillComplete .. => h.execOverlayFillComplete
  | .rayQueryComplete .. => h.execRayQueryComplete
  | .waitvWake .. => h.execWaitvWake
  | .waitvReread .. => h.execWaitvReread
  | .waitvTimeout .. => h.execWaitvTimeout
  | .regionCommit .. => h.execRegionCommit
  | .regionSerialTimeout .. => h.execRegionSerialTimeout
  | .carveComplete .. => h.execCarveComplete
  | .nopCommand .. => h.execNopCommand
  | .launch .. => h.execLaunch
  | .draw .. => h.execDraw
  | .waitCommand .. => h.execWaitCommand
  | .waitCommandPoll .. => h.execWaitCommandPoll
  | .signal .. => h.execSignal
  | .teamPlacement .. => h.execTeamPlacement
  | .endOfLaunch .. => h.execEndOfLaunch
  | .drawEnd .. => h.execDrawEnd
  | .saveRequest .. => h.execSaveRequest
  | .forcedSave .. => h.execForcedSave
  | .saveComplete .. => h.execSaveComplete
  | .contextResume .. => h.execContextResume
  | .timeSliceExpiry .. => h.execTimeSliceExpiry
  | .doorbell .. => h.execDoorbell
  | .contextLoad .. => h.execContextLoad
  | .contextRelease .. => h.execContextRelease
  | .ctxtabWrite .. => h.execCtxtabWrite
  | .partitionEnable .. => h.execPartitionEnable
  | .partitionReconfigure .. => h.execPartitionReconfigure
  | .invalidatePage .. => h.execInvalidatePage
  | .invalidateContext .. => h.execInvalidateContext
  | .invalidationComplete .. => h.execInvalidationComplete
  | .pageRequestGrant .. => h.execPageRequestGrant
  | .pageRequestFail .. => h.execPageRequestFail
  | .prqRptrPoll .. => h.execPrqRptrPoll
  | .irqcauseClear .. => h.execIrqcauseClear
  | .registerWrite .. => h.execRegisterWrite
  | .atsTranslationCompletion .. => h.execAtsTranslationCompletion
  | .atsInvalidateRequest .. => h.execAtsInvalidateRequest
  | .prgResponse .. => h.execPrgResponse
  | .hostMemoryWrite .. => h.execHostMemoryWrite
  | .hostMemoryRead .. => h.execHostMemoryRead
  | .functionLevelReset .. => h.execFunctionLevelReset
  | .vfEnableClear .. => h.execVfEnableClear
  | .pfFunctionLevelReset => h.execPfFunctionLevelReset
  | .warmDieReset .. => h.execWarmDieReset
  | .coldDieReset .. => h.execColdDieReset
  | .warmPackageReset => h.execWarmPackageReset
  | .coldPackageReset => h.execColdPackageReset
  | .powerOn => h.execPowerOn
  | .explore .. => h.execExplore
  | .exploreEnd => h.execExploreEnd
  | .bringUpSelfTestDone .. => h.execBringUpSelfTestDone
  | .attestationRequest .. => h.execAttestationRequest
  | .attestationReportDone => h.execAttestationReportDone
  | .selfTestComplete .. => h.execSelfTestComplete
  | .droopEvent .. => h.execDroopEvent
  | .powerLimitAdjust .. => h.execPowerLimitAdjust
  | .lossOfService .. => h.execLossOfService
  | .coherenceTimeout .. => h.execCoherenceTimeout
  | .rds .. => h.execRds
  | .rdx .. => h.execRdx
  | .upg .. => h.execUpg
  | .rdu .. => h.execRdu
  | .wrb .. => h.execWrb
  | .wrc .. => h.execWrc
  | .wrm .. => h.execWrm
  | .wrt .. => h.execWrt
  | .invalidation .. => h.execInvalidation
  | .downgrade .. => h.execDowngrade
  | .coherenceAck .. => h.execCoherenceAck
  | .formatRegionEnable .. => h.execFormatRegionEnable
  | .formatRegionDisable .. => h.execFormatRegionDisable
  | .linkFlit .. => h.execLinkFlit
  | .meshletCompressDone .. => h.execMeshletCompressDone
  | .frontierBeacon .. => h.execFrontierBeacon
  | .visibilityPacket .. => h.execVisibilityPacket
  | .rasterisePacket .. => h.execRasterisePacket
  | .blendApply .. => h.execBlendApply
  | .powerOff => h.execPowerOff
  | .priReenable .. => h.execPriReenable
  | .msiXVectorUnmask .. => h.execMsiXVectorUnmask

theorem NextOk.finish {o f} (h : NextOk o) (hf : ∀ t, t.memOk → (f t).memOk) : NextOk (finish o f) := by
  unfold Machine.finish
  split
  · exact State.memOk.next (State.memOk.after (hf _ (h _ rfl)))
  · rintro t ⟨⟩
  · rintro t ⟨⟩

theorem State.memOk.fetchNext {s t : State} {k} (h : s.memOk) (e : s.fetchNext k = .instead t) : t.memOk := by
  unfold State.fetchNext at e
  dsimp only at e
  split at e
  · next e' =>
    cases e
    have ht := h.restoreDone.of_eq e'
    exact ht.waitFor.ite ht
  · next u e' =>
    have hu : u.memOk := h.restoreDone.of_eq e'
    split at e
    · cases e; exact hu.takeEccu
    · split at e
      · cases e; exact hu.trap.ite hu.ensureCode
      · split at e
        · cases e; exact hu.trap
        · cases e

theorem State.memOk.issueOf {s : State} {k} (h : s.memOk) : NextOk (issueOf s k) := by
  unfold Machine.issueOf
  dsimp only
  split
  · next e => exact State.memOk.next (State.memOk.after (h.serve'.fetchNext e))
  · exact h.serve'.exec.finish fun _ h => h.afterIssue

theorem State.memOk.step {s : State} (h : s.memOk) : NextOk (step s) := by
  unfold Machine.step
  dsimp only
  split
  · exact h.begin'.exec.finish fun _ h => h
  · exact h.begin'.issueOf
  · exact h.begin'.after.next

/-- Settles O57: each function of the model that brings a state brings canonical memories where it is given them. -/
theorem memoryStaysCanonical : Obligations.MemoryStaysCanonical := fun _ t h e => h.step t e

end Sys2Proof.Machine
end

section
/-! PROOF of O2 and O5: registers that read back, the elements of a result, masked writes. -/
namespace Sys2Proof.Machine

set_option Elab.async false

/-! ## Scalars and predicates -/

/-- Scalars of different numbers stand under different keys. -/
theorem State.scalarKey_inj {s : State} {k n m : Nat} (hn : n < 32) (hm : m < 32) (h : n ≠ m) : s.scalarKey k m ≠ s.scalarKey k n := by
  simp only [State.scalarKey, sKey]
  omega

/-- Predicates of different numbers stand under different keys. -/
theorem State.predKey_inj {s : State} {k n m : Nat} (hn : n < 8) (hm : m < 8) (h : n ≠ m) : s.predKey k m ≠ s.predKey k n := by
  simp only [State.predKey, pKey]
  omega

theorem State.sget_sset_other (s : State) {k n m : Nat} (v : Word64) (hn : n < 32) (hm : m < 32) (h : n ≠ m) :
    (s.sset k n v).sget k m = s.sget k m := by
  obtain ⟨r, hr, hk⟩ := s.sset_eq k n v
  rw [hr]
  unfold State.sget
  split
  · rfl
  · exact hk _ (.inr (State.scalarKey_inj hn hm h))

theorem State.pget_pset_other (s : State) {k n m : Nat} (v : BitVec 32) (hn : n < 8) (hm : m < 8) (h : n ≠ m) :
    (s.pset k n v).pget k m = s.pget k m := by
  obtain ⟨r, hr, hk⟩ := s.pset_eq k n v
  rw [hr]
  unfold State.pget
  split
  · rfl
  · exact hk _ (.inr (State.predKey_inj hn hm h))

/-- Settles O2: number 0 is constant, and the keys of other numbers differ. -/
theorem hardwiredRegisters : Obligations.HardwiredRegisters := fun s k =>
  ⟨⟨s.sget_zero k, s.sset_zero k⟩, ⟨s.pget_zero k, s.pset_zero k⟩, fun n v h => s.sget_sset k n v h, fun n v h => s.pget_pset k n v h,
    fun _ _ v hn hm h => s.sget_sset_other v hn hm h, fun _ _ v hn hm h => s.pget_pset_other v hn hm h⟩

/-! ## Elements -/

/-- The sum that `packEl` packs. -/
def packSum (w n : Nat) (f : Nat → Nat) : Nat := (List.range n).foldl (fun acc e => acc + (f e % 2 ^ w) * 2 ^ (w * e)) 0

theorem packSum_succ (w n : Nat) (f : Nat → Nat) : packSum w (n + 1) f = packSum w n f + (f n % 2 ^ w) * 2 ^ (w * n) := by
  simp [packSum, List.range_succ]

theorem packSum_lt (w n : Nat) (f : Nat → Nat) : packSum w n f < 2 ^ (w * n) := by
  induction n with
  | zero => simp [packSum]
  | succ n ih =>
    have hd : f n % 2 ^ w + 1 ≤ 2 ^ w := Nat.mod_lt _ (Nat.two_pow_pos w)
    calc packSum w (n + 1) f
        < 2 ^ (w * n) + (f n % 2 ^ w) * 2 ^ (w * n) := by rw [packSum_succ]; omega
      _ = (f n % 2 ^ w + 1) * 2 ^ (w * n) := by ring
      _ ≤ 2 ^ w * 2 ^ (w * n) := Nat.mul_le_mul_right _ hd
      _ = 2 ^ (w * (n + 1)) := by rw [← Nat.pow_add]; congr 1; ring

/-- Digit j of a packed sum. -/
theorem packSum_digit (w : Nat) {n j : Nat} (f : Nat → Nat) (hj : j < n) : packSum w n f / 2 ^ (w * j) % 2 ^ w = f j % 2 ^ w := by
  induction n with
  | zero => omega
  | succ n ih =>
    rw [packSum_succ]
    by_cases h : j = n
    · subst h
      rw [Nat.add_mul_div_right _ _ (Nat.two_pow_pos _), Nat.div_eq_of_lt (packSum_lt w j f), Nat.zero_add, Nat.mod_mod]
    · have hp : (f n % 2 ^ w) * 2 ^ (w * n) = (f n % 2 ^ w) * 2 ^ (w * (n - j - 1)) * 2 ^ w * 2 ^ (w * j) := by
        rw [mul_assoc, mul_assoc, ← Nat.pow_add, ← Nat.pow_add]
        congr 2
        obtain ⟨m, rfl⟩ : ∃ m, n = j + 1 + m := ⟨n - j - 1, by omega⟩
        rw [show j + 1 + m - j - 1 = m by omega]
        ring
      rw [hp, Nat.add_mul_div_right _ _ (Nat.two_pow_pos _), Nat.add_mul_mod_self_right]
      exact ih (by omega)

/-- An element of a packed value. -/
theorem el_packEl {w n j : Nat} (f : Nat → Nat) (hj : j < n) (hw : w * n ≤ 64) : el w (packEl w n f) j = f j % 2 ^ w := by
  have hlt : packSum w n f < 2 ^ 64 := (packSum_lt w n f).trans_le (Nat.pow_le_pow_right (by omega) hw)
  have hp : (packEl w n f).toNat = packSum w n f := by
    rw [packEl, BitVec.toNat_ofNat]
    exact Nat.mod_eq_of_lt hlt
  rw [el, hp, Nat.shiftRight_eq_div_pow, packSum_digit w f hj]

/-- The elements of an operand fit its 64 bits. -/
theorem elW_mul_elN_le {t : Nat} (h : t < 16) : elW t * elN t ≤ 64 := by
  decide +revert

theorem fitEl_lt (sat signed : Bool) (w : Nat) (v : Int) : fitEl sat signed w v < 2 ^ w := by
  have h := Int.emod_lt_of_pos (if sat then clampTo (elMin signed w) (elMax signed w) v else v) (by positivity : (0 : Int) < 2 ^ w)
  rw [fitEl, wrapTo]
  zify
  omega

theorem fitEl_cast (sat signed : Bool) (w : Nat) (v : Int) :
    (fitEl sat signed w v : Int) = (if sat then clampTo (elMin signed w) (elMax signed w) v else v) % 2 ^ w := by
  have h := Int.emod_nonneg (if sat then clampTo (elMin signed w) (elMax signed w) v else v) (by positivity : (2 ^ w : Int) ≠ 0)
  rw [fitEl, wrapTo]
  omega

/-- An element of a mapped operand. -/
theorem el_mapInt {t j : Nat} (sat : Bool) (f : Int → Int → Int → Int) (x y z : Word64) (ht : t < 16) (hj : j < elN t) :
    el (elW t) (mapInt t sat f x y z) j = fitEl (sat && t != 15) (elSigned t) (elW t)
      (f (elInt (elSigned t) (elW t) (el (elW t) x j)) (elInt (elSigned t) (elW t) (el (elW t) y j))
        (elInt (elSigned t) (elW t) (el (elW t) z j))) := by
  rw [mapInt, mapEl, el_packEl _ hj (elW_mul_elN_le ht)]
  exact Nat.mod_eq_of_lt (fitEl_lt _ _ _ _)

/-! ## Masked writes -/

/-- The rows of an even register and of the next differ. -/
theorem rowOf_succ_ne {d cwp n : Nat} (hn : n % 2 = 0) : rowOf d cwp (n + 1) ≠ rowOf d cwp n := by
  unfold rowOf
  split <;> split
  · omega
  · omega
  · omega
  · intro h
    have h1 : (40 * cwp + (n + 1) - 8) % (40 * d + 16) = (40 * cwp + n - 8) % (40 * d + 16) := by omega
    rw [show 40 * cwp + (n + 1) - 8 = 40 * cwp + n - 8 + 1 by omega, Nat.add_mod, Nat.mod_eq_of_lt (by omega : 1 < 40 * d + 16)] at h1
    have hlt := Nat.mod_lt (40 * cwp + n - 8) (by omega : 0 < 40 * d + 16)
    generalize (40 * cwp + n - 8) % (40 * d + 16) = r at h1 hlt
    by_cases hr : r + 1 < 40 * d + 16
    · rw [Nat.mod_eq_of_lt hr] at h1; omega
    · rw [show r + 1 = 40 * d + 16 by omega, Nat.mod_self] at h1; omega

/-- Words of different lanes stand under different keys. -/
theorem vKey_ne_of_lane {g r r' l l' : Nat} (hl : l < 32) (hl' : l' < 32) (h : l ≠ l') : vKey g r l ≠ vKey g r' l' := by
  simp only [vKey]
  omega

theorem mem_lanesOf {m : BitVec 32} {l : Nat} : l ∈ lanesOf m ↔ l < 32 ∧ bit m l = true := by
  simp [lanesOf, lanes]

theorem nodup_lanesOf (m : BitVec 32) : (lanesOf m).Nodup := List.Nodup.filter _ List.nodup_range

/-- Writes of several lanes leave the rows of any other lane. -/
theorem State.vget_foldPut_other (s : State) {n m l : Nat} (wide : Bool) (f : Nat → Word64) {ls : List Nat} (hl : l < 32)
    (hls : ∀ l' ∈ ls, l' < 32 ∧ l ≠ l') :
    (ls.foldl (fun t l => t.putOp t.cur n l wide (f l)) s).vget s.cur m l = s.vget s.cur m l := by
  obtain ⟨r, hr, hk⟩ := State.foldPut_eq n wide f ls s
  rw [hr]
  exact hk _ fun l' hl' _ _ => vKey_ne_of_lane hl (hls l' hl').1 (hls l' hl').2

/-- A masked write, where the write of lane l gives register m the word x in any state: in a guard lane x is read, in another lane
the word before. -/
theorem State.vget_putLanes (s : State) {n m l : Nat} (wide : Bool) (f : Nat → Word64) {x : Word32} (hl : l < 32)
    (hx : ∀ u : State, (u.putOp u.cur n l wide (f l)).vget u.cur m l = x) :
    (s.putLanes n wide f).vget s.cur m l = if bit (s.guard s.cur) l then x else s.vget s.cur m l := by
  have hlt : ∀ l' ∈ s.glanes s.cur, l' < 32 := fun l' h => (mem_lanesOf.mp h).1
  unfold State.putLanes
  split
  · next hg =>
    obtain ⟨as, bs, hab⟩ := List.append_of_mem (show l ∈ s.glanes s.cur from mem_lanesOf.mpr ⟨hl, hg⟩)
    have hnd : (as ++ l :: bs).Nodup := hab ▸ nodup_lanesOf (s.guard s.cur)
    obtain ⟨hlb, -⟩ := List.nodup_cons.mp (List.nodup_append.mp hnd).2.1
    obtain ⟨r, hr, -⟩ := State.foldPut_eq n wide f as s
    rw [hab] at hlt ⊢
    rw [List.foldl_append, List.foldl_cons, hr]
    set u : State := { s with vreg := r }
    obtain ⟨r', hr', -⟩ := u.putOp_eq u.cur n l wide (f l)
    have hcur : (u.putOp u.cur n l wide (f l)).cur = s.cur := by rw [hr']
    have hrest := (u.putOp u.cur n l wide (f l)).vget_foldPut_other (m := m) (n := n) wide f hl (ls := bs)
      fun l' h => ⟨hlt l' (by simp [h]), fun e => hlb (e ▸ h)⟩
    rw [hcur] at hrest
    exact hrest.trans (hx u)
  · next hg => exact s.vget_foldPut_other wide f hl fun l' h => ⟨hlt l' h, fun e => hg (e ▸ (mem_lanesOf.mp h).2)⟩

/-- A narrow write is read back. -/
theorem State.vget_putOp_narrow (s : State) (k n l : Nat) (v : Word64) : (s.putOp k n l false v).vget k n l = lo32 v :=
  mget_mset_self _ _ _ _

/-- The low word of a pair is read back. -/
theorem State.vget_putOp_low (s : State) (k l : Nat) {n : Nat} (v : Word64) (hn : n % 2 = 0) :
    (s.putOp k n l true v).vget k n l = lo32 v := by
  refine (mget_mset_other _ _ _ ?_).trans (mget_mset_self _ _ _ _)
  have h : s.row k n ≠ s.row k (n + 1) := (rowOf_succ_ne hn).symm
  simp only [vKey]
  change (_ + s.row k n) * 32 + l ≠ (_ + s.row k (n + 1)) * 32 + l
  omega

/-- The high word of a pair is read back. -/
theorem State.vget_putOp_high (s : State) (k n l : Nat) (v : Word64) : (s.putOp k n l true v).vget k (n + 1) l = hi32 v :=
  mget_mset_self _ _ _ _

theorem pair64_hi32_lo32 (v : Word64) : pair64 (hi32 v) (lo32 v) = v := by
  ext i hi
  rw [BitVec.getElem_append]
  split
  · simpa using BitVec.getLsbD_eq_getElem hi
  · next h => simpa [show 32 + (i - 32) = i by omega] using BitVec.getLsbD_eq_getElem hi

/-- Settles O5: the digits of a packed value, and the one write of a guard lane among the writes of the others. -/
theorem elementsAndMask : Obligations.ElementsAndMask := by
  refine ⟨fun t sat f x y z j ht hj => ?_, fun s n f l hl _ => ?_, fun s n f l hl _ hn => ?_⟩
  · dsimp only
    rw [el_mapInt sat f x y z ht hj, fitEl_cast]
    simp only [clampTo, elMin, elMax, Bool.and_eq_true, bne_iff_ne]
  · exact s.vget_putLanes false f hl fun u => u.vget_putOp_narrow _ _ _ _
  · simp only [State.vget64]
    rw [s.vget_putLanes true f hl fun u => u.vget_putOp_low _ _ _ hn, s.vget_putLanes true f hl fun u => u.vget_putOp_high _ _ _ _]
    split
    · exact pair64_hi32_lo32 _
    · rfl

end Sys2Proof.Machine
end

section
/-! PROOF of O12: special registers, read and written. -/
namespace Sys2Proof.Machine

set_option Elab.async false

/-- The numbers of R39's special registers. -/
def specialNumbers : List Nat :=
  [0, 1, 2, 3, 4, 5, 6, 7, 8, 9, 0xA, 0xB, 0xC, 0xD, 0x10, 0x11, 0x12, 0x13, 0x14, 0x18, 0x19, 0x1A, 0x1B, 0x1C, 0x1D, 0x20, 0x21, 0x22, 0x23]

theorem State.special_isNone (s : State) (k l n : Nat) : (s.special k l n).isNone = !specialNumbers.contains n := by
  unfold State.special
  dsimp only
  split
  case h_24 | h_25 => split <;> rfl
  case h_30 => simp_all [specialNumbers]
  all_goals rfl

/-- A defined register that does not differ by lane, or is read in the lowest guard lane. -/
theorem execSrd_reads {s : State} {r : BitVec 5} {n : BitVec 10} {m : Nat} {x : Word64} (e : Bool) (ha : s.acts) (hn : n.toNat = m)
    (hx : s.srdValue m = some x) (hf : s.free { ds := [r.toNat], sq := laneGuard m s.me.gmode }) :
    exec (.srd e r n) s = .next ((s.sset s.cur r.toNat x).advance e) := by
  subst hn
  change execSrd e r n s = _
  rw [execSrd, issue_valid _ ha.1]
  simp only [hx]
  rw [State.form_free e .conc _ ha hf]

/-- The lowest lane of a mask. -/
theorem lowLane_eq {m : BitVec 32} {l : Nat} (hl : l < 32) (hb : bit m l = true) (hlow : ∀ j < l, bit m j = false) : lowLane m = l := by
  have hf : lanes.find? (fun j => bit m j) = some l :=
    List.find?_range_eq_some.mpr ⟨hb, List.mem_range.mpr hl, fun j hj => by simp [hlow j hj]⟩
  rw [lowLane, List.headD_eq_head?_getD, lanesOf, List.head?_filter, hf, Option.getD_some]

theorem State.srdValue_low {s : State} {l n : Nat} (hp : perLane n = true) (hl : l < 32) (hb : bit (s.guard s.cur) l = true)
    (hlow : ∀ j < l, bit (s.guard s.cur) j = false) : s.srdValue n = s.special s.cur l n := by
  have h0 : s.guard s.cur ≠ 0 := by
    intro h
    simp [h] at hb
  rw [State.srdValue, if_pos hp, if_neg h0, lowLane_eq hl hb hlow]

theorem State.srdValue_none {s : State} {n : Nat} (hp : perLane n = true) (h : s.guard s.cur = 0) : s.srdValue n = some 0 := by
  rw [State.srdValue, if_pos hp, if_pos h]

/-- The registers that R39 leaves out are undefined in every form. -/
theorem special_undefined {s : State} {r : BitVec 5} {v : BitVec 6} {n : BitVec 10} (e : Bool) (ha : s.acts)
    (hn : specialNumbers.contains n.toNat = false) :
    exec (.srd e r n) s = .next s.undef ∧ exec (.vsrd e v n) s = .next s.undef ∧ exec (.swr e r n) s = .next s.undef := by
  have hs : ∀ l, s.special s.cur l n.toNat = none := fun l => by
    have h := s.special_isNone s.cur l n.toNat
    rwa [hn, Bool.not_false, Option.isNone_iff_eq_none] at h
  have hv : s.srdValue n.toNat = none := by
    have hp : perLane n.toNat = false := by
      simp only [specialNumbers, List.contains_eq_mem, List.mem_cons, decide_eq_false_iff_not, not_or] at hn
      simp [perLane, hn]
    rw [State.srdValue, hp]
    exact hs 0
  refine ⟨?_, ?_, ?_⟩
  · change execSrd e r n s = _
    rw [execSrd, issue_valid _ ha.1]
    simp only [hv]
  · change execVsrd e v n s = _
    rw [execVsrd, issue_valid _ ha.1, hs, Option.isNone_none, if_pos rfl]
  · change execSwr e r n s = _
    rw [execSwr, issue_valid _ ha.1, hs, Option.isNone_none, if_pos rfl]

theorem specialRegisterReads : Claims.SpecialRegisterReads := by
  intro s e r v n ha
  have hr : ∀ {m x}, s.srdValue m = some x → n.toNat = m → s.free { ds := [r.toNat], sq := laneGuard m s.me.gmode } →
    exec (.srd e r n) s = .next ((s.sset s.cur r.toNat x).advance e) := fun hx hn hf => execSrd_reads e ha hn hx hf
  have hv : ∀ {m : Nat} {f : Nat → Word32}, specialNumbers.contains m = true → (∀ l, lo32 ((s.special s.cur l m).getD 0) = f l) →
      n.toNat = m → s.free { dv := [v.toNat] } →
      exec (.vsrd e v n) s = .next ((s.vsets s.cur v.toNat (s.glanes s.cur) f).advance e) := by
    rintro m f hm hx rfl hf
    change execVsrd e v n s = _
    rw [execVsrd, issue_valid _ ha.1]
    simp only [State.special_isNone, hm, Bool.not_true, Bool.false_eq_true, if_false]
    rw [State.form_free e .conc _ ha hf]
    simp only [hx]
  refine ⟨hr rfl, hr rfl, hr rfl, hr rfl, hr rfl, hr rfl, hr rfl, hr rfl, hr rfl, hr rfl, hr rfl, hr rfl, fun w ws hm ht => ⟨hr ?_, hr ?_⟩,
    hr rfl, hr rfl, hr rfl, hr rfl, hr rfl, hr rfl, hr rfl, hr rfl, hr rfl, hr rfl, hr rfl, hr rfl, hr rfl,
    fun hg => ⟨hr (State.srdValue_none rfl hg), hr (State.srdValue_none rfl hg)⟩,
    fun l hl hb hlow => ⟨hr (State.srdValue_low rfl hl hb hlow), hr (State.srdValue_low rfl hl hb hlow)⟩,
    hv rfl fun l => ?_, hv rfl fun l => ?_, fun hn => special_undefined e ha ?_⟩
  · simp [State.srdValue, perLane, State.special, show (s.sp s.cur).mode = .trap from hm, show (s.sp s.cur).traps = w :: ws from ht]
  · simp [State.srdValue, perLane, State.special, show (s.sp s.cur).mode = .trap from hm, show (s.sp s.cur).traps = w :: ws from ht]
  · exact BitVec.setWidth_ofNat_of_le (by decide) l
  · change lo32 (BitVec.ofNat 64 (s.flag s.cg l).toNat) = _
    rw [BitVec.ofNat_toNat, lo32, BitVec.setWidth_setWidth_of_le _ (by decide)]
  · simp only [specialNumbers, List.contains_eq_mem, List.mem_cons, decide_eq_true_eq, decide_eq_false_iff_not, List.not_mem_nil, or_false] at hn ⊢
    omega

/-! ## Writes -/

/-- The new flags of the guard lanes: those of the lanes of a list, in one group. -/
theorem flag_foldFlags (v : BitVec 5) {ls : List Nat} (hls : ∀ l ∈ ls, l < 32) : ∀ s : State,
    ∃ m, ls.foldl (fun t l => { t with flags := mset 0 t.flags (t.cg * 32 + l) v }) s = { s with flags := m }
      ∧ ∀ g l, l < 32 → mget 0 m (g * 32 + l) = if g = s.cg ∧ l ∈ ls then v else s.flag g l := by
  induction ls with
  | nil => exact fun s => ⟨s.flags, rfl, fun g l _ => by simp [State.flag]⟩
  | cons a ls ih =>
    intro s
    obtain ⟨m, hm, hk⟩ := ih (fun l h => hls l (List.mem_cons_of_mem a h)) { s with flags := mset 0 s.flags (s.cg * 32 + a) v }
    refine ⟨m, by rw [List.foldl_cons, hm], fun g l hl => ?_⟩
    have ha := hls a List.mem_cons_self
    have hcg : ({ s with flags := mset 0 s.flags (s.cg * 32 + a) v } : State).cg = s.cg := rfl
    rw [hk g l hl, hcg]
    simp only [State.flag, mget_mset, List.mem_cons]
    by_cases h : g = s.cg ∧ l ∈ ls
    · rw [if_pos h, if_pos ⟨h.1, .inr h.2⟩]
    · rw [if_neg h]
      by_cases hk : g * 32 + l = s.cg * 32 + a
      · rw [if_pos hk, if_pos ⟨by omega, .inl (by omega)⟩]
      · rw [if_neg hk, if_neg]
        rintro ⟨rfl, rfl | hl'⟩
        · exact hk rfl
        · exact h ⟨rfl, hl'⟩

/-- A GMODE that SWR accepts: 12 bits, with a rounding mode up to 4. -/
theorem gmode_accepted_iff (x : Word64) :
    (x.toNat / 2 ^ 12 ≠ 0 ∨ 5 ≤ gRnd (x.setWidth 12)) ↔ ¬(x.toNat < 2 ^ 12 ∧ x.toNat / 4 % 8 ≤ 4) := by
  have hg : x.toNat < 2 ^ 12 → gRnd (x.setWidth 12) = x.toNat / 4 % 8 := fun h => by
    simp only [gRnd, BitVec.toNat_ushiftRight, BitVec.toNat_setWidth, Nat.shiftRight_eq_div_pow, Nat.mod_eq_of_lt h]
  by_cases h : x.toNat < 2 ^ 12
  · rw [hg h]
    omega
  · omega

theorem specialRegisterWrites : Claims.SpecialRegisterWrites := by
  intro s e r n ha
  have hdef : specialNumbers.contains n.toNat = true → ¬(s.special s.cur 0 n.toNat).isNone = true := fun hd => by
    rw [State.special_isNone, hd, Bool.not_true]
    exact Bool.false_ne_true
  refine ⟨fun hn hf => ?_, fun hn hf => ?_, fun hn hf => ?_, fun hn => ?_⟩
  · have hw : exec (.swr e r n) s = .next (if (s.sget s.cur r.toNat).toNat / 2 ^ 12 ≠ 0 ∨ 5 ≤ gRnd ((s.sget s.cur r.toNat).setWidth 12) then
        s.undef else (s.modSp s.cur fun p => { p with gmode := (s.sget s.cur r.toNat).setWidth 12 }).advance e) := by
      change execSwr e r n s = _
      rw [execSwr, issue_valid _ ha.1, if_neg (hdef (by rw [hn]; rfl)), if_pos hn, State.whenFree_free _ ha hf]
    rw [hw]
    refine ⟨fun hx => ?_, fun hx => ?_⟩
    · rw [if_neg fun h => (gmode_accepted_iff _).mp h hx, BitVec.ofNat_toNat]
    · rw [if_pos ((gmode_accepted_iff _).mpr hx)]
  · obtain ⟨m, hm, hk⟩ := flag_foldFlags ((s.sget s.cur r.toNat).setWidth 5) (fun l h => (mem_lanesOf.mp h).1) (ls := s.glanes s.cur) s
    refine ⟨{ s with flags := m }, ?_, rfl, fun g l hl => ?_⟩
    · change execSwr e r n s = _
      rw [execSwr, issue_valid _ ha.1, if_neg (hdef (by rw [hn]; rfl)), if_neg (by omega), if_pos hn, State.form_free e .conc _ ha (by rw [hn]; exact hf), hm]
    · rw [BitVec.ofNat_toNat]
      refine (hk g l hl).trans (if_congr (and_congr_right fun _ => ?_) rfl rfl)
      exact mem_lanesOf.trans (and_iff_right hl)
  · change execSwr e r n s = _
    rw [execSwr, issue_valid _ ha.1, if_neg (hdef (by rw [hn]; rfl)), if_neg (by omega), if_neg (by omega), if_pos hn, State.form_free e .conc _ ha hf, BitVec.ofNat_toNat]
  · have hd : specialNumbers.contains n.toNat = true ∧ n.toNat ≠ 0x010 ∧ n.toNat ≠ 0x018 ∧ n.toNat ≠ 0x019 := by
      simp only [specialNumbers, List.contains_eq_mem, List.mem_cons, decide_eq_true_eq, List.not_mem_nil, or_false] at hn ⊢
      omega
    obtain ⟨hd, h10, h18, h19⟩ := hd
    change execSwr e r n s = _
    rw [execSwr, issue_valid _ ha.1, if_neg (hdef hd), if_neg h10, if_neg h18, if_neg h19]

/-- Settles O12, by number. -/
theorem specialRegisters : Obligations.SpecialRegisters := ⟨specialRegisterReads, specialRegisterWrites⟩

end Sys2Proof.Machine
end

section
/-! PROOF of O58 and O59: what the register forms leave alone. A form outside a region stalls, or has its effect and moves on
(`State.form_acts`); an effect on the register files and the flags alone passes to the whole form (`State.form_frame`). -/
namespace Sys2Proof.Machine

set_option Elab.async false

/-! ## Forms -/

/-- The state s with other register files and flags. -/
def State.withFiles (s : State) (sr : Map Word64) (pr : Map (BitVec 32)) (vr : Map Word32) (fl : Map (BitVec 5)) : State :=
  { s with sreg := sr, preg := pr, vreg := vr, flags := fl }

/-- A form outside a region stalls, or has its effect and moves on. -/
theorem State.form_acts {s : State} (e : Bool) (u : Uses) (tag : TagRule) (eff : State → State) (ha : s.acts) :
    s.form e u tag eff = s.stall ∨ s.form e u tag eff = (eff s).advance e := by
  obtain ⟨-, h⟩ | ⟨-, hm, -⟩ | ⟨-, -, h⟩ := s.form_cases e u tag eff
  · exact .inl h
  · exact absurd hm ha.2
  · exact .inr h

/-- What a step comes to that changes at most the register files and the flags, to those given, and where the split stands. -/
structure RegFrame (s t : State) (sr : Map Word64) (pr : Map (BitVec 32)) (vr : Map Word32) (fl : Map (BitVec 5)) : Prop where
  only : OnlyRegisters s t
  splits : SameSplits s t
  files : (t.sreg = s.sreg ∧ t.preg = s.preg ∧ t.vreg = s.vreg ∧ t.flags = s.flags)
    ∨ (t.sreg = sr ∧ t.preg = pr ∧ t.vreg = vr ∧ t.flags = fl)

/-- A form whose effect is on the register files and the flags alone. -/
theorem State.form_frame {s t : State} {e : Bool} {u : Uses} {tag : TagRule} {eff : State → State} {sr pr vr fl} (ha : s.acts)
    (he : eff s = s.withFiles sr pr vr fl) (h : s.form e u tag eff = t) : RegFrame s t sr pr vr fl := by
  obtain hs | hs := s.form_acts e u tag eff ha
  · subst h
    rw [hs]
    exact ⟨rfl, sameSplits_stall s, .inl ⟨rfl, rfl, rfl, rfl⟩⟩
  · subst h
    rw [hs, he]
    exact ⟨rfl, sameSplits_advance s e, .inr ⟨rfl, rfl, rfl, rfl⟩⟩

/-- The same of the step of an encoded form. -/
theorem State.issue_form_frame {s t : State} {e : Bool} {u : State → Uses} {tag : State → TagRule} {eff : State → State → State} {sr pr vr fl}
    (ha : s.acts) (he : eff s s = s.withFiles sr pr vr fl) (h : issue s (fun s => s.form e (u s) (tag s) (eff s)) = .next t) :
    RegFrame s t sr pr vr fl := by
  rw [issue_valid _ ha.1] at h
  exact State.form_frame ha he (Host.Outcome.next.inj h)

/-! ## Scalar and predicate forms (O58) -/

/-- What a form that writes scalar d leaves alone. -/
def ScalarFrame (s t : State) (d : Nat) : Prop :=
  OnlyRegisters s t ∧ SameSplits s t ∧ SameScalarsBut s t (s.scalarKey s.cur d) ∧ (d = 0 → t.sreg = s.sreg)
    ∧ t.preg = s.preg ∧ t.vreg = s.vreg ∧ t.flags = s.flags

/-- What a form that writes predicate d leaves alone. -/
def PredFrame (s t : State) (d : Nat) : Prop :=
  OnlyRegisters s t ∧ SameSplits s t ∧ SamePredsBut s t (s.predKey s.cur d) ∧ (d = 0 → t.preg = s.preg)
    ∧ t.sreg = s.sreg ∧ t.vreg = s.vreg ∧ t.flags = s.flags

theorem scalarFrame_of_form {s t : State} {e : Bool} {u : Uses} {tag : TagRule} {d : Nat} {v : State → Word64} (ha : s.acts)
    (h : issue s (fun s => s.form e u tag fun s => s.sset s.cur d (v s)) = .next t) : ScalarFrame s t d := by
  obtain ⟨m, hm, hk⟩ := s.sset_eq s.cur d (v s)
  have hr : RegFrame s t m s.preg s.vreg s.flags := State.issue_form_frame ha hm h
  obtain ⟨ho, hs, ⟨h1, h2, h3, h4⟩ | ⟨h1, h2, h3, h4⟩⟩ := hr
  · exact ⟨ho, hs, fun j _ => by rw [h1], fun _ => h1, h2, h3, h4⟩
  · refine ⟨ho, hs, fun j hj => by rw [h1, hk j (.inr hj)], fun hd => ?_, h2, h3, h4⟩
    rw [h1]
    subst hd
    exact congrArg State.sreg hm.symm

theorem predFrame_of_form {s t : State} {e : Bool} {u : Uses} {tag : TagRule} {d : Nat} {v : State → BitVec 32} (ha : s.acts)
    (h : issue s (fun s => s.form e u tag fun s => s.pset s.cur d (v s)) = .next t) : PredFrame s t d := by
  obtain ⟨m, hm, hk⟩ := s.pset_eq s.cur d (v s)
  have hr : RegFrame s t s.sreg m s.vreg s.flags := State.issue_form_frame ha hm h
  obtain ⟨ho, hs, ⟨h1, h2, h3, h4⟩ | ⟨h1, h2, h3, h4⟩⟩ := hr
  · exact ⟨ho, hs, fun j _ => by rw [h2], fun _ => h2, h1, h3, h4⟩
  · refine ⟨ho, hs, fun j hj => by rw [h2, hk j (.inr hj)], fun hd => ?_, h1, h3, h4⟩
    rw [h2]
    subst hd
    exact congrArg State.preg hm.symm

/-- Settles O58: each of the forms is one write of its destination. -/
theorem scalarAndPredicateFrames : Obligations.ScalarAndPredicateFrames := by
  intro s t e d a b p q r i j ha h
  refine ⟨fun hj => ?_, fun hj => ?_⟩
  · have hf : ScalarFrame s t d.toNat := by
      simp only [List.mem_cons, List.not_mem_nil, or_false] at hj
      rcases hj with rfl | rfl | rfl | rfl | rfl | rfl | rfl | rfl | rfl | rfl | rfl | rfl | rfl | rfl | rfl | rfl | rfl | rfl | rfl | rfl |
        rfl | rfl | rfl | rfl | rfl | rfl | rfl | rfl | rfl | rfl | rfl | rfl | rfl
      all_goals exact scalarFrame_of_form ha h
    obtain ⟨h1, h2, h3, h4, h5⟩ := hf
    exact ⟨h1, h2, h3, fun hd => h4 (by rw [hd]; rfl), h5⟩
  · have hf : PredFrame s t p.toNat := by
      simp only [List.mem_cons, List.not_mem_nil, or_false] at hj
      rcases hj with rfl | rfl | rfl | rfl | rfl | rfl | rfl
      all_goals exact predFrame_of_form ha h
    obtain ⟨h1, h2, h3, h4, h5⟩ := hf
    exact ⟨h1, h2, h3, fun hd => h4 (by rw [hd]; rfl), h5⟩

/-! ## Types -/

theorem clsI_eq (t : Nat) : clsI t = typesI.contains t := rfl

theorem clsI64_eq (t : Nat) : clsI64 t = typesI64.contains t := by
  rw [Bool.eq_iff_iff]
  simp [clsI64, clsI_eq, typesI64, List.contains_eq_mem]

theorem clsF_eq (t : Nat) : clsF t = typesF.contains t := by
  rw [Bool.eq_iff_iff]
  simp [clsF, typesF, List.contains_eq_mem, or_assoc]

theorem clsBf_eq (t : Nat) : clsBf t = [0, 1, 2].contains t := by
  rw [Bool.eq_iff_iff]
  simp [clsBf, List.contains_eq_mem, or_assoc]

theorem clsCmp_eq (t : Nat) : clsCmp t = [0, 1, 2, 3, 15].contains t := by
  rw [Bool.eq_iff_iff]
  simp [clsCmp, List.contains_eq_mem, or_assoc]

theorem clsCmpv_of_mem {t : Nat} (h : (List.range' 4 11).contains t = true) : clsCmpv t = true := by
  simp only [List.contains_eq_mem, List.mem_range', decide_eq_true_eq] at h
  simp only [clsCmpv, decide_eq_true_eq]
  omega

/-! ## Writes of the vector forms (O59) -/

/-- What a vector form that writes registers `ds` leaves alone. -/
def VecFrame (s t : State) (ds : List Nat) : Prop :=
  OnlyRegisters s t ∧ SameSplits s t ∧ SameRowsBut s t ds ∧ t.sreg = s.sreg ∧ t.preg = s.preg ∧ t.flags = s.flags

/-- What a form that writes registers `ds` and flags leaves alone. -/
def FloatFrame (s t : State) (ds : List Nat) : Prop :=
  OnlyRegisters s t ∧ SameSplits s t ∧ SameRowsBut s t ds ∧ SameFlagsBut s t (s.glanes s.cur) ∧ t.sreg = s.sreg ∧ t.preg = s.preg

/-- What a form that writes predicate d and flags leaves alone. -/
def CompareFrame (s t : State) (d : Nat) : Prop :=
  OnlyRegisters s t ∧ SameSplits s t ∧ SamePredsBut s t (s.predKey s.cur d) ∧ SameFlagsBut s t (s.glanes s.cur)
    ∧ t.sreg = s.sreg ∧ t.vreg = s.vreg

/-- Words put into one lane of several registers. -/
theorem State.putWords_eq (l : Nat) (ps : List (Nat × Word32)) : ∀ s : State,
    ∃ m, ps.foldl (fun t p => t.vset t.cur p.1 l p.2) s = { s with vreg := m }
      ∧ ∀ j, (∀ p ∈ ps, j ≠ vKey s.cg (s.row s.cur p.1) l) → mget 0 m j = mget 0 s.vreg j := by
  induction ps with
  | nil => exact fun s => ⟨s.vreg, rfl, fun _ _ => rfl⟩
  | cons p ps ih =>
    intro s
    obtain ⟨m, hm, hk⟩ := ih (s.vset s.cur p.1 l p.2)
    refine ⟨m, by rw [List.foldl_cons, hm]; rfl, fun j hj => ?_⟩
    rw [hk j fun q hq => hj q (List.mem_cons_of_mem p hq)]
    exact mget_mset_other _ _ _ (hj p List.mem_cons_self)

/-- Words put into several lanes of the registers `ds`. -/
theorem State.putLaneWords_eq (ds : List Nat) (f : Nat → List Word32) (ls : List Nat) : ∀ s : State,
    ∃ m, ls.foldl (fun t l => (ds.zip (f l)).foldl (fun t p => t.vset t.cur p.1 l p.2) t) s = { s with vreg := m }
      ∧ ∀ j, (∀ l ∈ ls, ∀ n ∈ ds, j ≠ vKey s.cg (s.row s.cur n) l) → mget 0 m j = mget 0 s.vreg j := by
  induction ls with
  | nil => exact fun s => ⟨s.vreg, rfl, fun _ _ => rfl⟩
  | cons l ls ih =>
    intro s
    obtain ⟨m, hm, hk⟩ := State.putWords_eq l (ds.zip (f l)) s
    obtain ⟨m', hm', hk'⟩ := ih { s with vreg := m }
    refine ⟨m', by rw [List.foldl_cons, hm, hm'], fun j hj => ?_⟩
    rw [hk' j fun l' hl' => hj l' (List.mem_cons_of_mem l hl')]
    exact hk j fun p hp => hj l List.mem_cons_self p.1 (List.of_mem_zip hp).1

/-- Flags ORed into several lanes. -/
theorem State.orLanes_eq (f : Nat → Flags) (ls : List Nat) : ∀ s : State,
    ∃ m, s.orLanes ls f = { s with flags := m } ∧ ∀ j, (∀ l ∈ ls, j ≠ s.cg * 32 + l) → mget 0 m j = mget 0 s.flags j := by
  induction ls with
  | nil => exact fun s => ⟨s.flags, rfl, fun _ _ => rfl⟩
  | cons l ls ih =>
    intro s
    obtain ⟨m, hm, hk⟩ := ih (s.orFlag s.cg l (f l))
    refine ⟨m, hm, fun j hj => ?_⟩
    rw [hk j fun l' hl' => hj l' (List.mem_cons_of_mem l hl')]
    exact mget_mset_other _ _ _ (hj l List.mem_cons_self)

/-- A vector form of an accepted type and even pairs is a register form. -/
theorem State.vec_eq_form {s : State} {e ok : Bool} {d : Nat} {srcs : List Nat} {tag : TagRule} {f : State → Nat → Word64}
    (ho : ok = true) (hw : s.wide = true → ∀ n ∈ d :: srcs, n % 2 = 0) :
    s.vec e ok d srcs tag f =
      s.form e { sv := srcs.flatMap (regs s.wide), dv := regs s.wide d } tag fun t => t.putLanes d s.wide (f t) := by
  have hodd : (s.wide && (d :: srcs).any fun n => n % 2 == 1) = false := by
    cases h : s.wide
    · rfl
    · simp only [Bool.true_and, List.any_eq_false]
      intro n hn
      simp [hw h n hn]
  simp only [State.vec, ho, hodd, Bool.not_true, Bool.or_false, Bool.false_eq_true, if_false]

theorem vecFrame_of_vec {s t : State} {e : Bool} {ok : State → Bool} {d : Nat} {srcs ns : List Nat} {tag : State → TagRule}
    {f : State → State → Nat → Word64} (ha : s.acts) (ho : ok s = true) (hw : s.wide = true → ∀ n ∈ ns, n % 2 = 0)
    (hs : d :: srcs ⊆ ns) (h : issue s (fun s => s.vec e (ok s) d srcs (tag s) (f s)) = .next t) : VecFrame s t (regs s.wide d) := by
  obtain ⟨m, hm, hk⟩ := s.putLanes_eq d s.wide (f s s)
  have hr : RegFrame s t s.sreg s.preg m s.flags := by
    rw [issue_valid _ ha.1] at h
    refine State.form_frame (e := e) (tag := tag s) ha hm ((State.vec_eq_form ho fun hwide n hn => hw hwide n (hs hn)).symm.trans
      (Host.Outcome.next.inj h))
  obtain ⟨ho, hs, ⟨h1, h2, h3, h4⟩ | ⟨h1, h2, h3, h4⟩⟩ := hr
  · exact ⟨ho, hs, fun j _ => by rw [h3], h1, h2, h4⟩
  · exact ⟨ho, hs, fun j hj => by rw [h3, hk j hj], h1, h2, h4⟩

theorem undef_of_vec {s : State} {e : Bool} {ok : State → Bool} {d : Nat} {srcs : List Nat} {tag : State → TagRule}
    {f : State → State → Nat → Word64} (ha : s.acts) (ho : ok s = false) :
    issue s (fun s => s.vec e (ok s) d srcs (tag s) (f s)) = .next s.undef := by
  rw [issue_valid _ ha.1, State.vec_undef e (ok s) d srcs (tag s) (f s) (.inl ho)]

theorem floatFrame_of_vecFl {s t : State} {e : Bool} {ok : State → Bool} {srcs ds : List Nat} {f : State → State → Nat → List Word32 × Flags}
    (ha : s.acts) (ho : ok s = true) (h : issue s (fun s => s.vecFl e (ok s) srcs ds (f s)) = .next t) : FloatFrame s t ds := by
  obtain ⟨m, hm, hk⟩ := State.putLaneWords_eq ds (fun l => (f s s l).1) (s.glanes s.cur) s
  obtain ⟨m', hm', hk'⟩ := State.orLanes_eq (fun l => (f s s l).2) (s.glanes s.cur) { s with vreg := m }
  have hr : RegFrame s t s.sreg s.preg m m' := by
    rw [issue_valid _ ha.1, State.vecFl, ho] at h
    refine State.form_frame ha ?_ (Host.Outcome.next.inj h)
    dsimp only
    rw [hm, hm']
    rfl
  obtain ⟨ho, hs, ⟨h1, h2, h3, h4⟩ | ⟨h1, h2, h3, h4⟩⟩ := hr
  · exact ⟨ho, hs, fun j _ => by rw [h3], fun j _ => by rw [h4], h1, h2⟩
  · refine ⟨ho, hs, fun j hj => ?_, fun j hj => by rw [h4, hk' j hj], h1, h2⟩
    rw [h3, hk j fun l hl n hn he => hj (List.mem_flatMap.2 ⟨l, hl, List.mem_map.2 ⟨n, hn, he.symm⟩⟩)]

theorem undef_of_vecFl {s : State} {e : Bool} {ok : State → Bool} {srcs ds : List Nat} {f : State → State → Nat → List Word32 × Flags}
    (ha : s.acts) (ho : ok s = false) : issue s (fun s => s.vecFl e (ok s) srcs ds (f s)) = .next s.undef := by
  rw [issue_valid _ ha.1, State.vecFl, ho]
  rfl

/-- A compare into a predicate. -/
theorem compareFrame_of_vcmp {s t : State} {e : Bool} {rel : Nat} {d : BitVec 3} {a b : BitVec 6} (ha : s.acts)
    (ho : clsCmp s.ty = true) (hw : s.wide = true → a.toNat % 2 = 0 ∧ b.toNat % 2 = 0)
    (h : issue s (fun s => s.vcmp e rel d a b) = .next t) : CompareFrame s t d.toNat := by
  let r (l : Nat) := relEl s.ty s.ftz rel (s.opnd a.toNat l).toNat (s.opnd b.toNat l).toNat
  let new := (s.pget s.cur d.toNat &&& ~~~ (s.guard s.cur)) ||| maskOf ((s.glanes s.cur).filter fun l => (r l).1)
  obtain ⟨m, hm, hk⟩ := s.pset_eq s.cur d.toNat new
  obtain ⟨m', hm', hk'⟩ := State.orLanes_eq (fun l => (r l).2) (s.glanes s.cur) { s with preg := m }
  have hr : RegFrame s t s.sreg m s.vreg m' := by
    have hodd : (s.wide && (a.toNat % 2 == 1 || b.toNat % 2 == 1)) = false := by
      cases hwide : s.wide
      · rfl
      · simp [hw hwide]
    rw [issue_valid _ ha.1, State.vcmp] at h
    simp only [ho, hodd, Bool.not_true, Bool.or_false, Bool.false_eq_true, if_false] at h
    refine State.form_frame ha ?_ (Host.Outcome.next.inj h)
    rw [hm, hm']
    rfl
  obtain ⟨ho, hs, ⟨h1, h2, h3, h4⟩ | ⟨h1, h2, h3, h4⟩⟩ := hr
  · exact ⟨ho, hs, fun j _ => by rw [h2], fun j _ => by rw [h4], h1, h3⟩
  · exact ⟨ho, hs, fun j hj => by rw [h2, hk j (.inr hj)], fun j hj => by rw [h4, hk' j hj], h1, h3⟩

/-! ## The forms by class (O59) -/

section Forms
variable {s t : State} {e : Bool} {d a b : BitVec 6} {j : Instr} {ns : List Nat}

theorem vecFrame_forms64 {i : BitVec 13} (ha : s.acts) (hacc : s.accepts typesI64 [d.toNat, a.toNat, b.toNat])
    (hj : j ∈ [Instr.vadd e d a b, .vsub e d a b, .vshl e d a b, .vshr e d a b, .vsra e d a b, .vaddi e d a i])
    (h : exec j s = .next t) : VecFrame s t (regs s.wide d.toNat) := by
  have ho : clsI64 s.ty = true := by rw [clsI64_eq]; exact hacc.1
  simp only [List.mem_cons, List.not_mem_nil, or_false] at hj
  rcases hj with rfl | rfl | rfl | rfl | rfl | rfl
  all_goals
    unfold exec at h
    exact vecFrame_of_vec ha ho hacc.2 (by simp) h

theorem vecFrame_formsI (ha : s.acts) (hacc : s.accepts typesI [d.toNat, a.toNat, b.toNat])
    (hj : j ∈ [Instr.vmul e d a b, .vmulh e d a b, .vmad e d a b, .vmin e d a b, .vmax e d a b, .vabs e d a, .vneg e d a,
      .vpopc e d a, .vclz e d a, .vavg e d a b, .vdiv e d a b, .vrem e d a b])
    (h : exec j s = .next t) : VecFrame s t (regs s.wide d.toNat) := by
  have ho : clsI s.ty = true := hacc.1
  simp only [List.mem_cons, List.not_mem_nil, or_false] at hj
  rcases hj with rfl | rfl | rfl | rfl | rfl | rfl | rfl | rfl | rfl | rfl | rfl | rfl
  all_goals
    unfold exec at h
    exact vecFrame_of_vec ha ho hacc.2 (by simp) h

theorem vecFrame_formsA {i : BitVec 13} (ha : s.acts) (hacc : s.accepts typesA [d.toNat, a.toNat, b.toNat])
    (hj : j ∈ [Instr.vand e d a b, .vor e d a b, .vxor e d a b, .vnot e d a, .vmov e d a, .vbsel e d a b, .vli e d i])
    (h : exec j s = .next t) : VecFrame s t (regs s.wide d.toNat) := by
  simp only [List.mem_cons, List.not_mem_nil, or_false] at hj
  rcases hj with rfl | rfl | rfl | rfl | rfl | rfl | rfl
  all_goals
    unfold exec at h
    exact vecFrame_of_vec (ok := fun _ => true) ha rfl hacc.2 (by simp) h

theorem vecFrame_bitFields (ha : s.acts) (hacc : s.accepts [0, 1, 2] [d.toNat, a.toNat, b.toNat])
    (hj : j ∈ [Instr.vbfe e d a b, .vbfi e d a b]) (h : exec j s = .next t) : VecFrame s t (regs s.wide d.toNat) := by
  have ho : clsBf s.ty = true := by rw [clsBf_eq]; exact hacc.1
  simp only [List.mem_cons, List.not_mem_nil, or_false] at hj
  rcases hj with rfl | rfl
  all_goals
    unfold exec at h
    exact vecFrame_of_vec ha ho hacc.2 (by simp) h

theorem vecFrame_vprmt (ha : s.acts) (hacc : s.accepts (List.range 15) [d.toNat, a.toNat, b.toNat])
    (hj : j ∈ [Instr.vprmt e d a b]) (h : exec j s = .next t) : VecFrame s t (regs s.wide d.toNat) := by
  have ho : (s.ty != 15) = true := by
    have hlt : s.ty < 15 := by simpa [List.contains_eq_mem] using hacc.1
    simp only [bne_iff_ne]
    omega
  obtain rfl := List.mem_singleton.mp hj
  unfold exec at h
  exact vecFrame_of_vec ha ho hacc.2 (by simp) h

theorem vecFrame_scans {o : BitVec 3} (ha : s.acts) (hacc : s.accepts typesI [d.toNat, a.toNat, b.toNat])
    (hj : j ∈ [Instr.vscan e d a o, .vreduce e d a o]) (h : exec j s = .next t) : VecFrame s t (regs s.wide d.toNat) := by
  have ho : clsI s.ty = true := hacc.1
  simp only [List.mem_cons, List.not_mem_nil, or_false] at hj
  rcases hj with rfl | rfl
  all_goals
    unfold exec at h
    exact vecFrame_of_vec ha ho hacc.2 (by simp) h

theorem floatFrame_formsF (ha : s.acts) (hty : typesF.contains s.ty = true)
    (hj : j ∈ [Instr.fadd e d a b, .fsub e d a b, .fmul e d a b, .fdiv e d a b, .fmin e d a b, .fmax e d a b, .fscale e d a b,
      .fabs e d a, .fneg e d a, .frcp e d a, .frsq e d a, .fsqrt e d a, .fexp2 e d a, .flog2 e d a, .fsinp e d a, .fcosp e d a,
      .fma e d a b, .fms e d a b, .fnma e d a b])
    (h : exec j s = .next t) : FloatFrame s t [d.toNat] := by
  have ho : clsF s.ty = true := by rw [clsF_eq]; exact hty
  simp only [List.mem_cons, List.not_mem_nil, or_false] at hj
  rcases hj with rfl | rfl | rfl | rfl | rfl | rfl | rfl | rfl | rfl | rfl | rfl | rfl | rfl | rfl | rfl | rfl | rfl | rfl | rfl
  all_goals
    unfold exec at h
    exact floatFrame_of_vecFl ha ho h

theorem exec_vcmpvOf {rel : Nat} (hrel : rel < 7) : exec (vcmpvOf rel e d a b) s = issue s fun s => s.vcmpv e rel d a b := by
  interval_cases rel <;> rfl

theorem exec_vcmpOf {p : BitVec 3} {rel : Nat} (hrel : rel < 7) : exec (vcmpOf rel e p a b) s = issue s fun s => s.vcmp e rel p a b := by
  interval_cases rel <;> rfl

theorem undef_forms64 {i : BitVec 13} (ha : s.acts) (hty : typesI64.contains s.ty = false)
    (hj : j ∈ [Instr.vadd e d a b, .vsub e d a b, .vshl e d a b, .vshr e d a b, .vsra e d a b, .vaddi e d a i]) :
    exec j s = .next s.undef := by
  have ho : clsI64 s.ty = false := by rw [clsI64_eq]; exact hty
  simp only [List.mem_cons, List.not_mem_nil, or_false] at hj
  rcases hj with rfl | rfl | rfl | rfl | rfl | rfl
  all_goals
    unfold exec
    exact undef_of_vec ha ho

theorem undef_formsI (ha : s.acts) (hty : typesI.contains s.ty = false)
    (hj : j ∈ [Instr.vmul e d a b, .vmulh e d a b, .vmad e d a b, .vmin e d a b, .vmax e d a b, .vabs e d a, .vneg e d a,
      .vpopc e d a, .vclz e d a, .vavg e d a b, .vdiv e d a b, .vrem e d a b]) : exec j s = .next s.undef := by
  have ho : clsI s.ty = false := hty
  simp only [List.mem_cons, List.not_mem_nil, or_false] at hj
  rcases hj with rfl | rfl | rfl | rfl | rfl | rfl | rfl | rfl | rfl | rfl | rfl | rfl
  all_goals
    unfold exec
    exact undef_of_vec ha ho

theorem undef_formsF (ha : s.acts) (hty : typesF.contains s.ty = false)
    (hj : j ∈ [Instr.fadd e d a b, .fsub e d a b, .fmul e d a b, .fdiv e d a b, .fmin e d a b, .fmax e d a b, .fscale e d a b,
      .fabs e d a, .fneg e d a, .frcp e d a, .frsq e d a, .fsqrt e d a, .fexp2 e d a, .flog2 e d a, .fsinp e d a, .fcosp e d a,
      .fma e d a b, .fms e d a b, .fnma e d a b]) : exec j s = .next s.undef := by
  have ho : clsF s.ty = false := by rw [clsF_eq]; exact hty
  simp only [List.mem_cons, List.not_mem_nil, or_false] at hj
  rcases hj with rfl | rfl | rfl | rfl | rfl | rfl | rfl | rfl | rfl | rfl | rfl | rfl | rfl | rfl | rfl | rfl | rfl | rfl | rfl
  all_goals
    unfold exec
    exact undef_of_vecFl ha ho

end Forms

/-- Settles O59, class by class. -/
theorem vectorFrames : Obligations.VectorFrames := by
  intro s t e d a b p i o rel j ha
  refine ⟨?_, ?_, ?_, fun hty hj => undef_forms64 ha hty hj, fun hty hj => undef_formsI ha hty hj, fun hty hj => undef_formsF ha hty hj⟩
  · rintro (⟨hacc, hj, h⟩ | ⟨hacc, hj, h⟩ | ⟨hacc, hj, h⟩ | ⟨hacc, hj, h⟩ | ⟨hacc, hj, h⟩ | ⟨-, hacc, hj, h⟩)
    · exact vecFrame_forms64 ha hacc hj h
    · exact vecFrame_formsI ha hacc hj h
    · exact vecFrame_formsA ha hacc hj h
    · exact vecFrame_bitFields ha hacc hj h
    · exact vecFrame_vprmt ha hacc hj h
    · exact vecFrame_scans ha hacc hj h
  · rintro (⟨⟨hty, -⟩, hj, h⟩ | ⟨⟨hty, -⟩, hj, h⟩ | ⟨⟨hty, -⟩, hj, h⟩ | ⟨hrel, ⟨hty, -⟩, hj, h⟩)
    · exact floatFrame_formsF ha hty hj h
    · obtain rfl := List.mem_singleton.mp hj
      unfold exec at h
      exact floatFrame_of_vecFl (ok := fun s => [4, 5, 8, 9, 12, 13].contains s.ty) ha hty h
    · obtain rfl := List.mem_singleton.mp hj
      unfold exec at h
      exact floatFrame_of_vecFl (ok := fun s => [6, 7, 10, 11, 14].contains s.ty) ha hty h
    · obtain rfl := List.mem_singleton.mp hj
      exact floatFrame_of_vecFl ha (clsCmpv_of_mem hty) ((exec_vcmpvOf hrel).symm.trans h)
  · rintro hrel ⟨⟨hty, hw⟩, hj, h⟩
    obtain rfl := List.mem_singleton.mp hj
    exact compareFrame_of_vcmp ha ((clsCmp_eq _).trans hty)
      (fun hwide => ⟨hw hwide _ (by simp), hw hwide _ (by simp)⟩) ((exec_vcmpOf hrel).symm.trans h)

end Sys2Proof.Machine
end

section
/-! PROOF of O60: what accesses leave alone. The checks of lanes are built of reads of tables and TLBs; each of them relates its state
to the one before by `CheckKeeps`, which is reflexive and transitive (`checkKeeps_checkLanes`). A write is followed byte by byte. -/
namespace Sys2Proof.Machine

set_option Elab.async false

/-! ## What the checks of lanes change -/

/-- The state s with what the checks of lanes may change taken from t. -/
def State.takeChecks (s t : State) : State :=
  { s with
    l0 := t.l0, tlb := t.tlb, walks := t.walks, ats := t.ats, funcs := t.funcs, freeCtr := t.freeCtr, llcWays := t.llcWays,
    views := t.views, mem := t.mem, homes := t.homes, l2 := t.l2, dir := t.dir, dies := t.dies, badSecs := t.badSecs }

/-- The state s with what the checks of lanes change where no format region is enabled and no sector is bad taken from t. -/
def State.takeTables (s t : State) : State :=
  { s with
    l0 := t.l0, tlb := t.tlb, walks := t.walks, ats := t.ats, funcs := t.funcs, freeCtr := t.freeCtr, llcWays := t.llcWays }

/-- No format region is enabled and no sector is bad. -/
def State.bare (s : State) : Prop := (∀ d, s.fmtOn d = []) ∧ s.badSecs = []

/-- What the checks of lanes leave alone between two states. -/
structure CheckKeeps (s t : State) : Prop where
  all : t = s.takeChecks t
  bare : s.bare → t = s.takeTables t

theorem CheckKeeps.refl (s : State) : CheckKeeps s s := ⟨rfl, fun _ => rfl⟩

/-- A change of the TLBs, the walk caches, the ATS state, the lines of the LLC and the counter of free values. -/
theorem CheckKeeps.of_tables {s t : State} (h : t = s.takeTables t) : CheckKeeps s t := by
  refine ⟨?_, fun _ => h⟩
  rw [h]
  rfl

/-- A change of more, where a format region is enabled or a sector is bad. -/
theorem CheckKeeps.of_not_bare {s t : State} (h : t = s.takeChecks t) (hb : ¬ s.bare) : CheckKeeps s t := ⟨h, fun hs => absurd hs hb⟩

theorem takeChecks_trans {s t u : State} (h : t = s.takeChecks t) (h' : u = t.takeChecks u) : u = s.takeChecks u :=
  h'.trans (congrArg (fun x => x.takeChecks u) h)

theorem State.bare_takeTables {s t : State} (hs : s.bare) (h : t = s.takeTables t) : t.bare := by
  rw [h]
  exact hs

theorem CheckKeeps.trans {s t u : State} (h : CheckKeeps s t) (h' : CheckKeeps t u) : CheckKeeps s u := by
  refine ⟨takeChecks_trans h.all h'.all, fun hs => ?_⟩
  have ht := h.bare hs
  exact (h'.bare (State.bare_takeTables hs ht)).trans (congrArg (fun x => x.takeTables u) ht)

theorem State.bare_fmtOn {s : State} (hs : s.bare) (d : Nat) : s.fmtOn d = [] := hs.1 d

/-- A fold of steps that each change no more than the checks may changes no more either. -/
theorem takeChecks_foldl {α : Type} (f : State → α → State) (hf : ∀ s x, f s x = s.takeChecks (f s x)) (l : List α) (s : State) :
    l.foldl f s = s.takeChecks (l.foldl f s) :=
  foldl_keeps (fun t => t = s.takeChecks t) f (fun t x ht => takeChecks_trans ht (hf t x)) l s rfl

/-! ## Views, lost sectors and the LLC -/

theorem State.setL2_takeChecks (s : State) (d sec : Nat) (v : L2Sector) : s.setL2 d sec v = s.takeChecks (s.setL2 d sec v) := rfl

theorem State.countReq_takeChecks (s : State) (q : Req) : s.countReq q = s.takeChecks (s.countReq q) := by
  unfold State.countReq
  split <;> rfl

theorem State.reencode_takeChecks (s : State) (home sec : Nat) (r : Region341) :
    s.reencode home sec r = s.takeChecks (s.reencode home sec r) := by
  unfold State.reencode
  extract_lets s1 x s2
  have h1 : s1 = s.takeChecks s1 := by
    refine takeChecks_foldl _ (fun t d => ?_) _ s
    extract_lets e v w u
    have hu : u = t.takeChecks u := by
      clear_value v
      simp only [u]
      split
      · exact takeChecks_trans (t := w) (t.countReq_takeChecks _) rfl
      · rfl
    exact takeChecks_trans hu (u.setL2_takeChecks _ _ _)
  have h3 : s2 = s.takeChecks s2 := by
    refine takeChecks_trans h1 ?_
    simp only [s2]
    split <;> rfl
  split
  · exact h3
  · exact takeChecks_trans h3 rfl

theorem State.checkKeeps_forceViews (s : State) (home lo hi : Nat) : CheckKeeps s (s.forceViews home lo hi) := by
  by_cases hs : s.bare
  · rw [State.forceViews_plain (hs.1 home)]
    exact .refl s
  · refine .of_not_bare (takeChecks_foldl _ (fun t r => takeChecks_foldl _ (fun t sec => ?_) _ t) _ s) hs
    dsimp only
    split
    · exact t.reencode_takeChecks _ _ _
    · rfl

theorem State.checkKeeps_llcEvict (s : State) (home line : Nat) : CheckKeeps s (s.llcEvict home line) := by
  by_cases hs : s.bare
  · rw [State.llcEvict_plain (hs.1 home)]
    exact .refl s
  · refine .of_not_bare (takeChecks_foldl _ (fun t i => ?_) _ s) hs
    dsimp only
    split
    · exact t.reencode_takeChecks _ _ _
    · rfl

theorem State.checkKeeps_llcUse (s : State) (home sec : Nat) : CheckKeeps s (s.llcUse home sec) := by
  unfold State.llcUse
  dsimp only
  split
  · exact .refl s
  · split
    · exact .of_tables rfl
    · exact CheckKeeps.trans (.of_tables rfl) (State.checkKeeps_llcEvict _ _ _)

theorem State.checkKeeps_homeRead (s : State) (home sec : Nat) : CheckKeeps s (s.homeRead home sec).1 := by
  unfold State.homeRead
  dsimp only
  split
  · exact s.checkKeeps_llcUse home sec
  · exact (s.checkKeeps_llcUse home sec).trans (State.checkKeeps_forceViews _ _ _ _)

theorem State.checkKeeps_walkWord (s : State) (a : Nat) : CheckKeeps s (s.walkWord a).1 := s.checkKeeps_homeRead _ _

theorem State.startTest_takeChecks (s : State) (die kind number : Nat) :
    s.startTest die kind number = s.takeChecks (s.startTest die kind number) := by
  unfold State.startTest
  split <;> rfl

/-- Only a bad sector is met. -/
theorem State.checkKeeps_meetPlace (s : State) (core : Nat) (p : Place) : CheckKeeps s (s.meetPlace core p) := by
  cases p with
  | mem pa cls home =>
    unfold State.meetPlace
    dsimp only
    split
    case isTrue hb =>
      have hs : ¬ s.bare := fun hs => by simp [State.placeBad, hs.2] at hb
      refine .of_not_bare ?_ hs
      unfold State.meetBad
      split
      · exact takeChecks_trans (t := s.loseSector (pa / 64)) rfl (State.startTest_takeChecks _ _ _ _)
      · split
        · exact takeChecks_trans (t := s.loseSector (pa / 64)) rfl (State.startTest_takeChecks _ _ _ _)
        · rfl
    case isFalse => exact .refl s
  | host | abuf | wbuf => exact .refl s

theorem State.checkKeeps_meetPieces (s : State) (core : Nat) (ps : List Piece) : CheckKeeps s (s.meetPieces core ps) :=
  foldl_keeps (CheckKeeps s) _ (fun t p ht => ht.trans (t.checkKeeps_meetPlace core p.1)) ps s (.refl s)

/-! ## Walks, translations and lanes -/

theorem State.checkKeeps_walkRead (s : State) (level table va : Nat) : CheckKeeps s (s.walkRead level table va).1 := by
  unfold State.walkRead
  dsimp only
  split
  · exact s.checkKeeps_walkWord _
  · exact .refl s

theorem State.checkKeeps_walkFrom (die ctx va : Nat) (level : Nat) :
    ∀ (s : State) (table : Nat), CheckKeeps s (s.walkFrom die ctx level table va).1 := by
  induction level with
  | zero => exact fun s _ => .refl s
  | succ level ih =>
    intro s table
    rw [State.walkFrom]
    split
    · exact ih _ _
    · have hr := s.checkKeeps_walkRead level table va
      split
      next u h => rw [h] at hr; exact hr
      next u e h =>
        rw [h] at hr
        dsimp only at hr
        split
        · exact hr
        · split
          · exact hr
          · split
            · exact hr
            · exact (hr.trans (.of_tables rfl)).trans (ih _ _)

theorem State.checkKeeps_lookup (s : State) (core ctx va : Nat) : CheckKeeps s (s.lookup core ctx va).1 := by
  unfold State.lookup
  split
  · exact .of_tables rfl
  · split
    · exact .of_tables rfl
    · have hw := State.checkKeeps_walkFrom (dieOf core) ctx va 4 s (s.cx ctx).root.toNat
      split
      next u e level h => rw [h] at hw; exact hw.trans (.of_tables rfl)
      next u w _ h => rw [h] at hw; exact hw

theorem State.checkKeeps_hostPlace (s : State) (die ctx : Nat) (need : Need) (addr : Nat) :
    CheckKeeps s (s.hostPlace die ctx need addr).1 := by
  unfold State.hostPlace
  dsimp only
  split
  · split
    · exact .refl s
    · exact .of_tables rfl
  · split
    · exact .refl s
    · split <;> exact .refl s

theorem State.checkKeeps_translate (s : State) (core ctx va : Nat) (need : Need) : CheckKeeps s (s.translate core ctx va need).1 := by
  have hl := s.checkKeeps_lookup core ctx va
  unfold State.translate
  split
  next u w h =>
    rw [h] at hl
    dsimp only at hl ⊢
    cases w with
    | absent | malformed | contained => exact hl
    | leaf e level =>
      dsimp only
      split
      · exact hl
      · split
        · exact hl.trans (u.checkKeeps_hostPlace _ _ _ _)
        · split <;> exact hl

theorem State.checkKeeps_resolve (s : State) (k lane va size : Nat) (need : Need) : CheckKeeps s (s.resolve k lane va size need).1 := by
  unfold State.resolve
  dsimp only
  split
  · exact s.checkKeeps_translate _ _ _ _
  · split
    · split
      · exact .refl s
      · split <;> exact .refl s
    · split
      · split <;> exact .refl s
      · split
        · split
          · exact .refl s
          · exact s.checkKeeps_translate _ _ _ _
        · exact .refl s

theorem State.checkKeeps_stackWords (k lane va : Nat) (need : Need) (n : Nat) :
    ∀ (s : State) (off : Nat), CheckKeeps s (s.stackWords k lane va need off n).1 := by
  induction n with
  | zero => exact fun s _ => .refl s
  | succ n ih =>
    intro s off
    have hr := s.checkKeeps_resolve k lane (va + off) 4 need
    rw [State.stackWords]
    split
    next u p _ h =>
      rw [h] at hr
      have hw := hr.trans (ih u (off + 4))
      split
      next v ps h' => rw [h'] at hw; exact hw
      next v x _ h' => rw [h'] at hw; exact hw
    next u x _ h => rw [h] at hr; exact hr

theorem State.checkKeeps_piecesOf (s : State) (k lane va size : Nat) (need : Need) : CheckKeeps s (s.piecesOf k lane va size need).1 := by
  have hr := s.checkKeeps_resolve k lane va size need
  unfold State.piecesOf
  split
  · exact .refl s
  · split
    next u p h =>
      rw [h] at hr
      split
      · exact hr
      · have hw := hr.trans (State.checkKeeps_stackWords k lane va need (size / 4 - 1) u 4)
        split
        next v ps h' => rw [h'] at hw; exact hw
        next v x _ h' => rw [h'] at hw; exact hw
    next u p h => rw [h] at hr; exact hr
    next u x _ _ h => rw [h] at hr; exact hr

theorem State.checkKeeps_checkLane (s : State) (k size : Nat) (need : Need) (rmw host : Bool) (c : Checked) (l va : Nat) :
    CheckKeeps s (s.checkLane k size need rmw host c l va).1 := by
  have hp := s.checkKeeps_piecesOf k l va size need
  unfold State.checkLane
  dsimp only
  split
  next u ps h =>
    rw [h] at hp
    split
    · exact hp
    · split
      · exact hp.trans (u.checkKeeps_meetPieces _ _)
      · exact hp
  all_goals next u _ h => rw [h] at hp; exact hp

theorem State.checkKeeps_checkLanes (s : State) (k size : Nat) (need : Need) (rmw host : Bool) (ls : List (Nat × Nat)) :
    CheckKeeps s (s.checkLanes k size need rmw host ls).1 :=
  foldl_keeps (fun acc : State × Checked => CheckKeeps s acc.1) _
    (fun acc p hacc => hacc.trans (acc.1.checkKeeps_checkLane k size need rmw host acc.2 p.1 p.2)) ls (s, {}) (.refl s)

/-! ## Numbers by their bytes -/

/-- The number of n bytes, byte i being the low byte of `f i`. -/
def byteSum (n : Nat) (f : Nat → Nat) : Nat := (List.range n).foldl (fun acc i => acc + f i % 256 * 256 ^ i) 0

theorem byteSum_eq_packSum (n : Nat) (f : Nat → Nat) : byteSum n f = packSum 8 n f := by
  simp only [byteSum, packSum, show (256 : Nat) = 2 ^ 8 from rfl, Nat.pow_mul]

theorem byteSum_succ (n : Nat) (f : Nat → Nat) : byteSum (n + 1) f = byteSum n f + f n % 256 * 256 ^ n := by
  simp [byteSum, List.range_succ]

theorem byteSum_lt (n : Nat) (f : Nat → Nat) : byteSum n f < 256 ^ n := by
  rw [byteSum_eq_packSum, show (256 : Nat) = 2 ^ 8 from rfl, ← Nat.pow_mul]
  exact packSum_lt 8 n f

theorem byteSum_digit {n j : Nat} (f : Nat → Nat) (hj : j < n) : byteSum n f / 256 ^ j % 256 = f j % 256 := by
  rw [byteSum_eq_packSum, show (256 : Nat) = 2 ^ 8 from rfl, ← Nat.pow_mul]
  exact packSum_digit 8 f hj

theorem toNat_ofNat_byteSum (n : Nat) (f : Nat → Nat) : (BitVec.ofNat (8 * n) (byteSum n f)).toNat = byteSum n f := by
  rw [BitVec.toNat_ofNat]
  exact Nat.mod_eq_of_lt ((byteSum_lt n f).trans_eq (Nat.pow_mul 2 8 n).symm)

theorem toNat_ofNat_byteSum_64 (f : Nat → Nat) : (BitVec.ofNat 512 (byteSum 64 f)).toNat = byteSum 64 f := toNat_ofNat_byteSum 64 f

theorem sectorImage_eq (sec a n v : Nat) :
    sectorImage sec a n v =
      BitVec.ofNat 512 (byteSum 64 fun i => if a ≤ 64 * sec + i ∧ 64 * sec + i < a + n then v / 256 ^ (64 * sec + i - a) else 0) := by
  unfold sectorImage byteSum
  congr 2
  funext acc i
  dsimp only
  split <;> simp

/-- The bytes of the image of a write. -/
theorem sectorImage_byte {sec a n v i : Nat} (hi : i < 64) (h : a ≤ 64 * sec + i ∧ 64 * sec + i < a + n) :
    (sectorImage sec a n v).toNat / 256 ^ i % 256 = v / 256 ^ (64 * sec + i - a) % 256 := by
  rw [sectorImage_eq, toNat_ofNat_byteSum_64, byteSum_digit _ hi, if_pos h]

theorem ofNat_8_congr {m n : Nat} (h : m % 256 = n % 256) : BitVec.ofNat 8 m = BitVec.ofNat 8 n :=
  BitVec.eq_of_toNat_eq (by simpa using h)

/-! ## Bytes of memory after a write -/

/-- The bytes of a sector after the merge of a write. -/
theorem byteAt_memMerge_write (m : List Host.Cell) (sec a n v b : Nat) :
    byteAt (memMerge m sec (sectorMask sec a n) (sectorImage sec a n v)) b =
      if b / 64 = sec ∧ a ≤ b ∧ b < a + n then BitVec.ofNat 8 (v / 256 ^ (b - a)) else byteAt m b := by
  rw [memMerge, byteAt_leMerge]
  by_cases h : 64 * sec ≤ b ∧ b < 64 * sec + 64
  · have hb : b = 64 * sec + (b - 64 * sec) := by omega
    have hi : b - 64 * sec < 64 := by omega
    have hm : bit (sectorMask sec a n) (b - 64 * sec) = decide (a ≤ b ∧ b < a + n) := by
      rw [sectorMask, bit_ofBits, ← hb]
      simp [hi]
    by_cases hw : a ≤ b ∧ b < a + n
    · rw [if_pos ⟨by omega, by omega, by simp [hm, hw]⟩, if_pos ⟨by omega, hw⟩]
      refine ofNat_8_congr ((sectorImage_byte hi (by rwa [← hb])).trans ?_)
      rw [← hb]
    · rw [if_neg (by simp [hm, hw]), if_neg fun g => hw g.2]
  · rw [if_neg (by omega), if_neg (by omega)]

theorem byteAt_memMerge_zero (m : List Host.Cell) (sec : Nat) (data : Sector) (b : Nat) : byteAt (memMerge m sec 0 data) b = byteAt m b := by
  rw [memMerge, byteAt_leMerge, if_neg]
  simp [bit]

/-- The bytes that a write of n bytes puts down. -/
theorem byteAt_leWrite (n : Nat) : ∀ (m : List Host.Cell) (a v i : Nat), i < n → byteAt (leWrite m a n v) (a + i) = BitVec.ofNat 8 (v / 256 ^ i) := by
  induction n with
  | zero => intro m a v i hi; omega
  | succ n ih =>
    intro m a v i hi
    rw [leWrite]
    cases i with
    | zero => rw [byteAt_leWrite_other _ _ _ _ _ (by omega), Nat.add_zero, byteAt_setByte_self]; simp
    | succ i =>
      rw [show a + (i + 1) = a + 1 + i by omega, ih _ _ _ _ (by omega), Nat.div_div_eq_div_mul, Nat.pow_succ']

/-- Keys that n writes from a key on put down, one a step. -/
theorem mget_foldl_mset_range {α : Type} [DecidableEq α] (d : α) (m : Map α) (base n : Nat) (f : Nat → α) (k : Nat) :
    mget d ((List.range n).foldl (fun m i => mset d m (base + i) (f i)) m) k =
      if base ≤ k ∧ k < base + n then f (k - base) else mget d m k := by
  induction n with
  | zero => simp only [List.range_zero, List.foldl_nil]; rw [if_neg (by omega)]
  | succ n ih =>
    rw [List.range_succ, List.foldl_append]
    simp only [List.foldl_cons, List.foldl_nil]
    rw [mget_mset]
    by_cases hk : k = base + n
    · rw [if_pos hk, if_pos (by omega), hk, Nat.add_sub_cancel_left]
    · rw [if_neg hk, ih]
      by_cases h : base ≤ k ∧ k < base + n
      · rw [if_pos h, if_pos (by omega)]
      · rw [if_neg h, if_neg (by omega)]

/-! ## Writes at dev scope -/

/-- The state s with another directory, other lines in the LLC, another count of free values, another memory and other homes. -/
def State.writtenAs (s : State) (D : Map Dir) (ws : Map (List Nat)) (c : Nat) (m : List Host.Cell) (hs : Map Nat) : State :=
  { s with dir := D, llcWays := ws, freeCtr := c, mem := m, homes := hs }

theorem State.recallSector_untracked {s : State} {sec : Nat} (h : s.tracked sec = []) :
    ∃ D, s.recallSector sec = s.writtenAs D s.llcWays s.freeCtr s.mem s.homes := by
  unfold State.recallSector
  simp only [h, List.foldl_nil]
  split
  · exact ⟨_, rfl⟩
  · exact ⟨s.dir, rfl⟩

/-- The merge of a write into one sector, where no format region is enabled. -/
theorem State.homeMerge_write {s : State} {home : Nat} (hf : s.fmtOn home = []) (sec a n v : Nat) :
    ∃ ws c m hs, s.homeMerge home sec (sectorMask sec a n) (sectorImage sec a n v) = s.writtenAs s.dir ws c m hs
      ∧ ∀ b, byteAt m b = if b / 64 = sec ∧ a ≤ b ∧ b < a + n then BitVec.ofNat 8 (v / 256 ^ (b - a)) else byteAt s.mem b := by
  by_cases hk : sectorMask sec a n = 0
  · refine ⟨s.llcWays, s.freeCtr, s.mem, s.homes, by rw [State.homeMerge, if_pos hk]; rfl, fun b => ?_⟩
    rw [← byteAt_memMerge_write, hk, byteAt_memMerge_zero]
  · obtain ⟨ws, c, h⟩ := State.homeMerge_plain hf sec _ (sectorImage sec a n v) hk
    exact ⟨ws, c, _, _, h, byteAt_memMerge_write s.mem sec a n v⟩

/-- A write to sectors that no die holds tracked puts its bytes down. -/
theorem State.devWrite_untracked (home a n v : Nat) (s : State) (hf : s.fmtOn home = []) (ht : ∀ sec ∈ sectorsOf a n, s.tracked sec = []) :
    ∃ D ws c m hs, s.devWrite home a n v = s.writtenAs D ws c m hs
      ∧ ∀ b, byteAt m b = if b / 64 ∈ sectorsOf a n ∧ a ≤ b ∧ b < a + n then BitVec.ofNat 8 (v / 256 ^ (b - a)) else byteAt s.mem b := by
  unfold State.devWrite
  generalize sectorsOf a n = l at ht ⊢
  induction l generalizing s with
  | nil => exact ⟨s.dir, s.llcWays, s.freeCtr, s.mem, s.homes, rfl, fun b => by simp⟩
  | cons x l ih =>
    rw [List.foldl_cons]
    obtain ⟨D, hD⟩ := State.recallSector_untracked (ht x (by simp))
    rw [hD]
    obtain ⟨ws, c, m, hs, hm, hb⟩ := State.homeMerge_write (s := s.writtenAs D s.llcWays s.freeCtr s.mem s.homes) (home := home) hf x a n v
    rw [hm]
    obtain ⟨D', ws', c', m', hs', hm', hb'⟩ := ih (s.writtenAs D ws c m hs) hf fun sec hsec => ht sec (by simp [hsec])
    refine ⟨D', ws', c', m', hs', hm', fun b => ?_⟩
    rw [hb']
    by_cases hl : b / 64 ∈ l ∧ a ≤ b ∧ b < a + n
    · rw [if_pos hl, if_pos ⟨by simp [hl.1], hl.2⟩]
    · rw [if_neg hl]
      refine (hb b).trans ?_
      by_cases hx : b / 64 = x ∧ a ≤ b ∧ b < a + n
      · rw [if_pos hx, if_pos ⟨by simp [hx.1], hx.2⟩]
      · rw [if_neg hx, if_neg]
        · rfl
        · rintro ⟨hm, hb⟩
          rcases List.mem_cons.mp hm with h | h
          · exact hx ⟨h, hb⟩
          · exact hl ⟨h, hb⟩

theorem div_mem_sectorsOf {a n b : Nat} (h : a ≤ b ∧ b < a + n) : b / 64 ∈ sectorsOf a n := by
  rw [sectorsOf, if_neg (by omega), List.mem_map]
  exact ⟨b / 64 - a / 64, List.mem_range.mpr (by omega), by omega⟩

/-- The bytes of memory after a write to sectors that no die holds tracked, and what it leaves alone. -/
theorem devWrite_frame {s : State} {home a n : Nat} (v : Nat) (hf : s.fmtOn home = []) (ht : ∀ sec ∈ sectorsOf a n, s.tracked sec = []) :
    let t := s.devWrite home a n v
    (∀ i < n, byteAt t.mem (a + i) = BitVec.ofNat 8 (v / 256 ^ i)) ∧ (∀ b, (b < a ∨ a + n ≤ b) → byteAt t.mem b = byteAt s.mem b)
      ∧ t.hostMem = s.hostMem ∧ t.abuf = s.abuf ∧ t.wbuf = s.wbuf ∧ t.tiles = s.tiles ∧ t.sreg = s.sreg ∧ t.vreg = s.vreg := by
  intro t
  obtain ⟨D, ws, c, m, hs, hw, hb⟩ := s.devWrite_untracked home a n v hf ht
  have htw : t = s.writtenAs D ws c m hs := hw
  rw [htw]
  refine ⟨fun i hi => (hb (a + i)).trans ?_, fun b ho => (hb b).trans ?_, rfl, rfl, rfl, rfl, rfl, rfl⟩
  · have h : a ≤ a + i ∧ a + i < a + n := by omega
    rw [if_pos ⟨div_mem_sectorsOf h, h⟩, Nat.add_sub_cancel_left]
  · rw [if_neg (by omega)]

/-! ## An access put into flight -/

/-- Where some unit is to be performed an access goes into flight and no more. -/
theorem State.startOp_eq {s : State} {o : MemOp} (h : ∃ u ∈ o.units, u.done = false) :
    let t := s.startOp o
    t = { s with ops := t.ops, nextId := t.nextId, groups := t.groups, pendV := t.pendV, pendS := t.pendS } := by
  obtain ⟨u, hu, hd⟩ := h
  have hall : (o.units.all fun u => u.done) = false := by
    rw [List.all_eq_false]
    exact ⟨u, hu, by simp [hd]⟩
  intro t
  simp only [t, State.startOp, hall]
  split
  · contradiction
  · split
    · split <;> rfl
    · rfl

/-! ## O60 -/

/-- The bytes that a write to a core's buffer puts down, and those that it leaves alone. -/
theorem foldl_mset_bytes (m : Map Byte) (base n v : Nat) :
    let m' := (List.range n).foldl (fun m i => mset 0 m (base + i) (BitVec.ofNat 8 (v / 256 ^ i))) m
    (∀ i < n, mget 0 m' (base + i) = BitVec.ofNat 8 (v / 256 ^ i))
      ∧ ∀ b, (b < base ∨ base + n ≤ b) → mget 0 m' b = mget 0 m b := by
  have hk := mget_foldl_mset_range (0 : Byte) m base n fun i => BitVec.ofNat 8 (v / 256 ^ i)
  refine ⟨fun i hi => (hk (base + i)).trans ?_, fun b ho => (hk b).trans ?_⟩
  · rw [if_pos (by omega), Nat.add_sub_cancel_left]
  · rw [if_neg (by omega)]

/-- Settles O60: the checks by `CheckKeeps`, the access in flight by `State.startOp_eq`, the writes byte by byte. -/
theorem accessFrames : Obligations.AccessFrames := by
  unfold Obligations.AccessFrames
  intro s t k size need rmw host ls c o home a n v core
  refine ⟨fun h => ?_, State.startOp_eq, fun hf ht => devWrite_frame v hf ht, ?_, ?_, ?_⟩
  · have hk := s.checkKeeps_checkLanes k size need rmw host ls
    rw [h] at hk
    exact ⟨hk.all, fun hf hb => hk.bare ⟨hf, hb⟩⟩
  · exact ⟨fun i hi => byteAt_leWrite n s.hostMem a v i hi, fun b ho => byteAt_leWrite_other n s.hostMem a v b ho, rfl⟩
  · obtain ⟨hin, hout⟩ := foldl_mset_bytes s.abuf (core * 2 ^ 22 + a) n v
    exact ⟨hin, hout, rfl⟩
  · obtain ⟨hin, hout⟩ := foldl_mset_bytes s.wbuf (core * 2 ^ 22 + a) n v
    exact ⟨hin, hout, rfl⟩

end Sys2Proof.Machine
end

section
/-! PROOF of O38: addresses of lanes, their translation, and lanes that fail. -/
namespace Sys2Proof.Machine

set_option Elab.async false

/-! ## Masks of lanes -/

theorem bit_foldl_or (ls : List Nat) (m : BitVec 32) {l : Nat} (hl : l < 32) :
    bit (ls.foldl (fun m l => m ||| ((1 : BitVec 32) <<< l)) m) l = (bit m l || ls.any fun x => x == l) := by
  induction ls generalizing m with
  | nil => simp
  | cons x ls ih =>
    have hx : bit (m ||| ((1 : BitVec 32) <<< x)) l = (bit m l || (x == l)) := by
      by_cases h : x = l
      · simp [bit, hl, h]
      · rcases Nat.lt_or_ge l x with hlt | hge
        · simp [bit, hl, hlt, h]
        · have hne : l - x ≠ 0 := by omega
          simp [bit, hl, h, hne]
    rw [List.foldl_cons, ih, hx, List.any_cons, Bool.or_assoc]

theorem bit_maskOf (ls : List Nat) {l : Nat} (hl : l < 32) : bit (maskOf ls) l = ls.any fun x => x == l := by
  rw [maskOf, bit_foldl_or ls 0 hl]
  simp [bit]

theorem bit_maskOf_map {α : Type} (xs : List α) (f : α → Nat) {l : Nat} (hl : l < 32) :
    bit (maskOf (xs.map f)) l = xs.any fun x => f x == l := by
  rw [bit_maskOf _ hl, List.any_map]
  rfl

/-! ## The record of failing lanes -/

/-- The failure of a lane below every other lane that failed. -/
theorem lowestFail_eq {fs : List Fail} {f : Fail} (hf : f ∈ fs) (hn : (fs.map fun f => f.lane).Nodup) (hl : f.lane < 32)
    (hlow : ∀ g ∈ fs, f.lane ≤ g.lane) : lowestFail fs = some f := by
  have hlane : lowLane (maskOf (fs.map fun f => f.lane)) = f.lane := by
    refine lowLane_eq hl ?_ fun j hj => ?_
    · rw [bit_maskOf_map _ _ hl, List.any_eq_true]
      exact ⟨f, hf, by simp⟩
    · rw [bit_maskOf_map _ _ (by omega), List.any_eq_false]
      intro g hg
      have := hlow g hg
      simp only [beq_iff_eq]
      omega
  rw [lowestFail, hlane]
  cases h : fs.find? fun g => g.lane == f.lane with
  | none => simpa using List.find?_eq_none.mp h f hf
  | some g =>
    have hg : g.lane = f.lane := by simpa using List.find?_some h
    rw [List.inj_on_of_nodup_map hn (List.mem_of_find?_eq_some h) hf hg]

/-- The first of the order's causes that some failure has. -/
theorem causeOrder_find {fs : List Fail} (hne : fs ≠ []) (hc : ∀ f ∈ fs, [0x02, 0x03, 0x04, 0x05, 0x0F].contains f.cause = true) :
    ∃ c, (causeOrder.find? fun c => fs.any fun f => f.cause == c) = some c ∧ (∃ f ∈ fs, c = f.cause)
      ∧ ∀ f ∈ fs, causeOrder.idxOf c ≤ causeOrder.idxOf f.cause := by
  have hmem : ∀ f ∈ fs, f.cause ∈ causeOrder := by
    intro f hf
    have h := hc f hf
    simp only [List.contains_eq_mem, List.mem_cons, List.not_mem_nil, or_false, decide_eq_true_eq] at h
    rcases h with h | h | h | h | h <;> rw [h] <;> decide
  cases h : causeOrder.find? fun c => fs.any fun f => f.cause == c with
  | none =>
    obtain ⟨f, hf⟩ := List.exists_mem_of_ne_nil fs hne
    have := List.find?_eq_none.mp h f.cause (hmem f hf)
    simp only [List.any_eq_true, not_exists, not_and] at this
    exact absurd (by simp) (this f hf)
  | some c =>
    obtain ⟨hcc, as, bs, hab, has⟩ := List.find?_eq_some_iff_append.mp h
    obtain ⟨f, hf, hfc⟩ := List.any_eq_true.mp hcc
    refine ⟨c, rfl, ⟨f, hf, (by simpa using hfc : f.cause = c).symm⟩, fun g hg => ?_⟩
    have hgas : g.cause ∉ as := fun hga => by
      have := has g.cause hga
      simp only [Bool.not_eq_eq_eq_not, Bool.not_true, List.any_eq_false] at this
      exact absurd (by simp) (this g hg)
    have hcas : c ∉ as := fun hca => by
      have := has c hca
      rw [hcc] at this
      cases this
    rw [hab, List.idxOf_append_of_notMem hcas, List.idxOf_append_of_notMem hgas, List.idxOf_cons_self]
    omega

/-- R178, R391, R393. -/
theorem laneTrapRecord : Claims.LaneTrapRecord := by
  intro s k acc fs hne hc t
  obtain ⟨c, hfind, hmem, hidx⟩ := causeOrder_find hne hc
  have hcause : t.cause = c := by
    simp only [t, State.laneTrap, hfind, Option.getD_some]
  refine ⟨by rwa [hcause], by rwa [hcause], fun l hl => ?_, fun l hl => bit_maskOf_map fs _ hl, fun hn hl f hf hfc hlow => ?_, rfl, rfl, rfl, rfl, rfl⟩
  · rw [hcause]
    simp only [t, State.laneTrap, hfind, Option.getD_some]
    rw [bit_maskOf_map _ _ hl, List.any_filter]
    congr 1
    funext f
    rw [Bool.and_comm]
  · have hlf : lowestFail (fs.filter fun f => f.cause == c) = some f := by
      refine lowestFail_eq ?_ ?_ (hl f hf) fun g hg => ?_
      · simp [hf, ← hcause, hfc]
      · exact hn.sublist (List.filter_sublist.map _)
      · obtain ⟨hg, hgc⟩ := List.mem_filter.mp hg
        exact hlow g hg (by rw [hcause]; simpa using hgc)
    simp only [t, State.laneTrap, hfind, Option.getD_some, hlf, Option.map_some]
    exact ⟨trivial, rfl⟩

/-! ## Addresses of lanes -/

theorem laneAddresses : Claims.LaneAddresses := by
  intro s k a o l
  refine ⟨fun ha => ?_, fun ha => ?_, fun va size need hv => ?_⟩
  · rw [State.laneAddr, if_neg ha, BitVec.toNat_add]
    have h : (sext64 (s.vget k o l)).toInt = (s.vget k o l).toInt := BitVec.toInt_signExtend_of_le (by omega)
    rw [← h, BitVec.toInt_eq_toNat_cond]
    split <;> omega
  · rw [State.laneAddr, if_pos ha, State.vget64, BitVec.toNat_append]
    rw [← Nat.shiftLeft_add_eq_or_of_lt (s.vget k o l).isLt, Nat.shiftLeft_eq]
    ring
  · rw [State.piecesOf, if_pos hv]

/-! ## Lanes that fail their checks -/

/-- What becomes of a form of access kind `acc` whose lanes were checked as `c` says, from `t`, and of which those of `fs` take a trap:
`count` is its counter, and `u` the state that the lanes that pass start from. -/
def LanesTrap (out : Out) (c : Checked) (t u : State) (acc count : Nat) (fs : List Fail) : Prop :=
  (c.pass = [] → out = .next (u.trap u.cur (u.laneTrap u.cur acc fs)))
  ∧ (c.pass ≠ [] → count < 62 → ∃ x : MemOp, (∀ y ∈ x.units, ∃ q ∈ c.pass, y.lane = q.1) ∧
      out = .next ((u.startOp x).trap (u.startOp x).cur ((u.startOp x).laneTrap (u.startOp x).cur acc fs)))
  ∧ (c.pass ≠ [] → 62 ≤ count → out = .next (t.waitFor t.cur .operand))

/-- How a form ends whose lanes were checked: it waits for room in its counter, or settles its lanes. -/
def State.endLanes (t u : State) (e full : Bool) (acc : Nat) (x : MemOp) (c : Checked) (fs : List Fail) : State :=
  if ¬ c.pass.isEmpty ∧ full then t.stall else (if c.pass.isEmpty then u else u.startOp x).settleLanes e acc fs

theorem settleLanes_fails {u : State} {e : Bool} {acc : Nat} {fs : List Fail} (h : fs ≠ []) :
    u.settleLanes e acc fs = u.trap u.cur (u.laneTrap u.cur acc fs) := by
  rw [State.settleLanes, if_neg]
  simpa using h

theorem lanesTrap_endLanes {c : Checked} {t u : State} {e : Bool} {acc count : Nat} {x : MemOp} {fs : List Fail} (hfs : fs ≠ [])
    (hx : ∀ y ∈ x.units, ∃ q ∈ c.pass, y.lane = q.1) :
    LanesTrap (.next (t.endLanes u e (decide (62 ≤ count)) acc x c fs)) c t u acc count fs := by
  refine ⟨fun hp => ?_, fun hp hc => ⟨x, hx, ?_⟩, fun hp hc => ?_⟩
  · simp [State.endLanes, hp, settleLanes_fails hfs]
  · have hf : ¬ 62 ≤ count := by omega
    simp [State.endLanes, hp, hf, settleLanes_fails hfs]
  · simp [State.endLanes, hp, hc, State.stall]

theorem lane_of_mem_unitsOf {l va v : Nat} {ps : List Piece} {y : MUnit} (h : y ∈ unitsOf l va ps v) : y.lane = l := by
  obtain ⟨p, -, rfl⟩ := List.mem_map.mp h
  rfl

theorem lane_of_mem_atomUnits {s : State} {k v op wide l va : Nat} {ps : List Piece} {y : MUnit}
    (h : y ∈ s.atomUnits k v op wide l va ps) : y.lane = l := by
  unfold State.atomUnits at h
  dsimp only at h
  split at h
  · rw [List.mem_singleton] at h
    rw [h]
  · obtain ⟨p, -, hp⟩ := List.mem_flatMap.mp h
    split at hp
    · rcases List.mem_cons.mp hp with rfl | hp
      · rfl
      · rw [List.mem_singleton.mp hp]
    · rw [List.mem_singleton.mp hp]

/-- The units of the lanes that passed belong to them. -/
theorem lane_of_mem_flatMap {pass : List (Nat × List Piece)} {f : Nat × List Piece → List MUnit} (hf : ∀ p, ∀ y ∈ f p, y.lane = p.1)
    {y : MUnit} (h : y ∈ pass.flatMap f) : ∃ q ∈ pass, y.lane = q.1 := by
  obtain ⟨p, hp, hy⟩ := List.mem_flatMap.mp h
  exact ⟨p, hp, hf p y hy⟩

/-- A vector load whose lanes were checked, outside a region. -/
theorem loadVec_checked {s t : State} {c : Checked} {e : Bool} {v a o z scope order : Nat} {ldn : Bool} (ha : s.acts)
    (hf : s.free { ss := [a], sv := addrRegs a o, dv := dataRegs v (2 ^ z), dq := if ldn then [7] else [] })
    (hc : s.checkLanes s.cur (2 ^ z) needLoad false true ((s.glanes s.cur).map fun l => (l, s.laneAddr s.cur a o l)) = (t, c))
    (hw : c.wait = false) (hd : c.dead = false) :
    s.loadVec e v a o z scope order ldn =
      t.endLanes (if ldn then t.markResident v (2 ^ z) (c.pass.map fun p => p.1) (c.away.map fun f => f.lane) else t) e (s.full true) 1
        (t.loadOp v (2 ^ z) scope (order == 1) (s.laneAddr s.cur a o) c.pass) c (if ldn then c.fail else c.fail ++ c.away) := by
  simp only [State.free] at hf
  simp [State.loadVec, hf, hc, hw, hd, State.not_inRegion ha, State.endLanes]

theorem addrRegs_toNat (a : BitVec 5) (o : Nat) : addrRegs a.toNat o = if a = 0 then [o, o + 1] else [o] := by
  unfold addrRegs
  congr 1
  exact propext (by simp [← BitVec.toNat_inj])

/-- A vector store whose lanes were checked, outside a region. -/
theorem execSt_checked {s t : State} {c : Checked} {e : Bool} {v o : BitVec 6} {a : BitVec 5} {z g : BitVec 3} {r : BitVec 2} (ha : s.acts)
    (hf : s.free { ss := [a.toNat], sv := addrRegs a.toNat o.toNat ++ dataRegs v.toNat (2 ^ z.toNat) })
    (hc : s.checkLanes s.cur (2 ^ z.toNat) needStore (decide (2 ^ z.toNat < 4)) true
      ((s.glanes s.cur).map fun l => (l, s.laneAddr s.cur a.toNat o.toNat l)) = (t, c))
    (hw : c.wait = false) (hd : c.dead = false) :
    execSt e v a o z g r s = .next (t.endLanes t e (s.full false) 2
      (t.storeOp v.toNat (2 ^ z.toNat) g.toNat (r == 2) (s.laneAddr s.cur a.toNat o.toNat) c.pass) c (c.fail ++ c.away)) := by
  simp only [State.free] at hf
  rw [execSt, issue_valid _ ha.1]
  simp [hf, hc, hw, hd, State.not_inRegion ha, State.endLanes]

/-- The access of an atomic over its passing lanes. -/
def State.atomOpOf (s t : State) (v a o op scope : Nat) (rel returns : Bool) (wide : Nat) (pass : List (Nat × List Piece)) : MemOp :=
  { id := 0, splits := [s.cur], gid := t.cg, ctx := t.grp.ctx, core := t.cc, kind := .atom op s.ty returns,
    units := pass.flatMap fun p => t.atomUnits s.cur v op wide p.1 (s.laneAddr s.cur a o p.1) p.2,
    rows := (if returns then (List.range (wide / 4)).map fun i => v + i else []).map (t.row s.cur),
    lanes := maskOf (pass.map fun p => p.1), size := wide, scope := scope, acq := rel && returns, rel := rel, pc := t.me.pc }

/-- An atomic whose lanes were checked, outside a region. -/
theorem atomic_checked {s t : State} {c : Checked} {e : Bool} {v a o op scope : Nat} {rel returns : Bool} {wide count : Nat} (ha : s.acts)
    (hwide : wide = if s.ty = 15 then 8 else 4) (hcount : count = if op = 9 then 2 * (wide / 4) else wide / 4)
    (hty : atomType op s.ty = true) (hv : v + count ≤ 64) (hpair : s.ty = 15 → v % 2 = 0)
    (hf : s.free { ss := [a], sv := addrRegs a o ++ (List.range count).map fun i => v + i,
                   dv := if returns then (List.range (wide / 4)).map fun i => v + i else [] })
    (hc : s.checkLanes s.cur wide needAtomic true (atomHost op) ((s.glanes s.cur).map fun l => (l, s.laneAddr s.cur a o l)) = (t, c))
    (hw : c.wait = false) (hd : c.dead = false) :
    s.atomic e v a o op scope rel returns = t.endLanes t e (s.full returns) 3 (s.atomOpOf t v a o op scope rel returns wide c.pass) c
      (c.fail ++ c.away) := by
  have hok : (!atomType op s.ty || decide (63 < v + count - 1) || (s.ty == 15 && v % 2 == 1)) = false := by
    have h63 : ¬ 63 < v + count - 1 := by omega
    have hp : (s.ty == 15 && v % 2 == 1) = false := by
      by_cases h15 : s.ty = 15
      · simp [hpair h15]
      · simp [h15]
    simp [hty, h63, hp]
  simp only [State.free] at hf
  unfold State.atomic
  simp only [← hwide, ← hcount, hok, State.not_inRegion ha, hf, hc, hw, hd]
  simp [State.endLanes, State.atomOpOf]

theorem atomHost_eq (op : Nat) : atomHost op = decide (op = 0 ∨ op = 8 ∨ op = 9) := by
  simp [atomHost, Bool.decide_or, Bool.or_assoc, beq_eq_decide]

/-- R178, R180, R391. -/
theorem failingLanesTrap : Claims.FailingLanesTrap := by
  intro s t c e v o a z g r p l ha size data at' lanes wide srcs dsts both traps hw hd hcur
  have hat : at' = addrRegs a.toNat o.toNat := (addrRegs_toNat a o.toNat).symm
  clear_value at'
  subst hat
  refine ⟨fun hb hf hc => ?_, fun hfail hf hc => ?_, fun hb hf hc => ?_, fun hty hv hpair hb hc => ?_⟩
  · change LanesTrap (execLd e v a o z g r s) c t t 1 s.grp.ldc both
    rw [execLd, issue_valid _ ha.1, loadVec_checked (v := v.toNat) (a := a.toNat) (o := o.toNat) (z := z.toNat) (ldn := false) ha hf hc hw hd]
    exact lanesTrap_endLanes hb fun y hy => lane_of_mem_flatMap (fun _ _ h => lane_of_mem_unitsOf h) hy
  · intro away u
    change LanesTrap (execLdn e v a o z g r s) c t _ 1 s.grp.ldc c.fail
    rw [execLdn, issue_valid _ ha.1, loadVec_checked (v := v.toNat) (a := a.toNat) (o := o.toNat) (z := z.toNat) (ldn := true) ha hf hc hw hd]
    exact lanesTrap_endLanes hfail fun y hy => lane_of_mem_flatMap (fun _ _ h => lane_of_mem_unitsOf h) hy
  · change LanesTrap (execSt e v a o z g r s) c t t 2 s.grp.stc both
    rw [execSt_checked ha hf hc hw hd]
    exact lanesTrap_endLanes hb fun y hy => lane_of_mem_flatMap (fun _ _ h => lane_of_mem_unitsOf h) hy
  · have hwide : wide % 4 = 0 := by
      simp only [wide]
      split <;> rfl
    have hsrcs : srcs = (List.range (if p.toNat = 9 then 2 * (wide / 4) else wide / 4)).map fun i => v.toNat + i := by
      have : wide / 2 = 2 * (wide / 4) := by omega
      simp only [srcs, this]
    have hlen : v.toNat + (if p.toNat = 9 then 2 * (wide / 4) else wide / 4) ≤ 64 := by
      simpa [hsrcs] using hv
    rw [← atomHost_eq] at hc
    clear_value srcs
    subst hsrcs
    refine ⟨fun hf => ?_, fun hf => ?_⟩
    · change LanesTrap (execAtom e v a o p g l s) c t t 3 s.grp.ldc both
      rw [execAtom, issue_valid _ ha.1, atomic_checked (v := v.toNat) (a := a.toNat) (o := o.toNat) (op := p.toNat) (returns := true) ha rfl rfl hty hlen hpair hf hc hw hd]
      exact lanesTrap_endLanes hb fun y hy => lane_of_mem_flatMap (fun _ _ h => lane_of_mem_atomUnits h) hy
    · change LanesTrap (execRed e v a o p g l s) c t t 3 s.grp.stc both
      rw [execRed, issue_valid _ ha.1, atomic_checked (v := v.toNat) (a := a.toNat) (o := o.toNat) (op := p.toNat) (returns := false) ha rfl rfl hty hlen hpair hf hc hw hd]
      exact lanesTrap_endLanes hb fun y hy => lane_of_mem_flatMap (fun _ _ h => lane_of_mem_atomUnits h) hy

/-! ## Apertures -/

theorem resolve_global {s : State} {k l va n : Nat} {need : Need} (h : va < 2 ^ 56) :
    s.resolve k l va n need = s.translate (coreOf (gidOf k)) (s.gr (gidOf k)).ctx va need := by
  rw [State.resolve, if_pos h]

theorem State.abufSize_le (s : State) (core : Nat) : s.abufSize core ≤ 0x300000 := by
  unfold State.abufSize
  split <;> omega

theorem resolve_wbuf {s : State} {k l va n : Nat} {need : Need} (h : wbufBase ≤ va ∧ va < wbufBase + wbufSize) :
    s.resolve k l va n need =
      let core := coreOf (gidOf k)
      let tm := s.tm (s.gr (gidOf k)).team
      let o := va - wbufBase
      if s.isG core || decide (o < tm.wbufOff ∨ o + n > tm.wbufOff + tm.wbufSize) then (s, .fault cBufrange 0)
      else if need.w then (s, .fault cPerm 0)
      else (s, .ok (.wbuf core o) false) := by
  have hg : ¬ va < 2 ^ 56 := by simp only [wbufBase] at h; omega
  rw [State.resolve, if_neg hg, if_pos h]

theorem resolve_abuf {s : State} {k l va n : Nat} {need : Need} (h : abufBase ≤ va ∧ va < abufBase + s.abufSize (coreOf (gidOf k))) :
    s.resolve k l va n need =
      let core := coreOf (gidOf k)
      let tm := s.tm (s.gr (gidOf k)).team
      let o := va - abufBase
      if o < tm.abufOff ∨ o + n > tm.abufOff + tm.abufSize ∨ o + n > s.abufLeft core then (s, .fault cBufrange 0)
      else (s, .ok (.abuf core o) false) := by
  have hg : ¬ va < 2 ^ 56 := by simp only [abufBase] at h; omega
  have hw : ¬ (wbufBase ≤ va ∧ va < wbufBase + wbufSize) := by simp only [abufBase, wbufBase, wbufSize] at h ⊢; omega
  rw [State.resolve, if_neg hg, if_neg hw, if_pos h]

theorem resolve_stack {s : State} {k l va n : Nat} {need : Need} (h : stackBase0 ≤ va ∧ va < stackBase0 + 0x100000) :
    s.resolve k l va n need =
      let gr := s.gr (gidOf k)
      let o := va - stackBase0
      if o + n > (s.cx gr.ctx).stackSz then (s, .fault cApert 0)
      else
        let (t, x) := s.translate (coreOf (gidOf k)) gr.ctx (gr.stackBase.toNat + o / 4 * 128 + 4 * l + o % 4) need
        (t, match x with | .ok p _ => .ok p true | y => y) := by
  have hsz := s.abufSize_le (coreOf (gidOf k))
  have hg : ¬ va < 2 ^ 56 := by simp only [stackBase0] at h; omega
  have hw : ¬ (wbufBase ≤ va ∧ va < wbufBase + wbufSize) := by simp only [stackBase0, wbufBase, wbufSize] at h ⊢; omega
  have ha : ¬ (abufBase ≤ va ∧ va < abufBase + s.abufSize (coreOf (gidOf k))) := by simp only [stackBase0, abufBase] at h ⊢; omega
  exact (if_neg hg).trans ((if_neg hw).trans ((if_neg ha).trans (if_pos h)))

theorem resolve_nowhere {s : State} {k l va n : Nat} {need : Need} (hg : 2 ^ 56 ≤ va)
    (ha : ¬ (abufBase ≤ va ∧ va < abufBase + s.abufSize (coreOf (gidOf k)))) (hw : ¬ (wbufBase ≤ va ∧ va < wbufBase + wbufSize))
    (hs : ¬ (stackBase0 ≤ va ∧ va < stackBase0 + 0x100000)) : s.resolve k l va n need = (s, .fault cApert 0) := by
  rw [State.resolve, if_neg (by omega), if_neg hw, if_neg ha, if_neg hs]

/-- R42-R45. -/
theorem apertures : Claims.Apertures := by
  intro s k l va n need g core t abuf wbuf stack size inAbuf inWbuf inStack ownAbuf ownWbuf
  have hownA : ownAbuf ↔ ¬ (abuf < t.abufOff ∨ abuf + n > t.abufOff + t.abufSize ∨ abuf + n > s.abufLeft core) := by
    simp only [ownAbuf, not_or, Nat.not_lt]
  have hownW : ownWbuf ↔ ¬ (s.isG core || decide (wbuf < t.wbufOff ∨ wbuf + n > t.wbufOff + t.wbufSize)) = true := by
    simp only [ownWbuf, Bool.or_eq_true, decide_eq_true_eq, not_or, Nat.not_lt, Bool.not_eq_true]
  refine ⟨resolve_global, fun hin hown => ?_, fun hin hown => ?_, fun hin hown hneed => ?_, fun hin hown hneed => ?_, fun hin hown => ?_,
    fun hin hsz => ?_, fun u p h hin hsz ht => ?_, resolve_nowhere⟩
  · exact (resolve_abuf hin).trans (if_neg (hownA.mp hown))
  · exact (resolve_abuf hin).trans (if_pos (not_not.mp (hownA.not.mp hown)))
  · exact (resolve_wbuf hin).trans ((if_neg (hownW.mp hown)).trans (if_neg (by simp [hneed])))
  · exact (resolve_wbuf hin).trans ((if_neg (hownW.mp hown)).trans (if_pos hneed))
  · exact (resolve_wbuf hin).trans (if_pos (not_not.mp (hownW.not.mp hown)))
  · exact (resolve_stack hin).trans (if_pos hsz)
  · refine (resolve_stack hin).trans ((if_neg (Nat.not_lt.mpr hsz)).trans ?_)
    dsimp only
    rw [show va - stackBase0 = stack from rfl, ht]

/-! ## Translation -/

theorem field_55_8 (x : Word64) : field x 55 8 * 256 = x.toNat / 2 ^ 8 % 2 ^ 48 * 2 ^ 8 := by
  rw [field, Nat.shiftRight_eq_div_pow]
  rfl

/-- The walk's step where the walk cache holds nothing and the home of the table is in service. -/
theorem walkFrom_read {s u : State} {die c l table va : Nat} {x : Word64} (hlook : s.walkLook die c l va = none)
    (hup : s.inService (s.physHome (table + 8 * walkIndex l va)) = true) (hw : s.walkWord (table + 8 * walkIndex l va) = (u, x)) :
    s.walkFrom die c (l + 1) table va =
      if !bit x 0 then (u, .absent x)
      else if u.badEntry l x then (u, .malformed x)
      else if bit x 1 then (u, .leaf x l)
      else (u.fillWalk die c l va x).walkFrom die c l (field x 55 8 * 256) va := by
  rw [State.walkFrom, hlook]
  simp only [State.walkRead, hup, if_true, hw]

theorem walkIndex_eq {l : Nat} (hl : l < 4) (va : Nat) :
    walkIndex l va = if l = 3 then va / 2 ^ 43 % 2 ^ 13 else if l = 2 then va / 2 ^ 30 % 2 ^ 13
      else if l = 1 then va / 2 ^ 21 % 2 ^ 9 else va / 2 ^ 16 % 2 ^ 5 := by
  have h : l = 0 ∨ l = 1 ∨ l = 2 ∨ l = 3 := by omega
  rcases h with rfl | rfl | rfl | rfl <;> rfl

/-- The walk at a level, in the words of the spec's index. -/
theorem walkStep (s : State) (die c va l table : Nat) (hl : l < 4) :
    let index := if l = 3 then va / 2 ^ 43 % 2 ^ 13 else if l = 2 then va / 2 ^ 30 % 2 ^ 13
      else if l = 1 then va / 2 ^ 21 % 2 ^ 9 else va / 2 ^ 16 % 2 ^ 5
    let next (x : Word64) : Nat := x.toNat / 2 ^ 8 % 2 ^ 48 * 2 ^ 8
    let up := s.inService (s.physHome (table + 8 * index)) = true
    (∀ x, s.walkLook die c l va = some x → s.walkFrom die c (l + 1) table va = s.walkFrom die c l (next x) va)
    ∧ (s.walkLook die c l va = none → ¬ up → s.walkFrom die c (l + 1) table va = (s, .contained))
    ∧ ∀ (u : State) (x : Word64), s.walkLook die c l va = none → up → s.walkWord (table + 8 * index) = (u, x) →
      (bit x 0 = false → s.walkFrom die c (l + 1) table va = (u, .absent x))
      ∧ (bit x 0 = true → u.badEntry l x = true → s.walkFrom die c (l + 1) table va = (u, .malformed x))
      ∧ (bit x 0 = true → u.badEntry l x = false → bit x 1 = true → s.walkFrom die c (l + 1) table va = (u, .leaf x l))
      ∧ (bit x 0 = true → u.badEntry l x = false → bit x 1 = false → s.walkFrom die c (l + 1) table va =
          (u.fillWalk die c l va x).walkFrom die c l (next x) va) := by
  intro index next up
  have hidx : walkIndex l va = index := walkIndex_eq hl va
  clear_value index
  subst hidx
  refine ⟨fun x hx => ?_, fun hnone hup => ?_, fun u x hnone hup hw => ?_⟩
  · rw [State.walkFrom, hx]
    dsimp only
    rw [field_55_8]
  · rw [State.walkFrom, hnone]
    have hr : s.walkRead l table va = (s, none) := if_neg hup
    simp only [hr]
  · have hread := walkFrom_read hnone hup hw
    rw [field_55_8] at hread
    refine ⟨fun h0 => ?_, fun h0 hb => ?_, fun h0 hb h1 => ?_, fun h0 hb h1 => ?_⟩
    · exact hread.trans (if_pos (by rw [h0]; rfl))
    · exact hread.trans ((if_neg (by rw [h0]; decide)).trans (if_pos hb))
    · exact hread.trans ((if_neg (by rw [h0]; decide)).trans ((if_neg (by rw [hb]; decide)).trans (if_pos h1)))
    · exact hread.trans ((if_neg (by rw [h0]; decide)).trans ((if_neg (by rw [hb]; decide)).trans (if_neg (by rw [h1]; decide))))

theorem tlbLook_maps {s : State} {die c va : Nat} {x : TlbEntry} (h : s.tlbLook die c va = some x) : x.maps c va = true := by
  obtain ⟨level, -, hlevel⟩ := List.exists_of_findSome?_eq_some h
  have := List.find?_some hlevel
  rw [Bool.and_eq_true] at this
  exact this.1

theorem lookup_l0 {s : State} {core c va : Nat} {x : TlbEntry} (h : (mget [] s.l0 core).find? (fun y => y.maps c va) = some x) :
    (s.lookup core c va).2 = .leaf x.leaf x.level := by
  rw [State.lookup, h]

theorem lookup_tlb {s : State} {core c va : Nat} {x : TlbEntry} (h : (mget [] s.l0 core).find? (fun y => y.maps c va) = none)
    (ht : s.tlbLook (dieOf core) c va = some x) : (s.lookup core c va).2 = .leaf x.leaf x.level := by
  rw [State.lookup, h]
  dsimp only
  rw [ht]

theorem lookup_walk {s : State} {core c va : Nat} (h : (mget [] s.l0 core).find? (fun y => y.maps c va) = none)
    (ht : s.tlbLook (dieOf core) c va = none) :
    (s.lookup core c va).2 = (s.walkFrom (dieOf core) c 4 (s.cx c).root.toNat va).2 := by
  rw [State.lookup, h]
  dsimp only
  rw [ht]
  dsimp only
  split
  next u e level hw => rw [hw]
  next u w _ hw => rw [hw]

theorem translate_absent {s t : State} {core c va : Nat} {e : Word64} (need : Need) (h : s.lookup core c va = (t, .absent e)) :
    s.translate core c va need = (t, .absent e) := by
  rw [State.translate, h]

theorem translate_malformed {s t : State} {core c va : Nat} {e : Word64} (need : Need) (h : s.lookup core c va = (t, .malformed e)) :
    s.translate core c va need = (t, .fault cXlate e) := by
  rw [State.translate, h]

theorem translate_contained {s t : State} {core c va : Nat} (need : Need) (h : s.lookup core c va = (t, .contained)) :
    s.translate core c va need = (t, .contained) := by
  rw [State.translate, h]

theorem translate_leaf {s t : State} {core c va level : Nat} {e : Word64} (need : Need) (h : s.lookup core c va = (t, .leaf e level)) :
    s.translate core c va need =
      let pa := field e 55 16 * 65536 / pageBytes level * pageBytes level + va % pageBytes level
      let cls := field e 7 6
      if (need.r && !bit e 2) || (need.w && !bit e 3) || (need.o && !bit e 4) || (need.w && cls == 1) then
        (t, .fault (if need.o then cOvfault else cPerm) e)
      else if bit e 5 then t.hostPlace (dieOf core) c need (field e 55 16 * 65536 + va % pageBytes level)
      else
        let home := t.homeOf (field e 11 8) pa
        let cls' := if (t.cx c).inRange va && decide (cls ≥ 2 ∧ pa / 2 ^ 48 = 0) then 0 else cls
        if t.homeUp home && (need.copy || (t.dirAt (pa / 64)).state != 6) then (t, .ok (.mem pa cls' home) false) else (t, .contained) := by
  rw [State.translate, h]

/-- The bits of a leaf allow what the access needs of its page (R380). -/
theorem leaf_allows (need : Need) (e : Word64) (cls : Nat) :
    ((need.r && !bit e 2) || (need.w && !bit e 3) || (need.o && !bit e 4) || (need.w && cls == 1)) = false
      ↔ (need.r = true → bit e 2 = true) ∧ (need.w = true → bit e 3 = true ∧ cls ≠ 1) ∧ (need.o = true → bit e 4 = true) := by
  cases need.r <;> cases need.w <;> cases need.o <;> simp [and_comm, and_left_comm, and_assoc]

/-- R378-R381. -/
theorem translation : Claims.Translation := by
  intro s t core c va need e level index frame page cls allowed
  refine ⟨fun l table hl => walkStep s (dieOf core) c va l table hl, fun x hx => lookup_l0 hx,
    fun hnone => ⟨fun x hx => ?_, lookup_walk hnone⟩, translate_contained need, translate_absent need, translate_malformed need, fun hlook => ?_⟩
  · have hm := tlbLook_maps hx
    rw [TlbEntry.maps, Bool.and_eq_true, beq_iff_eq, beq_iff_eq] at hm
    exact ⟨lookup_tlb hnone hx, hm⟩
  · have hl := translate_leaf need hlook
    have hframe : field e 55 16 * 65536 = frame := by
      rw [field, Nat.shiftRight_eq_div_pow]
      rfl
    have hcls : field e 7 6 = cls := by
      rw [field, Nat.shiftRight_eq_div_pow]
      rfl
    have hplc : field e 11 8 = e.toNat / 2 ^ 8 % 16 := by
      rw [field, Nat.shiftRight_eq_div_pow]
      rfl
    rw [hframe, hcls, hplc] at hl
    refine ⟨fun hno => ?_, fun hok h5 => ?_, fun hok h5 => ?_⟩
    · exact hl.trans (if_pos (Bool.not_eq_false _ ▸ (leaf_allows need e cls).not.mpr hno))
    · refine hl.trans ((if_neg (Bool.not_eq_true _ ▸ (leaf_allows need e cls).mpr hok)).trans ((if_neg (by rw [h5]; decide)).trans ?_))
      simp only [Bool.and_eq_true, Bool.or_eq_true, decide_eq_true_eq, bne_iff_ne, ge_iff_le]
      rfl
    · exact hl.trans ((if_neg (Bool.not_eq_true _ ▸ (leaf_allows need e cls).mpr hok)).trans (if_pos h5))

/-- Settles O38, from the addresses and traps of lanes, the apertures and the translation. -/
theorem laneAccesses : Obligations.LaneAccesses := ⟨⟨laneAddresses, failingLanesTrap, laneTrapRecord⟩, apertures, translation⟩

end Sys2Proof.Machine
end

section
/-! PROOF of O22: accesses in flight, what performing their units reads and writes, and their end. -/
namespace Sys2Proof.Machine

set_option Elab.async false

/-! ## Accesses put into flight -/

theorem not_all_done {us : List MUnit} (h : ∃ u ∈ us, u.done = false) : ¬ (us.all fun u => u.done) = true := by
  obtain ⟨u, hu, hd⟩ := h
  rw [List.all_eq_true]
  exact fun hall => by simp [hall u hu] at hd

/-- An access as it stands in the table. -/
def State.inFlightAs (s : State) (o : MemOp) : MemOp :=
  { o with id := s.nextId, inTrap := o.splits.any fun k => !(s.sp k).traps.isEmpty }

theorem State.startOp_load {s : State} {o : MemOp} (h : ∃ u ∈ o.units, u.done = false) (hl : o.isLoad = true) :
    s.startOp o = { s with
      nextId := s.nextId + 1
      ops := s.ops ++ [s.inFlightAs o]
      groups := mset {} s.groups o.gid { s.gr o.gid with ldc := (s.gr o.gid).ldc + 1 }
      pendV := o.rows.foldl (fun m r => mset 0 m (rowKey o.gid r) (s.nextId + 1)) s.pendV
      pendS := if o.sreg = 0 then s.pendS else mset 0 s.pendS (o.sreg - 1) (s.nextId + 1) } := by
  refine (if_neg (not_all_done h)).trans ((if_pos hl).trans ?_)
  by_cases hs : o.sreg = 0
  · refine (if_pos hs).trans ?_
    rw [if_pos hs]
    rfl
  · refine (if_neg hs).trans ?_
    rw [if_neg hs]
    rfl

theorem State.startOp_store {s : State} {o : MemOp} (h : ∃ u ∈ o.units, u.done = false) (hl : o.isLoad = false) :
    s.startOp o = { s with
      nextId := s.nextId + 1
      ops := s.ops ++ [s.inFlightAs o]
      groups := mset {} s.groups o.gid { s.gr o.gid with stc := (s.gr o.gid).stc + 1 } } :=
  (if_neg (not_all_done h)).trans (if_neg (Bool.eq_false_iff.mp hl))

theorem rowKey_injective (g : Nat) : Function.Injective (rowKey g) := fun a b h => by
  simpa [rowKey] using h

/-- Every key of a list that is set to one value reads as it. -/
theorem mget_foldl_mset_const {α β : Type} [DecidableEq α] (d v : α) (key : β → Nat) {l : List β} {x : β} (hx : x ∈ l) (m : Map α) :
    mget d (l.foldl (fun m y => mset d m (key y) v) m) (key x) = v := by
  induction l using List.reverseRecOn with
  | nil => simp at hx
  | append_singleton l y ih =>
    rw [List.foldl_append, List.foldl_cons, List.foldl_nil, mget_mset]
    split
    · rfl
    · next hne =>
      refine ih ?_
      rcases List.mem_append.mp hx with h | h
      · exact h
      · rw [List.mem_singleton.mp h] at hne
        exact absurd rfl hne

/-- R36, R174. -/
theorem accessesInFlight : Claims.AccessesInFlight := by
  intro s o h t x
  cases hl : o.isLoad with
  | true =>
    have ht : t = _ := State.startOp_load h hl
    rw [ht]
    refine ⟨rfl, rfl, fun _ => ⟨mget_mset_self _ _ _ _, fun r hr => mget_foldl_mset_const 0 _ (rowKey o.gid) hr _, fun hs => ?_⟩, nofun,
      rfl, rfl, rfl, rfl, rfl, rfl⟩
    dsimp only
    rw [if_neg hs, mget_mset_self]
  | false =>
    have ht : t = _ := State.startOp_store h hl
    rw [ht]
    exact ⟨rfl, rfl, nofun, fun _ => ⟨mget_mset_self _ _ _ _, rfl, rfl⟩, rfl, rfl, rfl, rfl, rfl, rfl⟩

/-! ## The events that perform a unit -/

theorem mem_of_find_id {s : State} {o : MemOp} (h : s.ops.find? (fun x => x.id == o.id) = some o) : o ∈ s.ops := List.mem_of_find?_eq_some h

/-- The event of a unit performs it. -/
theorem exec_unitEvent {s : State} {o : MemOp} (h : s.ops.find? (fun x => x.id == o.id) = some o) (i : Nat) :
    exec (if o.isLoad then Instr.loadDataReturn o.id i else Instr.storePerformed o.id i) s = .next (s.performUnit o.id i) := by
  have hm := mem_of_find_id h
  cases hl : o.isLoad with
  | true =>
    have hany : (s.ops.any fun x => x.id == o.id && x.isLoad) = true := List.any_eq_true.mpr ⟨o, hm, by simp [hl]⟩
    change execLoadDataReturn o.id i s = _
    rw [execLoadDataReturn, if_pos hany]
  | false =>
    have hany : (s.ops.any fun x => x.id == o.id && !x.isLoad) = true := List.any_eq_true.mpr ⟨o, hm, by simp [hl]⟩
    change execStorePerformed o.id i s = _
    rw [execStorePerformed, if_pos hany]

/-- The state in which a unit is performed: a release at a scope of a cluster or wider first writes the core's L1 back. -/
def State.readyFor (s : State) (o : MemOp) : State := if o.rel = true ∧ 2 ≤ o.scope then s.cleanAllL1 o.core else s

/-- A store notes the OWN block that it wrote. -/
def State.notedBy (t : State) (o : MemOp) (u : MUnit) : State := if o.isStore then t.noteOwn (t.launchOf o.gid) u.place else t

theorem performUnit_held {s : State} {o : MemOp} {i : Nat} {u : MUnit} (h : s.ops.find? (fun x => x.id == o.id) = some o)
    (hu : o.units[i]? = some u) (hw : u.done = true ∨ s.mayPerform o i u = false) : s.performUnit o.id i = s := by
  have hc : (u.done || !s.mayPerform o i u) = true := by
    rcases hw with h | h <;> simp [h]
  rw [State.performUnit, h]
  dsimp only
  rw [hu]
  exact if_pos hc

/-- A unit that nothing holds up: the state in which it waits, or the one in which it is done. -/
theorem performUnit_plain {s : State} {o : MemOp} {i : Nat} {u : MUnit} (h : s.ops.find? (fun x => x.id == o.id) = some o)
    (hu : o.units[i]? = some u) (hr : o.inRegion = false) (hd : u.done = false) (hm : s.mayPerform o i u = true) :
    (∀ t, (s.readyFor o).doUnit o i u = .error t → s.performUnit o.id i = t)
    ∧ ∀ t v bad, (s.readyFor o).doUnit o i u = .ok (t, v, bad) → s.performUnit o.id i = (t.notedBy o u).unitDone o.id i v bad := by
  have hc : ¬ (u.done || !s.mayPerform o i u) = true := by simp [hd, hm]
  have hrel : (if (o.rel && decide (2 ≤ o.scope)) = true then s.cleanAllL1 o.core else s) = s.readyFor o := by
    simp only [State.readyFor, Bool.and_eq_true, decide_eq_true_eq]
  have hreg : s.regionOf o = none := by simp [State.regionOf, hr]
  refine ⟨fun t ht => ?_, fun t v bad ht => ?_⟩
  all_goals
    rw [State.performUnit, h]
    dsimp only
    rw [hu]
    refine (if_neg hc).trans ?_
    simp only [hreg, hrel, ht, State.notedBy]

/-! ## Units performed in the buffers of a core and in host memory -/

theorem State.correct_clean {s : State} (core space o n : Nat) (h : ∀ x, s.soft.contains x = false) : s.correct core space o n = s := by
  have hs : s.soft = [] := by
    cases hl : s.soft with
    | nil => rfl
    | cons x xs => simpa [hl] using h x
  simp [State.correct, hs]

/-- Nothing keeps a unit in one place from its bytes: they are not lost, under test, or in error. -/
structure Reachable (s : State) (o : MemOp) (u : MUnit) : Prop where
  one : u.hi = none
  kept : s.placeLost u.place = false
  untested : s.placeTested o.core u.place u.size = false
  good : s.placeBad u.place = false

/-- A load in ABUF where no word is in error. -/
theorem Reachable.doUnit_abuf_load {s : State} {o : MemOp} {u : MUnit} (h : Reachable s o u) (i : Nat) {c a : Nat} (hp : u.place = .abuf c a)
    (hk : o.kind = .load ∨ o.kind = .sload) (hs : s.soft = []) (hpo : s.poison = []) :
    s.doUnit o i u = .ok (s, BitVec.ofNat 64 (s.flatRead (.abuf c a) u.size), false) := by
  have hc : s.correct c 0 a u.size = s := State.correct_clean c 0 a u.size (by simp [hs])
  have hg : s.poisoned c 0 a u.size = false := by simp [State.poisoned, hpo]
  obtain ⟨hh, hl, ht, hb⟩ := h
  rw [hp] at hl ht hb
  rcases hk with hk | hk <;> simp [State.doUnit, MUnit.places, hh, hp, hl, ht, hb, hk, hc, hg, Place.poisonAt]

/-- A store in ABUF where no word stands with a correctable error. -/
theorem Reachable.doUnit_abuf_store {s : State} {o : MemOp} {u : MUnit} (h : Reachable s o u) (i : Nat) {c a : Nat} (hp : u.place = .abuf c a)
    (hk : o.kind = .store) (hs : ∀ x, s.soft.contains x = false) :
    s.doUnit o i u = .ok (s.flatWrite (.abuf c a) u.size u.value.toNat, 0, false) := by
  have hc : s.correct c 0 a u.size = s := State.correct_clean c 0 a u.size hs
  obtain ⟨hh, hl, ht, hb⟩ := h
  rw [hp] at hl ht hb
  simp [State.doUnit, MUnit.places, hh, hp, hl, ht, hk, hc, Place.poisonAt]

theorem Reachable.doUnit_host_load {s : State} {o : MemOp} {u : MUnit} (h : Reachable s o u) (i : Nat) {a f : Nat} (hp : u.place = .host a f)
    (hk : o.kind = .load ∨ o.kind = .sload) : s.doUnit o i u = .ok (s, BitVec.ofNat 64 (s.flatRead (.host a f) u.size), false) := by
  obtain ⟨hh, hl, ht, hb⟩ := h
  rw [hp] at hl ht hb
  rcases hk with hk | hk <;> simp [State.doUnit, MUnit.places, hh, hp, hl, ht, hb, hk, Place.poisonAt]

theorem Reachable.doUnit_host_atom {s : State} {o : MemOp} {u : MUnit} (h : Reachable s o u) (i : Nat) {a f op ty : Nat} {r : Bool}
    (hp : u.place = .host a f) (hk : o.kind = .atom op ty r) :
    s.doUnit o i u = .ok (s.flatWrite (.host a f) u.size (atomOp op ty (s.flatRead (.host a f) u.size) u.value.toNat u.cmp.toNat),
      BitVec.ofNat 64 (s.flatRead (.host a f) u.size), false) := by
  obtain ⟨hh, hl, ht, hb⟩ := h
  rw [hp] at hl ht hb
  simp [State.doUnit, MUnit.places, hh, hp, hl, ht, hb, hk, Place.poisonAt]

/-- A load of local memory reads its sector. -/
theorem Reachable.doUnit_mem_load {s : State} {o : MemOp} {u : MUnit} (h : Reachable s o u) (i : Nat) {pa cls home : Nat}
    (hp : u.place = .mem pa cls home) (hk : o.kind = .load ∨ o.kind = .sload) :
    s.doUnit o i u = (s.readSector o.core (pa / 64) cls home o.scope).map
      fun r => (r.1, BitVec.ofNat 64 (sectorPart r.2 (pa / 64) pa u.size), false) := by
  obtain ⟨hh, hl, ht, hb⟩ := h
  rw [hp] at hl ht hb
  rcases hk with hk | hk <;> simp [State.doUnit, MUnit.places, hh, hp, hl, ht, hb, hk]

theorem Reachable.doUnit_mem_store {s : State} {o : MemOp} {u : MUnit} (h : Reachable s o u) (i : Nat) {pa cls home : Nat}
    (hp : u.place = .mem pa cls home) (hk : o.kind = .store) :
    s.doUnit o i u = (s.writeSector o.core (pa / 64) cls home (sectorMask (pa / 64) pa u.size)
      (sectorImage (pa / 64) pa u.size u.value.toNat) o.id i).map fun r => (r.1, 0, false) := by
  obtain ⟨hh, hl, ht, hb⟩ := h
  rw [hp] at hl ht hb
  simp [State.doUnit, MUnit.places, hh, hp, hl, ht, hk]

theorem Reachable.doUnit_mem_atom {s : State} {o : MemOp} {u : MUnit} (h : Reachable s o u) (i : Nat) {pa cls home op ty : Nat} {r : Bool}
    (hp : u.place = .mem pa cls home) (hk : o.kind = .atom op ty r) :
    s.doUnit o i u = (s.atomSector o.core (pa / 64) cls home fun x =>
        (sectorMask (pa / 64) pa u.size,
          sectorImage (pa / 64) pa u.size (atomOp op ty (sectorPart x (pa / 64) pa u.size) u.value.toNat u.cmp.toNat))).map
      fun r => (r.1, BitVec.ofNat 64 (sectorPart r.2 (pa / 64) pa u.size), false) := by
  obtain ⟨hh, hl, ht, hb⟩ := h
  rw [hp] at hl ht hb
  simp [State.doUnit, MUnit.places, hh, hp, hl, ht, hb, hk]

/-- R36, R174. -/
theorem accessUnitsPerformed : Claims.AccessUnitsPerformed := by
  intro s o i u hfind hu hr ev ready noted
  have hev : exec ev s = .next (s.performUnit o.id i) := exec_unitEvent hfind i
  refine ⟨fun hw => by rw [hev, performUnit_held hfind hu hw], fun hd hm => ?_⟩
  obtain ⟨herror, hok⟩ := performUnit_plain hfind hu hr hd hm
  refine ⟨fun t ht => by rw [hev, herror t ht], fun t v bad ht => by rw [hev, hok t v bad ht]; rfl, fun core a hk hp hh hsoft htest => ?_⟩
  have hreach : Reachable ready o u := ⟨hh, by rw [hp]; rfl, by rw [hp]; exact htest, by rw [hp]; rfl⟩
  obtain ⟨hin, hout⟩ := foldl_mset_bytes ready.abuf (core * 2 ^ 22 + a) u.size u.value.toNat
  refine ⟨ready.flatWrite (.abuf core a) u.size u.value.toNat, ?_, hin, hout, rfl, rfl⟩
  have hnote : ∀ t : State, t.notedBy o u = t := fun t => by
    rw [State.notedBy, hp]
    exact ite_self _
  rw [hev, hok _ _ _ (hreach.doUnit_abuf_store i hp hk hsoft), hnote]

end Sys2Proof.Machine
end

section
/-! PROOF of O22, continued: what a unit that is done does, and the end of an access. -/
namespace Sys2Proof.Machine

set_option Elab.async false

/-! ## What the L1 of a core gives back -/

/-- The state s with what the caches of the device may change taken from t. -/
def State.takeCaches (s t : State) : State :=
  { s.takeChecks t with l1 := t.l1, l1Ways := t.l1Ways, l2Ways := t.l2Ways }

theorem takeCaches_trans {s t u : State} (h : t = s.takeCaches t) (h' : u = t.takeCaches u) : u = s.takeCaches u :=
  h'.trans (congrArg (fun x => x.takeCaches u) h)

theorem takeCaches_of_checks {s t : State} (h : t = s.takeChecks t) : t = s.takeCaches t := by
  rw [h]
  rfl

/-- A fold of steps that each change no more than the caches. -/
theorem takeCaches_foldl {α : Type} (f : State → α → State) (hf : ∀ s x, f s x = s.takeCaches (f s x)) (l : List α) (s : State) :
    l.foldl f s = s.takeCaches (l.foldl f s) :=
  foldl_keeps (fun t => t = s.takeCaches t) f (fun t x ht => takeCaches_trans ht (hf t x)) l s rfl

theorem State.setL1_takeCaches (s : State) (core sec : Nat) (v : Option L1Sector) : s.setL1 core sec v = s.takeCaches (s.setL1 core sec v) := rfl

theorem State.setL2_takeCaches (s : State) (d sec : Nat) (v : L2Sector) : s.setL2 d sec v = s.takeCaches (s.setL2 d sec v) := rfl

theorem State.countReq_takeCaches (s : State) (q : Req) : s.countReq q = s.takeCaches (s.countReq q) :=
  takeCaches_of_checks (s.countReq_takeChecks q)

theorem State.homeRead_takeCaches (s : State) (home sec : Nat) : (s.homeRead home sec).1 = s.takeCaches (s.homeRead home sec).1 :=
  takeCaches_of_checks (s.checkKeeps_homeRead home sec).all

theorem State.homeMerge_takeCaches (s : State) (home sec : Nat) (keep : BitVec 64) (data : Sector) :
    s.homeMerge home sec keep data = s.takeCaches (s.homeMerge home sec keep data) := by
  refine takeCaches_of_checks ?_
  have hu := (s.checkKeeps_llcUse home sec).all
  unfold State.homeMerge
  split
  · rfl
  · dsimp only
    split
    · exact takeChecks_trans hu rfl
    · exact takeChecks_trans (takeChecks_trans hu (State.checkKeeps_forceViews _ _ _ _).all) rfl

theorem State.touchL2_takeCaches (s : State) (die sec : Nat) : s.touchL2 die sec = s.takeCaches (s.touchL2 die sec) := by
  unfold State.touchL2
  dsimp only
  split <;> rfl

theorem State.evictSector_takeCaches (s : State) (die sec : Nat) : s.evictSector die sec = s.takeCaches (s.evictSector die sec) := by
  unfold State.evictSector
  extract_lets e d u v
  have hu : u = s.takeCaches u := by
    simp only [u]
    split
    · exact takeCaches_trans (s.countReq_takeCaches _) (State.homeMerge_takeCaches _ _ _ _ _)
    · rfl
  have hv : v = u.takeCaches v := by
    simp only [v]
    split <;> rfl
  exact takeCaches_trans (takeCaches_trans hu hv) (v.setL2_takeCaches _ _ _)

theorem State.roomL2_takeCaches {s t : State} {die sec : Nat} (h : s.roomL2 die sec = some t) : t = s.takeCaches t := by
  unfold State.roomL2 at h
  dsimp only at h
  split at h
  · rw [← Option.some.inj h]
    exact s.touchL2_takeCaches die sec
  · split at h
    · rw [← Option.some.inj h]
      rfl
    · split at h
      · cases h
      · rw [← Option.some.inj h]
        exact takeCaches_trans (takeCaches_foldl _ (fun t sec => t.evictSector_takeCaches die sec) _ s) rfl

theorem State.cleanL1_takeCaches (s : State) (core sec : Nat) : s.cleanL1 core sec = s.takeCaches (s.cleanL1 core sec) := by
  unfold State.cleanL1
  split
  · rfl
  · split
    · rfl
    · dsimp only
      split
      · exact takeCaches_trans (takeCaches_trans (s.countReq_takeCaches _) (State.homeMerge_takeCaches _ _ _ _ _)) (State.setL1_takeCaches _ _ _ _)
      next t ht =>
        refine takeCaches_trans (State.roomL2_takeCaches ht) (takeCaches_trans (takeCaches_trans ?_ (State.setL2_takeCaches _ _ _ _))
          (State.setL1_takeCaches _ _ _ _))
        split
        · rfl
        · exact takeCaches_trans (t.countReq_takeCaches _) (State.homeRead_takeCaches _ _ _)

theorem State.dropCleanL1_takeCaches (s : State) (core level : Nat) : s.dropCleanL1 core level = s.takeCaches (s.dropCleanL1 core level) := by
  unfold State.dropCleanL1
  refine takeCaches_foldl _ (fun t sec => ?_) _ s
  split
  · split
    · exact takeCaches_trans (t.cleanL1_takeCaches core sec) (State.setL1_takeCaches _ _ _ _)
    · rfl
  · rfl

/-! ## The end of an access -/

/-- The table without an access, and its acquire performed. -/
def State.withoutOp (s : State) (o : MemOp) : State :=
  if o.acq then ({ s with ops := s.ops.filter fun x => x.id != o.id } : State).dropCleanL1 o.core (acqDrop o.scope)
  else { s with ops := s.ops.filter fun x => x.id != o.id }

theorem State.withoutOp_takeCaches (s : State) (o : MemOp) :
    s.withoutOp o = ({ s with ops := s.ops.filter fun x => x.id != o.id } : State).takeCaches (s.withoutOp o) := by
  unfold State.withoutOp
  split
  · exact State.dropCleanL1_takeCaches _ _ _
  · rfl

/-- The state s with other rows of the vector registers. -/
def State.vregAs (s : State) (m : Map Word32) : State := { s with vreg := m }

theorem State.writeRows_vregAs (s : State) (o : MemOp) : ∃ m, s.writeRows o = s.vregAs m := by
  refine foldl_keeps (fun t => ∃ m, t = s.vregAs m) _ (fun t l ht => ?_) _ s ⟨s.vreg, rfl⟩
  refine foldl_keeps (fun t => ∃ m, t = s.vregAs m) _ (fun t p ht => ?_) _ t ht
  obtain ⟨m, hm⟩ := ht
  exact ⟨_, by rw [hm]; rfl⟩

/-- The state s with other open regions and other splits. -/
def State.orderAs (s : State) (rg : Map (Option Region)) (sp : Map Split) : State := { s with regions := rg, splits := sp }

theorem State.observe_orderAs (s : State) (o : MemOp) : ∃ rg, s.observe o = s.orderAs rg s.splits := by
  refine foldl_keeps (fun t => ∃ rg, t = s.orderAs rg s.splits) _ (fun t k ht => ?_) _ s ⟨s.regions, rfl⟩
  obtain ⟨rg, hr⟩ := ht
  rw [hr]
  split
  · exact ⟨rg, rfl⟩
  · exact ⟨_, rfl⟩

theorem State.markEccu_orderAs (s : State) (o : MemOp) : ∃ sp, s.markEccu o = s.orderAs s.regions sp := by
  unfold State.markEccu
  dsimp only
  split
  · exact ⟨s.splits, rfl⟩
  · split
    · exact ⟨_, rfl⟩
    · exact ⟨_, rfl⟩
    · exact ⟨s.splits, rfl⟩

/-- The scalars after a load's scalar was written. -/
def MemOp.scalarInto (o : MemOp) (m : Map Word64) : Map Word64 :=
  if o.sreg = 0 then m else mset 0 m (o.sreg - 1) (if o.laneBad 0 then 0 else BitVec.ofNat 64 (o.laneVal 0))

theorem mget_scalarInto (o : MemOp) (m : Map Word64) (key : Nat) {v : Nat} {bad : Bool} (hv : o.laneVal 0 = v) (hb : o.laneBad 0 = bad) :
    mget 0 (o.scalarInto m) key = if o.sreg ≠ 0 ∧ key = o.sreg - 1 then (if bad then 0 else BitVec.ofNat 64 v) else mget 0 m key := by
  unfold MemOp.scalarInto
  rw [hv, hb]
  by_cases hs : o.sreg = 0
  · simp [hs]
  · simp [hs, mget_mset]

theorem State.writeScalar_eq (s : State) (o : MemOp) : s.writeScalar o = { s with sreg := o.scalarInto s.sreg } := by
  unfold State.writeScalar MemOp.scalarInto
  split <;> rfl

/-- What is left of an access that is not a load once its last unit is done. -/
theorem State.finishOp_store {s : State} {o : MemOp} (hl : o.isLoad = false) :
    (s.finishOp o).ops = s.ops.filter (fun x => x.id != o.id)
      ∧ (s.finishOp o).gr o.gid = { s.gr o.gid with stc := (s.gr o.gid).stc - 1 }
      ∧ (s.finishOp o).vreg = s.vreg ∧ (s.finishOp o).sreg = s.sreg := by
  have hc := s.withoutOp_takeCaches o
  have hf : s.finishOp o = ((s.withoutOp o).modGr o.gid fun g => { g with stc := g.stc - 1 }).wake :=
    congrArg State.wake (if_neg (Bool.eq_false_iff.mp hl))
  generalize s.withoutOp o = u at hc hf
  have hops := congrArg State.ops hc
  have hvreg := congrArg State.vreg hc
  have hsreg := congrArg State.sreg hc
  have hg : u.gr o.gid = s.gr o.gid := congrArg (fun x => x.gr o.gid) hc
  rw [hf, ← hg]
  exact ⟨hops, mget_mset_self _ _ _ _, hvreg, hsreg⟩

/-- What is left of a load once its last unit is done: its data in its registers, its counter, and what awaits it. -/
theorem State.finishOp_load {s : State} {o : MemOp} (hl : o.isLoad = true) :
    (s.finishOp o).ops = s.ops.filter (fun x => x.id != o.id)
      ∧ (s.finishOp o).gr o.gid = { s.gr o.gid with ldc := (s.gr o.gid).ldc - 1 }
      ∧ (s.finishOp o).pendV = s.pendV.filter (fun p => p.2 != o.id + 1) ∧ (s.finishOp o).pendS = s.pendS.filter (fun p => p.2 != o.id + 1)
      ∧ (s.finishOp o).sreg = o.scalarInto s.sreg
      ∧ ∃ u : State, u.vreg = s.vreg ∧ (s.finishOp o).vreg = (u.writeRows o).vreg := by
  have hc := s.withoutOp_takeCaches o
  have hf : s.finishOp o =
      (let v := ((((s.withoutOp o).writeRows o).writeScalar o).observe o).markEccu o
       let w := v.modGr o.gid fun g => { g with ldc := g.ldc - 1 }
       ({ w with pendV := w.pendV.filter (fun p => p.2 != o.id + 1), pendS := w.pendS.filter fun p => p.2 != o.id + 1 } : State).wake) :=
    congrArg State.wake (if_pos hl)
  generalize s.withoutOp o = u at hc hf
  have hops := congrArg State.ops hc
  have hvreg := congrArg State.vreg hc
  have hsreg := congrArg State.sreg hc
  have hg : u.gr o.gid = s.gr o.gid := congrArg (fun x => x.gr o.gid) hc
  obtain ⟨m, hm⟩ := u.writeRows_vregAs o
  obtain ⟨rg, hrg⟩ := State.observe_orderAs ({ u.vregAs m with sreg := o.scalarInto u.sreg } : State) o
  obtain ⟨sp, hsp⟩ := State.markEccu_orderAs (({ u.vregAs m with sreg := o.scalarInto u.sreg } : State).orderAs rg u.splits) o
  have hv : (((u.writeRows o).writeScalar o).observe o).markEccu o
      = ({ u.vregAs m with sreg := o.scalarInto u.sreg } : State).orderAs rg sp := by
    rw [hm, State.writeScalar_eq]
    exact (congrArg (fun x => x.markEccu o) hrg).trans hsp
  have hpendV := congrArg State.pendV hc
  have hpendS := congrArg State.pendS hc
  rw [hf, hv, ← hg]
  refine ⟨hops, mget_mset_self _ _ _ _, congrArg (List.filter _) hpendV, congrArg (List.filter _) hpendS, congrArg o.scalarInto hsreg, u, hvreg, ?_⟩
  · rw [hm]
    rfl

/-! ## The rows of a load -/

theorem rowGet_rowSet (s : State) (g r l r' l' : Nat) (w : Word32) (hl : l < 32) (hl' : l' < 32) :
    (s.rowSet g r l w).rowGet g r' l' = if r' = r ∧ l' = l then w else s.rowGet g r' l' := by
  have hk : vKey g r' l' = vKey g r l ↔ r' = r ∧ l' = l := by
    simp only [vKey]
    omega
  rw [State.rowGet, State.rowSet, mget_mset]
  simp only [hk]
  rfl

/-- The rows that a lane of a load writes. -/
def State.writeLane (s : State) (o : MemOp) (l : Nat) (ps : List (Nat × Word32)) : State := ps.foldl (fun t p => t.rowSet o.gid p.1 l p.2) s

/-- A row that a lane does not write, or the row of another lane. -/
theorem rowGet_writeLane_other (s : State) (o : MemOp) {l l' r : Nat} (hl : l < 32) (hl' : l' < 32) (ps : List (Nat × Word32))
    (h : l' ≠ l ∨ ∀ p ∈ ps, p.1 ≠ r) : (s.writeLane o l ps).rowGet o.gid r l' = s.rowGet o.gid r l' := by
  induction ps generalizing s with
  | nil => rfl
  | cons p ps ih =>
    refine (ih (s.rowSet o.gid p.1 l p.2) (h.imp_right fun h q hq => h q (by simp [hq]))).trans ?_
    rw [rowGet_rowSet _ _ _ _ _ _ _ hl hl', if_neg]
    rintro ⟨rfl, rfl⟩
    rcases h with h | h
    · exact h rfl
    · exact h p (by simp) rfl

theorem rowGet_writeLane (s : State) (o : MemOp) {l r : Nat} {w : Word32} (hl : l < 32) (ps : List (Nat × Word32))
    (hn : (ps.map fun p => p.1).Nodup) (hm : (r, w) ∈ ps) : (s.writeLane o l ps).rowGet o.gid r l = w := by
  induction ps generalizing s with
  | nil => simp at hm
  | cons p ps ih =>
    rw [List.map_cons, List.nodup_cons] at hn
    rcases List.mem_cons.mp hm with rfl | hm
    · refine (rowGet_writeLane_other (s.rowSet o.gid r l w) o hl hl ps (.inr fun q hq hqr => hn.1 ?_)).trans ?_
      · exact List.mem_map.mpr ⟨q, hq, hqr⟩
      · rw [rowGet_rowSet _ _ _ _ _ _ _ hl hl, if_pos ⟨rfl, rfl⟩]
    · exact ih (s.rowSet o.gid p.1 l p.2) hn.2 hm

theorem writeRows_eq (s : State) (o : MemOp) :
    s.writeRows o = (lanesOf o.lanes).foldl (fun t l => t.writeLane o l (o.rows.zip (o.laneWords l))) s := rfl

theorem rowGet_foldLanes_other (o : MemOp) {l r : Nat} (hl : l < 32) (ls : List Nat) (hls : ∀ l' ∈ ls, l' < 32) (s : State)
    (h : l ∉ ls ∨ r ∉ o.rows) :
    (ls.foldl (fun t l => t.writeLane o l (o.rows.zip (o.laneWords l))) s).rowGet o.gid r l = s.rowGet o.gid r l := by
  induction ls generalizing s with
  | nil => rfl
  | cons x ls ih =>
    rw [List.foldl_cons, ih (fun l' h => hls l' (by simp [h])) _ (h.imp_left fun h hx => h (by simp [hx]))]
    refine rowGet_writeLane_other s o (hls x (by simp)) hl _ (h.imp (fun h hx => h (by simp [hx])) fun h p hp hpr => h ?_)
    rw [← hpr]
    exact (List.of_mem_zip hp).1

/-- A row of a load in a lane that it has. -/
theorem rowGet_writeRows {s : State} {o : MemOp} {l j r : Nat} {w : Word32} (hn : o.rows.Nodup) (hb : bit o.lanes l = true) (hl : l < 32)
    (hlen : o.rows.length ≤ (o.laneWords l).length) (hr : o.rows[j]? = some r) (hw : (o.laneWords l)[j]? = some w) : (s.writeRows o).rowGet o.gid r l = w := by
  have hmem : l ∈ lanesOf o.lanes := mem_lanesOf.mpr ⟨hl, hb⟩
  obtain ⟨as, bs, hab⟩ := List.append_of_mem hmem
  have hnd : (as ++ l :: bs).Nodup := hab ▸ nodup_lanesOf o.lanes
  have hbs : l ∉ bs := (List.nodup_cons.mp (List.nodup_append.mp hnd).2.1).1
  have hlt : ∀ l' ∈ bs, l' < 32 := fun l' h => (mem_lanesOf.mp (show l' ∈ lanesOf o.lanes by rw [hab]; simp [h])).1
  rw [writeRows_eq, hab, List.foldl_append, List.foldl_cons, rowGet_foldLanes_other o hl bs hlt _ (.inl hbs)]
  refine rowGet_writeLane _ o hl _ ?_ ?_
  · rwa [List.map_fst_zip hlen]
  · exact List.mem_of_getElem? (List.getElem?_zip_eq_some.mpr ⟨hr, hw⟩)

/-- The rows of a lane that a load does not have, and the other rows. -/
theorem rowGet_writeRows_other {s : State} {o : MemOp} {l r : Nat} (hl : l < 32) (h : bit o.lanes l = false ∨ r ∉ o.rows) :
    (s.writeRows o).rowGet o.gid r l = s.rowGet o.gid r l := by
  rw [writeRows_eq]
  refine rowGet_foldLanes_other o hl _ (fun l' h => (mem_lanesOf.mp h).1) s (h.imp_left fun hb hm => ?_)
  rw [(mem_lanesOf.mp hm).2] at hb
  cases hb

/-! ## The data of a load -/

/-- The bytes that a lane read. -/
theorem laneVal_eq (o : MemOp) (l : Nat) :
    o.laneVal l = ((o.units.filter fun x => x.lane == l).map fun x => x.value.toNat * 256 ^ x.off).sum := by
  rw [MemOp.laneVal, List.sum_eq_foldl, List.foldl_map, List.foldl_filter]
  congr 1
  funext acc u
  simp only [beq_iff_eq]

/-- Word j of a loaded value of `size` bytes in its registers, extended as the form says. -/
def extendedWord (size : Nat) (signed : Bool) (v j : Nat) : Word32 :=
  if 4 ≤ size then BitVec.ofNat 32 (v / 2 ^ (32 * j))
  else if signed = true ∧ 2 ^ (8 * size - 1) ≤ v then BitVec.ofInt 32 ((v : Int) - 2 ^ (8 * size)) else BitVec.ofNat 32 v

theorem length_loadWords (size : Nat) (signed : Bool) (v : Nat) : (loadWords size signed v).length = max 1 (size / 4) := by
  unfold loadWords
  split
  · rw [List.length_singleton]
    omega
  · rw [List.length_map, List.length_range]
    omega

theorem ofNat_wrapTo (i : Int) : BitVec.ofNat 32 (wrapTo 32 i) = BitVec.ofInt 32 i := by
  refine BitVec.eq_of_toNat_eq ?_
  rw [BitVec.toNat_ofNat, BitVec.toNat_ofInt, wrapTo]
  omega

/-- The top bit of a number of k + 1 bits. -/
theorem testBit_top {v k : Nat} (h : v < 2 ^ (k + 1)) : v.testBit k = decide (2 ^ k ≤ v) := by
  have hlt : v / 2 ^ k < 2 := (Nat.div_lt_iff_lt_mul (Nat.two_pow_pos k)).mpr (by rwa [← Nat.pow_succ'])
  have hge : 1 ≤ v / 2 ^ k ↔ 2 ^ k ≤ v := by
    rw [Nat.le_div_iff_mul_le (Nat.two_pow_pos k), Nat.one_mul]
  rw [Nat.testBit_eq_decide_div_mod_eq]
  refine decide_eq_decide.mpr ?_
  rw [← hge]
  generalize v / 2 ^ k = q at hlt
  omega

theorem getElem_loadWords {size : Nat} {signed : Bool} {v j : Nat} (hj : j < max 1 (size / 4)) (h0 : 0 < size) (hv : size < 4 → v < 256 ^ size) :
    (loadWords size signed v)[j]? = some (extendedWord size signed v j) := by
  unfold loadWords extendedWord
  by_cases h4 : size < 4
  · have hj0 : j = 0 := by
      have : size / 4 = 0 := Nat.div_eq_of_lt h4
      rw [this] at hj
      omega
    rw [if_pos h4, if_neg (show ¬ 4 ≤ size by omega), hj0, List.getElem?_cons_zero]
    cases signed with
    | false => simp
    | true =>
      have hk : 8 * size = 8 * size - 1 + 1 := by omega
      have hv' : v < 2 ^ (8 * size - 1 + 1) := by
        rw [← hk, Nat.pow_mul]
        exact hv h4
      have htop := testBit_top hv'
      simp only [elInt, htop, Bool.true_and, decide_eq_true_eq, true_and, if_true]
      split
      · rw [ofNat_wrapTo]
      · rw [ofNat_wrapTo, BitVec.ofInt_natCast]
  · have hj' : j < size / 4 := by omega
    rw [if_neg h4, if_pos (by omega), List.getElem?_map, List.getElem?_range hj']
    simp [Nat.shiftRight_eq_div_pow]

/-- The words of a lane of a load or of an ATOM. -/
theorem laneWords_plain {o : MemOp} (hk : o.kind = .load ∨ ∃ op ty, o.kind = .atom op ty true) (l : Nat) :
    o.laneWords l = if o.laneBad l then o.rows.map fun _ => 0 else loadWords o.size o.signed (o.laneVal l) := by
  unfold MemOp.laneWords
  rcases hk with hk | ⟨op, ty, hk⟩ <;> rw [hk]

theorem length_laneWords {o : MemOp} (hk : o.kind = .load ∨ ∃ op ty, o.kind = .atom op ty true) (hrows : o.rows.length = max 1 (o.size / 4))
    (l : Nat) : (o.laneWords l).length = o.rows.length := by
  rw [laneWords_plain hk]
  split
  · rw [List.length_map]
  · rw [length_loadWords, hrows]

theorem getElem_laneWords {o : MemOp} (hk : o.kind = .load ∨ ∃ op ty, o.kind = .atom op ty true) (hrows : o.rows.length = max 1 (o.size / 4))
    (h0 : 0 < o.size) {l j r : Nat} (hv : o.size < 4 → o.laneVal l < 256 ^ o.size) (hr : o.rows[j]? = some r) :
    (o.laneWords l)[j]? = some (if o.laneBad l then 0 else extendedWord o.size o.signed (o.laneVal l) j) := by
  have hj : j < max 1 (o.size / 4) := hrows ▸ (List.getElem?_eq_some_iff.mp hr).1
  rw [laneWords_plain hk]
  split
  · rw [List.getElem?_map, hr]
    rfl
  · exact getElem_loadWords hj h0 hv

/-! ## A unit that is done -/

/-- An access one of whose units is done, with what it read. -/
def MemOp.withUnit (o : MemOp) (i : Nat) (u : MUnit) (v : Word64) (bad : Bool) : MemOp :=
  { o with units := o.units.set i { u with done := true, bad := bad, value := if o.isLoad then v else u.value } }

/-- The table with an access whose unit is done. -/
def State.withOp (s : State) (x : MemOp) : State := { s with ops := updWhere s.ops (fun y => y.id == x.id) fun _ => x }

theorem unitDone_eq {s : State} {o : MemOp} {i : Nat} {u : MUnit} (v : Word64) (bad : Bool) (h : s.ops.find? (fun x => x.id == o.id) = some o)
    (hu : o.units[i]? = some u) :
    s.unitDone o.id i v bad =
      if ((o.withUnit i u v bad).units.all fun u => u.done) = true then (s.withOp (o.withUnit i u v bad)).finishOp (o.withUnit i u v bad)
      else (s.withOp (o.withUnit i u v bad)).wake := by
  rw [State.unitDone, h]
  simp only [List.modify_eq_set_getElem?, hu, Option.map_eq_map, Option.map_some, Option.getD_some]
  rfl

theorem filter_updWhere (l : List MemOp) (x : MemOp) :
    (updWhere l (fun y => y.id == x.id) fun _ => x).filter (fun y => y.id != x.id) = l.filter fun y => y.id != x.id := by
  induction l with
  | nil => rfl
  | cons y l ih =>
    by_cases hy : y.id = x.id
    · have h1 : updWhere (y :: l) (fun y => y.id == x.id) (fun _ => x) = x :: updWhere l (fun y => y.id == x.id) fun _ => x :=
        congrArg (· :: _) (if_pos (by simp [hy]))
      rw [h1, List.filter_cons_of_neg (by simp), List.filter_cons_of_neg (by simp [hy]), ih]
    · have h1 : updWhere (y :: l) (fun y => y.id == x.id) (fun _ => x) = y :: updWhere l (fun y => y.id == x.id) fun _ => x :=
        congrArg (· :: _) (if_neg (by simp [hy]))
      rw [h1, List.filter_cons_of_pos (by simp [hy]), List.filter_cons_of_pos (by simp [hy]), ih]

/-- An access that is not finished stands in the table with its unit done. -/
theorem mem_withOp {s : State} {o x : MemOp} (hid : x.id = o.id) (h : o ∈ s.ops) :
    (∃ y ∈ (s.withOp x).ops, y.id = o.id) ∧ ∀ y ∈ (s.withOp x).ops, y.id = o.id → y = x := by
  refine ⟨⟨x, List.mem_map.mpr ⟨o, h, if_pos (by simp [hid])⟩, hid⟩, fun y hy hyid => ?_⟩
  obtain ⟨z, -, hz⟩ := List.mem_map.mp hy
  split at hz
  · exact hz.symm
  · next hne =>
    exact absurd (by simp [hz, hyid, hid]) hne

theorem snd_ne_of_mem_filter {m : Map Nat} {x : Nat} : ∀ q ∈ m.filter (fun p => p.2 != x), q.2 ≠ x := fun q hq => by
  simpa using (List.mem_filter.mp hq).2

/-- R36, R174, R176, R396. -/
theorem unitsDone : Claims.UnitsDone := by
  intro s o i u v bad hfind hu t us failed value word
  have ht : t = _ := unitDone_eq v bad hfind hu
  have hval : ∀ l, (o.withUnit i u v bad).laneVal l = value l := fun l => laneVal_eq _ l
  have hbad : ∀ l, (o.withUnit i u v bad).laneBad l = failed l := fun _ => rfl
  refine ⟨fun hopen => ?_, fun hdone => ?_⟩
  · have hw : t = (s.withOp (o.withUnit i u v bad)).wake := ht.trans (if_neg (not_all_done hopen))
    rw [hw]
    obtain ⟨hmem, honly⟩ := mem_withOp (s := s) (o := o) (x := o.withUnit i u v bad) rfl (mem_of_find_id hfind)
    exact ⟨hmem, honly, rfl, rfl, rfl, rfl, rfl, rfl⟩
  · have hw : t = (s.withOp (o.withUnit i u v bad)).finishOp (o.withUnit i u v bad) := ht.trans (if_pos (List.all_eq_true.mpr hdone))
    have hops : ((s.withOp (o.withUnit i u v bad)).ops.filter fun y => y.id != o.id) = s.ops.filter fun y => y.id != o.id :=
      filter_updWhere s.ops (o.withUnit i u v bad)
    cases hl : o.isLoad with
    | false =>
      obtain ⟨h1, h2, h3, h4⟩ := State.finishOp_store (s := s.withOp (o.withUnit i u v bad)) (o := o.withUnit i u v bad) hl
      rw [hw]
      refine ⟨h1.trans hops, fun _ => ⟨h2, h3, h4⟩, nofun, fun hk => ?_⟩
      rcases hk with hk | ⟨op, ty, hk⟩ <;> simp [MemOp.isLoad, hk] at hl
    | true =>
      obtain ⟨h1, h2, h3, h4, h5, w, hwv, h6⟩ := State.finishOp_load (s := s.withOp (o.withUnit i u v bad)) (o := o.withUnit i u v bad) hl
      rw [hw]
      refine ⟨h1.trans hops, nofun, fun _ => ⟨h2, ?_, ?_, fun key => ?_⟩, fun hk hrows hnodup hsmall h0 l hlane => ⟨fun j r hb hr => ?_, fun r hr => ?_⟩⟩
      · rw [h3]
        exact snd_ne_of_mem_filter
      · rw [h4]
        exact snd_ne_of_mem_filter
      · rw [h5]
        exact mget_scalarInto _ s.sreg key (hval 0) (hbad 0)
      · have hrow := rowGet_writeRows (s := w) (o := o.withUnit i u v bad) hnodup hb hlane
          (length_laneWords (o := o.withUnit i u v bad) hk hrows l).ge hr
          (getElem_laneWords (o := o.withUnit i u v bad) hk hrows h0 (fun h => (hval l).trans_lt (hsmall h l)) hr)
        rw [hval, hbad] at hrow
        exact (congrArg (fun m => mget 0 m (vKey o.gid r l)) h6).trans hrow
      · have hrow := rowGet_writeRows_other (s := w) (o := o.withUnit i u v bad) hlane hr
        exact (congrArg (fun m => mget 0 m (vKey o.gid r l)) h6).trans (hrow.trans (congrArg (fun m => mget 0 m (vKey o.gid r l)) hwv))

end Sys2Proof.Machine
end

section
/-! PROOF of O22, concluded: the bytes that performing a unit reads and writes. -/
namespace Sys2Proof.Machine

set_option Elab.async false

/-! ## The bytes of sectors -/

theorem sectorByte (x : Sector) (i : Nat) : (x.toNat >>> (8 * i)) % 256 = x.toNat / 256 ^ i % 256 := by
  rw [Nat.shiftRight_eq_div_pow, Nat.pow_mul]

/-- The n bytes at a of the sector that holds them. -/
theorem sectorPart_eq (x : Sector) {a n : Nat} (h : a % 64 + n ≤ 64) :
    sectorPart x (a / 64) a n = x.toNat / 256 ^ (a % 64) % 256 ^ n := by
  have key : ∀ m, (List.range m).foldl (fun v i =>
      let b := 64 * (a / 64) + i
      if a ≤ b ∧ b < a + n then v + ((x.toNat >>> (8 * i)) % 256) * 256 ^ (b - a) else v) 0
      = x.toNat / 256 ^ (a % 64) % 256 ^ (min n (m - a % 64)) := by
    intro m
    induction m with
    | zero => simp [Nat.mod_one]
    | succ m ih =>
      rw [List.range_succ, List.foldl_append, ih, List.foldl_cons, List.foldl_nil, sectorByte]
      dsimp only
      split
      next hin =>
        have h1 : min n (m - a % 64) = m - a % 64 := by omega
        have h2 : min n (m + 1 - a % 64) = m - a % 64 + 1 := by omega
        have h3 : 64 * (a / 64) + m - a = m - a % 64 := by omega
        have h4 : x.toNat / 256 ^ m = x.toNat / 256 ^ (a % 64) / 256 ^ (m - a % 64) := by
          rw [Nat.div_div_eq_div_mul, ← Nat.pow_add]
          congr 2
          omega
        rw [h1, h2, h3, h4, Nat.pow_succ, Nat.mod_mul, Nat.mul_comm (256 ^ (m - a % 64))]
      next hout =>
        congr 2
        omega
  rw [sectorPart, key 64]
  congr 2
  omega

theorem mergeBytes_eq (keep : BitVec 64) (old new : Sector) :
    mergeBytes keep old new = BitVec.ofNat 512 (byteSum 64 fun i => (if bit keep i then new else old).toNat >>> (8 * i)) := rfl

theorem mergeBytes_byte (keep : BitVec 64) (old new : Sector) {j : Nat} (hj : j < 64) :
    (mergeBytes keep old new).toNat / 256 ^ j % 256 = (if bit keep j then new else old).toNat / 256 ^ j % 256 := by
  rw [mergeBytes_eq, toNat_ofNat_byteSum_64, byteSum_digit _ hj, sectorByte]

/-- The bytes of a sector into which a write of n bytes at a was merged. -/
theorem mergeBytes_write (x : Sector) {a n v j : Nat} (hj : j < 64) :
    (mergeBytes (sectorMask (a / 64) a n) x (sectorImage (a / 64) a n v)).toNat / 256 ^ j % 256 =
      if a % 64 ≤ j ∧ j < a % 64 + n then v / 256 ^ (j - a % 64) % 256 else x.toNat / 256 ^ j % 256 := by
  have hm : bit (sectorMask (a / 64) a n) j = decide (a % 64 ≤ j ∧ j < a % 64 + n) := by
    rw [sectorMask, bit_ofBits, decide_eq_true hj, Bool.true_and]
    exact decide_eq_decide.mpr (by omega)
  rw [mergeBytes_byte _ _ _ hj, hm]
  by_cases h : a % 64 ≤ j ∧ j < a % 64 + n
  · rw [if_pos h, if_pos (decide_eq_true h), sectorImage_byte hj (by omega), show 64 * (a / 64) + j - a = j - a % 64 by omega]
  · rw [if_neg h, if_neg (by simpa using h)]

/-! ## Bytes of buffers and of host memory as numbers -/

theorem foldl_bytes_eq_sum (f : Nat → Nat) (n : Nat) :
    (List.range n).foldl (fun v i => v + f i * 256 ^ i) 0 = ((List.range n).map fun j => f j * 256 ^ j).sum := by
  rw [List.sum_eq_foldl, List.foldl_map]

theorem leRead_eq_sum (m : List Host.Cell) (n : Nat) : ∀ a, leRead m a n = ((List.range n).map fun j => (byteAt m (a + j)).toNat * 256 ^ j).sum := by
  induction n with
  | zero => exact fun _ => rfl
  | succ n ih =>
    intro a
    rw [leRead, ih, List.range_succ_eq_map, List.map_cons, List.sum_cons, List.map_map, ← List.sum_map_mul_left]
    congr 1
    · simp
    · congr 1
      refine List.map_congr_left fun j _ => ?_
      simp only [Function.comp_apply, Nat.pow_succ, show a + 1 + j = a + (j + 1) by omega]
      ring

/-! ## Sectors read and held for writing -/

theorem uncached_near {cls home : Nat} (h : home < 32) : uncached cls home = false := by
  simp [uncached, h]

theorem readSector_l1 {s : State} {core sec cls home scope : Nat} {y : L1Sector} (hh : home < 32) (hc : cls < 4)
    (hs : cls = 1 ∨ (cls ≠ 3 ∧ scope ≤ 1)) (hy : s.l1At core sec = some y) :
    s.readSector core sec cls home scope = .ok (s.touchL1 core sec, y.data) := by
  unfold State.readSector
  simp only [uncached_near hh, Bool.false_eq_true, if_false]
  by_cases h1 : cls ≤ 1
  · have hw : cls = 1 ∨ scope ≤ 1 := by omega
    simp only [if_pos h1, if_pos hw, hy]
  · have h2 : cls = 2 := by omega
    have hw : scope ≤ 1 := by omega
    simp only [if_neg h1, if_pos h2, if_pos hw, hy]

theorem readSector_l2 {s : State} {core sec cls home : Nat} (scope : Nat) (hh : home < 32) (hc : cls ≤ 2) (hy : s.l1At core sec = none)
    (he : (s.l2At (dieOf core) sec).state ≠ 0) :
    ∃ t, s.readSector core sec cls home scope = .ok (t, (s.l2At (dieOf core) sec).data) := by
  have hclean : s.cleanL1 core sec = s := by rw [State.cleanL1, hy]
  unfold State.readSector
  simp only [uncached_near hh, Bool.false_eq_true, if_false, hy, ite_self, hclean, if_pos he]
  by_cases h1 : cls ≤ 1
  · rw [if_pos h1]
    exact ⟨_, rfl⟩
  · rw [if_neg h1, if_pos (show cls = 2 by omega)]
    exact ⟨_, rfl⟩

theorem readSector_asks {s : State} {core sec cls home : Nat} (scope : Nat) (hh : home < 32) (hc : cls ≤ 2) (hy : s.l1At core sec = none)
    (he : (s.l2At (dieOf core) sec).state = 0) :
    s.readSector core sec cls home scope =
      .error (s.ask { kind := if cls = 2 then 0 else 3, die := dieOf core, sector := sec, home := home, cls := cls }) := by
  have hclean : s.cleanL1 core sec = s := by rw [State.cleanL1, hy]
  unfold State.readSector
  simp only [uncached_near hh, Bool.false_eq_true, if_false, hy, ite_self, hclean, he, ne_eq, not_true_eq_false]
  by_cases h1 : cls ≤ 1
  · rw [if_pos h1, if_neg (show ¬ cls = 2 by omega)]
  · have h2 : cls = 2 := by omega
    rw [if_neg h1, if_pos h2, if_pos h2]

theorem exclusive_held {s : State} {core sec home : Nat} (atomic : Bool) (h : (s.l2At (dieOf core) sec).state = 2 ∨ (s.l2At (dieOf core) sec).state = 3) :
    s.exclusive core sec 2 home atomic = .ok (s, dieOf core) := by
  rw [State.exclusive, if_pos rfl]
  exact if_pos h

/-- The kind of the request for a COH sector that a die's L2 holds in a state in which it may not write. -/
def AskKind (state kind : Nat) : Prop := (state = 1 ∧ kind = 2) ∨ (state = 0 ∧ kind = 1)

theorem exclusive_asks {s : State} {core sec home kind : Nat} (atomic : Bool) (h : AskKind (s.l2At (dieOf core) sec).state kind) :
    s.exclusive core sec 2 home atomic =
      .error (s.ask { kind := kind, die := dieOf core, sector := sec, home := home, cls := 2 }) := by
  rw [State.exclusive, if_pos rfl]
  rcases h with ⟨h, rfl⟩ | ⟨h, rfl⟩ <;> simp [h]

theorem writeSector_held {s : State} {core sec home : Nat} (keep : BitVec 64) (data : Sector) (op unit : Nat) (hh : home < 32)
    (h : (s.l2At (dieOf core) sec).state = 2 ∨ (s.l2At (dieOf core) sec).state = 3) :
    s.writeSector core sec 2 home keep data op unit =
      .ok ((s.writeL2 (dieOf core) sec keep data).refreshL1 core sec keep data, ()) := by
  simp [State.writeSector, uncached_near hh, exclusive_held false h]

theorem writeSector_asks {s : State} {core sec home kind : Nat} (keep : BitVec 64) (data : Sector) (op unit : Nat) (hh : home < 32)
    (h : AskKind (s.l2At (dieOf core) sec).state kind) :
    s.writeSector core sec 2 home keep data op unit =
      .error (s.ask { kind := kind, die := dieOf core, sector := sec, home := home, cls := 2 }) := by
  simp [State.writeSector, uncached_near hh, exclusive_asks false h]

theorem atomSector_held {s : State} {core sec home : Nat} (f : Sector → BitVec 64 × Sector) (hh : home < 32)
    (h : (s.l2At (dieOf core) sec).state = 2 ∨ (s.l2At (dieOf core) sec).state = 3) :
    s.atomSector core sec 2 home f =
      .ok ((s.writeL2 (dieOf core) sec (f (s.l2At (dieOf core) sec).data).1 (f (s.l2At (dieOf core) sec).data).2).refreshL1 core sec
        (f (s.l2At (dieOf core) sec).data).1 (f (s.l2At (dieOf core) sec).data).2, (s.l2At (dieOf core) sec).data) := by
  simp [State.atomSector, uncached_near hh, exclusive_held true h]

theorem atomSector_asks {s : State} {core sec home kind : Nat} (f : Sector → BitVec 64 × Sector) (hh : home < 32)
    (h : AskKind (s.l2At (dieOf core) sec).state kind) :
    s.atomSector core sec 2 home f =
      .error (s.ask { kind := kind, die := dieOf core, sector := sec, home := home, cls := 2 }) := by
  simp [State.atomSector, uncached_near hh, exclusive_asks true h]

/-- What a write of v's low n bytes at a leaves of its sector in a die's L2. -/
def MergedIn (s t : State) (d a n v : Nat) : Prop :=
  (t.l2At d (a / 64)).state = 3 ∧ t.mem = s.mem ∧
    ∀ j < 64, (t.l2At d (a / 64)).data.toNat / 256 ^ j % 256 =
      if a % 64 ≤ j ∧ j < a % 64 + n then v / 256 ^ (j - a % 64) % 256 else (s.l2At d (a / 64)).data.toNat / 256 ^ j % 256

theorem touchL2_same (s : State) (d sec : Nat) : (s.touchL2 d sec).l2 = s.l2 ∧ (s.touchL2 d sec).mem = s.mem := by
  unfold State.touchL2
  dsimp only
  split <;> exact ⟨rfl, rfl⟩

theorem refreshL1_same (s : State) (core sec : Nat) (keep : BitVec 64) (data : Sector) :
    (s.refreshL1 core sec keep data).l2 = s.l2 ∧ (s.refreshL1 core sec keep data).mem = s.mem := by
  unfold State.refreshL1
  split <;> exact ⟨rfl, rfl⟩

theorem touchL1_same (s : State) (core sec : Nat) :
    (s.touchL1 core sec).l1 = s.l1 ∧ (s.touchL1 core sec).l2 = s.l2 ∧ (s.touchL1 core sec).mem = s.mem := by
  unfold State.touchL1
  dsimp only
  split <;> exact ⟨rfl, rfl, rfl⟩

theorem State.l2At_setL2 (s : State) (d sec : Nat) (v : L2Sector) : (s.setL2 d sec v).l2At d sec = v := mget_mset_self _ _ _ _

theorem mergedIn_writeL2 (s : State) (core d a n v : Nat) :
    MergedIn s ((s.writeL2 d (a / 64) (sectorMask (a / 64) a n) (sectorImage (a / 64) a n v)).refreshL1 core (a / 64)
      (sectorMask (a / 64) a n) (sectorImage (a / 64) a n v)) d a n v := by
  obtain ⟨hl2, hmem⟩ := refreshL1_same (s.writeL2 d (a / 64) (sectorMask (a / 64) a n) (sectorImage (a / 64) a n v)) core (a / 64)
    (sectorMask (a / 64) a n) (sectorImage (a / 64) a n v)
  have hat : ((s.writeL2 d (a / 64) (sectorMask (a / 64) a n) (sectorImage (a / 64) a n v)).refreshL1 core (a / 64)
      (sectorMask (a / 64) a n) (sectorImage (a / 64) a n v)).l2At d (a / 64) =
      { s.l2At d (a / 64) with
        state := 3
        data := mergeBytes (sectorMask (a / 64) a n) (s.l2At d (a / 64)).data (sectorImage (a / 64) a n v)
        dirty := (s.l2At d (a / 64)).dirty ||| sectorMask (a / 64) a n } := by
    rw [State.l2At, hl2]
    exact (s.touchL2 d (a / 64)).l2At_setL2 d (a / 64) _
  refine ⟨by rw [hat], hmem.trans (touchL2_same s d (a / 64)).2, fun j hj => ?_⟩
  rw [hat]
  exact mergeBytes_write _ hj

/-! ## What performing a unit reads and writes -/

theorem flatRead_abuf (s : State) (c a n : Nat) :
    s.flatRead (.abuf c a) n = ((List.range n).map fun j => (mget 0 s.abuf (c * 2 ^ 22 + a + j)).toNat * 256 ^ j).sum :=
  foldl_bytes_eq_sum (fun j => (mget 0 s.abuf (c * 2 ^ 22 + a + j)).toNat) n

theorem flatRead_host (s : State) (a f n : Nat) :
    s.flatRead (.host a f) n = ((List.range n).map fun j => (byteAt s.hostMem (a + j)).toNat * 256 ^ j).sum := leRead_eq_sum s.hostMem n a

/-- R174, R175, R180-R184, R321, R324, R327, R329. -/
theorem memoryUnits : Claims.MemoryUnits := by
  intro s o i u hlost htest hgood hh h0 hn n d gives loads after host
  have hu : Reachable s o u := ⟨hh, hlost, htest, hgood⟩
  refine ⟨fun c a hp hk hs hpo => ⟨s, ?_, rfl⟩, fun a f hp => ⟨fun hk => ⟨s, ?_, rfl⟩, fun op ty r hk => ?_⟩, fun pa cls home hp hhome hpa => ?_⟩
  · rw [hu.doUnit_abuf_load i hp hk hs hpo, flatRead_abuf]
  · rw [hu.doUnit_host_load i hp hk, flatRead_host]
  · have hd := hu.doUnit_host_atom i hp hk
    rw [flatRead_host] at hd
    exact ⟨_, hd, rfl, fun j hj => byteAt_leWrite n s.hostMem a _ j hj, fun b hb => byteAt_leWrite_other n s.hostMem a _ b hb⟩
  · intro sec e x part asks merged
    have hpart : ∀ z, sectorPart z sec pa n = part z := fun z => sectorPart_eq z hpa
    have hmerged : ∀ v, merged _ v := fun v => mergedIn_writeL2 s o.core d pa n v
    refine ⟨fun y hk hc hc4 hx => ?_, fun hk hc hx => ⟨fun he => ?_, fun he => ?_⟩, fun hk hc => ⟨fun he => ?_, fun he => ?_, fun he => ?_⟩,
      fun op ty r hk hc => ⟨fun he => ?_, fun he => ?_, fun he => ?_⟩⟩
    · refine ⟨s.touchL1 o.core sec, ?_, touchL1_same s o.core sec⟩
      rw [hu.doUnit_mem_load i hp hk, readSector_l1 hhome hc4 hc hx, ← hpart]
      rfl
    · obtain ⟨t, ht⟩ := readSector_l2 (s := s) (core := o.core) (sec := sec) o.scope hhome hc hx he
      refine ⟨t, ?_, trivial⟩
      rw [hu.doUnit_mem_load i hp hk, ht, ← hpart]
      rfl
    · change s.doUnit o i u = _
      rw [hu.doUnit_mem_load i hp hk, readSector_asks o.scope hhome hc hx he]
      rfl
    · subst hc
      refine ⟨_, ?_, hmerged _⟩
      rw [hu.doUnit_mem_store i hp hk, writeSector_held _ _ _ _ hhome he]
      rfl
    · subst hc
      change s.doUnit o i u = _
      rw [hu.doUnit_mem_store i hp hk, writeSector_asks _ _ _ _ hhome (.inl ⟨he, rfl⟩)]
      rfl
    · subst hc
      change s.doUnit o i u = _
      rw [hu.doUnit_mem_store i hp hk, writeSector_asks _ _ _ _ hhome (.inr ⟨he, rfl⟩)]
      rfl
    · subst hc
      have hd := hu.doUnit_mem_atom i hp hk
      rw [atomSector_held _ hhome he] at hd
      rw [← hpart]
      exact ⟨_, hd, hmerged _⟩
    · subst hc
      change s.doUnit o i u = _
      rw [hu.doUnit_mem_atom i hp hk, atomSector_asks _ hhome (.inl ⟨he, rfl⟩)]
      rfl
    · subst hc
      change s.doUnit o i u = _
      rw [hu.doUnit_mem_atom i hp hk, atomSector_asks _ hhome (.inr ⟨he, rfl⟩)]
      rfl

/-- Settles O22, from the start of an access, the events of its units, their end, and the bytes they read and write. -/
theorem accessesPerformed : Obligations.AccessesPerformed := ⟨accessesInFlight, accessUnitsPerformed, unitsDone, memoryUnits⟩

end Sys2Proof.Machine
end

section
/-! PROOF of O53: decoding and encoding agree. A word is its major, its S bit and below them the fields and the minor of its form.
That a decoded word is spelled by its instruction is followed through the branches of the decoder, putting the fields back on
top of each other (`put_bits_add_eq_mod`). That the word of an instruction decodes to it reads each field off the word that the
encoder stacks up (`bits_stack`). -/
namespace Sys2Proof.Machine

set_option Elab.async false

/-! ## Fields of a number -/

theorem mod_of_fld {w lo n v : Nat} (h : fld w lo n = v) : w % 2 ^ (lo + n) = v * 2 ^ lo + w % 2 ^ lo := by
  rw [← h, fld, Nat.pow_add, Nat.mod_mul, Nat.mul_comm, Nat.add_comm]

theorem eq_mod_iff_fld {w n m : Nat} : m = w % 2 ^ n ↔ fld w 0 n = m := by
  simp [fld, eq_comm]

theorem fld_width_zero (w lo : Nat) : fld w lo 0 = 0 := by simp [fld, Nat.mod_one]

theorem bits_toNat (n w lo : Nat) : (bits n w lo).toNat = fld w lo n := BitVec.toNat_ofNat _ _

theorem bits_eq_of_fld {n w v lo : Nat} (h : fld w lo n = fld v lo n) : bits n w lo = bits n v lo :=
  BitVec.eq_of_toNat_eq (by rw [bits_toNat, bits_toNat, h])

/-- A field that is put back onto the bits below it. -/
theorem put_bits_add_eq_mod {n w lo k r : Nat} (hk : lo + n = k) : put (bits n w lo) lo + r = w % 2 ^ k ↔ r = w % 2 ^ lo := by
  rw [← hk, mod_of_fld rfl, put, bits_toNat, Nat.add_left_cancel_iff]

theorem sVal_eq_put (e : Bool) : sVal e = put (BitVec.ofBool e) 25 := by
  cases e <;> rfl

theorem sVal_sBit (w : Nat) : sVal (sBit w) = fld w 25 1 * 2 ^ 25 := by
  have h : fld w 25 1 < 2 := Nat.mod_lt _ (by decide)
  interval_cases hf : fld w 25 1 <;> simp [sVal, sBit, hf]

/-- A word is its major, its S bit and what stands below. -/
theorem word_eq_major_s_low {w : Nat} (hw : w < 2 ^ 32) : w = fld w 26 6 * 2 ^ 26 + (sVal (sBit w) + w % 2 ^ 25) := by
  rw [sVal_sBit, ← mod_of_fld rfl, ← mod_of_fld rfl, Nat.mod_eq_of_lt hw]

/-! ## Words as the encoder joins them -/

theorem sum_cons_add (x m : Nat) (fs : List Nat) : (x :: fs).sum + m = x + (fs.sum + m) := by
  rw [List.sum_cons, Nat.add_assoc]

theorem sum_nil_add (m : Nat) : ([] : List Nat).sum + m = m := by
  rw [List.sum_nil, Nat.zero_add]

/-- The fixed bits of a form are its major, and below the fields its minor. -/
theorem join_eq (fixed : Nat) (e : Bool) (fs : List Nat) :
    join fixed e fs = fixed / 0x4000000 * 2 ^ 26 + (sVal e + (fs.sum + fixed % 0x4000000)) := by
  rw [join]
  omega

theorem join_eq_self {w fixed M : Nat} {fs : List Nat} (hw : w < 2 ^ 32) (hM : fld w 26 6 = M) (hf : fixed / 0x4000000 = M)
    (h : fs.sum + fixed % 0x4000000 = w % 2 ^ 25) : join fixed (sBit w) fs = w := by
  rw [join_eq, hf, h, ← hM, ← word_eq_major_s_low hw]

/-! ## Words that decode -/

/-- What this answer of the decoder brings has the word w. -/
def Spelled (w : Nat) (x : Except Reject Instr) : Prop := ∀ i, x = .ok i → encodeNat i = some w

theorem Spelled.reject {w : Nat} {r : Reject} : Spelled w (.error r) := fun _ => nofun

theorem Spelled.instr {v w : Nat} {i : Instr} (h : encodeNat i = some v) (hv : v = w) : Spelled w (.ok i) := by
  rintro _ ⟨⟩
  rw [h, hv]

/-- A field that must be zero adds nothing to the bits below it. -/
theorem Spelled.ifZero {w lo n : Nat} {x : Except Reject Instr} (h : w % 2 ^ (lo + n) = w % 2 ^ lo → Spelled w x) :
    Spelled w (ifZero (fld w lo n) x) := by
  unfold Sys2Proof.ifZero
  split
  case isTrue hz => exact h (by rw [mod_of_fld hz, Nat.zero_mul, Nat.zero_add])
  case isFalse => exact .reject

/-- REP has no S bit. -/
theorem spelled_decMajor02 {w : Nat} (hw : w < 2 ^ 32) (hM : fld w 26 6 = 2) : Spelled w (decMajor02 w) := by
  refine .ifZero fun h0 => .ifZero fun hs => .instr rfl ?_
  have hs' : sBit w = false := by
    have := mod_of_fld (w := w) (lo := 25) (n := 1) rfl
    have hz : fld w 25 1 = 0 := by omega
    rw [sBit, hz]
    rfl
  rw [← hs']
  refine join_eq_self hw hM rfl ?_
  simp only [sum_cons_add, sum_nil_add, put_bits_add_eq_mod, h0]
  simp only [eq_mod_iff_fld, fld_width_zero, Nat.reduceMod]

/-- The minor of region control stands above its immediate. -/
theorem spelled_decMajor20 {w : Nat} (hw : w < 2 ^ 32) (hM : fld w 26 6 = 0x20) : Spelled w (decMajor20 w) := by
  have h20 := mod_of_fld (w := w) (lo := 18) (n := 2) rfl
  have h25 := mod_of_fld (w := w) (lo := 20) (n := 5) rfl
  have h18 := mod_of_fld (w := w) (lo := 0) (n := 18) rfl
  have h4 : fld w 18 2 < 4 := Nat.mod_lt _ (by decide)
  unfold decMajor20
  split
  case h_1 h =>
    refine .instr rfl (join_eq_self hw hM rfl ?_)
    simp only [sum_cons_add, sum_nil_add, put, bits_toNat]
    omega
  case h_2 h =>
    refine .ifZero fun hl => .ifZero fun hh => .instr rfl (join_eq_self hw hM rfl ?_)
    rw [sum_nil_add]
    omega
  case h_3 h =>
    refine .ifZero fun hl => .ifZero fun hh => .instr rfl (join_eq_self hw hM rfl ?_)
    have h8 := mod_of_fld (w := w) (lo := 0) (n := 8) rfl
    simp only [sum_cons_add, sum_nil_add, put, bits_toNat]
    omega
  case h_4 h0 h1 h2 =>
    have h3 : fld w 18 2 ≠ 0 ∧ fld w 18 2 ≠ 1 ∧ fld w 18 2 ≠ 2 := ⟨h0, h1, h2⟩
    refine .ifZero fun hl => .instr rfl (join_eq_self hw hM rfl ?_)
    simp only [sum_cons_add, sum_nil_add, put, bits_toNat]
    omega

/-- Whatever a word decodes to has that word. -/
theorem spelled_parse {w : Nat} (hw : w < 2 ^ 32) : Spelled w (parse w) := by
  unfold parse
  split
  case h_3 hM => exact spelled_decMajor02 hw hM
  case h_33 hM => exact spelled_decMajor20 hw hM
  case h_41 =>
    split
    · exact .reject
    · split <;> exact .reject
  all_goals
    simp only [decMajor00, decMajor01, decMajor03, decMajor04, decMajor05, decMajor06, decMajor07, decMajor08, decMajor09,
      decMajor0A, decMajor0B, decMajor0C, decMajor0D, decMajor0E, decMajor0F, decMajor10, decMajor11, decMajor12, decMajor13,
      decMajor14, decMajor15, decMajor16, decMajor17, decMajor18, decMajor19, decMajor1A, decMajor1B, decMajor1C, decMajor1D,
      decMajor1E, decMajor1F, decMajor21, decMajor22, decMajor23, decMajor24, decMajor25, decMajor26, decMajor27]
    try split
  any_goals exact .reject
  all_goals
    repeat refine .ifZero fun _ => ?_
    refine .instr rfl (join_eq_self hw ‹_› rfl ?_)
    simp only [sum_cons_add, sum_nil_add, put_bits_add_eq_mod, Nat.reduceAdd, *]
    simp only [eq_mod_iff_fld, fld_width_zero, Nat.reduceMod, *]

/-! ## Fields stacked up to a word -/

/-- A field of a word: its width, the place of its lowest bit, and its value. -/
structure WordField where
  n : Nat
  lo : Nat
  x : BitVec n

/-- The number that has these fields over m. -/
def stack (m : Nat) : List WordField → Nat
  | [] => m
  | f :: fs => put f.x f.lo + stack m fs

/-- The fields stand below bit k, each above those that follow it, and m below them all. -/
def Stacked (m : Nat) : Nat → List WordField → Prop
  | k, [] => m < 2 ^ k
  | k, f :: fs => f.lo + f.n ≤ k ∧ Stacked m f.lo fs

theorem stacked_nil {m k : Nat} : Stacked m k [] ↔ m < 2 ^ k := by rw [Stacked]

theorem stacked_cons {m k : Nat} {f : WordField} {fs : List WordField} :
    Stacked m k (f :: fs) ↔ f.lo + f.n ≤ k ∧ Stacked m f.lo fs := by
  rw [Stacked]

theorem put_add_stack {n m lo : Nat} (x : BitVec n) (fs : List WordField) : put x lo + stack m fs = stack m (⟨n, lo, x⟩ :: fs) := by
  rw [stack]

theorem sum_nil_add_stack (m : Nat) : ([] : List Nat).sum + m = stack m [] := by
  rw [sum_nil_add, stack]

theorem Stacked.lt {m : Nat} : ∀ {k : Nat} {fs : List WordField}, Stacked m k fs → stack m fs < 2 ^ k
  | _, [], h => h
  | k, f :: fs, ⟨hk, hfs⟩ => by
    have hf : put f.x f.lo + 2 ^ f.lo ≤ 2 ^ (f.lo + f.n) := by
      rw [put, ← Nat.succ_mul, Nat.pow_add, Nat.mul_comm (2 ^ f.lo)]
      exact Nat.mul_le_mul_right _ f.x.isLt
    have hp : 2 ^ (f.lo + f.n) ≤ 2 ^ k := Nat.pow_le_pow_right (by decide) hk
    have hr := hfs.lt
    rw [stack]
    omega

section
variable {m n lo : Nat} {fs : List WordField}

theorem fld_stack {x : BitVec n} (h : Stacked m lo fs) : fld (stack m (⟨n, lo, x⟩ :: fs)) lo n = x.toNat := by
  rw [fld, stack, put, Nat.add_comm, Nat.add_mul_div_right _ _ (Nat.two_pow_pos lo), Nat.div_eq_of_lt h.lt, Nat.zero_add,
    Nat.mod_eq_of_lt x.isLt]

theorem fld_stack_above (h : Stacked m lo fs) : fld (stack m fs) lo n = 0 := by
  rw [fld, Nat.div_eq_of_lt h.lt, Nat.zero_mod]

theorem fld_stack_below {f : WordField} (h : lo + n ≤ f.lo) : fld (stack m (f :: fs)) lo n = fld (stack m fs) lo n := by
  obtain ⟨d, hd⟩ := Nat.exists_eq_add_of_le h
  have he : put f.x f.lo = 2 ^ lo * (2 ^ n * (f.x.toNat * 2 ^ d)) := by
    rw [put, hd, Nat.pow_add, Nat.pow_add]
    ring
  rw [stack, fld, fld, he, Nat.mul_add_div (Nat.two_pow_pos lo), Nat.mul_add_mod]

theorem fld_stack_nil (h : m < 2 ^ n) : fld (stack m []) 0 n = m := by
  rw [fld, stack, Nat.pow_zero, Nat.div_one, Nat.mod_eq_of_lt h]

theorem bits_stack {x : BitVec n} (h : Stacked m lo fs) : bits n (stack m (⟨n, lo, x⟩ :: fs)) lo = x :=
  BitVec.eq_of_toNat_eq (by rw [bits_toNat, fld_stack h])

theorem bits_stack_below {f : WordField} (h : lo + n ≤ f.lo) : bits n (stack m (f :: fs)) lo = bits n (stack m fs) lo :=
  bits_eq_of_fld (fld_stack_below h)

end

/-- The minor of region control stands between its fields. -/
theorem stack_minor20 : stack 0x40000 [] = stack 0 [⟨2, 18, 1⟩] ∧ stack 0xC0000 [] = stack 0 [⟨2, 18, 3⟩]
    ∧ ∀ c : BitVec 8, stack 0x80000 [⟨8, 0, c⟩] = stack 0 [⟨2, 18, 2⟩, ⟨8, 0, c⟩] := by
  refine ⟨rfl, rfl, fun c => ?_⟩
  simp [stack, put, Nat.add_comm]

/-! ## Words of instructions -/

/-- The word of a major, an S bit and what stands below them. -/
def wordOf (M : Nat) (e : Bool) (r : Nat) : Nat := M * 2 ^ 26 + (sVal e + r)

section
variable {M m lo n : Nat} {e : Bool} {fs : List WordField}

theorem wordOf_eq_stack (hM : M < 64) :
    wordOf M e (stack m fs) = stack m (⟨6, 26, BitVec.ofNat 6 M⟩ :: ⟨1, 25, BitVec.ofBool e⟩ :: fs) := by
  have h6 : put (BitVec.ofNat 6 M) 26 = M * 2 ^ 26 := by rw [put, BitVec.toNat_ofNat, Nat.mod_eq_of_lt hM]
  rw [wordOf, ← put_add_stack, ← put_add_stack, h6, sVal_eq_put]

theorem stacked_word (M : Nat) (e : Bool) (h : Stacked m 25 fs) :
    Stacked m 32 (⟨6, 26, BitVec.ofNat 6 M⟩ :: ⟨1, 25, BitVec.ofBool e⟩ :: fs) :=
  stacked_cons.2 ⟨Nat.le_refl 32, stacked_cons.2 ⟨Nat.le_refl 26, h⟩⟩

theorem wordOf_lt (hM : M < 64) (h : Stacked m 25 fs) : wordOf M e (stack m fs) < 2 ^ 32 :=
  wordOf_eq_stack hM ▸ (stacked_word M e h).lt

theorem fld_wordOf_major (hM : M < 64) (h : Stacked m 25 fs) : fld (wordOf M e (stack m fs)) 26 6 = M := by
  rw [wordOf_eq_stack hM, fld_stack (stacked_cons.1 (stacked_word M e h)).2, BitVec.toNat_ofNat, Nat.mod_eq_of_lt hM]

theorem fld_wordOf_s (hM : M < 64) (h : Stacked m 25 fs) : fld (wordOf M e (stack m fs)) 25 1 = e.toNat := by
  rw [wordOf_eq_stack hM, fld_stack_below (Nat.le_refl 26), fld_stack h, BitVec.toNat_ofBool]

theorem sBit_wordOf (hM : M < 64) (h : Stacked m 25 fs) : sBit (wordOf M e (stack m fs)) = e := by
  rw [sBit, fld_wordOf_s hM h]
  cases e <;> rfl

theorem fld_wordOf_low (hM : M < 64) (h : lo + n ≤ 25) : fld (wordOf M e (stack m fs)) lo n = fld (stack m fs) lo n := by
  rw [wordOf_eq_stack hM, fld_stack_below (Nat.le_succ_of_le h), fld_stack_below h]

theorem bits_wordOf_low (hM : M < 64) (h : lo + n ≤ 25) : bits n (wordOf M e (stack m fs)) lo = bits n (stack m fs) lo :=
  bits_eq_of_fld (fld_wordOf_low hM h)

end

/-- The decoders of the majors, in their order (R66). -/
def decMajors : List (Nat → Except Reject Instr) :=
  [decMajor00, decMajor01, decMajor02, decMajor03, decMajor04, decMajor05, decMajor06, decMajor07, decMajor08, decMajor09,
    decMajor0A, decMajor0B, decMajor0C, decMajor0D, decMajor0E, decMajor0F, decMajor10, decMajor11, decMajor12, decMajor13,
    decMajor14, decMajor15, decMajor16, decMajor17, decMajor18, decMajor19, decMajor1A, decMajor1B, decMajor1C, decMajor1D,
    decMajor1E, decMajor1F, decMajor20, decMajor21, decMajor22, decMajor23, decMajor24, decMajor25, decMajor26, decMajor27]

theorem parse_of_major {w M : Nat} {f : Nat → Except Reject Instr} (hM : fld w 26 6 = M) (hf : decMajors[M]? = some f) :
    parse w = f w := by
  have hl : M < 40 := (List.getElem?_eq_some_iff.1 hf).1
  unfold parse
  rw [hM]
  interval_cases M <;> cases hf <;> rfl

theorem ifZero_zero (x : Except Reject Instr) : ifZero 0 x = x := if_pos rfl

/-- The word whose fields are joined decodes to i, if the decoder of its major finds i in the fields as they are stacked. -/
theorem parse_join {fixed m : Nat} {e : Bool} {gs : List Nat} {fs : List WordField} {f : Nat → Except Reject Instr} {i : Instr}
    (hm : gs.sum + fixed % 0x4000000 = stack m fs) (hs : Stacked m 25 fs) (hf : decMajors[fixed / 0x4000000]? = some f)
    (hp : ∀ M < 64, f (wordOf M e (stack m fs)) = .ok i) :
    join fixed e gs < 2 ^ 32 ∧ parse (join fixed e gs) = .ok i := by
  have hl : fixed / 0x4000000 < 64 := Nat.lt_of_lt_of_le (List.getElem?_eq_some_iff.1 hf).1 (by decide)
  have hj : join fixed e gs = wordOf (fixed / 0x4000000) e (stack m fs) := by rw [join_eq, hm, wordOf]
  rw [hj, parse_of_major (fld_wordOf_major hl hs) hf]
  exact ⟨wordOf_lt hl hs, hp _ hl⟩

/-- The word of an instruction has 32 bits, and its fields are those of the instruction. -/
theorem parse_of_encodeNat {i : Instr} {w : Nat} (h : encodeNat i = some w) : w < 2 ^ 32 ∧ parse w = .ok i := by
  cases i
  -- an event row has no word; the word of any other is the join of its fields
  all_goals cases h
  all_goals
    apply parse_join
    case hm =>
      simp only [sum_cons_add, sum_nil_add_stack, put_add_stack, Nat.reduceMod, stack_minor20]
      rfl
    case hf => rfl
    case hs => simp only [stacked_nil, stacked_cons, Nat.reduceAdd, Nat.reduceLeDiff, Nat.reduceLT, Nat.reducePow, and_self]
    intro M hM
    simp only [decMajor00, decMajor01, decMajor02, decMajor03, decMajor04, decMajor05, decMajor06, decMajor07, decMajor08, decMajor09,
      decMajor0A, decMajor0B, decMajor0C, decMajor0D, decMajor0E, decMajor0F, decMajor10, decMajor11, decMajor12, decMajor13,
      decMajor14, decMajor15, decMajor16, decMajor17, decMajor18, decMajor19, decMajor1A, decMajor1B, decMajor1C, decMajor1D,
      decMajor1E, decMajor1F, decMajor20, decMajor21, decMajor22, decMajor23, decMajor24, decMajor25, decMajor26, decMajor27,
      fld_wordOf_low, bits_wordOf_low, sBit_wordOf, fld_wordOf_s, hM, fld_stack_above, fld_stack_nil, fld_stack, fld_stack_below,
      bits_stack, bits_stack_below, stacked_nil, stacked_cons, ifZero_zero, Bool.toNat_false, BitVec.reduceToNat, Nat.reduceAdd,
      Nat.reduceLeDiff, Nat.reduceLT, Nat.reducePow, and_self]

/-- Settles O53: what decodes is spelled by its instruction (`spelled_parse`), and the word of an instruction decodes to it
(`parse_of_encodeNat`); reserved codes are what `Instr.wf` refuses, on both sides. -/
theorem encodeDecode : Obligations.EncodeDecode := by
  refine ⟨fun i w hwf he => ?_, fun i w hw hd => ?_⟩
  · obtain ⟨hw, hp⟩ := parse_of_encodeNat he
    exact ⟨hw, by rw [decodeNat, hp]; exact if_pos hwf⟩
  · unfold decodeNat at hd
    split at hd
    case h_1 j hp =>
      split at hd
      case isTrue hwf =>
        cases hd
        exact ⟨hwf, spelled_parse hw _ hp⟩
      case isFalse => cases hd
    case h_2 => cases hd

end Sys2Proof.Machine
end

section
/-! PROOF of O11: WAIT, and the flags that retired batches OR into the lanes they name. Each fold of `State.retireBatches` ORs flags
into lanes (`OrsFlags`), and what it ORs is what any of its items does (`OrsFlags.foldl`). -/
namespace Sys2Proof.Machine

set_option Elab.async false

/-! ## Flags ORed into lanes -/

/-- t is s with other flags: bit k of the flags of lane l of group j is as before, or is set where p says so. -/
structure OrsFlags (s t : State) (p : Nat → Nat → Nat → Bool) : Prop where
  same : t = { s with flags := t.flags }
  bits : ∀ j l k, l < 32 → bit (t.flag j l) k = (bit (s.flag j l) k || p j l k)

theorem OrsFlags.congr {s t : State} {p q : Nat → Nat → Nat → Bool} (h : OrsFlags s t p)
    (he : ∀ j l k, l < 32 → p j l k = q j l k) : OrsFlags s t q :=
  ⟨h.same, fun j l k hl => by rw [h.bits j l k hl, he j l k hl]⟩

/-- A fold ORs what any of its steps ORs. -/
theorem OrsFlags.foldl {α : Type} {f : State → α → State} {p : α → Nat → Nat → Nat → Bool} :
    ∀ (xs : List α) (s : State), (∀ s, ∀ x ∈ xs, OrsFlags s (f s x) (p x)) →
      OrsFlags s (xs.foldl f s) fun j l k => xs.any fun x => p x j l k
  | [], s, _ => ⟨rfl, fun j l k _ => by simp⟩
  | x :: xs, s, h => by
    obtain ⟨hx, hxb⟩ := h s x List.mem_cons_self
    obtain ⟨hr, hrb⟩ := OrsFlags.foldl xs (f s x) fun t y hy => h t y (List.mem_cons_of_mem x hy)
    refine ⟨?_, fun j l k hl => ?_⟩
    · rw [List.foldl_cons, hr, hx]
    · rw [List.foldl_cons, hrb j l k hl, hxb j l k hl, List.any_cons, Bool.or_assoc]

theorem orsFlags_orFlag (s : State) (g : Nat) {n : Nat} (hn : n < 32) (v : BitVec 5) :
    OrsFlags s (s.orFlag g n v) fun j l k => j == g && l == n && bit v k := by
  refine ⟨rfl, fun j l k hl => ?_⟩
  change bit (mget 0 (mset 0 s.flags (g * 32 + n) (s.flag g n ||| v)) (j * 32 + l)) k = _
  rw [mget_mset]
  by_cases hj : j = g ∧ l = n
  · obtain ⟨rfl, rfl⟩ := hj
    simp
  · have hk : j * 32 + l ≠ g * 32 + n := by omega
    have hb : (j == g && l == n) = false := by simpa using hj
    rw [if_neg hk, hb, Bool.false_and, Bool.or_false]
    rfl

/-- Flags ORed into the lanes of a mask. -/
theorem orsFlags_lanesOf (s : State) (g : Nat) (m : BitVec 32) (v : BitVec 5) :
    OrsFlags s ((lanesOf m).foldl (fun t l => t.orFlag g l v) s) fun j l k => j == g && (bit m l && bit v k) := by
  refine (OrsFlags.foldl (lanesOf m) s fun t n hn => orsFlags_orFlag t g (mem_lanesOf.1 hn).1 v).congr fun j l k hl => ?_
  rw [Bool.eq_iff_iff]
  simp only [List.any_eq_true, mem_lanesOf, Bool.and_eq_true, beq_iff_eq]
  constructor
  · rintro ⟨n, ⟨-, hm⟩, ⟨hj, rfl⟩, hv⟩
    exact ⟨hj, hm, hv⟩
  · rintro ⟨hj, hm, hv⟩
    exact ⟨l, ⟨hl, hm⟩, ⟨hj, rfl⟩, hv⟩

/-! ## Retiring batches (R49, R233) -/

/-- The batches of group i that are complete. -/
def State.doneBatches (s : State) (i : Nat) : List Batch := (s.gr i).batches.filter fun b => b.ops == []

/-- The state s whose group i has only the batches that are not complete. -/
def State.dropDone (s : State) (i : Nat) : State :=
  s.modGr i fun r => { r with batches := r.batches.filter fun b => b.ops != [] }

theorem State.retireBatches_eq (s : State) (i : Nat) :
    s.retireBatches i = (s.doneBatches i).foldl
      (fun t b => b.flags.foldl (fun t q => (lanesOf q.1).foldl (fun t l => t.orFlag i l q.2) t) t) (s.dropDone i) := by
  have he : ∀ b : Batch, b.ops.isEmpty = (b.ops == []) := fun b => by cases b.ops <;> rfl
  simp only [State.retireBatches, State.doneBatches, State.dropDone, he, bne]

theorem orsFlags_retireBatches (s : State) (i : Nat) : OrsFlags (s.dropDone i) (s.retireBatches i) fun j l k =>
    (s.doneBatches i).any fun b => b.flags.any fun q => j == i && (bit q.1 l && bit q.2 k) := by
  rw [State.retireBatches_eq]
  exact OrsFlags.foldl _ _ fun t b _ => OrsFlags.foldl _ t fun u q _ => orsFlags_lanesOf u i q.1 q.2

theorem State.gr_retireBatches (s : State) (i j : Nat) : (s.retireBatches i).gr j = (s.dropDone i).gr j := by
  rw [(orsFlags_retireBatches s i).same]
  rfl

/-! ## WAIT (R60) -/

theorem State.free_nothing (s : State) : s.free {} := by
  simp only [State.free, State.stalled, State.lockedByRegion, List.append_nil, List.any_nil, Bool.false_or, List.isEmpty_nil,
    Bool.and_false, if_true, List.any_eq_false]
  intro j _
  cases s.region j <;> simp

theorem within_iff {l : BitVec 6} {n : Nat} : within l n = true ↔ l.toNat = 63 ∨ n ≤ l.toNat := by
  simp [within, ← BitVec.toNat_inj]

theorem exec_wait {s : State} (ha : s.acts) (e : Bool) (l t' c t : BitVec 6) :
    exec (.wait e l t' c t) s = .next
      (if within l s.grp.ldc && within t' s.grp.stc && within c s.grp.cpc && within t s.grp.tbc then
        (if t = 63 then s else s.retireBatches s.cg).advance e else s.stall) := by
  change execWait e l t' c t s = _
  rw [execWait, issue_valid _ ha.1, State.plain, State.form_free e .own _ ha s.free_nothing]

/-- Settles O11, from what WAIT does with its limits and what retiring batches ORs into the flags. -/
theorem waitCounters : Obligations.WaitCounters := by
  intro s e l t' c t ha g met
  have hmet : (within l g.ldc && within t' g.stc && within c g.cpc && within t g.tbc) = true ↔ met := by
    simp only [Bool.and_eq_true, within_iff, and_assoc, met]
  have h63 : t = 63 ↔ t.toNat = 63 := by simp [← BitVec.toNat_inj]
  rw [exec_wait ha]
  refine ⟨fun h ht => ?_, fun h ht => ?_, fun h => ?_, fun i => ?_⟩
  · rw [if_pos (hmet.2 h), if_pos (h63.2 ht)]
  · rw [if_pos (hmet.2 h), if_neg (mt h63.1 ht)]
  · rw [if_neg (mt hmet.1 h)]
    rfl
  · obtain ⟨hs, hb⟩ := orsFlags_retireBatches s i
    refine ⟨?_, ?_, fun j hj => ?_, fun j l k hl _ => ?_⟩
    · rw [hs]
      rfl
    · rw [s.gr_retireBatches]
      exact State.gr_setGr _ _ _
    · rw [s.gr_retireBatches]
      exact State.gr_setGr_other _ _ hj
    · rw [hb j l k hl]
      change (bit (s.flag j l) k || (s.doneBatches i).any fun b => b.flags.any fun q => j == i && (bit q.1 l && bit q.2 k)) = _
      cases hj : j == i <;> simp [State.doneBatches]

end Sys2Proof.Machine
end

section
/-! PROOF of O54 and O55: how a core classifies a word, and which word a step runs. -/
namespace Sys2Proof.Machine

set_option Elab.async false

/-! ## Classification (R74-R76) -/

/-- The spec's worked examples (R56, R66). -/
theorem decodedWords : Claims.DecodedWords := by
  unfold Claims.DecodedWords
  decide

section
variable {g : Bool} {w : Word32} {rep : Option Rep} {live : Option Word32}

theorem issued_ok {i : Instr} (h : classify g w rep live = .ok i) : issued g w rep live = i := by
  rw [issued, h]

theorem issued_error {c : BitVec 2} (h : classify g w rep live = .error c) :
    issued g w rep live = .emulationEntry c w (live.getD 0) := by
  rw [issued, h]

end

/-- The majors and forms that a core of its kind does not have (R75). -/
theorem disabled_iff (g : Bool) (w : Word32) : disabled g w = true ↔
    if g then w.toNat / 2 ^ 26 = 0x1F ∨ w.toNat / 2 ^ 26 = 0x21 ∨ w.toNat / 2 ^ 26 = 0x25 ∨ w.toNat / 2 ^ 26 = 0x26
      ∨ (w.toNat / 2 ^ 26 = 0x24 ∧ 2 ≤ w.toNat % 2 ^ 7 ∧ w.toNat % 2 ^ 7 ≤ 5)
    else w.toNat / 2 ^ 26 = 0x24 ∧ w.toNat % 2 ^ 7 ≤ 1 := by
  cases g
  all_goals
    simp only [disabled, Bool.false_eq_true, if_true, if_false, Bool.or_eq_true, Bool.and_eq_true, beq_iff_eq, List.contains_eq_mem,
      List.mem_cons, List.not_mem_nil, or_false, decide_eq_true_eq]
    omega

/-- A word whose S bit asks for a live-mask word that is missing or malformed (R53). -/
def maskMissing (w : Word32) (live : Option Word32) : Bool :=
  bit w 25 && (match live with | none => true | some l => l.toNat % 32 != 0)

theorem maskMissing_iff (w : Word32) (live : Option Word32) :
    maskMissing w live = true ↔ bit w 25 = true ∧ (live = none ∨ ∃ l, live = some l ∧ l.toNat % 32 ≠ 0) := by
  cases live <;> simp [maskMissing]

/-- A word of the native majors: of a form that the core does not have, without its live mask, or itself (R76). -/
theorem classify_native {g : Bool} {w : Word32} (live : Option Word32) (h : w.toNat / 2 ^ 26 < 0x28) : classify g w none live =
    if disabled g w then .error 1 else if maskMissing w live then .error 0
    else match decode w with | .ok i => .ok i | .error _ => .error 0 := by
  have h1 : ¬ (0x28 ≤ w.toNat / 2 ^ 26 ∧ w.toNat / 2 ^ 26 < 0x30) := by omega
  have h2 : ¬ (0x30 ≤ w.toNat / 2 ^ 26 ∧ w.toNat / 2 ^ 26 < 0x38) := by omega
  have h3 : ¬ 0x38 ≤ w.toNat / 2 ^ 26 := by omega
  simp only [classify, if_neg h1, if_neg h2, if_neg h3]
  rfl

theorem classification : Claims.Classification := by
  intro g w live
  dsimp only
  rw [← disabled_iff]
  refine ⟨fun h1 h2 => issued_error ?_, fun h1 h2 => issued_error ?_, fun h => issued_error ?_, fun h hd => issued_error ?_,
    fun h hd hs hl => issued_error ?_, fun h hd hl => ⟨fun i hi => issued_ok ?_, fun r hr => issued_error ?_⟩⟩
  · simp only [classify, if_pos (And.intro h1 h2)]
  · simp only [classify, if_neg (show ¬ (0x28 ≤ w.toNat / 2 ^ 26 ∧ w.toNat / 2 ^ 26 < 0x30) by omega), if_pos (And.intro h1 h2)]
  · simp only [classify, if_neg (show ¬ (0x28 ≤ w.toNat / 2 ^ 26 ∧ w.toNat / 2 ^ 26 < 0x30) by omega),
      if_neg (show ¬ (0x30 ≤ w.toNat / 2 ^ 26 ∧ w.toNat / 2 ^ 26 < 0x38) by omega), if_pos h]
  · rw [classify_native live h, if_pos hd]
  · rw [classify_native live h, if_neg hd, if_pos ((maskMissing_iff w live).2 ⟨hs, hl⟩)]
  all_goals
    have hm : ¬ maskMissing w live = true := by
      rw [maskMissing_iff]
      rintro ⟨hs, hn⟩
      obtain ⟨l, rfl, h0⟩ := hl hs
      simp [h0] at hn
    rw [classify_native live h, if_neg hd, if_neg hm]
  · rw [hi]
  · rw [hr]

/-- Settles O54, from the worked examples and the classes of words. -/
theorem wordsAndClasses : Obligations.WordsAndClasses := ⟨decodedWords, classification⟩

/-! ## Steps -/

theorem finish_eq (o : Out) (f : State → State) : finish o f = (match o with
    | .next t => .next (f t).after | .fault r => .fault r | .refused r => .refused r) := by
  cases o <;> rfl

/-- The state in which a step chooses who moves: its number is that of the step. -/
def State.numbered (s : State) : State := { s with stepNo := s.stepNo + 1 }

theorem step_eq (s : State) : step s = match s.numbered.turnOf with
    | .event i => finish (exec i s.begin') id
    | .split k => issueOf s.begin' k
    | .idle => .next s.begin'.after := by
  rfl

theorem turnOf_agenda {s : State} {i : Instr} {rest : List Instr} (hp : s.tail.power = true) (ha : s.agenda = i :: rest) :
    s.numbered.turnOf = .event i := by
  simp [State.turnOf, State.numbered, hp, ha]

/-- With an empty agenda the head of `turn` issues in a step of odd number, if it can (log entry 2). -/
theorem turnOf_split {s : State} {k : Nat} {rest : List Nat} (hp : s.tail.power = true) (ha : s.agenda = []) (ht : s.turn = k :: rest)
    (hn : s.stepNo % 2 = 0) (hm : s.mayIssue k = true) : s.numbered.turnOf = .split k := by
  have hs : s.numbered.nextSplit = some k := by
    have hm' : s.numbered.mayIssue k = true := hm
    simp [State.nextSplit, show s.numbered.turn = k :: rest from ht, hm']
  have ho : s.numbered.stepNo % 2 = 1 := by
    change (s.stepNo + 1) % 2 = 1
    omega
  simp [State.turnOf, show s.numbered.tail.power = true from hp, show s.numbered.agenda = [] from ha, hs, ho]

/-- A split that nothing keeps from issuing fetches the word at its PC (R51, R76). -/
theorem State.fetchNext_eq {s : State} {k : Nat} {o : Overlay} {w : Word32} (hr : (s.gr (gidOf k)).restoring = false)
    (he : (s.sp k).eccu = none) (ho : s.overlayOf (coreOf (gidOf k)) (s.gr (gidOf k)).ctx (pcId (s.sp k).pc) = some o)
    (hw : s.fetch (gidOf k) (s.sp k).pc = some w) : s.fetchNext k =
      .instr (issued (s.isG (coreOf (gidOf k))) w (s.sp k).rep (s.fetch (gidOf k) (pcAdd (s.sp k).pc 1))) := by
  simp [State.fetchNext, State.restoreDone, hr, he, ho, hw]

/-- Settles O55, from who moves (`turnOf_agenda`, `turnOf_split`) and the word fetched (`State.fetchNext_eq`). -/
theorem stepsRunDecodedWords : Obligations.StepsRunDecodedWords := by
  intro s hp
  refine ⟨fun i rest ha => ?_, fun k rest o w ha ht hn hm hr he ho hw => ?_⟩
  · rw [step_eq, turnOf_agenda hp ha]
    exact finish_eq _ id
  · rw [step_eq, turnOf_split hp ha ht hn hm]
    change issueOf s.begin' k = _
    rw [issueOf]
    rw [State.fetchNext_eq hr he ho hw]
    exact finish_eq _ _

end Sys2Proof.Machine
end

section
/-! PROOF of O10: how a split moves on, and the forms that change little besides. -/
namespace Sys2Proof.Machine

set_option Elab.async false

/-! ## Moving on (R93, R59) -/

theorem pcAdd_eq_ofNat (pc : BitVec 32) (n : Nat) : pcAdd pc n = BitVec.ofNat 32 (pc.toNat + n) := by
  unfold pcAdd mkPc pcId pcOff
  congr 1
  omega

@[simp] theorem State.me_modSp_cur (s : State) (f : Split → Split) : (s.modSp s.cur f).me = f s.me := State.sp_setSp s s.cur _

theorem State.sp_modSp_other (s : State) (f : Split → Split) {j k : Nat} (h : j ≠ k) : (s.modSp k f).sp j = s.sp j :=
  State.sp_setSp_other s _ h

/-- Past its last iteration a REP is over, and before it the split stays where it is. -/
theorem Split.pastBy_rep {p : Split} {r : Rep} (h : p.rep = some r) (n : Nat) : p.pastBy n =
    if r.i < r.last then { p with rep := some { r with i := r.i + 1 }, replay := none }
    else { p with rep := none, replay := none, pc := pcAdd p.pc n } := by
  simp only [Split.pastBy, h]

theorem Split.pastBy_no_rep {p : Split} (h : p.rep = none) (n : Nat) :
    p.pastBy n = { p with replay := none, pc := pcAdd p.pc n } := by
  simp only [Split.pastBy, h]

theorem State.me_advance (s : State) (e : Bool) : (s.advance e).me = s.me.pastBy (fallBy e) := s.me_modSp_cur _

theorem movingOn : Claims.MovingOn := by
  intro s e p next q
  have hq : q = p.pastBy (fallBy e) := s.me_advance e
  have hn : pcAdd p.pc (fallBy e) = next := pcAdd_eq_ofNat _ _
  refine ⟨fun h => ?_, fun r h hi => ?_, fun r h hi => ?_, fun k hk => s.sp_modSp_other _ hk, rfl⟩
  · rw [hq, Split.pastBy_no_rep h, hn]
  · rw [hq, Split.pastBy_rep h, if_pos hi]
  · rw [hq, Split.pastBy_rep h, if_neg (by omega), hn]

/-! ## Forms without register operands -/

theorem State.plain_acts {s : State} (ha : s.acts) (e : Bool) (eff : State → State) : s.plain e eff = (eff s).advance e :=
  State.form_free e .own _ ha s.free_nothing

theorem exec_nop {s : State} (ha : s.acts) (e : Bool) : exec (.nop e) s = .next (s.advance e) := by
  change execNop e s = _
  rw [execNop, issue_valid _ ha.1, State.plain_acts ha, id]

theorem exec_yield {s : State} (ha : s.acts) (e : Bool) :
    exec (.yield e) s = .next ((s.modSp s.cur fun p => { p with yielded := true }).advance e) := by
  change execYield e s = _
  rw [execYield, issue_valid _ ha.1, State.plain_acts ha, State.not_inRegion ha]
  rfl

/-- GMODE from its fields (R23). -/
theorem gmode_of_fields (g : BitVec 3) (t : BitVec 4) (r : BitVec 3) (a f : BitVec 1) : g ++ t ++ r ++ a ++ f =
    BitVec.ofNat 12 (512 * g.toNat + 32 * t.toNat + 4 * r.toNat + 2 * a.toNat + f.toNat) := by
  apply BitVec.eq_of_toNat_eq
  have hg := g.isLt
  have ht := t.isLt
  have hr := r.isLt
  have ha := a.isLt
  have hf := f.isLt
  rw [BitVec.toNat_append, BitVec.toNat_append, BitVec.toNat_append, BitVec.toNat_append, BitVec.toNat_ofNat]
  rw [← Nat.shiftLeft_add_eq_or_of_lt ht, ← Nat.shiftLeft_add_eq_or_of_lt hr, ← Nat.shiftLeft_add_eq_or_of_lt ha,
    ← Nat.shiftLeft_add_eq_or_of_lt hf]
  simp only [Nat.shiftLeft_eq]
  omega

theorem exec_mode {s : State} (ha : s.acts) (e : Bool) (g : BitVec 3) (t : BitVec 4) (r : BitVec 3) (a f : BitVec 1) :
    exec (.mode e g t r a f) s = .next ((s.modSp s.cur fun p =>
      { p with gmode := BitVec.ofNat 12 (512 * g.toNat + 32 * t.toNat + 4 * r.toNat + 2 * a.toNat + f.toNat) }).advance e) := by
  change execMode e g t r a f s = _
  rw [execMode, issue_valid _ ha.1, State.plain_acts ha, gmode_of_fields]

theorem State.inHandler_iff (s : State) : s.inHandler = true ↔ s.me.mode = .emu ∨ s.me.mode = .trap := by
  simp [State.inHandler]

theorem exec_probe {s : State} (ha : s.acts) (e : Bool) (n : BitVec 1) : exec (.probe e n) s =
    .next ((if s.me.mode = .emu ∨ s.me.mode = .trap then s.modSp s.cur fun p => { p with ownProbe := n == 1 }
      else s.modGr s.cg fun g => { g with probe := n == 1 }).advance e) := by
  change execProbe e n s = _
  rw [execProbe, issue_valid _ ha.1, State.plain_acts ha]
  simp only [State.inHandler_iff]

/-! ## REP (R59) -/

theorem repBars_iff (w : Word32) (b : BitVec 3) : repBars w b = true ↔
    w.toNat / 2 ^ 26 ≤ 0x07 ∨ w.toNat / 2 ^ 26 = 0x20 ∨ (b ≠ 0 ∧ (w.toNat / 2 ^ 26 = 0x09 ∨ w.toNat / 2 ^ 26 = 0x0A
      ∨ w.toNat / 2 ^ 26 = 0x0B ∨ w.toNat / 2 ^ 26 = 0x0D ∨ w.toNat / 2 ^ 26 = 0x0E)) := by
  simp [repBars, or_assoc]

theorem exec_rep {s : State} (ha : s.acts) (c : BitVec 6) (d a b : BitVec 3) {w : Word32}
    (hw : s.fetch s.cg (pcAdd s.me.pc 1) = some w) : exec (.rep c d a b) s = .next (if repBars w b then s.undef else
      s.modSp s.cur fun p => { p with pc := pcAdd p.pc 1, rep := some { i := 0, last := c.toNat, sd := d, sa := a, sb := b } }) := by
  change execRep c d a b s = _
  rw [execRep, issue_valid _ ha.1]
  simp only [hw, State.whenFree_free _ ha s.free_nothing]

/-! ## SPLQ (R102) -/

/-- Which entries of a group are valid, as a number. -/
def State.validBits (s : State) (g : Nat) : Nat :=
  (List.range 4).foldl (fun n i => if (s.sp (4 * g + i)).valid then n + 2 ^ i else n) 0

theorem State.validBits_lt (s : State) (g : Nat) : s.validBits g < 16 := (ofBits_nat (fun i => (s.sp (4 * g + i)).valid) 4).1

theorem State.testBit_validBits (s : State) (g : Nat) {i : Nat} (hi : i < 4) :
    (s.validBits g).testBit i = (s.sp (4 * g + i)).valid := by
  rw [State.validBits, (ofBits_nat (fun i => (s.sp (4 * g + i)).valid) 4).2 i]
  simp [hi]

theorem State.splitPicture_eq (s : State) : s.splitPicture = BitVec.ofNat 64
    (s.validBits s.cg + 2 ^ 4 * s.grp.park.length + 2 ^ 8 * (s.cur % 4) + 2 ^ 32 * (~~~ s.grp.exited).toNat) := rfl

theorem State.bit_splitPicture (s : State) {i : Nat} (hi : i < 4) : bit s.splitPicture i = (s.sp (4 * s.cg + i)).valid := by
  rw [← s.testBit_validBits s.cg hi, State.splitPicture_eq, bit, BitVec.getLsbD_ofNat]
  have hm : (s.validBits s.cg + 2 ^ 4 * s.grp.park.length + 2 ^ 8 * (s.cur % 4) + 2 ^ 32 * (~~~ s.grp.exited).toNat) % 2 ^ 4 =
      s.validBits s.cg % 2 ^ 4 := by omega
  have hx : ∀ x : Nat, x.testBit i = (x % 2 ^ 4).testBit i := fun x => by rw [Nat.testBit_mod_two_pow]; simp [hi]
  rw [hx, hm, ← hx]
  simp [show i < 64 by omega]

/-- Where the number of parked paths fits its field, no field of the picture runs into another. -/
theorem State.toNat_splitPicture {s : State} (hp : s.grp.park.length < 16) : s.splitPicture.toNat =
    s.validBits s.cg + 2 ^ 4 * s.grp.park.length + 2 ^ 8 * (s.cur % 4) + 2 ^ 32 * (~~~ s.grp.exited).toNat := by
  have hv := s.validBits_lt s.cg
  have hx := (~~~ s.grp.exited).isLt
  rw [State.splitPicture_eq, BitVec.toNat_ofNat]
  omega

theorem State.splitPicture_parked {s : State} (hp : s.grp.park.length < 16) :
    s.splitPicture.toNat / 2 ^ 4 % 2 ^ 4 = s.grp.park.length := by
  have hv := s.validBits_lt s.cg
  rw [State.toNat_splitPicture hp]
  omega

theorem State.splitPicture_entry {s : State} (hp : s.grp.park.length < 16) :
    s.splitPicture.toNat / 2 ^ 8 % 2 ^ 24 = s.cur % 4 := by
  have hv := s.validBits_lt s.cg
  rw [State.toNat_splitPicture hp]
  omega

theorem State.splitPicture_live {s : State} (hp : s.grp.park.length < 16) : hi32 s.splitPicture = ~~~ s.grp.exited := by
  have hv := s.validBits_lt s.cg
  have hx := (~~~ s.grp.exited).isLt
  apply BitVec.eq_of_toNat_eq
  rw [BitVec.toNat_setWidth, BitVec.toNat_ushiftRight, Nat.shiftRight_eq_div_pow, State.toNat_splitPicture hp]
  omega

theorem exec_splq {s : State} (ha : s.acts) (e : Bool) (d : BitVec 5) (hf : s.free { ds := [d.toNat] }) :
    exec (.splq e d) s = .next ((s.sset s.cur d.toNat s.splitPicture).advance e) := by
  change execSplq e d s = _
  rw [execSplq, issue_valid _ ha.1, State.form_free e .conc _ ha hf]

theorem plainControlResults : Claims.PlainControlResults := by
  intro s e ha
  refine ⟨exec_nop ha e, exec_yield ha e, exec_mode ha e, exec_probe ha e, fun c d a b w hw => ?_, fun d hf => ?_⟩
  · rw [exec_rep ha c d a b hw]
    exact ⟨fun h => by rw [if_neg (mt (repBars_iff w b).1 h)], fun h => by rw [if_pos ((repBars_iff w b).2 h)]⟩
  · exact ⟨s.splitPicture, exec_splq ha e d hf, fun i hi => s.bit_splitPicture hi, State.splitPicture_parked,
      State.splitPicture_entry, State.splitPicture_live⟩

/-- Settles O10, from how a split moves on and what each form does before it. -/
theorem controlAndNextPc : Obligations.ControlAndNextPc := ⟨movingOn, plainControlResults⟩

end Sys2Proof.Machine
end

section
/-! PROOF of O13, the split table: a new path, the end of a path, heads whose family is gone, fusion. What becomes of the masks of a
group's paths is said up to their order (`List.Perm`): an end takes one mask out, a new path puts one in, a fusion joins two. -/
namespace Sys2Proof.Machine

set_option Elab.async false

/-! ## Entries of a group -/

theorem mem_entries {g k : Nat} : k ∈ entries g ↔ gidOf k = g := by
  simp only [entries, gidOf, List.mem_cons, List.not_mem_nil, or_false]
  omega

theorem nodup_entries (g : Nat) : (entries g).Nodup := by simp [entries]

theorem State.mem_valids {s : State} {g k : Nat} : k ∈ s.valids g ↔ k ∈ entries g ∧ (s.sp k).valid = true := List.mem_filter

theorem State.mem_freeEntries {s : State} {g k : Nat} : k ∈ s.freeEntries g ↔ k ∈ entries g ∧ (s.sp k).valid = false := by
  simp [State.freeEntries]

/-! ## Lists that differ in one place -/

/-- What a filter lets through, where it newly lets one element through. -/
theorem perm_map_filter_insert {α β : Type} [DecidableEq α] {l : List α} {a : α} {p q : α → Bool} {f h : α → β} (ha : a ∈ l)
    (hn : l.Nodup) (hp : p a = false) (hq : q a = true) (hs : ∀ x ∈ l, x ≠ a → p x = q x ∧ f x = h x) :
    ((l.filter q).map h).Perm (h a :: (l.filter p).map f) := by
  have he : l.Perm (a :: l.erase a) := List.perm_cons_erase ha
  have hne : ∀ x ∈ l.erase a, p x = q x ∧ f x = h x := fun x hx => by
    obtain ⟨hxa, hxl⟩ := hn.mem_erase_iff.1 hx
    exact hs x hxl hxa
  have hrest : ((l.erase a).filter q).map h = ((l.erase a).filter p).map f := by
    rw [List.filter_congr fun x hx => (hne x hx).1]
    exact List.map_congr_left fun x hx => ((hne x (List.mem_of_mem_filter hx)).2).symm
  have h1 : ((l.filter q).map h).Perm (h a :: ((l.erase a).filter q).map h) := by
    simpa [hq] using (he.filter q).map h
  have h2 : ((l.filter p).map f).Perm (((l.erase a).filter p).map f) := by
    simpa [hp] using (he.filter p).map f
  rw [hrest] at h1
  exact h1.trans (h2.symm.cons _)

/-! ## The masks of the paths of a group -/

/-- A path more in the split table. -/
theorem State.perm_pathMasks_insert {s t : State} {g k : Nat} (hk : k ∈ entries g) (hs : (s.sp k).valid = false)
    (ht : (t.sp k).valid = true) (ho : ∀ i ∈ entries g, i ≠ k → (t.sp i).valid = (s.sp i).valid ∧ (t.sp i).mask = (s.sp i).mask)
    (hg : (t.gr g).park.map (fun q => q.mask) = (s.gr g).park.map fun q => q.mask) :
    (t.pathMasks g).Perm ((t.sp k).mask :: s.pathMasks g) := by
  unfold State.pathMasks State.valids
  rw [hg]
  refine (perm_map_filter_insert hk (nodup_entries g) hs ht fun i hi hne => ?_).append_right _
  obtain ⟨hv, hm⟩ := ho i hi hne
  exact ⟨hv.symm, hm.symm⟩

theorem State.perm_pathMasks_setSp_empty {s : State} {g k : Nat} (hk : k ∈ entries g) (hv : (s.sp k).valid = true) :
    (s.pathMasks g).Perm ((s.sp k).mask :: (s.setSp k {}).pathMasks g) :=
  State.perm_pathMasks_insert hk (by simp) hv (fun i _ hne => by rw [State.sp_setSp_other s {} hne]; exact ⟨rfl, rfl⟩) rfl

theorem State.pathMasks_congr {s t : State} {g : Nat} (h : ∀ i, t.sp i = s.sp i) (hg : (t.gr g).park = (s.gr g).park) :
    t.pathMasks g = s.pathMasks g := by
  simp only [State.pathMasks, State.valids, h, hg]

/-- No two of the masks share a lane. -/
def Apart (ms : List (BitVec 32)) : Prop := ms.Pairwise fun x y => x &&& y = 0

/-- Lane l is in one of the masks. -/
def InSome (ms : List (BitVec 32)) (l : Nat) : Prop := ∃ m ∈ ms, bit m l = true

theorem apart_perm {ms ns : List (BitVec 32)} (h : ms.Perm ns) : Apart ms ↔ Apart ns :=
  h.pairwise_iff fun {x y} hxy => by rw [BitVec.and_comm]; exact hxy

theorem inSome_perm {ms ns : List (BitVec 32)} (h : ms.Perm ns) (l : Nat) : InSome ms l ↔ InSome ns l := by
  simp only [InSome, h.mem_iff]

theorem inSome_cons {m : BitVec 32} {ms : List (BitVec 32)} {l : Nat} : InSome (m :: ms) l ↔ bit m l = true ∨ InSome ms l := by
  simp [InSome]

theorem bit_false_of_apart {x y : BitVec 32} {l : Nat} (h : x &&& y = 0) (hy : bit y l = true) : bit x l = false := by
  have hb : (bit x l && bit y l) = false := by rw [← BitVec.getLsbD_and, h]; simp
  simpa [hy] using hb

/-- The lanes of a mask taken out of masks that are apart. -/
theorem Apart.inSome_tail {m : BitVec 32} {ms : List (BitVec 32)} (h : Apart (m :: ms)) (l : Nat) :
    InSome ms l ↔ InSome (m :: ms) l ∧ bit m l = false := by
  have hm := (List.pairwise_cons.1 h).1
  rw [inSome_cons]
  constructor
  · rintro ⟨x, hx, hb⟩
    exact ⟨.inr ⟨x, hx, hb⟩, bit_false_of_apart (hm x hx) hb⟩
  · rintro ⟨hl | hl, hb⟩
    · rw [hl] at hb; exact absurd hb (by simp)
    · exact hl

/-- Two masks that become one. -/
theorem Apart.join {x y : BitVec 32} {ms : List (BitVec 32)} (h : Apart (x :: y :: ms)) : Apart ((x ||| y) :: ms) := by
  obtain ⟨hx, hr⟩ := List.pairwise_cons.1 h
  obtain ⟨hy, hms⟩ := List.pairwise_cons.1 hr
  refine List.pairwise_cons.2 ⟨fun z hz => ?_, hms⟩
  rw [show (x ||| y) &&& z = (x &&& z) ||| (y &&& z) by ext; simp [Bool.and_or_distrib_right],
    hx z (List.mem_cons_of_mem _ hz), hy z hz, BitVec.or_self]

theorem inSome_join {x y : BitVec 32} {ms : List (BitVec 32)} (l : Nat) : InSome ((x ||| y) :: ms) l ↔ InSome (x :: y :: ms) l := by
  simp only [inSome_cons, bit, BitVec.getLsbD_or, Bool.or_eq_true, or_assoc]

/-! ## A new path (R18, R104) -/

@[simp] theorem State.sp_mapOrder (s : State) (f : List Nat → List Nat) (i : Nat) : (s.mapOrder f).sp i = s.sp i := rfl
@[simp] theorem State.gr_mapOrder (s : State) (f : List Nat → List Nat) (g : Nat) : (s.mapOrder f).gr g = s.gr g := rfl
@[simp] theorem State.sp_fresh (s : State) (i : Nat) : s.fresh.sp i = s.sp i := rfl
@[simp] theorem State.gr_fresh (s : State) (g : Nat) : s.fresh.gr g = s.gr g := rfl
@[simp] theorem State.sp_modGr (s : State) (g : Nat) (f : Group → Group) (i : Nat) : (s.modGr g f).sp i = s.sp i := rfl
@[simp] theorem State.gr_modGr (s : State) (g : Nat) (f : Group → Group) : (s.modGr g f).gr g = f (s.gr g) := State.gr_setGr _ _ _
@[simp] theorem State.gr_setSp (s : State) (k : Nat) (p : Split) (g : Nat) : (s.setSp k p).gr g = s.gr g := rfl
@[simp] theorem State.sp_modSp (s : State) (k : Nat) (f : Split → Split) : (s.modSp k f).sp k = f (s.sp k) := State.sp_setSp _ _ _

/-- The entry that a new path of split k takes. -/
def State.pathEntry (s : State) (k : Nat) (stop : Option (BitVec 32)) (pc m : BitVec 32) : Split :=
  { valid := true, pc := pc, mask := m, parent := BitVec.ofNat 3 (k % 4), saved := 7, gmode := (s.sp k).gmode, cwp := (s.sp k).cwp,
    resident := (s.sp k).resident, readySince := s.stepNo, wait := stopWait stop, stopLive := stop }

/-- The place on the park stack that a new path of split k takes. -/
def State.pathParked (s : State) (k : Nat) (stop : Option (BitVec 32)) (pc m : BitVec 32) : Parked :=
  { key := parkKey s.nextId, pc := pc, mask := m, parent := BitVec.ofNat 3 (k % 4), saved := 7, gmode := (s.sp k).gmode,
    cwp := (s.sp k).cwp, resident := (s.sp k).resident, stop := stop }

theorem State.newPath_free {s : State} {k j : Nat} {rest : List Nat} (h : s.freeEntries (gidOf k) = j :: rest)
    (stop : Option (BitVec 32)) (pc m : BitVec 32) :
    s.newPath k stop pc m = (s.mapOrder (addKey k j)).setSp j (s.pathEntry k stop pc m) := by
  simp only [State.newPath, h, List.head?_cons]
  rfl

theorem State.newPath_full {s : State} {k : Nat} (h : s.freeEntries (gidOf k) = []) (stop : Option (BitVec 32)) (pc m : BitVec 32) :
    s.newPath k stop pc m = ((s.mapOrder (addKey k (parkKey s.nextId))).modGr (gidOf k) fun r =>
      { r with park := s.pathParked k stop pc m :: r.park }).fresh := by
  simp only [State.newPath, h, List.head?_nil]
  rfl

theorem State.perm_pathMasks_newPath (s : State) (k : Nat) (stop : Option (BitVec 32)) (pc m : BitVec 32) :
    ((s.newPath k stop pc m).pathMasks (gidOf k)).Perm (m :: s.pathMasks (gidOf k)) := by
  cases h : s.freeEntries (gidOf k) with
  | nil =>
    rw [State.newPath_full h]
    simp only [State.pathMasks, State.gr_fresh, State.gr_modGr, State.gr_mapOrder, List.map_cons]
    exact List.perm_middle
  | cons j rest =>
    obtain ⟨hj, hv⟩ := State.mem_freeEntries.1 (show j ∈ s.freeEntries (gidOf k) by rw [h]; exact List.mem_cons_self)
    rw [State.newPath_free h]
    have hp := State.perm_pathMasks_insert (t := (s.mapOrder (addKey k j)).setSp j (s.pathEntry k stop pc m)) hj hv
      (by rw [State.sp_setSp]; rfl) (fun i _ hne => by rw [State.sp_setSp_other _ _ hne]; exact ⟨rfl, rfl⟩) rfl
    rwa [State.sp_setSp] at hp

/-! ## Parents -/

/-- t is s but for the PARENT of valid entries. -/
structure ParentsOnly (s t : State) : Prop where
  same : t = { s with splits := t.splits }
  sp : ∀ i, t.sp i = { s.sp i with parent := (t.sp i).parent }
  idle : ∀ i, (s.sp i).valid = false → t.sp i = s.sp i

theorem ParentsOnly.refl (s : State) : ParentsOnly s s := ⟨rfl, fun _ => rfl, fun _ _ => rfl⟩

theorem ParentsOnly.valid {s t : State} (h : ParentsOnly s t) (i : Nat) : (t.sp i).valid = (s.sp i).valid := by rw [h.sp i]

theorem ParentsOnly.gr {s t : State} (h : ParentsOnly s t) (g : Nat) : t.gr g = s.gr g := by rw [h.same]; rfl

theorem ParentsOnly.trans {s t u : State} (h : ParentsOnly s t) (h' : ParentsOnly t u) : ParentsOnly s u := by
  refine ⟨?_, fun i => ?_, fun i hi => ?_⟩
  · rw [h'.same, h.same]
  · rw [h'.sp i, h.sp i]
  · rw [h'.idle i (by rw [h.valid, hi]), h.idle i hi]

theorem parentsOnly_modSp {s : State} {k : Nat} (hv : (s.sp k).valid = true) (f : Split → BitVec 3) :
    ParentsOnly s (s.modSp k fun p => { p with parent := f p }) := by
  refine ⟨rfl, fun i => ?_, fun i hi => ?_⟩
  · by_cases h : i = k
    · rw [h, State.sp_modSp]
    · rw [State.sp_modSp_other _ _ h]
  · refine State.sp_modSp_other _ _ fun h => ?_
    rw [h, hv] at hi
    cases hi

theorem parentsOnly_foldl_modSp (f : Split → BitVec 3) : ∀ (l : List Nat) (s : State), (∀ k ∈ l, (s.sp k).valid = true) →
    ParentsOnly s (l.foldl (fun t k => t.modSp k fun p => { p with parent := f p }) s)
  | [], s, _ => .refl s
  | k :: l, s, h => by
    have h1 := parentsOnly_modSp (h k List.mem_cons_self) f
    exact h1.trans (parentsOnly_foldl_modSp f l _ fun j hj => by rw [h1.valid, h j (List.mem_cons_of_mem k hj)])

/-! ## Heads whose family is gone (R20) -/

theorem State.mem_dueHeads {s : State} {g k : Nat} (hk : k ∈ entries g) : k ∈ s.dueHeads g ↔
    (s.sp k).valid = true ∧ (s.sp k).parent.toNat = k % 4 ∧ (s.sp k).saved.toNat ≠ k % 4
      ∧ (∀ i ∈ entries g, i ≠ k → (s.sp i).valid = true → (s.sp i).parent.toNat ≠ k % 4)
      ∧ ∀ q ∈ (s.gr g).park, q.parent.toNat ≠ k % 4 := by
  have hc : s.hasChild g (k % 4) k = false ↔
      (∀ i ∈ entries g, i ≠ k → (s.sp i).valid = true → (s.sp i).parent.toNat ≠ k % 4)
        ∧ ∀ q ∈ (s.gr g).park, q.parent.toNat ≠ k % 4 := by
    simp only [State.hasChild, Bool.or_eq_false_iff, List.any_eq_false, State.mem_valids, Bool.and_eq_true, bne_iff_ne, beq_iff_eq,
      ne_eq, not_and, and_imp]
    exact ⟨fun ⟨h, h'⟩ => ⟨fun i hi hne hv => h i hi hv hne, h'⟩, fun ⟨h, h'⟩ => ⟨fun i hi hv hne => h i hi hne hv, h'⟩⟩
  simp only [State.dueHeads, List.mem_filter, State.mem_valids, Bool.and_eq_true, beq_iff_eq, bne_iff_ne, Bool.not_eq_true', hc, hk,
    true_and, ne_eq, and_assoc]

/-- A step of the first restore rule. -/
theorem State.restoreHeads_succ (s : State) (g n : Nat) : s.restoreHeads g (n + 1) = s
    ∨ ∃ k ∈ s.dueHeads g, s.restoreHeads g (n + 1) = (s.modSp k fun p => { p with parent := p.saved }).restoreHeads g n := by
  rw [State.restoreHeads]
  split
  · exact .inl rfl
  · next k hk =>
    refine .inr ⟨k, ?_, rfl⟩
    rcases List.mem_append.1 (List.mem_of_mem_head? hk) with h | h
    · exact List.mem_of_mem_filter h
    · exact h

theorem State.restoreHeads_none {s : State} {g : Nat} (h : s.dueHeads g = []) (n : Nat) : s.restoreHeads g n = s := by
  cases n with
  | zero => rfl
  | succ n => simp [State.restoreHeads, h]

theorem State.restoreHeads_one {s : State} {g k : Nat} (h : s.dueHeads g = [k]) (n : Nat) :
    s.restoreHeads g (n + 1) = (s.modSp k fun p => { p with parent := p.saved }).restoreHeads g n := by
  obtain he | ⟨j, hj, he⟩ := s.restoreHeads_succ g n
  · rw [State.restoreHeads, h] at he ⊢
    by_cases hc : ((s.sp k).saved.toNat == k % 4) = true <;> simp [hc]
  · rw [h, List.mem_singleton] at hj
    rw [he, hj]

theorem parentsOnly_restoreHeads (g n : Nat) : ∀ s : State, ParentsOnly s (s.restoreHeads g n) := by
  induction n with
  | zero => exact .refl
  | succ n ih =>
    intro s
    obtain he | ⟨k, hk, he⟩ := s.restoreHeads_succ g n
    · rw [he]
      exact .refl s
    · rw [he]
      have hv : (s.sp k).valid = true := (State.mem_valids.1 (List.mem_of_mem_filter hk)).2
      exact (parentsOnly_modSp hv fun p => p.saved).trans (ih _)

/-! ## The end of a path (R17, R20) -/

/-- The state u before the park stack pops, where split k of s ends: entry k is free, and elsewhere only PARENTs differ. -/
structure Freed (s u : State) (k : Nat) : Prop where
  own : u.sp k = {}
  other : ∀ i, i ≠ k → u.sp i = { s.sp i with parent := (u.sp i).parent }
  group : ∃ f : BitVec 3 → BitVec 3, u.gr (gidOf k) =
    { s.gr (gidOf k) with park := (s.gr (gidOf k)).park.map fun q => { q with parent := f q.parent } }

/-- The end of split k, before the park stack pops. -/
def State.beforePop (s : State) (k : Nat) : State :=
  let g := gidOf k
  let saved := (s.sp k).saved
  let inherit (b : BitVec 3) : BitVec 3 := if b.toNat = k % 4 then saved else b
  let s1 := ((s.mapOrder (renameKey k (parkKey s.nextId))).fresh).setSp k {}
  let s2 := (s1.valids g).foldl (fun t j => t.modSp j fun p => { p with parent := inherit p.parent }) s1
  let s3 := s2.modGr g fun r => { r with park := r.park.map fun q => { q with parent := inherit q.parent } }
  s3.restoreHeads g 4

theorem State.freeEntry_eq (s : State) (k : Nat) : s.freeEntry k = (s.beforePop k).popPark (gidOf k) k := rfl

theorem State.freed_beforePop (s : State) (k : Nat) : Freed s (s.beforePop k) k := by
  unfold State.beforePop
  extract_lets g saved inherit s1 s2 s3
  have h2 : ParentsOnly s1 s2 := parentsOnly_foldl_modSp (fun p => inherit p.parent) _ _ fun j hj => (State.mem_valids.1 hj).2
  have h4 := parentsOnly_restoreHeads g 4 s3
  have hk : s1.sp k = {} := State.sp_setSp _ _ _
  have h2k : s2.sp k = {} := (h2.idle k (by rw [hk])).trans hk
  refine ⟨?_, fun i hi => ?_, inherit, ?_⟩
  · have h3k : s3.sp k = {} := h2k
    rw [h4.idle k (by rw [h3k]), h3k]
  · have h1 : s1.sp i = s.sp i := State.sp_setSp_other _ _ hi
    have h3 : s3.sp i = { s.sp i with parent := (s3.sp i).parent } := by
      rw [← h1]
      exact h2.sp i
    rw [h4.sp i, h3]
  · rw [h4.gr]
    have h3 : s3.gr g = { s2.gr g with park := (s2.gr g).park.map fun q => { q with parent := inherit q.parent } } :=
      State.gr_modGr _ _ _
    rw [h3, h2.gr]
    rfl

theorem State.popPark_nil {s : State} {g : Nat} (h : (s.gr g).park = []) (k : Nat) : s.popPark g k = s := by
  simp only [State.popPark, h]

/-- The entry that a parked path takes. -/
def Parked.entry (q : Parked) (now : Nat) : Split :=
  { valid := true, pc := q.pc, mask := q.mask, parent := q.parent, saved := q.saved, gmode := q.gmode, cwp := q.cwp,
    resident := q.resident, readySince := now, wait := stopWait q.stop, stopLive := q.stop }

theorem State.popPark_cons {s : State} {g : Nat} {q : Parked} {rest : List Parked} (h : (s.gr g).park = q :: rest) (k : Nat) :
    s.popPark g k =
      ((s.mapOrder (renameKey q.key k)).modGr g fun r => { r with park := rest }).setSp k (q.entry s.stepNo) := by
  simp only [State.popPark, h]
  rfl

theorem State.sp_popPark_other (s : State) (g : Nat) {i k : Nat} (h : i ≠ k) : (s.popPark g k).sp i = s.sp i := by
  cases hp : (s.gr g).park with
  | nil => rw [State.popPark_nil hp]
  | cons q rest => rw [State.popPark_cons hp, State.sp_setSp_other _ _ h, State.sp_modGr, State.sp_mapOrder]

theorem State.gr_popPark (s : State) (g k : Nat) : (s.popPark g k).gr g = { s.gr g with park := (s.gr g).park.tail } := by
  cases hp : (s.gr g).park with
  | nil =>
    rw [State.popPark_nil hp]
    exact congrArg (fun x => { s.gr g with park := x }) hp
  | cons q rest => rw [State.popPark_cons hp, State.gr_setSp, State.gr_modGr, State.gr_mapOrder, List.tail_cons]

/-- Popping the park stack moves a path, and neither ends nor adds one. -/
theorem State.perm_pathMasks_popPark {s : State} {g k : Nat} (hk : k ∈ entries g) (hv : (s.sp k).valid = false) :
    ((s.popPark g k).pathMasks g).Perm (s.pathMasks g) := by
  cases hp : (s.gr g).park with
  | nil => rw [State.popPark_nil hp]
  | cons q rest =>
    have hi := State.perm_pathMasks_insert (s := s.modGr g fun r => { r with park := rest }) (t := s.popPark g k) hk hv
      (by rw [State.popPark_cons hp, State.sp_setSp]; rfl)
      (fun i _ hne => by rw [State.sp_popPark_other s g hne]; exact ⟨rfl, rfl⟩)
      (by rw [State.gr_popPark, State.gr_modGr, hp, List.tail_cons])
    have hm : ((s.popPark g k).sp k).mask = q.mask := by rw [State.popPark_cons hp, State.sp_setSp]; rfl
    rw [hm] at hi
    refine hi.trans ?_
    simp only [State.pathMasks, State.gr_modGr, hp, List.map_cons]
    exact List.perm_middle.symm

/-- Another entry of the group keeps all but its PARENT. -/
theorem State.sp_freeEntry_other (s : State) {i k : Nat} (h : i ≠ k) :
    (s.freeEntry k).sp i = { s.sp i with parent := ((s.freeEntry k).sp i).parent } := by
  have hf := s.freed_beforePop k
  rw [State.freeEntry_eq, State.sp_popPark_other _ _ h]
  exact hf.other i h

theorem State.gr_freeEntry (s : State) (k : Nat) : ∃ f : BitVec 3 → BitVec 3, (s.freeEntry k).gr (gidOf k) =
    { s.gr (gidOf k) with park := (s.gr (gidOf k)).park.tail.map fun q => { q with parent := f q.parent } } := by
  have hf := s.freed_beforePop k
  obtain ⟨f, hg⟩ := hf.group
  refine ⟨f, ?_⟩
  rw [State.freeEntry_eq, State.gr_popPark, hg, List.map_tail]

theorem State.sp_freeEntry_nil {s : State} {k : Nat} (h : (s.gr (gidOf k)).park = []) : (s.freeEntry k).sp k = {} := by
  have hf := s.freed_beforePop k
  obtain ⟨f, hg⟩ := hf.group
  rw [State.freeEntry_eq, State.popPark_nil (by rw [hg, h, List.map_nil])]
  exact hf.own

theorem State.sp_freeEntry_cons {s : State} {k : Nat} {q : Parked} {rest : List Parked} (h : (s.gr (gidOf k)).park = q :: rest) :
    ∃ b now, (s.freeEntry k).sp k = Parked.entry { q with parent := b } now := by
  have hf := s.freed_beforePop k
  obtain ⟨f, hg⟩ := hf.group
  refine ⟨f q.parent, (s.beforePop k).stepNo, ?_⟩
  rw [State.freeEntry_eq, State.popPark_cons (by rw [hg, h, List.map_cons]), State.sp_setSp]

/-- The end of a path takes its mask out of the group's. -/
theorem State.perm_pathMasks_freeEntry {s : State} {k : Nat} (hv : (s.sp k).valid = true) :
    (s.pathMasks (gidOf k)).Perm ((s.sp k).mask :: (s.freeEntry k).pathMasks (gidOf k)) := by
  have hf := s.freed_beforePop k
  have hk : k ∈ entries (gidOf k) := mem_entries.2 rfl
  have hi : ((s.beforePop k).sp k).valid = false := by rw [hf.own]
  obtain ⟨f, hg⟩ := hf.group
  have hp := State.perm_pathMasks_insert (s := s.beforePop k) (t := s) hk hi hv
    (fun i _ hne => by rw [hf.other i hne]; exact ⟨rfl, rfl⟩) (by rw [hg]; simp [Function.comp_def])
  rw [State.freeEntry_eq]
  exact hp.trans ((State.perm_pathMasks_popPark hk hi).symm.cons _)

/-! ## Fusion (R19) -/

@[simp] theorem State.sp_addMark (s : State) (m : FenceMark) (i : Nat) : (s.addMark m).sp i = s.sp i := rfl

/-- The path that survives a fusion of i and j: the family head, if it is one of them. -/
def State.survivor (s : State) (i j : Nat) : Nat := if j % 4 = (s.sp i).parent.toNat then j else i

/-- The path that a fusion of i and j ends. -/
def State.fusedAway (s : State) (i j : Nat) : Nat := if j % 4 = (s.sp i).parent.toNat then i else j

/-- What a fusion makes of the survivor p, where q ends. -/
def Split.joined (p q : Split) : Split :=
  { p with mask := p.mask ||| q.mask, replay := fusedReplay p q, eccu := joinEccu p.eccu q.eccu, wait := fusedWait p.wait q.wait }

/-- The path b joined to the path a, before it ends. -/
def State.joinPath (s : State) (a b : Nat) : State :=
  let f : FenceMark := { id := s.nextId, upto := s.nextId, src := [a, b], dst := [a], acq := true, rel := true, both := true }
  let u := s.fresh.addMark f
  (u.modSp a fun p => p.joined (u.sp b)).mapOrder (renameKey b a)

theorem State.fuse_eq (s : State) (i j : Nat) :
    s.fuse i j = (s.joinPath (s.survivor i j) (s.fusedAway i j)).freeEntry (s.fusedAway i j) := by
  by_cases h : j % 4 = (s.sp i).parent.toNat
  · simp only [State.fuse, State.survivor, State.fusedAway, if_pos h]
    rfl
  · simp only [State.fuse, State.survivor, State.fusedAway, if_neg h]
    rfl

theorem State.sp_joinPath (s : State) (a b : Nat) : (s.joinPath a b).sp a = (s.sp a).joined (s.sp b) := by
  simp only [State.joinPath, State.sp_mapOrder, State.sp_modSp, State.sp_addMark, State.sp_fresh]

theorem State.sp_joinPath_other (s : State) {a x : Nat} (b : Nat) (h : x ≠ a) : (s.joinPath a b).sp x = s.sp x := by
  simp only [State.joinPath, State.sp_mapOrder, State.sp_modSp_other _ _ h, State.sp_addMark, State.sp_fresh]

section Fusion
variable {s : State} {g i j : Nat} (hi : i ∈ entries g) (hj : j ∈ entries g) (hne : i ≠ j) (hvi : (s.sp i).valid = true)
  (hvj : (s.sp j).valid = true)
include hi hj hne hvi hvj

theorem State.survivor_facts : s.survivor i j ∈ entries g ∧ s.fusedAway i j ∈ entries g ∧ s.survivor i j ≠ s.fusedAway i j
    ∧ (s.sp (s.survivor i j)).valid = true ∧ (s.sp (s.fusedAway i j)).valid = true
    ∧ ((s.sp (s.survivor i j)).mask ||| (s.sp (s.fusedAway i j)).mask) = ((s.sp i).mask ||| (s.sp j).mask) := by
  unfold State.survivor State.fusedAway
  split
  · exact ⟨hj, hi, hne.symm, hvj, hvi, BitVec.or_comm _ _⟩
  · exact ⟨hi, hj, hne, hvi, hvj, rfl⟩

theorem State.sp_fuse_survivor : (s.fuse i j).sp (s.survivor i j) = { (s.sp (s.survivor i j)).joined (s.sp (s.fusedAway i j)) with
    parent := ((s.fuse i j).sp (s.survivor i j)).parent } := by
  obtain ⟨-, -, hab, -⟩ := State.survivor_facts hi hj hne hvi hvj
  have h := (s.joinPath (s.survivor i j) (s.fusedAway i j)).sp_freeEntry_other hab
  rw [State.sp_joinPath] at h
  rw [State.fuse_eq]
  exact h

/-- A fusion joins two masks of the group's to one. -/
theorem State.perm_pathMasks_fuse : ∃ x y ms, (x ||| y) = ((s.sp i).mask ||| (s.sp j).mask)
    ∧ (s.pathMasks g).Perm (x :: y :: ms) ∧ ((s.fuse i j).pathMasks g).Perm ((x ||| y) :: ms) := by
  obtain ⟨ha, hb, hab, hva, hvb, hm⟩ := State.survivor_facts hi hj hne hvi hvj
  rw [State.fuse_eq]
  generalize s.survivor i j = a at *
  generalize s.fusedAway i j = b at *
  have hua := s.sp_joinPath a b
  have hub := s.sp_joinPath_other b hab.symm
  have hrest : (((s.joinPath a b).setSp a {}).pathMasks g) = (s.setSp a {}).pathMasks g := by
    refine State.pathMasks_congr (fun x => ?_) rfl
    by_cases hx : x = a
    · rw [hx, State.sp_setSp, State.sp_setSp]
    · rw [State.sp_setSp_other _ _ hx, State.sp_setSp_other _ _ hx, State.sp_joinPath_other s b hx]
  have hb' : ((s.setSp a {}).sp b) = s.sp b := State.sp_setSp_other _ _ hab.symm
  have hs := State.perm_pathMasks_setSp_empty ha hva
  have hs2 := State.perm_pathMasks_setSp_empty hb (show ((s.setSp a {}).sp b).valid = true by rw [hb', hvb])
  have hu1 := State.perm_pathMasks_setSp_empty (s := s.joinPath a b) ha (by rw [hua]; exact hva)
  have hgb : gidOf b = g := mem_entries.1 hb
  have hu2 := State.perm_pathMasks_freeEntry (s := s.joinPath a b) (k := b) (by rw [hub]; exact hvb)
  rw [hb'] at hs2
  rw [hua, hrest] at hu1
  rw [hub, hgb] at hu2
  refine ⟨_, _, _, hm, hs.trans (hs2.cons _), ?_⟩
  exact ((hu2.symm.trans hu1).trans ((hs2.cons _).trans (List.Perm.swap _ _ _))).cons_inv

end Fusion

theorem fusable_iff {p q : Split} (h : fusable p q = true) : p.pc = q.pc ∧ p.parent = q.parent ∧ p.gmode = q.gmode ∧ p.cwp = q.cwp
    ∧ p.resident = q.resident ∧ p.mode = .normal ∧ q.mode = .normal ∧ p.rep = none ∧ q.rep = none := by
  simp only [fusable, Split.mayFuse, Bool.and_eq_true, beq_iff_eq, Option.isNone_iff_eq_none] at h
  tauto

theorem State.fuseAll_none {s : State} {g : Nat} (h : ∀ i ∈ entries g, ∀ j ∈ entries g, i < j → fusable (s.sp i) (s.sp j) = false)
    (n : Nat) : s.fuseAll g n = s := by
  have hf : (entryPairs g).find? (fun p => fusable (s.sp p.1) (s.sp p.2)) = none := by
    refine List.find?_eq_none.2 fun p hp => ?_
    have hm : p.1 ∈ entries g ∧ p.2 ∈ entries g ∧ p.1 < p.2 := by
      simp only [entryPairs, List.mem_cons, List.not_mem_nil, or_false] at hp
      rcases hp with rfl | rfl | rfl | rfl | rfl | rfl <;> simp [entries]
    obtain ⟨h1, h2, hlt⟩ := hm
    simp [h _ h1 _ h2 hlt]
  cases n with
  | zero => rfl
  | succ n => simp only [State.fuseAll, hf]

/-! ## The statement about the split table -/

/-- R16-R20, R104. -/
theorem splitTable : Claims.SplitTable := by
  intro s g k hk p masks
  obtain rfl : gidOf k = g := mem_entries.1 hk
  refine ⟨fun stop pc m => ⟨fun j rest h => ?_, fun h => ?_, fun ha hd => ?_⟩, fun hv => ⟨fun i _ hne => ?_, fun h => ?_, fun q rest h => ?_,
    fun ha => ?_⟩, fun n => ⟨fun h => State.restoreHeads_none h n, fun h => State.restoreHeads_one h n⟩, State.mem_dueHeads hk,
    fun i hi j hj hne hvi hvj => ?_, fun q => fusable_iff, fun n h => State.fuseAll_none h n⟩
  · rw [State.newPath_free h, State.sp_setSp]
    exact ⟨rfl, rfl, rfl, rfl, rfl, fun i hi => State.sp_setSp_other _ _ hi⟩
  · rw [State.newPath_full h]
    exact ⟨fun _ => rfl, _, by rw [State.gr_fresh, State.gr_modGr, State.gr_mapOrder], rfl, rfl, rfl, rfl, rfl, rfl, rfl⟩
  · refine (apart_perm (s.perm_pathMasks_newPath k stop pc m)).2 (List.pairwise_cons.2 ⟨fun x hx => ?_, ha⟩)
    rw [BitVec.and_comm]
    exact hd x hx
  · rw [State.sp_freeEntry_other s hne]
    exact ⟨rfl, rfl, rfl⟩
  · obtain ⟨f, hg⟩ := s.gr_freeEntry k
    exact ⟨State.sp_freeEntry_nil h, by rw [hg, h, List.tail_nil, List.map_nil]⟩
  · obtain ⟨f, hg⟩ := s.gr_freeEntry k
    obtain ⟨b, now, he⟩ := State.sp_freeEntry_cons h
    rw [he, hg, h]
    exact ⟨rfl, rfl, rfl, rfl, rfl, rfl, by simp [Function.comp_def]⟩
  · have hp := State.perm_pathMasks_freeEntry hv
    have hc := (apart_perm hp).1 ha
    exact ⟨(List.pairwise_cons.1 hc).2, fun l => (hc.inSome_tail l).trans (and_congr_left' (inSome_perm hp l).symm)⟩
  · have ht := State.sp_fuse_survivor hi hj hne hvi hvj
    obtain ⟨-, -, -, hva, -, hm⟩ := State.survivor_facts hi hj hne hvi hvj
    obtain ⟨x, y, ms, -, hs, hf⟩ := State.perm_pathMasks_fuse hi hj hne hvi hvj
    refine ⟨?_, ?_, ?_, ?_, fun ha => ⟨?_, fun l => ?_⟩⟩
    · exact (congrArg Split.valid ht).trans hva
    · exact (congrArg Split.mask ht).trans hm
    · exact (congrArg Split.pc ht).trans rfl
    · exact (congrArg Split.mode ht).trans rfl
    · exact (apart_perm hf).2 ((apart_perm hs).1 ha).join
    · exact (inSome_perm hf l).trans ((inSome_join l).trans (inSome_perm hs l).symm)

end Sys2Proof.Machine
end

section
/-! PROOF of O13, concluded: branches. -/
namespace Sys2Proof.Machine

set_option Elab.async false

/-! ## Targets within the overlay (R103, R110) -/

theorem State.nearForm_known {s : State} (h : s.lenKnown = true) (f : State → State) : s.nearForm f = f s := by
  rw [State.nearForm, if_pos h]

theorem State.nearForm_unknown {s : State} (h : s.lenKnown = false) (f : State → State) :
    s.nearForm f = (s.ovWaits s.cc s.grp.ctx (pcId s.me.pc)).1.stall := by
  rw [State.nearForm, h]
  rfl

theorem State.nearTarget_inside {s : State} {off : Int} (h : 0 ≤ off ∧ off < s.nearLen) :
    s.nearTarget off = some (BitVec.ofNat 32 (s.me.pc.toNat / 65536 * 65536 + off.toNat)) := by
  rw [State.nearTarget, if_pos h]
  rfl

theorem State.nearTarget_outside {s : State} {off : Int} (h : ¬ (0 ≤ off ∧ off < s.nearLen)) : s.nearTarget off = none := by
  rw [State.nearTarget, if_neg h]

/-! ## Division (R104) -/

/-- The issuing split, dividing: it goes on at pc with the lanes of `stay`. -/
def Split.staying (p : Split) (number : Nat) (pc stay : BitVec 32) : Split :=
  { p with pc := pc, mask := stay, saved := if p.parent = BitVec.ofNat 3 (number % 4) then p.saved else p.parent,
           parent := BitVec.ofNat 3 (number % 4) }

theorem State.divide_one (s : State) (k : Nat) (pc stay target take : BitVec 32) : s.divide k pc stay [(target, take)] =
    (s.modSp k fun p => p.staying k pc stay).newPath k (s.safePoint k) target take := rfl

theorem State.valid_modSp_staying (s : State) (k : Nat) (pc stay : BitVec 32) (i : Nat) :
    ((s.modSp k fun p => p.staying k pc stay).sp i).valid = (s.sp i).valid := by
  by_cases h : i = k
  · rw [h, State.sp_modSp]
    rfl
  · rw [State.sp_modSp_other _ _ h]

theorem State.freeEntries_modSp_staying (s : State) (k g : Nat) (pc stay : BitVec 32) :
    (s.modSp k fun p => p.staying k pc stay).freeEntries g = s.freeEntries g := by
  simp only [State.freeEntries, State.valid_modSp_staying]

/-- A division with a free entry: the taken lanes in that entry, the others where they were. -/
theorem State.sp_divide_one {s : State} {k j : Nat} {rest : List Nat} (hv : (s.sp k).valid = true)
    (h : s.freeEntries (gidOf k) = j :: rest) (pc stay target take : BitVec 32) :
    (s.divide k pc stay [(target, take)]).sp k = (s.sp k).staying k pc stay
      ∧ (s.divide k pc stay [(target, take)]).sp j = s.pathEntry k (s.safePoint k) target take := by
  have hj : (s.sp j).valid = false := (State.mem_freeEntries.1 (show j ∈ s.freeEntries (gidOf k) by rw [h]; exact List.mem_cons_self)).2
  have hne : k ≠ j := fun he => by rw [← he, hv] at hj; cases hj
  rw [State.divide_one, State.newPath_free (by rw [State.freeEntries_modSp_staying, h])]
  refine ⟨?_, ?_⟩
  · rw [State.sp_setSp_other _ _ hne, State.sp_mapOrder, State.sp_modSp]
  · rw [State.sp_setSp, State.pathEntry, State.sp_modSp]
    rfl

theorem State.split_acts {s : State} (ha : s.acts) (pc stay : BitVec 32) (paths : List (BitVec 32 × BitVec 32)) :
    s.split pc stay paths = if s.roomFor s.cg paths.length = true then s.divide s.cur pc stay paths else s.trapU cSplitovf := by
  rw [State.split, State.not_inRegion ha]
  by_cases h : s.roomFor s.cg paths.length = true <;> simp [h]

theorem State.roomFor_one_of_free {s : State} {g j : Nat} {rest : List Nat} (h : s.freeEntries g = j :: rest) : s.roomFor g 1 = true := by
  simp only [State.roomFor, h, List.length_cons, decide_eq_true_eq]
  omega

/-! ## BRA -/

/-- What a branch does whose lanes `take` are to jump to offset `off`. -/
def State.branch (s : State) (take next : BitVec 32) (off : Int) : State :=
  if take = 0 then s.goto next
  else if take ≠ s.me.mask ∧ s.inHandler = true then s.trapU cPriv
  else s.nearForm fun s => match s.nearTarget off with
    | none => s.trapU cApert
    | some pc => if take = s.me.mask then s.goto pc else s.split next (s.me.mask &&& ~~~ take) [(pc, take)]

theorem exec_bra {s : State} (ha : s.acts) (e : Bool) (p : BitVec 3) (c : BitVec 2) (i : BitVec 20) (hf : s.free { sq := [p.toNat] }) :
    exec (.bra e p c i) s = .next (s.branch (takenLanes c.toNat (s.pget s.cur p.toNat) s.me.mask) (pcAdd s.me.pc (fallBy e))
      ((pcOff s.me.pc : Int) + i.toInt)) := by
  change execBra e p c i s = _
  rw [execBra, issue_valid _ ha.1, State.whenFree_free _ ha hf]
  rfl

section Branch
variable {s : State} {take : BitVec 32} (next : BitVec 32) {off : Int} (h0 : take ≠ 0) (hp : take = s.me.mask ∨ ¬ s.inHandler = true)

theorem State.branch_zero (s : State) (next : BitVec 32) (off : Int) : s.branch 0 next off = s.goto next := rfl

include h0

theorem State.branch_priv (hm : take ≠ s.me.mask) (hh : s.inHandler = true) : s.branch take next off = s.trapU cPriv := by
  rw [State.branch, if_neg h0, if_pos ⟨hm, hh⟩]

include hp

theorem State.branch_near : s.branch take next off = s.nearForm fun s => match s.nearTarget off with
    | none => s.trapU cApert
    | some pc => if take = s.me.mask then s.goto pc else s.split next (s.me.mask &&& ~~~ take) [(pc, take)] := by
  rw [State.branch, if_neg h0, if_neg (by tauto)]

theorem State.branch_waits (hl : s.lenKnown = false) :
    s.branch take next off = (s.ovWaits s.cc s.grp.ctx (pcId s.me.pc)).1.stall := by
  rw [State.branch_near next h0 hp, State.nearForm_unknown hl]

variable (hl : s.lenKnown = true)
include hl

theorem State.branch_outside (ho : ¬ (0 ≤ off ∧ off < s.nearLen)) : s.branch take next off = s.trapU cApert := by
  rw [State.branch_near next h0 hp, State.nearForm_known hl, State.nearTarget_outside ho]

theorem State.branch_inside (ho : 0 ≤ off ∧ off < s.nearLen) : s.branch take next off =
    let pc := BitVec.ofNat 32 (s.me.pc.toNat / 65536 * 65536 + off.toNat)
    if take = s.me.mask then s.goto pc else s.split next (s.me.mask &&& ~~~ take) [(pc, take)] := by
  rw [State.branch_near next h0 hp, State.nearForm_known hl, State.nearTarget_inside ho]

end Branch

/-- R103, R104, R18, R110. -/
theorem branchForms : Claims.BranchForms := by
  intro s e p c i ha hf m on take to' inside target next handler
  have hh : s.inHandler = true ↔ handler := s.inHandler_iff
  have hor : (take = m ∨ ¬ handler) → take = s.me.mask ∨ ¬ s.inHandler = true := by rw [hh]; exact id
  have hx : exec (.bra e p c i) s = .next (s.branch take next to') := exec_bra ha e p c i hf
  clear_value take
  rw [hx]
  refine ⟨fun h0 => ?_, fun h0 hm h => ?_, fun h0 hp hl => ?_, fun h0 hp hl ho => ?_, fun h0 hm hl ho => ?_,
    fun h0 hm h hl ho hr => ?_, fun j rest h0 hm h hl ho hr => ?_⟩
  · rw [h0, State.branch_zero]
  · rw [State.branch_priv next h0 hm (hh.2 h)]
  · rw [State.branch_waits next h0 (hor hp) hl]
  · rw [State.branch_outside next h0 (hor hp) hl ho]
  · rw [State.branch_inside next h0 (hor (.inl hm)) hl ho, if_pos hm]
  · rw [State.branch_inside next h0 (hor (.inr h)) hl ho, if_neg hm, State.split_acts ha, List.length_singleton, hr]
    rfl
  · rw [State.branch_inside next h0 (hor (.inr h)) hl ho, if_neg hm, State.split_acts ha, List.length_singleton,
      if_pos (State.roomFor_one_of_free hr)]
    obtain ⟨hk, hj⟩ := State.sp_divide_one (k := s.cur) ha.1 hr next (m &&& ~~~ take) target take
    refine ⟨_, rfl, ?_⟩
    rw [hk, hj]
    exact ⟨rfl, rfl, rfl, rfl, rfl, rfl, rfl, rfl, rfl, rfl, rfl⟩

/-- Settles O13, the forms of branches and the table they divide splits in. -/
theorem branches : Obligations.Branches := ⟨branchForms, splitTable⟩

end Sys2Proof.Machine
end

section
/-! PROOF of O15 and O17: EXIT and RET, BRK, TRAP and TRET. -/
namespace Sys2Proof.Machine

set_option Elab.async false

/-! ## The end of a split's lanes (R97) -/

theorem State.exited_exitSplit (s : State) : (s.exitSplit.gr s.cg).exited = (s.grp.exited ||| s.me.mask) := by
  unfold State.exitSplit
  extract_lets m u
  have hu : (u.gr s.cg).exited = (s.grp.exited ||| s.me.mask) := by
    simp only [u, State.gr_modGr]
    split <;> rfl
  obtain ⟨f, hg⟩ := u.gr_freeEntry u.cur
  have he : ((u.freeEntry u.cur).gr s.cg).exited = (u.gr s.cg).exited := (congrArg Group.exited hg).trans rfl
  rw [he, hu]

theorem State.sp_exitSplit {s : State} (h : s.grp.park = []) : s.exitSplit.sp s.cur = {} := by
  unfold State.exitSplit
  extract_lets m u
  refine State.sp_freeEntry_nil (s := u) (k := s.cur) ?_
  have hu : (u.gr s.cg).park = s.grp.park := by
    simp only [u, State.gr_modGr]
    split <;> rfl
  exact hu.trans h

theorem exec_exit {s : State} (ha : s.acts) (e : Bool) : exec (.exit e) s = .next s.exitSplit := by
  change execExit e s = _
  rw [execExit, issue_valid _ ha.1, State.not_inRegion ha]
  rfl

theorem exec_ret_first {s : State} (ha : s.acts) (e : Bool) (h : s.me.cwp = 0) : exec (.ret e) s = .next s.exitSplit := by
  change execRet e s = _
  rw [execRet, issue_valid _ ha.1, if_pos h, State.not_inRegion ha]
  rfl

/-! ## A return to one target (R111) -/

/-- The caller's window. -/
def Split.closed (p : Split) : Split := { p with cwp := p.cwp - 1, resident := p.resident - 1 }

theorem State.roomFor_zero (s : State) (g : Nat) : s.roomFor g 0 = true := by simp [State.roomFor]

theorem exec_ret_one {s u v w : State} {pc m : BitVec 32} (ha : s.acts) (e : Bool) (hc : s.me.cwp ≠ 0)
    (hl : (s.me.levels.any fun x => x.entryCwp == s.me.cwp) = false) (hr : s.returns = [(pc, m)])
    (hu : s.ovAnyWaits s.cc s.grp.ctx [pcId pc] = (u, false)) (hv : u.checkAll [pc] = (v, none)) (hd : 2 ≤ v.me.resident)
    (hw : v.residencies [pcId pc] 0 = (w, none)) : exec (.ret e) s = .next ((w.modSp w.cur Split.closed).goto pc) := by
  change execRet e s = _
  have hd' : ¬ v.me.resident ≤ 1 := by omega
  rw [execRet, issue_valid _ ha.1, if_neg hc, State.whenFree_free _ ha s.free_nothing, hl]
  simp only [Bool.false_eq_true, if_false, hr, List.map_cons, List.map_nil, hu, List.length_singleton, Nat.lt_irrefl, false_and, hv,
    Nat.sub_self, State.roomFor_zero, not_true_eq_false, hd', hw]
  rfl

/-- Settles O15, from the end of the split's lanes and the one path through RET that these conditions leave. -/
theorem exitAndReturn : Obligations.ExitAndReturn := by
  intro s e ha m
  refine ⟨exec_exit ha e, exec_ret_first ha e, fun h => ⟨s.exited_exitSplit, State.sp_exitSplit h⟩,
    fun pc u v w hc _ hl hr hu hv hd hw => ?_⟩
  have hl' : (s.me.levels.any fun x => x.entryCwp == s.me.cwp) = false := by
    rw [List.all_eq_not_any_not] at hl
    simpa using hl
  refine ⟨_, exec_ret_one ha e (by omega) hl' hr hu hv hd hw, rfl, fun k hk => ?_, ?_⟩
  · rw [State.goto]
    exact (State.sp_modSp_other _ _ hk).trans (State.sp_modSp_other _ _ hk)
  · rw [State.goto, State.me_modSp_cur, State.me_modSp_cur]
    rfl

/-! ## BRK, TRAP and TRET (R100, R101, R395) -/

theorem exec_brk {s : State} (hv : s.me.valid = true) (e : Bool) : exec (.brk e) s = .next (s.trapU cBrkpt) := by
  change execBrk e s = _
  rw [execBrk, issue_valid _ hv]

theorem exec_trap {s : State} (hv : s.me.valid = true) (e : Bool) (c : BitVec 10) :
    exec (.trap e c) s = .next (s.trap s.cur { s.uniTrap s.cur cTrapi with code := c.toNat }) := by
  change execTrap e c s = _
  rw [execTrap, issue_valid _ hv]

theorem exec_tret_priv {s : State} (hv : s.me.valid = true) (e : Bool) (n : BitVec 1) (hm : s.me.mode ≠ .trap) :
    exec (.tret e n) s = .next (s.trapU cPriv) := by
  change execTret e n s = _
  rw [execTret, issue_valid _ hv, if_pos (.inl hm)]

/-- The split p, its trap v left behind (R395). -/
def Split.untrapped (p : Split) (v : TrapSave) (rest : List TrapSave) : Split :=
  { p with traps := rest, mode := v.mode, wait := .none, gmode := v.gmode, ownProbe := v.probe, bank := v.bank, pc := v.pc, rep := v.rep,
           replay := none }

theorem State.returnTrap_of_traps {s : State} {k : Nat} {v : TrapSave} {rest : List TrapSave} (h : (s.sp k).traps = v :: rest)
    (again : Bool) : s.returnTrap k again = s.setSp k (if again then { (s.sp k).untrapped v rest with replay := v.replay }
      else ((s.sp k).untrapped v rest).pastBy v.fall) := by
  cases again <;> simp only [State.returnTrap, h] <;> rfl

/-- Only while its context is being saved a split stops (R366). -/
theorem State.stopHere_running {s : State} {k : Nat} (h : (s.cx (s.gr (gidOf k)).ctx).state ≠ .saving) (pc : BitVec 32) :
    s.stopHere k pc = s := by
  unfold State.stopHere
  exact if_pos h

section Tret
variable {s : State} (hv : s.me.valid = true) (e : Bool) (hm : s.me.mode = .trap) {v : TrapSave} {rest : List TrapSave}
  (ht : s.me.traps = v :: rest)
include hv hm ht

theorem exec_tret_again : exec (.tret e 0) s = .next (s.setSp s.cur { s.me.untrapped v rest with replay := v.replay }) := by
  change execTret e 0 s = _
  rw [execTret, issue_valid _ hv, if_neg (by simp [hm]), State.returnTrap_of_traps ht]
  rw [ht]
  rfl

theorem exec_tret_past (hr : s.me.resident ≠ 0) (hs : s.ctx.state ≠ .saving) :
    exec (.tret e 1) s = .next (s.setSp s.cur ((s.me.untrapped v rest).pastBy v.fall)) := by
  change execTret e 1 s = _
  rw [execTret, issue_valid _ hv, if_neg (by simp [hm, hr]), State.returnTrap_of_traps ht]
  rw [ht]
  exact congrArg Host.Outcome.next (State.stopHere_running (s := s.setSp s.cur ((s.me.untrapped v rest).pastBy v.fall)) hs v.pc)

end Tret

/-- Settles O17, from the return of a trap and how a split moves past an instruction. -/
theorem softwareTrapsAndReturn : Obligations.SoftwareTrapsAndReturn := by
  intro s e c n hv p
  refine ⟨exec_brk hv e, exec_trap hv e c, exec_tret_priv hv e n, fun v rest hm ht hr => ?_⟩
  intro back
  refine ⟨fun h0 => ?_, fun h1 hs hrep => ?_, fun r h1 hs hrep => ?_⟩
  · rw [h0]
    exact exec_tret_again hv e hm ht
  · rw [h1, exec_tret_past hv e hm ht (hr h1) hs, Split.pastBy_no_rep (p := p.untrapped v rest) hrep]
    rfl
  · rw [h1, exec_tret_past hv e hm ht (hr h1) hs, Split.pastBy_rep (p := p.untrapped v rest) hrep]
    rfl

end Sys2Proof.Machine
end

section
/-! PROOF of O14: calls and jumps. The checks of a far target read the overlay table through the context's translation; such a read
changes caches, TLBs and directories alone (`State.takeReads`), so that the split stands where it stood. -/
namespace Sys2Proof.Machine

set_option Elab.async false

/-! ## Reads at an address of a context -/

/-- The state s with what a read through a context's translation may change taken from t. -/
def State.takeReads (s t : State) : State := { s.takeCaches t with sharers := t.sharers }

theorem takeReads_refl (s : State) : s = s.takeReads s := rfl

theorem takeReads_trans {s t u : State} (h : t = s.takeReads t) (h' : u = t.takeReads u) : u = s.takeReads u :=
  h'.trans (congrArg (fun x => x.takeReads u) h)

theorem takeReads_of_caches {s t : State} (h : t = s.takeCaches t) : t = s.takeReads t := by
  rw [h]
  rfl

theorem takeReads_of_checks {s t : State} (h : CheckKeeps s t) : t = s.takeReads t := takeReads_of_caches (takeCaches_of_checks h.all)

theorem takeReads_foldl {α : Type} (f : State → α → State) (hf : ∀ s x, f s x = s.takeReads (f s x)) (l : List α) (s : State) :
    l.foldl f s = s.takeReads (l.foldl f s) :=
  foldl_keeps (fun t => t = s.takeReads t) f (fun t x ht => takeReads_trans ht (hf t x)) l s (takeReads_refl s)

theorem takeReads_foldlFst {α β : Type} (f : State × β → α → State × β) (hf : ∀ p x, (f p x).1 = p.1.takeReads (f p x).1) (l : List α)
    (p : State × β) : (l.foldl f p).1 = p.1.takeReads (l.foldl f p).1 :=
  foldl_keeps (fun q => q.1 = p.1.takeReads q.1) f (fun q x hq => takeReads_trans hq (hf q x)) l p (takeReads_refl p.1)

theorem State.downL2_takeReads (s : State) (die sec : Nat) : s.downL2 die sec = s.takeReads (s.downL2 die sec) := by
  unfold State.downL2
  dsimp only
  split
  · exact takeReads_of_caches (takeCaches_trans (takeCaches_trans (s.countReq_takeCaches _) (State.homeMerge_takeCaches _ _ _ _ _))
      (State.setL2_takeCaches _ _ _ _))
  · split
    · exact takeReads_of_caches (State.setL2_takeCaches _ _ _ _)
    · exact takeReads_refl s

theorem State.setDir_setSharers_takeReads (s : State) (sec : Nat) (d : Dir) (m : BitVec 32) :
    (s.setDir sec d).setSharers sec m = s.takeReads ((s.setDir sec d).setSharers sec m) := rfl

theorem State.settleSector_takeReads (s : State) (sec : Nat) : s.settleSector sec = s.takeReads (s.settleSector sec) := by
  unfold State.settleSector
  dsimp only
  have ht := takeReads_foldl (fun t d => t.downL2 d sec) (fun t d => t.downL2_takeReads d sec) (s.tracked sec) s
  split
  · exact takeReads_trans ht (State.setDir_setSharers_takeReads _ _ _ _)
  · exact ht

theorem State.homeRead_takeReads (s : State) (home sec : Nat) : (s.homeRead home sec).1 = s.takeReads (s.homeRead home sec).1 :=
  takeReads_of_checks (s.checkKeeps_homeRead home sec)

theorem State.countMiss_takeReads (s : State) (core cls sec home : Nat) :
    s.countMiss core cls sec home = s.takeReads (s.countMiss core cls sec home) := by
  unfold State.countMiss
  split
  · exact takeReads_of_caches (s.countReq_takeCaches _)
  · exact takeReads_refl s

theorem State.nowSector_takeReads (s : State) (core sec cls home : Nat) :
    (s.nowSector core sec cls home).1 = s.takeReads (s.nowSector core sec cls home).1 := by
  unfold State.nowSector
  extract_lets e under
  have hu : under.1 = s.takeReads under.1 := by
    simp only [under]
    split
    · exact takeReads_refl s
    · exact takeReads_trans (s.settleSector_takeReads sec) (State.homeRead_takeReads _ _ _)
  split
  · exact hu
  · split
    · exact takeReads_refl s
    · exact takeReads_trans hu (takeReads_of_caches (State.setL1_takeCaches _ _ _ _))

theorem State.devRead_takeReads (s : State) (home a n : Nat) : (s.devRead home a n).1 = s.takeReads (s.devRead home a n).1 := by
  unfold State.devRead
  refine takeReads_foldlFst _ (fun p sec => ?_) _ (s, 0)
  have h := takeReads_trans (p.1.settleSector_takeReads sec) (State.homeRead_takeReads _ home sec)
  dsimp only
  exact h

theorem State.nowRead_takeReads (s : State) (core : Nat) (p : Place) (n : Nat) :
    (s.nowRead core p n).1 = s.takeReads (s.nowRead core p n).1 := by
  cases p with
  | mem pa cls home =>
    simp only [State.nowRead]
    split
    · generalize hu : (if cls = 1 ∧ (s.l1At core (pa / 64)).isSome then s else s.countMiss core cls (pa / 64) home) = u
      have hs : u = s.takeReads u := by
        rw [← hu]
        split
        · exact takeReads_refl s
        · exact s.countMiss_takeReads _ _ _ _
      have hn := takeReads_trans hs (u.nowSector_takeReads core (pa / 64) cls home)
      generalize u.nowSector core (pa / 64) cls home = r at hn
      exact hn
    · exact s.devRead_takeReads home pa n
  | host | abuf | wbuf =>
    simp only [State.nowRead, State.placeRead]
    exact takeReads_refl s

theorem State.translate_takeReads (s : State) (core ctx va : Nat) (need : Need) :
    (s.translate core ctx va need).1 = s.takeReads (s.translate core ctx va need).1 :=
  takeReads_of_checks (s.checkKeeps_translate core ctx va need)

theorem State.vaRead_takeReads (s : State) (core ctx va n : Nat) : (s.vaRead core ctx va n).1 = s.takeReads (s.vaRead core ctx va n).1 := by
  have ht := s.translate_takeReads core ctx va needLoad
  unfold State.vaRead
  split
  next u p _ h =>
    rw [h] at ht
    exact takeReads_trans ht (u.nowRead_takeReads core p n)
  next u x _ h =>
    rw [h] at ht
    exact ht

theorem State.vaWaits_takeReads (s : State) (core ctx va : Nat) (need : Need) :
    (s.vaWaits core ctx va need).1 = s.takeReads (s.vaWaits core ctx va need).1 := by
  have ht := s.translate_takeReads core ctx va need
  unfold State.vaWaits
  split
  all_goals
    next h =>
      rw [h] at ht
      exact ht

/-! ## The overlay table (R247) -/

theorem State.ovHeader_takeReads (s : State) (core c : Nat) : (s.ovHeader core c).1 = s.takeReads (s.ovHeader core c).1 := by
  have hr := s.vaRead_takeReads core c (s.cx c).ovt.toNat 8
  unfold State.ovHeader
  dsimp only
  split <;> exact hr

theorem State.ovWaits_takeReads (s : State) (core c id : Nat) : (s.ovWaits core c id).1 = s.takeReads (s.ovWaits core c id).1 := by
  have hw := s.vaWaits_takeReads core c (s.cx c).ovt.toNat needLoad
  unfold State.ovWaits
  dsimp only
  split
  next u h =>
    rw [h] at hw
    exact hw
  next u h =>
    rw [h] at hw
    have hh := takeReads_trans hw (u.ovHeader_takeReads core c)
    split
    · exact hh
    · exact takeReads_trans hh (State.vaWaits_takeReads _ _ _ _ _)

theorem State.ovEntry_takeReads (s : State) (core c id : Nat) : (s.ovEntry core c id).1 = s.takeReads (s.ovEntry core c id).1 := by
  have hh := s.ovHeader_takeReads core c
  unfold State.ovEntry
  dsimp only
  split
  · exact hh
  · have ha := takeReads_trans hh (State.vaRead_takeReads _ core c
      (((s.ovHeader core c).1.cx c).ovt.toNat + 64 + 16 * id) 8)
    have hb := takeReads_trans ha (State.vaRead_takeReads _ core c
      (((s.ovHeader core c).1.cx c).ovt.toNat + 64 + 16 * id + 8) 8)
    split
    · split <;> exact hb
    · exact hb

theorem State.targetLen_takeReads (s : State) (core c id : Nat) : (s.targetLen core c id).1 = s.takeReads (s.targetLen core c id).1 := by
  unfold State.targetLen
  split
  · exact takeReads_refl s
  · exact s.ovEntry_takeReads core c id

theorem State.farCheck_takeReads (s : State) (pc : BitVec 32) (far : Bool) :
    (s.farCheck pc far).1 = s.takeReads (s.farCheck pc far).1 := by
  have ht := s.targetLen_takeReads s.cc s.grp.ctx (pcId pc)
  unfold State.farCheck
  dsimp only
  split
  · exact takeReads_refl s
  · split
    next u h =>
      rw [h] at ht
      exact ht
    next u n h =>
      rw [h] at ht
      split <;> exact ht

/-- A fill that finds its overlay resident has read the table, and no more. -/
theorem State.startFill_resident {s t : State} {core c ovl : Nat} {tok : List Nat}
    (h : s.startFill core c ovl tok = (t, .resident)) : t = s.takeReads t := by
  have hw := s.ovWaits_takeReads core c ovl
  unfold State.startFill at h
  split at h
  · cases h
  · split at h
    · cases h
      exact takeReads_refl s
    · split at h
      next u wait o hu ho =>
        rw [hu] at hw
        split at h
        · cases h
          exact hw
        · split at h
          · cases h
          · dsimp only at h
            split at h <;> cases h
      · cases h
      · dsimp only at h
        split at h
        · cases h
        · split at h
          · cases h
          · cases h
          · split at h <;> cases h

/-- A target that is resident, or is found so: its table is read, and no more. -/
theorem State.residency_none {s t : State} {id major : Nat} {ret : Bool} (h : s.residency id major ret = (t, none)) : t = s.takeReads t := by
  have hw := s.ovWaits_takeReads s.cc s.grp.ctx id
  unfold State.residency at h
  extract_lets away at h
  split at h
  · cases h
    exact takeReads_refl s
  · dsimp only at h
    split_ifs at h
    · cases h
    · cases h
    · cases h
    · split at h
      next u hu =>
        cases h
        exact takeReads_trans (takeReads_trans hw (State.ovHeader_takeReads _ _ _)) (State.startFill_resident hu)
      all_goals cases h

/-! ## Where the split stands after such reads -/

theorem State.me_takeReads {s t : State} (h : t = s.takeReads t) : t.me = s.me := by
  rw [h]
  rfl

/-! ## Opening a frame (R107, R109) -/

/-- The window of a call. -/
def Split.opened (p : Split) : Split := { p with cwp := p.cwp + 1, resident := p.resident + 1 }

/-- The return links when each lane of a list holds one for frame c. -/
def framedLinks (m : Map (BitVec 32)) (g c : Nat) (ls : List Nat) (ret : BitVec 32) : Map (BitVec 32) :=
  ls.foldl (fun m l => mset 0 m (linkKey g l c) ret) m

theorem State.foldl_setLink (ret : BitVec 32) : ∀ (ls : List Nat) (s : State),
    ls.foldl (fun t l => t.setLink t.cg l t.me.cwp ret) s = { s with link := framedLinks s.link s.cg s.me.cwp ls ret }
  | [], _ => rfl
  | l :: ls, s => State.foldl_setLink ret ls (s.setLink s.cg l s.me.cwp ret)

theorem State.saveLinks_outside {s : State} (h : s.me.mode ≠ .region) : s.saveLinks = s := by
  simp [State.saveLinks, State.inRegion, h]

theorem State.openFrame_outside {s : State} (h : s.me.mode ≠ .region) (ret : BitVec 32) : s.openFrame ret =
    { s.modSp s.cur Split.opened with link := framedLinks s.link s.cg (s.me.cwp + 1) (lanesOf s.me.mask) ret } := by
  have hu : (s.modSp s.cur Split.opened).me = s.me.opened := s.me_modSp_cur _
  have hs : (s.modSp s.cur Split.opened).saveLinks = s.modSp s.cur Split.opened :=
    State.saveLinks_outside (by rw [hu]; exact h)
  have ho : s.openFrame ret = (lanesOf (s.modSp s.cur Split.opened).saveLinks.me.mask).foldl (fun t l => t.setLink t.cg l t.me.cwp ret)
      (s.modSp s.cur Split.opened).saveLinks := rfl
  rw [ho, hs, State.foldl_setLink, hu]
  rfl

theorem linkKey_inj {g l l' c c' : Nat} (h : linkKey g l c = linkKey g l' c') : l = l' ∧ c % 8 = c' % 8 := by
  simp only [linkKey] at h
  omega

/-- A key that a list of settings passes by. -/
theorem mget_foldl_mset_other {α β : Type} [DecidableEq α] (d : α) (key : β → Nat) (val : β → α) {j : Nat} :
    ∀ (l : List β) (m : Map α), (∀ x ∈ l, key x ≠ j) → mget d (l.foldl (fun m x => mset d m (key x) (val x)) m) j = mget d m j
  | [], _, _ => rfl
  | x :: l, m, h => by
    rw [List.foldl_cons, mget_foldl_mset_other d key val l _ fun y hy => h y (List.mem_cons_of_mem x hy)]
    exact mget_mset_other _ _ _ (h x List.mem_cons_self).symm

theorem mget_framedLinks_mem (m : Map (BitVec 32)) (g c : Nat) {ls : List Nat} {l : Nat} (hl : l ∈ ls) (ret : BitVec 32) :
    mget 0 (framedLinks m g c ls ret) (linkKey g l c) = ret :=
  mget_foldl_mset_const 0 ret (fun l => linkKey g l c) hl m

theorem mget_framedLinks_other (m : Map (BitVec 32)) (g : Nat) {c c' l : Nat} {ls : List Nat} (h : l ∉ ls ∨ c' % 8 ≠ c % 8)
    (ret : BitVec 32) : mget 0 (framedLinks m g c ls ret) (linkKey g l c') = mget 0 m (linkKey g l c') := by
  refine mget_foldl_mset_other 0 (fun l => linkKey g l c) (fun _ => ret) ls m fun x hx he => ?_
  obtain ⟨rfl, hc⟩ := linkKey_inj he
  obtain h | h := h
  · exact h hx
  · exact h hc.symm

/-- A call from v: the window moves on, and every lane of the split holds the return link of the new frame. -/
theorem State.goto_openFrame {v : State} (h : v.me.mode ≠ .region) (ret pc : BitVec 32) : let t := (v.openFrame ret).goto pc
    t = { v with splits := t.splits, link := t.link } ∧ (∀ k, k ≠ v.cur → t.sp k = v.sp k)
      ∧ t.me = { v.me with pc := pc, cwp := v.me.cwp + 1, resident := v.me.resident + 1, rep := none, replay := none }
      ∧ (∀ l < 32, bit v.me.mask l = true → t.linkOf v.cg l (v.me.cwp + 1) = ret)
      ∧ ∀ l < 32, ∀ c, (bit v.me.mask l = false ∨ c % 8 ≠ (v.me.cwp + 1) % 8) → t.linkOf v.cg l c = v.linkOf v.cg l c := by
  intro t
  have ht : t = ({ v.modSp v.cur Split.opened with
      link := framedLinks v.link v.cg (v.me.cwp + 1) (lanesOf v.me.mask) ret } : State).goto pc :=
    congrArg (fun x => x.goto pc) (State.openFrame_outside h ret)
  rw [ht]
  refine ⟨rfl, fun k hk => ?_, ?_, fun l hl hm => ?_, fun l hl c hc => ?_⟩
  · exact (State.sp_modSp_other _ _ hk).trans (State.sp_modSp_other v Split.opened hk)
  · exact (State.me_modSp_cur _ _).trans
      (congrArg (fun p : Split => { p with pc := pc, rep := none, replay := none }) (State.sp_modSp v v.cur Split.opened))
  · exact mget_framedLinks_mem _ _ _ (mem_lanesOf.2 ⟨hl, hm⟩) ret
  · refine mget_framedLinks_other _ _ (hc.imp_left fun hm hl => ?_) ret
    rw [(mem_lanesOf.1 hl).2] at hm
    cases hm

/-! ## Calls and jumps within the overlay -/

theorem State.nearCall_inside {s : State} {off : Int} (hl : s.lenKnown = true) (ho : 0 ≤ off ∧ off < s.nearLen) (e opens : Bool) :
    s.nearCall e off opens = if opens = true ∧ s.me.resident = s.grp.depth then s.trapU cWspill
      else (if opens = true then s.openFrame (pcAdd s.me.pc (fallBy e)) else s).goto
        (BitVec.ofNat 32 (s.me.pc.toNat / 65536 * 65536 + off.toNat)) := by
  rw [State.nearCall, State.nearForm_known hl, State.nearTarget_inside ho]

theorem State.nearCall_outside {s : State} {off : Int} (hl : s.lenKnown = true) (ho : ¬ (0 ≤ off ∧ off < s.nearLen)) (e opens : Bool) :
    s.nearCall e off opens = s.trapU cApert := by
  rw [State.nearCall, State.nearForm_known hl, State.nearTarget_outside ho]

theorem exec_call {s : State} (ha : s.acts) (e : Bool) (i : BitVec 25) :
    exec (.call e i) s = .next (s.nearCall e ((s.me.pc.toNat % 65536 : Nat) + i.toInt) true) := by
  change execCall e i s = _
  rw [execCall, issue_valid _ ha.1, State.whenFree_free _ ha s.free_nothing]
  rfl

theorem field_low_14 (x : Word64) : field x 13 0 = x.toNat % 2 ^ 14 := by
  simp [field]

section Register
variable {s : State} (ha : s.acts) (e : Bool) {a : BitVec 5} (hf : s.free { ss := [a.toNat] })
include ha hf

theorem exec_callx : exec (.callx e a) s = .next (s.nearCall e ((s.sget s.cur a.toNat).toNat % 2 ^ 14 : Nat) true) := by
  change execCallx e a s = _
  rw [execCallx, issue_valid _ ha.1, State.whenFree_free _ ha hf, field_low_14]

theorem exec_brx : exec (.brx e a) s = .next (s.nearCall e ((s.sget s.cur a.toNat).toNat % 2 ^ 14 : Nat) false) := by
  change execBrx e a s = _
  rw [execBrx, issue_valid _ ha.1, State.whenFree_free _ ha hf, field_low_14]

theorem exec_callo : exec (.callo e a) s = .next (s.farCall e (lo32 (s.sget s.cur a.toNat)) true) := by
  change execCallo e a s = _
  rw [execCallo, issue_valid _ ha.1, State.whenFree_free _ ha hf]

theorem exec_jmpo : exec (.jmpo e a) s = .next (s.farCall e (lo32 (s.sget s.cur a.toNat)) false) := by
  change execJmpo e a s = _
  rw [execJmpo, issue_valid _ ha.1, State.whenFree_free _ ha hf]

end Register

/-! ## Calls and jumps to another overlay -/

section Far
variable {s t u : State} {pc : BitVec 32} (hw : s.ovWaits s.cc s.grp.ctx (pcId pc) = (t, false)) (e : Bool)
include hw

theorem State.farCall_fails {c : Nat} (hc : t.farCheck pc true = (u, some c)) (opens : Bool) : s.farCall e pc opens = u.trapU c := by
  simp only [State.farCall, hw, hc, Bool.false_eq_true, if_false]

variable (hc : t.farCheck pc true = (u, none))
include hc

theorem State.farCall_full (hd : u.me.resident = u.grp.depth) : s.farCall e pc true = u.trapU cWspill := by
  simp only [State.farCall, hw, hc, hd, Bool.false_eq_true, if_false, and_self, if_true]

theorem State.farCall_resident {v : State} (hr : u.residency (pcId pc) 5 false = (v, none)) {opens : Bool}
    (hd : opens = true → u.me.resident ≠ u.grp.depth) :
    s.farCall e pc opens = (if opens = true then v.openFrame (pcAdd v.me.pc (fallBy e)) else v).goto pc := by
  have hd' : ¬ (opens = true ∧ u.me.resident = u.grp.depth) := fun h => hd h.1 h.2
  simp only [State.farCall, hw, hc, hr, hd', Bool.false_eq_true, if_false]

/-- The checks of a target that is resident leave the split where it stands. -/
theorem State.me_farCall_resident {v : State} (hr : u.residency (pcId pc) 5 false = (v, none)) : v.me = s.me := by
  have h1 := s.ovWaits_takeReads s.cc s.grp.ctx (pcId pc)
  have h2 := t.farCheck_takeReads pc true
  rw [hw] at h1
  rw [hc] at h2
  exact State.me_takeReads (takeReads_trans (takeReads_trans h1 h2) (State.residency_none hr))

end Far

/-- Settles O14, from what a call or jump does once its checks pass (`State.nearCall_inside`, `State.farCall_resident`) and the frame
that a call opens (`State.goto_openFrame`). -/
theorem callsAndJumps : Obligations.CallsAndJumps := by
  intro s e a i ha base x len jumps calls near
  have inside {n : Nat} (h : n < len) : (0 : Int) ≤ n ∧ (n : Int) < len := by omega
  refine ⟨fun hl => ⟨fun ho hd => ?_, fun ho hd => ?_, fun ho => ?_, fun hf hx => ⟨?_, fun hd => ?_, fun hd => ?_⟩, fun hf hx => ?_⟩,
    fun t u v hf hw => ⟨fun hc => ⟨fun hr => ⟨?_, fun hd => ?_⟩, fun hd => ?_⟩, fun c hc => ⟨?_, ?_⟩⟩⟩
  · refine ⟨_, ?_, State.goto_openFrame ha.2 _ _⟩
    rw [exec_call ha, State.nearCall_inside hl ho, if_neg (fun h => hd h.2), if_pos rfl]
    rfl
  · rw [exec_call ha, State.nearCall_inside hl ho, if_pos ⟨rfl, hd⟩]
  · rw [exec_call ha, State.nearCall_outside hl ho]
  · change exec (.brx e a) s = _
    rw [exec_brx ha e hf, State.nearCall_inside hl (inside hx), if_neg (fun h => by cases h.1), Int.toNat_natCast]
    rfl
  · refine ⟨_, ?_, State.goto_openFrame ha.2 _ _⟩
    rw [exec_callx ha e hf, State.nearCall_inside hl (inside hx), if_neg (fun h => hd h.2), if_pos rfl, Int.toNat_natCast]
    rfl
  · rw [exec_callx ha e hf, State.nearCall_inside hl (inside hx), if_pos ⟨rfl, hd⟩]
  · have ho : ¬ ((0 : Int) ≤ (x.toNat % 2 ^ 14 : Nat) ∧ ((x.toNat % 2 ^ 14 : Nat) : Int) < s.nearLen) := fun h => by omega
    rw [exec_brx ha e hf, exec_callx ha e hf, State.nearCall_outside hl ho, State.nearCall_outside hl ho]
    exact ⟨rfl, rfl⟩
  · change exec (.jmpo e a) s = _
    rw [exec_jmpo ha e hf, State.farCall_resident hw e hc hr (by simp), if_neg (by simp)]
  · have hm := State.me_farCall_resident hw hc hr
    refine ⟨_, ?_, State.goto_openFrame (v := v) (by rw [hm]; exact ha.2) _ _⟩
    rw [exec_callo ha e hf, State.farCall_resident hw e hc hr (fun _ => hd), if_pos rfl]
    rfl
  · rw [exec_callo ha e hf, State.farCall_full hw e hc hd]
  · rw [exec_jmpo ha e hf, State.farCall_fails hw e hc]
  · rw [exec_callo ha e hf, State.farCall_fails hw e hc]

end Sys2Proof.Machine
end

section
/-! PROOF of O19: WSPILL and WFILL. Both are `State.window` of a frame, once they are allowed. -/
namespace Sys2Proof.Machine

set_option Elab.async false

/-! ## The words of a frame (R27, R113) -/

theorem frameRow_eq_rowOf (d c i : Nat) : frameRow d c i = rowOf d c (8 + i) := by
  rw [frameRow, rowOf, if_neg (by omega)]
  congr 2
  omega

theorem State.frameWord_spill_row (u : State) (c l i : Nat) (w : Place) : u.frameWord c true (l, some i, w) =
    u.nowWrite u.cc w 4 (u.rowGet u.cg (frameRow u.grp.depth c i) l).toNat := by
  simp only [State.frameWord, if_true]

theorem State.frameWord_spill_link (u : State) (c l : Nat) (w : Place) : u.frameWord c true (l, none, w) =
    u.nowWrite u.cc w 4 (u.linkOf u.cg l c).toNat := by
  simp only [State.frameWord, if_true]

theorem State.frameWord_fill_row (u : State) (c l i : Nat) (w : Place) : u.frameWord c false (l, some i, w) =
    (u.nowRead u.cc w 4).1.rowSet u.cg (frameRow u.grp.depth c i) l (BitVec.ofNat 32 (u.nowRead u.cc w 4).2) := by
  simp only [State.frameWord, Bool.false_eq_true, if_false]

theorem State.frameWord_fill_link (u : State) (c l : Nat) (w : Place) : u.frameWord c false (l, none, w) =
    (u.nowRead u.cc w 4).1.setLink u.cg l c (BitVec.ofNat 32 (u.nowRead u.cc w 4).2) := by
  simp only [State.frameWord, Bool.false_eq_true, if_false]

/-! ## A frame moved -/

section Window
variable {s : State} (e : Bool) {f : Nat} (spill : Bool)

theorem State.window_outside (h : s.ctx.stackSz < 164 * (f + 1)) : s.window e f spill = s.trapU cApert := by
  rw [State.window, if_pos h]

variable (hs : 164 * (f + 1) ≤ s.ctx.stackSz) (hp : ∀ i < 40, mget 0 s.pendV (rowKey s.cg (frameRow s.grp.depth f i)) = 0)
include hs hp

theorem State.window_inside : s.window e f spill = match s.frameLook f spill with
    | .error t => t
    | .ok (t, moves) => if moves.any fun m => !t.nowMay t.cur spill m.2.2 4 then t.stall else (t.moveFrame f spill moves).advance e := by
  have hn : ((List.range 40).any fun i => mget 0 s.pendV (rowKey s.cg (frameRow s.grp.depth f i)) != 0) = false := by
    simp only [List.any_eq_false, List.mem_range, bne_iff_ne, ne_eq, not_not]
    exact hp
  rw [State.window, if_neg (by omega), hn]
  rfl

theorem State.window_fails {t : State} (h : s.frameLook f spill = .error t) : s.window e f spill = t := by
  rw [State.window_inside e spill hs hp, h]

theorem State.window_moves {t : State} {moves : List FrameWord} (h : s.frameLook f spill = .ok (t, moves))
    (hm : ∀ m ∈ moves, t.nowMay t.cur spill m.2.2 4 = true) : s.window e f spill = (t.moveFrame f spill moves).advance e := by
  have hn : (moves.any fun m => !t.nowMay t.cur spill m.2.2 4) = false := by
    simp only [List.any_eq_false, Bool.not_eq_true', Bool.not_eq_false]
    exact hm
  rw [State.window_inside e spill hs hp, h]
  simp only [hn, Bool.false_eq_true, if_false]

end Window

/-! ## The two forms -/

theorem exec_wspill {s : State} (hv : s.me.valid = true) (e : Bool) : exec (.wspill e) s = .next
    (if s.me.inWindowTrap = true ∧ 1 ≤ s.me.resident then s.window e (s.me.cwp + 1 - s.me.resident) true else s.trapU cPriv) := by
  change execWspill e s = _
  rw [execWspill, issue_valid _ hv]
  simp only [Bool.and_eq_true, decide_eq_true_eq]

theorem exec_wfill {s : State} (hv : s.me.valid = true) (e : Bool) : exec (.wfill e) s = .next
    (if s.me.inWindowTrap = true ∧ s.me.resident < s.grp.depth ∧ s.me.resident ≤ s.me.cwp then
      s.window e (s.me.cwp - s.me.resident) false else s.trapU cPriv) := by
  change execWfill e s = _
  rw [execWfill, issue_valid _ hv]
  simp only [Bool.and_eq_true, decide_eq_true_eq]

/-- Settles O19, from when the two forms are allowed and what moving a frame comes to. -/
theorem windowSpillAndFill : Obligations.WindowSpillAndFill := by
  intro s e hv p f h
  have hme : s.me = p := rfl
  rw [exec_wspill hv, exec_wfill hv, hme]
  refine ⟨fun i _ d _ c => frameRow_eq_rowOf d c i, fun _ _ => rfl, fun u c l i w => ⟨u.frameWord_spill_row c l i w,
    u.frameWord_spill_link c l w, u.frameWord_fill_row c l i w, u.frameWord_fill_link c l w⟩, fun hw => ⟨?_, ?_⟩, fun hr => ?_,
    fun hr => ?_, fun hw hr => ?_, fun hw hd hr => ?_⟩
  · rw [if_neg (by simp [hw])]
  · rw [if_neg (by simp [hw])]
  · rw [if_neg (by omega)]
  · rw [if_neg (by omega)]
  · rw [if_pos ⟨hw, hr⟩]
    exact ⟨fun hs => by rw [State.window_outside e true hs], fun hs hp => ⟨fun t ht => by rw [State.window_fails e true hs hp ht],
      fun t moves ht hm => by rw [State.window_moves e true hs hp ht hm]; rfl⟩⟩
  · rw [if_pos ⟨hw, hd, hr⟩]
    exact ⟨fun hs => by rw [State.window_outside e false hs], fun hs hp => ⟨fun t ht => by rw [State.window_fails e false hs hp ht],
      fun t moves ht hm => by rw [State.window_moves e false hs hp ht hm]; rfl⟩⟩

end Sys2Proof.Machine
end

section
/-! PROOF of O33, the overlay forms. -/
namespace Sys2Proof.Machine

set_option Elab.async false

/-! ## The prelude of the overlay forms -/

theorem State.ovForm_free {s : State} {u : Uses} (f : State → State) (ha : s.acts) (hf : s.free u) : s.ovForm u f = f s := by
  rw [State.ovForm, State.not_inRegion ha]
  exact State.whenFree_free f ha hf

theorem State.ovId_eq (s : State) (a : BitVec 5) : s.ovId a = (s.sget s.cur a.toNat).toNat % 65536 := by
  simp [State.ovId, field]

/-- The tokens that a load of an overlay into scalar d leaves to be written. -/
def State.fillTokens (s : State) (d : BitVec 5) : List Nat := if d.toNat = 0 then [] else [s.scalarKey s.cur d.toNat]

/-- An overlay id of a context on a core. -/
def Overlay.isOf (core c id : Nat) (o : Overlay) : Bool := o.core == core && o.ctx == c && o.id == id

/-- What OVL.EV leaves of a core's overlays: the one named is gone, or evict-pending while it is pinned. -/
def State.evicted (s : State) (core c id : Nat) : List Overlay :=
  (s.overlays.filter fun o => !(o.isOf core c id && !s.pinned o)).map fun o => if o.isOf core c id then { o with evp := true } else o

/-! ## What each form does -/

section Forms
variable {s : State} (ha : s.acts) (e : Bool) {d a : BitVec 5}
include ha

theorem exec_ovlLd (hf : s.free { ss := [a.toNat], ds := [d.toNat] }) : exec (.ovlLd e d a) s = .next
    (match s.startFill s.cc s.grp.ctx (s.ovId a) (s.fillTokens d) with
    | (t, .resident) => (t.sset s.cur d.toNat 1).advance e
    | (t, .filling f) => (t.takeToken s.cur d.toNat f).advance e
    | (t, .failed c) => (t.sset s.cur d.toNat (copyToken c 0)).advance e
    | (t, .wait) => t.stall) := by
  have hd : (d = 0) = (d.toNat = 0) := by simp [← BitVec.toNat_inj]
  change execOvlLd e d a s = _
  rw [execOvlLd, issue_valid _ ha.1, State.ovForm_free _ ha hf]
  simp only [hd]
  rfl

theorem exec_ovlHint (hf : s.free { ss := [a.toNat] }) : exec (.ovlHint e a) s = .next
    (match s.startFill s.cc s.grp.ctx (s.ovId a) [] with
    | (t, .wait) => t.stall
    | (t, _) => t.advance e) := by
  change execOvlHint e a s = _
  rw [execOvlHint, issue_valid _ ha.1]
  exact congrArg Host.Outcome.next (State.ovForm_free _ ha hf)

theorem exec_ovlEv (hf : s.free { ss := [a.toNat] }) : exec (.ovlEv e a) s = .next
    (if sysId ≤ s.ovId a then s.trapU cPriv
    else if s.fills.any (fun f => f.core == s.cc && f.ctx == s.grp.ctx && f.ovl == s.ovId a && !f.waitsEvict) then s.stall
    else ({ s with overlays := s.evicted s.cc s.grp.ctx (s.ovId a) } : State).advance e) := by
  change execOvlEv e a s = _
  rw [execOvlEv, issue_valid _ ha.1, State.ovForm_free _ ha hf]
  rfl

theorem exec_ovlPin (hf : s.free { ss := [a.toNat], ds := [d.toNat] }) : exec (.ovlPin e d a) s = .next
    (if s.stays s.cc s.grp.ctx (s.ovId a) = false then (s.sset s.cur d.toNat 0).advance e
    else if 255 ≤ s.pinsHeld s.cc s.grp.ctx (s.ovId a) then (s.sset s.cur d.toNat 2).advance e
    else ((s.modPins s.cc s.grp.ctx (s.ovId a) fun n => n + 1).sset s.cur d.toNat 1).advance e) := by
  change execOvlPin e d a s = _
  rw [execOvlPin, issue_valid _ ha.1, State.ovForm_free _ ha hf]
  simp only [Bool.not_eq_true']

theorem exec_ovlUnpin (hf : s.free { ss := [a.toNat] }) : exec (.ovlUnpin e a) s = .next
    ((s.modPins s.cc s.grp.ctx (s.ovId a) fun n => n - 1).advance e) := by
  change execOvlUnpin e a s = _
  rw [execOvlUnpin, issue_valid _ ha.1, State.ovForm_free _ ha hf]

theorem exec_ovlQ {t u : State} {v : Word64} (hf : s.free { ss := [a.toNat], ds := [d.toNat] })
    (hw : s.ovWaits s.cc s.grp.ctx sysId = (t, false)) (hq : t.ovQuery t.cc t.grp.ctx (t.ovId a) = (u, v)) :
    exec (.ovlQ e d a) s = .next ((u.sset u.cur d.toNat v).advance e) := by
  change execOvlQ e d a s = _
  rw [execOvlQ, issue_valid _ ha.1, State.ovForm_free _ ha hf]
  simp only [hw, hq, Bool.false_eq_true, if_false]

end Forms

/-! ## Residency and pins (R248, R251) -/

theorem State.stays_iff (s : State) (core c id : Nat) :
    s.stays core c id = true ↔ sysId ≤ id ∨ ∃ o, s.overlayOf core c id = some o ∧ o.evp = false := by
  cases h : s.overlayOf core c id <;> simp [State.stays, h]

theorem State.startFill_system {s : State} {core c id : Nat} (h : sysId ≤ id)
    (hf : ∀ f ∈ s.fills, ¬ (f.core = core ∧ f.ctx = c ∧ f.ovl = id)) (tok : List Nat) : s.startFill core c id tok = (s, .resident) := by
  have hn : s.fills.find? (fun f => f.core == core && f.ctx == c && f.ovl == id) = none := by
    rw [List.find?_eq_none]
    intro f hm hb
    simp only [Bool.and_eq_true, beq_iff_eq, and_assoc] at hb
    exact hf f hm hb
  simp only [State.startFill, hn, h, if_true]

/-- Pins of an overlay that all entries agree on, after a change. -/
theorem State.pinsHeld_modPins {s : State} {core c id n : Nat} (hs : id < sysId)
    (hall : ∀ o ∈ s.overlays, o.isOf core c id = true → o.pins = n) (hex : ∃ o ∈ s.overlays, o.isOf core c id = true) (f : Nat → Nat) :
    (s.modPins core c id f).pinsHeld core c id = f n := by
  obtain ⟨o, ho⟩ : ∃ o, s.overlays.find? (Overlay.isOf core c id) = some o := by
    obtain ⟨x, hx, hm⟩ := hex
    exact Option.isSome_iff_exists.1 (List.find?_isSome.2 ⟨x, hx, hm⟩)
  have hm : o.isOf core c id = true := List.find?_some ho
  have hk : (Overlay.isOf core c id ∘ fun o : Overlay => if o.isOf core c id = true then { o with pins := f o.pins } else o) =
      Overlay.isOf core c id := by
    funext x
    simp only [Function.comp_apply]
    split <;> rfl
  have hfind : (s.modPins core c id f).overlays.find? (Overlay.isOf core c id) = some { o with pins := f o.pins } := by
    rw [State.modPins, if_pos hs]
    change (s.overlays.map fun o : Overlay => if o.isOf core c id = true then { o with pins := f o.pins } else o).find? _ = _
    rw [List.find?_map, hk, ho, Option.map_some, if_pos hm]
  unfold State.pinsHeld
  change (match (s.modPins core c id f).overlays.find? (Overlay.isOf core c id) with | some o => o.pins | none => 0) = _
  rw [hfind, ← hall o (List.mem_of_find?_eq_some ho) hm]

/-! ## The word of OVL.Q (R252) -/

/-- The word of OVL.Q from its fields. -/
def queryWord (here pending filling system : Bool) (len pins used quota : Nat) : Nat :=
  here.toNat + 2 * pending.toNat + 4 * filling.toNat + 8 * system.toNat + 2 ^ 8 * (len - 1) + 2 ^ 16 * pins + 2 ^ 32 * used + 2 ^ 40 * quota

section QueryWord
variable (here pending filling system : Bool) {len pins used quota : Nat} (hl : len ≤ 16) (hp : pins < 256) (hu : used < 256)
  (hq : quota < 256)
include hl hp hu hq

/-- No field of the word runs into another. -/
theorem queryWord_fields : let v : Word64 := BitVec.ofNat 64 (queryWord here pending filling system len pins used quota)
    bit v 0 = here ∧ bit v 1 = pending ∧ bit v 2 = filling ∧ bit v 3 = system ∧ field v 7 4 = 0 ∧ field v 11 8 = len - 1
      ∧ field v 15 12 = 0 ∧ field v 23 16 = pins ∧ field v 31 24 = 0 ∧ field v 39 32 = used ∧ field v 47 40 = quota
      ∧ field v 63 48 = 0 := by
  intro v
  have h0 := here.toNat_lt
  have h1 := pending.toNat_lt
  have h2 := filling.toNat_lt
  have h3 := system.toNat_lt
  have hv : v.toNat = queryWord here pending filling system len pins used quota := by
    rw [BitVec.toNat_ofNat, queryWord]
    omega
  have hb : ∀ i (b : Bool), queryWord here pending filling system len pins used quota / 2 ^ i % 2 = b.toNat → bit v i = b := fun i b h => by
    rw [bit, BitVec.getLsbD, hv, Nat.testBit_eq_decide_div_mod_eq, h]
    cases b <;> rfl
  unfold queryWord at hb hv
  simp only [field, Nat.shiftRight_eq_div_pow, hv]
  exact ⟨hb 0 here (by omega), hb 1 pending (by omega), hb 2 filling (by omega), hb 3 system (by omega), by omega, by omega, by omega,
    by omega, by omega, by omega, by omega, by omega⟩

end QueryWord

/-- The length that OVL.Q answers for. -/
def State.queryLen (s : State) (core c id : Nat) : Nat :=
  match s.overlayOf core c id, s.fills.find? fun f => f.core == core && f.ctx == c && f.ovl == id with
  | some o, _ => o.slots.length | none, some f => f.len | none, none => 0

theorem ite_eq_mul_toNat (p : Prop) [Decidable p] (n : Nat) : (if p then n else 0) = n * (decide p).toNat := by
  by_cases h : p <;> simp [h]

theorem State.ovQuery_eq {s : State} {core c : Nat} (id : Nat) {h : OvHeader} (hh : s.ovHeader core c = (s, h)) :
    s.ovQuery core c id = (s, BitVec.ofNat 64 (queryWord ((s.overlayOf core c id).isSome || decide (sysId ≤ id))
      (decide ((s.overlayOf core c id).map (fun o => o.evp) = some true))
      (s.fills.find? fun f => f.core == core && f.ctx == c && f.ovl == id).isSome (decide (sysId ≤ id)) (s.queryLen core c id)
      (s.pinsHeld core c id) (s.slotsUsed core c) h.quota)) := by
  simp only [State.ovQuery, hh, ite_eq_mul_toNat, Bool.decide_eq_true, Nat.one_mul]
  rfl

/-- R252: what the fields of OVL.Q's word say, where the header is read with no change and each number fits its field. -/
theorem State.ovQuery_fields {s u : State} {core c i : Nat} {v : Word64} {h : OvHeader} {len : Nat} (hv : s.ovQuery core c i = (u, v))
    (hh : s.ovHeader core c = (s, h)) (hq : s.queryLen core c i = len ∨ (s.queryLen core c i = 0 ∧ len = 1)) (hl : len ≤ 16)
    (hp : s.pinsHeld core c i < 256) (hu : s.slotsUsed core c < 256) (hn : h.quota < 256) :
    (bit v 0 = true ↔ (s.overlayOf core c i).isSome = true ∨ 0xFF00 ≤ i)
      ∧ (bit v 1 = true ↔ ∃ x, s.overlayOf core c i = some x ∧ x.evp = true)
      ∧ (bit v 2 = true ↔ (s.fills.find? fun f => f.core == core && f.ctx == c && f.ovl == i).isSome = true)
      ∧ (bit v 3 = true ↔ 0xFF00 ≤ i) ∧ field v 7 4 = 0 ∧ field v 11 8 = len - 1 ∧ field v 15 12 = 0
      ∧ field v 23 16 = s.pinsHeld core c i ∧ field v 31 24 = 0 ∧ field v 39 32 = s.slotsUsed core c ∧ field v 47 40 = h.quota
      ∧ field v 63 48 = 0 := by
  rw [State.ovQuery_eq i hh] at hv
  obtain ⟨-, rfl⟩ := Prod.mk.inj hv
  have hlen : s.queryLen core c i - 1 = len - 1 := by omega
  obtain ⟨h0, h1, h2, h3, hr⟩ := queryWord_fields ((s.overlayOf core c i).isSome || decide (sysId ≤ i))
    (decide ((s.overlayOf core c i).map (fun o => o.evp) = some true))
    (s.fills.find? fun f => f.core == core && f.ctx == c && f.ovl == i).isSome (decide (sysId ≤ i))
    (show s.queryLen core c i ≤ 16 by omega) hp hu hn
  rw [h0, h1, h2, h3]
  rw [hlen] at hr
  exact ⟨by rw [Bool.or_eq_true, decide_eq_true_eq]; rfl, by rw [decide_eq_true_eq, Option.map_eq_some_iff], Iff.rfl, decide_eq_true_iff, hr⟩

/-- R250-R252. -/
theorem overlayForms : Claims.OverlayForms := by
  intro s t u e d a f c n v ha id tok mine marked puts stays
  have hid : s.ovId a = id := s.ovId_eq a
  have htok : s.fillTokens d = tok := rfl
  have hst : s.stays s.cc s.grp.ctx id = true ↔ stays := s.stays_iff _ _ _
  have hno : ¬ stays → s.stays s.cc s.grp.ctx id = false := fun h => by rw [← Bool.not_eq_true, hst]; exact h
  refine ⟨fun hf => ⟨fun h => ?_, fun h => ?_, fun h => ?_, fun h => ?_, fun hs hn => ?_, fun hs hn => ?_, fun o hs ho he => ?_,
    fun hs hp => ?_, fun hs hp => ?_, fun hw hc hq hc' => ⟨?_, ?_⟩⟩, fun hf => ⟨fun x h hx => ?_, fun hs => ?_, fun hs hn => ?_, ?_⟩,
    fun hn hs hall hex => ⟨?_, ?_⟩⟩
  · change exec (.ovlLd e d a) s = _
    rw [exec_ovlLd ha e hf, hid, htok, h]
  · change exec (.ovlLd e d a) s = _
    rw [exec_ovlLd ha e hf, hid, htok, h]
    rfl
  · rw [exec_ovlLd ha e hf, hid, htok, h]
  · rw [exec_ovlLd ha e hf, hid, htok, h]
  · change exec (.ovlLd e d a) s = _
    rw [exec_ovlLd ha e hf, hid, State.startFill_system hs hn]
  · change exec (.ovlPin e d a) s = _
    rw [exec_ovlPin ha e hf, hid, if_pos]
    refine hno fun h => ?_
    obtain h | ⟨o, ho, -⟩ := h
    · omega
    · rw [hn] at ho
      cases ho
  · change exec (.ovlPin e d a) s = _
    rw [exec_ovlPin ha e hf, hid, if_pos]
    refine hno fun h => ?_
    obtain h | ⟨o', ho', he'⟩ := h
    · omega
    · rw [ho] at ho'
      cases ho'
      rw [he] at he'
      cases he'
  · change exec (.ovlPin e d a) s = _
    rw [exec_ovlPin ha e hf, hid, if_neg (by rw [hst.2 hs]; simp), if_pos hp]
  · change exec (.ovlPin e d a) s = _
    rw [exec_ovlPin ha e hf, hid, if_neg (by rw [hst.2 hs]; simp), if_neg (by omega)]
  · change exec (.ovlQ e d a) s = _
    rw [exec_ovlQ ha e hf hw hq, hc']
  · intro i o fill quota len _ hl hh hp hu hq'
    have hlen : t.queryLen t.cc t.grp.ctx i = len ∨ (t.queryLen t.cc t.grp.ctx i = 0 ∧ len = 1) := by
      simp only [len, State.queryLen, o, fill]
      cases t.overlayOf t.cc t.grp.ctx i with
      | some x => exact .inl rfl
      | none =>
        cases t.fills.find? fun f => f.core == t.cc && f.ctx == t.grp.ctx && f.ovl == i with
        | some x => exact .inl rfl
        | none => exact .inr ⟨rfl, rfl⟩
    exact State.ovQuery_fields hq hh hlen hl hp hu hq'
  · rw [exec_ovlHint ha e hf, hid, h]
    cases x with
    | wait => exact absurd rfl hx
    | resident | filling | failed => rfl
  · rw [exec_ovlEv ha e hf, hid, if_pos (show sysId ≤ id from hs)]
  · have hb : (s.fills.any fun f => f.core == s.cc && f.ctx == s.grp.ctx && f.ovl == id && !f.waitsEvict) = false := by
      simp only [List.any_eq_false, Bool.and_eq_true, beq_iff_eq, Bool.not_eq_true', and_assoc]
      exact hn
    rw [exec_ovlEv ha e hf, hid, if_neg (show ¬ sysId ≤ id from Nat.not_le.2 hs), hb]
    rfl
  · rw [exec_ovlUnpin ha e hf, hid]
  · exact State.pinsHeld_modPins hs hall hex _
  · exact State.pinsHeld_modPins hs hall hex _

end Sys2Proof.Machine
end

section
/-! PROOF of O33, concluded: the end of a fill. -/
namespace Sys2Proof.Machine

set_option Elab.async false

/-! ## Maps changed all over -/

/-- A change of every value of a map that keeps its default. -/
theorem mget_map_values {α : Type} (d : α) (f : α → α) (hf : f d = d) (k : Nat) :
    ∀ m : Map α, mget d (m.map fun p => (p.1, f p.2)) k = f (mget d m k)
  | [] => hf.symm
  | p :: m => by
    simp only [List.map_cons, mget]
    split
    · rfl
    · exact mget_map_values d f hf k m

/-- A map without the keys that fail a test. -/
theorem mget_filter_keys {α : Type} (d : α) (q : Nat → Bool) (k : Nat) :
    ∀ m : Map α, mget d (m.filter fun p => q p.1) k = if q k = true then mget d m k else d
  | [] => by simp [mget]
  | p :: m => by
    have ih := mget_filter_keys d q k m
    by_cases hp : p.1 = k
    · subst hp
      rw [List.filter_cons]
      cases hq : q p.1
      · rw [hq] at ih
        simpa using ih
      · simp [mget]
    · have hm : mget d (p :: m) k = mget d m k := by simp [mget, hp]
      rw [hm, ← ih, List.filter_cons]
      split
      · simp [mget, hp]
      · rfl

/-- Keys set one by one, no key twice, read as their own values. -/
theorem mget_foldl_mset_mem {α β : Type} [DecidableEq α] (d : α) (key : β → Nat) (val : β → α) :
    ∀ (l : List β) (m : Map α), (l.map key).Nodup → ∀ x ∈ l, mget d (l.foldl (fun m x => mset d m (key x) (val x)) m) (key x) = val x
  | y :: l, m, hn, x, hx => by
    obtain ⟨hy, hl⟩ := List.nodup_cons.1 hn
    rw [List.foldl_cons]
    obtain rfl | hx := List.mem_cons.1 hx
    · rw [mget_foldl_mset_other d key val l _ fun z hz he => hy (List.mem_map.2 ⟨z, hz, he⟩)]
      exact mget_mset_self _ _ _ _
    · exact mget_foldl_mset_mem d key val l _ hl x hx

/-! ## Splits that issue again (R115) -/

/-- A split that waited for a fill, once it is over. -/
def Split.afterFill (p : Split) (id now : Nat) : Split :=
  if p.wait = .fill id then { p with wait := .none, readySince := now, aged := false } else p

theorem State.sp_fillOver (s : State) (id k : Nat) : (s.fillOver id).sp k = (s.sp k).afterFill id s.stepNo := by
  change mget {} (s.splits.map fun p => (p.1, p.2.afterFill id s.stepNo)) k = _
  exact mget_map_values {} (fun p => p.afterFill id s.stepNo) rfl k s.splits

theorem State.sp_wake (s : State) (k : Nat) : s.wake.sp k = wakeSplit s.stepNo (s.sp k) := by
  change mget {} (s.splits.map fun p => (p.1, wakeSplit s.stepNo p.2)) k = _
  exact mget_map_values {} (wakeSplit s.stepNo) rfl k s.splits

theorem wait_wakeSplit_afterFill {p : Split} {id : Nat} (h : p.wait = .fill id) (now : Nat) :
    (wakeSplit now (p.afterFill id now)).wait = .none := by
  rw [Split.afterFill, if_pos h, wakeSplit]
  split <;> rfl

/-! ## The slots of an overlay (R52) -/

/-- Where word i of a filled overlay stands in the Chuck. -/
def Fill.wordKey (f : Fill) (i : Nat) : Nat := (f.core * 64 + (f.slots[i / 1024]?).getD 0) * 1024 + i % 1024

theorem Fill.wordKey_slot {f : Fill} {i : Nat} (h : i < 1024 * f.slots.length) :
    ∃ t ∈ f.slots, f.wordKey i / 1024 = f.core * 64 + t := by
  have hi : i / 1024 < f.slots.length := by omega
  refine ⟨f.slots[i / 1024], List.getElem_mem hi, ?_⟩
  rw [Fill.wordKey, List.getElem?_eq_getElem hi, Option.getD_some]
  omega

theorem Fill.wordKey_inj {f : Fill} (hn : f.slots.Nodup) {i j : Nat} (hi : i < 1024 * f.slots.length) (hj : j < 1024 * f.slots.length)
    (h : f.wordKey i = f.wordKey j) : i = j := by
  have hi' : i / 1024 < f.slots.length := by omega
  have hj' : j / 1024 < f.slots.length := by omega
  rw [Fill.wordKey, Fill.wordKey, List.getElem?_eq_getElem hi', List.getElem?_eq_getElem hj', Option.getD_some, Option.getD_some] at h
  have hs : f.slots[i / 1024] = f.slots[j / 1024] := by omega
  have hq : i / 1024 = j / 1024 := (hn.getElem_inj_iff).1 hs
  omega

/-- A key of the Chuck lies in a slot of the fill. -/
def Fill.holds (f : Fill) (j : Nat) : Bool := f.slots.any fun t => j / 1024 == f.core * 64 + t

/-- The Chuck when the fill is over. -/
def Fill.placed (f : Fill) (m : Map (BitVec 32)) : Map (BitVec 32) :=
  f.words.foldl (fun m w => mset 0 m (f.wordKey w.1) w.2) (m.filter fun p => !f.holds p.1)

section Placed
variable {f : Fill} (hs : f.slots.Nodup) (hl : ∀ x ∈ f.words, x.1 < 1024 * f.slots.length)
  (m : Map (BitVec 32))
include hs hl

theorem Fill.mget_placed_word (hw : (f.words.map fun x => x.1).Nodup) :
    ∀ x ∈ f.words, mget 0 (f.placed m) (f.wordKey x.1) = x.2 := by
  have hn : ((f.words.map fun x => x.1).map f.wordKey).Nodup := List.Nodup.map_on (fun x hx y hy he => by
    obtain ⟨p, hp, rfl⟩ := List.mem_map.1 hx
    obtain ⟨q, hq, rfl⟩ := List.mem_map.1 hy
    exact Fill.wordKey_inj hs (hl p hp) (hl q hq) he) hw
  rw [List.map_map] at hn
  exact mget_foldl_mset_mem (0 : BitVec 32) (fun w : Nat × BitVec 32 => f.wordKey w.1) (fun w => w.2) f.words
    (m.filter fun p => !f.holds p.1) hn

omit hs hl in
/-- A key that no word of the fill takes: its slots are emptied. -/
theorem Fill.mget_placed_no_word {j : Nat} (h : ∀ x ∈ f.words, f.wordKey x.1 ≠ j) :
    mget 0 (f.placed m) j = if f.holds j = true then 0 else mget 0 m j := by
  have hw := mget_foldl_mset_other (0 : BitVec 32) (fun w : Nat × BitVec 32 => f.wordKey w.1) (fun w => w.2) f.words
    (m.filter fun p => !f.holds p.1) h
  have hk := mget_filter_keys (0 : BitVec 32) (fun j => !f.holds j) j m
  refine hw.trans (hk.trans ?_)
  cases f.holds j <;> rfl

theorem Fill.mget_placed_rest {i : Nat} (hi : i < 1024 * f.slots.length) (hn : ∀ x ∈ f.words, x.1 ≠ i) :
    mget 0 (f.placed m) (f.wordKey i) = 0 := by
  have hne : ∀ x ∈ f.words, f.wordKey x.1 ≠ f.wordKey i := fun x hx he => hn x hx (Fill.wordKey_inj hs (hl x hx) hi he)
  obtain ⟨t, ht, hk⟩ := Fill.wordKey_slot hi
  have hh : f.holds (f.wordKey i) = true := List.any_eq_true.2 ⟨t, ht, beq_iff_eq.2 hk⟩
  rw [Fill.mget_placed_no_word m hne, if_pos hh]

omit hs in
theorem Fill.mget_placed_other {j : Nat} (hj : ∀ t ∈ f.slots, j / 1024 ≠ f.core * 64 + t) : mget 0 (f.placed m) j = mget 0 m j := by
  have hne : ∀ x ∈ f.words, f.wordKey x.1 ≠ j := fun x hx he => by
    obtain ⟨t, ht, hk⟩ := Fill.wordKey_slot (hl x hx)
    rw [he] at hk
    exact hj t ht hk
  have hh : ¬ f.holds j = true := fun h => by
    obtain ⟨t, ht, hk⟩ := List.any_eq_true.1 h
    exact hj t ht (beq_iff_eq.1 hk)
  rw [Fill.mget_placed_no_word m hne, if_neg hh]

end Placed

/-! ## The end of a fill (R250) -/

/-- The word of a token when the fill is over. -/
def Fill.token (f : Fill) : Word64 := if f.failed = 0 then 1 else copyToken f.failed 0

/-- The state when fill f is over, before the splits that waited for it issue again. -/
def State.filled (s : State) (f : Fill) : State :=
  { s with
    fills := s.fills.filter fun x => x.id != f.id
    overlays := if f.failed = 0 then s.overlays ++ [{ core := f.core, ctx := f.ctx, id := f.ovl, slots := f.slots, order := f.id }]
      else s.overlays
    chuck := if f.failed = 0 then f.placed s.chuck else s.chuck
    sreg := f.tokens.foldl (fun m key => mset 0 m key f.token) s.sreg
    pendS := s.pendS.filter fun p => p.2 != f.id + 1 }

theorem State.foldl_tokens (v : Word64) : ∀ (l : List Nat) (s : State),
    l.foldl (fun t key => { t with sreg := mset 0 t.sreg key v }) s = { s with sreg := l.foldl (fun m key => mset 0 m key v) s.sreg }
  | [], _ => rfl
  | k :: l, s => State.foldl_tokens v l { s with sreg := mset 0 s.sreg k v }

section Ends
variable {s : State} {f : Fill} (h : s.fills.find? (fun x => x.id == f.id) = some f)
include h

theorem exec_overlayFillComplete_waiting (hw : f.waitsEvict = true) : exec (.overlayFillComplete f.id) s = .next s := by
  change execOverlayFillComplete f.id s = _
  simp only [execOverlayFillComplete, h, hw, if_true]

theorem exec_overlayFillComplete (hw : f.waitsEvict = false) :
    exec (.overlayFillComplete f.id) s = .next ((s.filled f).fillOver f.id).wake := by
  change execOverlayFillComplete f.id s = _
  simp only [execOverlayFillComplete, h, hw, Bool.false_eq_true, if_false, State.foldl_tokens]
  by_cases hf : f.failed = 0
  · simp only [hf, if_true, State.filled, Fill.token]
    rfl
  · simp only [hf, if_false, State.filled, Fill.token]

end Ends

/-- R250, R115. -/
theorem fillsComplete : Claims.FillsComplete := by
  intro s f h
  refine ⟨exec_overlayFillComplete_waiting h, fun hw => ⟨_, exec_overlayFillComplete h hw, fun x hx => ?_, fun key hk => ?_,
    fun key hk => ?_, fun hf => ⟨?_, ?_⟩, fun hf => ?_, fun hf hs hn hl => ?_, fun k _ hk => ?_, rfl, rfl, rfl⟩⟩
  · have hx' : x ∈ s.fills.filter fun x => x.id != f.id := hx
    simpa using (List.mem_filter.1 hx').2
  · exact mget_foldl_mset_const 0 f.token (fun k => k) hk s.sreg
  · exact mget_foldl_mset_other 0 (fun k => k) (fun _ => f.token) f.tokens s.sreg fun x hx he => hk (he ▸ hx)
  · exact if_neg hf
  · exact if_neg hf
  · exact if_pos hf
  · have hc : ((s.filled f).fillOver f.id).wake.chuck = f.placed s.chuck := if_pos hf
    rw [hc]
    exact ⟨Fill.mget_placed_word hs hl _ hn, fun i hi => Fill.mget_placed_rest hs hl _ hi, fun j => Fill.mget_placed_other hl _⟩
  · rw [State.sp_wake, State.sp_fillOver]
    exact wait_wakeSplit_afterFill hk s.stepNo

/-- Settles O33, form by form, and from where a filled overlay's words stand. -/
theorem overlaysAndFills : Obligations.OverlaysAndFills := ⟨overlayForms, fillsComplete⟩

end Sys2Proof.Machine
end

section
/-! PROOF of O1 and O3: the results of the scalar and of the predicate forms. Every form has one of a few shapes, whose rule says
that it writes the value of its function and moves on; what remains of a form is that its value is the one stated. -/
namespace Sys2Proof.Machine

/-! ## Values of scalar operations (R122, R123, R70) -/

theorem ofInt_toInt_add (x y : Word64) : x + y = BitVec.ofInt 64 (x.toInt + y.toInt) := by
  rw [BitVec.ofInt_add, BitVec.ofInt_toInt, BitVec.ofInt_toInt]

theorem ofInt_toInt_sub (x y : Word64) : x - y = BitVec.ofInt 64 (x.toInt - y.toInt) := by
  rw [Int.sub_eq_add_neg, BitVec.ofInt_add, BitVec.ofInt_neg, BitVec.ofInt_toInt, BitVec.ofInt_toInt, BitVec.sub_eq_add_neg]

theorem ofInt_toInt_mul (x y : Word64) : x * y = BitVec.ofInt 64 (x.toInt * y.toInt) := by
  rw [BitVec.ofInt_mul, BitVec.ofInt_toInt, BitVec.ofInt_toInt]

theorem sRem_eq (x y : Word64) :
    sRem x y = if y = 0 then x else BitVec.ofInt 64 (x.toInt - y.toInt * x.toInt.tdiv y.toInt) := by
  rw [sRem, Int.tmod_def]

theorem shiftLeft_eq_ofNat (x : Word64) (n : Nat) : x <<< n = BitVec.ofNat 64 (x.toNat * 2 ^ n) :=
  BitVec.eq_of_toNat_eq (by simp [Nat.shiftLeft_eq])

theorem shiftRight_eq_ofNat (x : Word64) (n : Nat) : x >>> n = BitVec.ofNat 64 (x.toNat / 2 ^ n) := by
  rw [← Nat.shiftRight_eq_div_pow, ← BitVec.toNat_ushiftRight, BitVec.ofNat_toNat, BitVec.setWidth_eq]

theorem sshiftRight_eq_ofInt (x : Word64) (n : Nat) : x.sshiftRight n = BitVec.ofInt 64 (x.toInt / 2 ^ n) := by
  have h := Int.shiftRight_eq_div_pow x.toInt n
  push_cast at h
  rw [← h, ← BitVec.toInt_sshiftRight, BitVec.ofInt_toInt]

/-- All ones where a condition holds, else zero: the result of the compares. -/
theorem ones_eq {b : Bool} {p : Prop} {v : Word64} (hb : b = true ↔ p) (hv : (p → v = BitVec.allOnes 64) ∧ (¬ p → v = 0)) :
    ones b = v := by
  cases b
  · exact (hv.2 fun hp => Bool.false_ne_true (hb.mpr hp)).symm
  · exact (hv.1 (hb.mp rfl)).symm

theorem popc_eq_countP {w : Nat} (x : BitVec w) : popc x = (List.range w).countP fun i => x.toNat.testBit i :=
  List.countP_eq_length_filter.symm

theorem clz_eq {w n x : Nat} (hn : n ≤ w) (hlt : x < 2 ^ (w - n)) (hge : n = w ∨ 2 ^ (w - 1 - n) ≤ x) : clz w x = n := by
  unfold clz
  split
  · next h0 =>
    have := Nat.two_pow_pos (w - 1 - n)
    omega
  · next h0 =>
    have hnw : n < w := by
      refine Nat.lt_of_le_of_ne hn fun h => h0 ?_
      rw [h, Nat.sub_self] at hlt
      omega
    have hlog : Nat.log2 x = w - 1 - n := by
      rw [Nat.log2_eq_iff h0, show w - 1 - n + 1 = w - n by omega]
      exact ⟨hge.resolve_left (by omega), hlt⟩
    omega

theorem brev_eq {x v : Word64} (h : ∀ i < 64, bit v i = bit x (63 - i)) : brev x = v := by
  refine BitVec.eq_of_getLsbD_eq fun i hi => (bit_ofBits 64 _ i).trans ?_
  rw [decide_eq_true hi, Bool.true_and]
  exact (h i hi).symm

/-- The immediate of SLIH comes below the register's bits. -/
theorem shiftLeft_or_setWidth (x : Word64) (i : BitVec 15) :
    (x <<< 15) ||| i.setWidth 64 = BitVec.ofNat 64 (x.toNat * 2 ^ 15 + i.toNat) := by
  refine BitVec.eq_of_toNat_eq ?_
  have hi := i.isLt
  rw [← BitVec.add_eq_or_of_and_eq_zero]
  · simp only [BitVec.toNat_add, BitVec.toNat_shiftLeft, BitVec.toNat_setWidth, BitVec.toNat_ofNat, Nat.shiftLeft_eq]
    omega
  · ext j hj
    simp only [BitVec.getElem_and, BitVec.getElem_shiftLeft, BitVec.getElem_setWidth, BitVec.getElem_zero, Bool.and_eq_false_imp]
    intro hb
    refine BitVec.getLsbD_of_ge i j ?_
    simp at hb
    omega

/-! ## The forms -/

section Forms
variable {s : State} {e : Bool} {d a b : BitVec 5} {i : Instr} {tag : TagRule} (ha : s.acts)
include ha

/-- A scalar form of two sources gives the value of its function. -/
theorem exec_scal2 {f : Word64 → Word64 → Word64} {v : Word64} (hf : s.free { ss := [a.toNat, b.toNat], ds := [d.toNat] })
    (hi : exec i s = issue s fun s => s.scal2 e d a b tag f) (hv : f (s.sget s.cur a.toNat) (s.sget s.cur b.toNat) = v) :
    exec i s = .next ((s.sset s.cur d.toNat v).advance e) := by
  rw [hi, issue_valid _ ha.1, State.scal2_free e d a b tag f ha hf, hv]

/-- A scalar form of one source gives the value of its function. -/
theorem exec_scal1 {f : Word64 → Word64} {v : Word64} (hf : s.free { ss := [a.toNat], ds := [d.toNat] })
    (hi : exec i s = issue s fun s => s.scal1 e d a tag f) (hv : f (s.sget s.cur a.toNat) = v) :
    exec i s = .next ((s.sset s.cur d.toNat v).advance e) := by
  rw [hi, issue_valid _ ha.1, State.scal1_free e d a tag f ha hf, hv]

/-- A register form outside a region has its effect and moves on. -/
theorem exec_form {u : Uses} {eff : State → State} {t : State} (hf : s.free u)
    (hi : exec i s = issue s fun s => s.form e u tag eff) (ht : eff s = t) : exec i s = .next (t.advance e) := by
  rw [hi, issue_valid _ ha.1, State.form_free e tag eff ha hf, ht]

end Forms

/-- The forms of major 0x08, in the order of the statement. -/
theorem scalarResults : Claims.ScalarResults := fun _ _ _ _ _ ha =>
  ⟨fun hf => ⟨
    -- SADD, SSUB, SMUL, SMULH, SDIV, SREM
    exec_scal2 ha hf rfl (ofInt_toInt_add _ _),
    exec_scal2 ha hf rfl (ofInt_toInt_sub _ _),
    exec_scal2 ha hf rfl (ofInt_toInt_mul _ _),
    exec_scal2 ha hf rfl rfl,
    exec_scal2 ha hf rfl rfl,
    exec_scal2 ha hf rfl (sRem_eq _ _),
    -- SAND, SOR, SXOR
    exec_scal2 ha hf rfl rfl,
    exec_scal2 ha hf rfl rfl,
    exec_scal2 ha hf rfl rfl,
    -- SSHL, SSHR, SSRA
    exec_scal2 ha hf rfl (shiftLeft_eq_ofNat _ _),
    exec_scal2 ha hf rfl (shiftRight_eq_ofNat _ _),
    exec_scal2 ha hf rfl (sshiftRight_eq_ofInt _ _),
    -- SMIN, SMAX, SMINN, SMAXN
    exec_scal2 ha hf rfl (ite_congr (propext BitVec.sle_iff_toInt_le) (fun _ => rfl) fun _ => rfl),
    exec_scal2 ha hf rfl (ite_congr (propext BitVec.sle_iff_toInt_le) (fun _ => rfl) fun _ => rfl),
    exec_scal2 ha hf rfl rfl,
    exec_scal2 ha hf rfl rfl,
    -- SCMP
    fun _ hv => exec_scal2 ha hf rfl (ones_eq beq_iff_eq hv),
    fun _ hv => exec_scal2 ha hf rfl (ones_eq bne_iff_ne hv),
    fun _ hv => exec_scal2 ha hf rfl (ones_eq BitVec.slt_iff_toInt_lt hv),
    fun _ hv => exec_scal2 ha hf rfl (ones_eq BitVec.sle_iff_toInt_le hv),
    fun _ hv => exec_scal2 ha hf rfl (ones_eq BitVec.ult_iff_lt hv),
    fun _ hv => exec_scal2 ha hf rfl (ones_eq BitVec.ule_iff_le hv)⟩,
  fun hf => ⟨
    -- SNOT, SMOV, SPOPC, SCLZ, SBREV
    exec_scal1 ha hf rfl (BitVec.allOnes_sub_eq_not _).symm,
    exec_scal1 ha hf rfl rfl,
    exec_scal1 ha hf rfl (congrArg _ (popc_eq_countP _)),
    fun _ hn hlt hge => exec_scal1 ha hf rfl (congrArg _ (clz_eq hn hlt hge)),
    fun _ hv => exec_scal1 ha hf rfl (brev_eq hv)⟩⟩

theorem scalarImmediates : Claims.ScalarImmediates := by
  intro s e d a i ha
  refine ⟨fun hf => ⟨?_, ?_⟩, fun hf => ?_⟩
  · refine exec_scal1 ha hf rfl ?_
    rw [BitVec.ofInt_add, BitVec.ofInt_toInt]
    rfl
  · exact exec_scal1 ha hf rfl (shiftLeft_or_setWidth _ _)
  · exact exec_form ha hf rfl rfl

/-- Settles O1, form by form. -/
theorem scalarForms : Obligations.ScalarForms := ⟨scalarResults, scalarImmediates⟩

/-! ## Predicates (R136) -/

/-- Negation keeps the bits up to the lowest one and inverts those above it. -/
theorem lowestBit_eq {x : BitVec 32} {n : Nat} (hn : n < 32) (hb : bit x n = true) (hlow : ∀ m < n, bit x m = false) :
    lowestBit x = BitVec.ofNat 32 (2 ^ n) := by
  refine BitVec.eq_of_getLsbD_eq fun i hi => ?_
  rw [lowestBit, BitVec.getLsbD_and, BitVec.getLsbD_neg, BitVec.getLsbD_ofNat, Nat.testBit_two_pow]
  rcases Nat.lt_trichotomy i n with h | rfl | h
  · simp [hlow i h, show ¬ n = i by omega]
  · have hno : ¬ ∃ j < i, x.getLsbD j = true := fun ⟨j, hj, hjb⟩ => Bool.false_ne_true ((hlow j hj).symm.trans hjb)
    simp [hb, hno, hi]
  · have hex : ∃ j < i, x.getLsbD j = true := ⟨n, h, hb⟩
    cases hx : x.getLsbD i <;> simp [hex, hi, show ¬ n = i by omega]

/-- Settles O3, form by form. -/
theorem predicateResults : Obligations.PredicateResults := by
  intro s e d a b r ha
  refine ⟨fun hf => ⟨?_, ?_, ?_⟩, fun hf => ⟨?_, ?_, fun h0 => ?_, fun n hn hb hlow => ?_⟩, fun hf => ?_,
    fun hf => ⟨?_, ?_⟩⟩
  · exact exec_form ha hf rfl rfl
  · exact exec_form ha hf rfl rfl
  · exact exec_form ha hf rfl rfl
  · exact exec_form ha hf rfl (congrArg _ (BitVec.allOnes_sub_eq_not _).symm)
  · exact exec_form ha hf rfl rfl
  · exact exec_form ha hf rfl (congrArg _ (congrArg lowestBit h0))
  · exact exec_form ha hf rfl (congrArg _ (lowestBit_eq hn hb hlow))
  · exact exec_form ha hf rfl rfl
  · exact exec_form ha hf rfl (congrArg _ (BitVec.ofNat_toNat 64 _).symm)
  · exact exec_form ha hf rfl (congrArg _ (congrArg _ (popc_eq_countP _)))

end Sys2Proof.Machine
end

section
/-! PROOF of O4: the results of the vector integer forms. Every form is a `State.vec`, which writes its function's values into the
guard lanes (`issue_vec`); most functions are the stated ones as they stand, the others agree with them on elements. -/
namespace Sys2Proof.Machine

/-! ## Functions that agree on elements -/

theorem mapEl_congr {t : Nat} {f g : Nat → Nat → Nat → Nat} {x y z x' y' z' : Word64}
    (h : ∀ j, f (el (elW t) x j) (el (elW t) y j) (el (elW t) z j) = g (el (elW t) x' j) (el (elW t) y' j) (el (elW t) z' j)) :
    mapEl t f x y z = mapEl t g x' y' z' := by
  rw [mapEl, mapEl, funext h]

theorem mapInt_congr {t : Nat} {sat : Bool} {f g : Int → Int → Int → Int} {x y z x' y' z' : Word64}
    (h : ∀ j, f (elInt (elSigned t) (elW t) (el (elW t) x j)) (elInt (elSigned t) (elW t) (el (elW t) y j))
        (elInt (elSigned t) (elW t) (el (elW t) z j))
      = g (elInt (elSigned t) (elW t) (el (elW t) x' j)) (elInt (elSigned t) (elW t) (el (elW t) y' j))
        (elInt (elSigned t) (elW t) (el (elW t) z' j))) :
    mapInt t sat f x y z = mapInt t sat g x' y' z' := by
  unfold mapInt
  exact mapEl_congr fun j => congrArg _ (h j)

/-! ## Values per element (R123, R127) -/

theorem elInt_unsigned_ne_neg_one {signed : Bool} (w x : Nat) (h : signed = false) : elInt signed w x ≠ -1 := by
  rw [h]
  have : (0 : Int) ≤ elInt false w x := Int.natCast_nonneg x
  omega

/-- The case of the minimum by -1 is one of signed types: no unsigned element is -1. -/
theorem vDiv_eq {t : Nat} {sat : Bool} {p q : Int} (hq : elSigned t = false → q ≠ -1) :
    vDiv t sat p q = if q = 0 then -1
      else if p = elMin (elSigned t) (elW t) ∧ q = -1 ∧ sat then elMax (elSigned t) (elW t) else p.tdiv q := by
  unfold vDiv
  cases h : elSigned t
  · simp [hq h]
  · simp [and_assoc]

theorem popc_ofNat (x : Nat) : popc (BitVec.ofNat 32 x) = (List.range 32).countP fun j => x.testBit j := by
  rw [popc_eq_countP]
  refine List.countP_congr fun j hj => ?_
  rw [BitVec.toNat_ofNat, Nat.testBit_mod_two_pow, decide_eq_true (List.mem_range.mp hj), Bool.true_and]

theorem clz_eq_sub (w x : Nat) : clz w x = w - if x = 0 then 0 else Nat.log2 x + 1 := by
  unfold clz
  split <;> omega

theorem ite_neg_eq_abs (p : Int) : (if p < 0 then -p else p) = |p| := by
  split
  · next h => exact (abs_of_neg h).symm
  · next h => exact (abs_of_nonneg (Int.not_lt.mp h)).symm

/-! ## The forms -/

/-- A masked write depends on the values of the guard lanes alone. -/
theorem State.putLanes_congr {s : State} (n : Nat) (wide : Bool) {f g : Nat → Word64} (h : ∀ l ∈ s.glanes s.cur, f l = g l) :
    s.putLanes n wide f = s.putLanes n wide g :=
  List.foldl_ext _ _ s fun t l hl => by rw [h l hl]

/-- A vector form of an accepted type, its registers free, gives each guard lane the value of its function. -/
theorem issue_vec {s : State} {x : Out} {e : Bool} {types : List Nat} {d : Nat} {srcs : List Nat} {ok : State → Bool}
    {tag : State → TagRule} {f : State → State → Nat → Word64} {g : Nat → Word64} (ha : s.acts)
    (hx : x = issue s fun s => s.vec e (ok s) d srcs (tag s) (f s)) (hok : types.contains s.ty = true → ok s = true)
    (hv : ∀ l ∈ s.glanes s.cur, f s s l = g l) (hacc : s.accepts types (d :: srcs))
    (hf : s.free { sv := srcs.flatMap (regs s.wide), dv := regs s.wide d }) :
    x = .next ((s.putLanes d s.wide g).advance e) := by
  obtain ⟨hty, hw⟩ := hacc
  rw [hx, issue_valid _ ha.1, State.vec_free e (ok s) d srcs (tag s) (f s) ha (hok hty) hw hf, State.putLanes_congr d s.wide hv]

theorem clsI64_of_mem {t : Nat} (h : typesI64.contains t = true) : clsI64 t = true := (clsI64_eq t).trans h

/-- Settles O4, form by form, in the order of the statement. -/
theorem vectorIntegerResults : Obligations.VectorIntegerResults := by
  intro s e d a b i ha
  dsimp only [VecGives, exec]
  exact ⟨
    -- VADD, VSUB, VMUL, VMULH, VMAD
    issue_vec ha rfl clsI64_of_mem fun _ _ => rfl,
    issue_vec ha rfl clsI64_of_mem fun _ _ => rfl,
    issue_vec ha rfl id fun _ _ => rfl,
    issue_vec ha rfl id fun _ _ => rfl,
    issue_vec ha rfl id fun _ _ => rfl,
    -- VAND, VOR, VXOR, VNOT
    issue_vec ha rfl (fun _ => rfl) fun _ _ => rfl,
    issue_vec ha rfl (fun _ => rfl) fun _ _ => rfl,
    issue_vec ha rfl (fun _ => rfl) fun _ _ => rfl,
    issue_vec ha rfl (fun _ => rfl) fun _ _ => rfl,
    -- VSHL, VSHR, VSRA
    issue_vec ha rfl clsI64_of_mem fun _ _ => mapEl_congr fun _ => Nat.shiftLeft_eq _ _,
    issue_vec ha rfl clsI64_of_mem fun _ _ => mapEl_congr fun _ => Nat.shiftRight_eq_div_pow _ _,
    issue_vec ha rfl clsI64_of_mem fun _ _ => rfl,
    -- VMIN, VMAX, VABS, VNEG
    issue_vec ha rfl id fun _ _ => mapInt_congr fun _ => min_def _ _,
    issue_vec ha rfl id fun _ _ => mapInt_congr fun _ => max_def _ _,
    issue_vec ha rfl id fun _ _ => mapInt_congr fun _ => ite_neg_eq_abs _,
    issue_vec ha rfl id fun _ _ => mapInt_congr fun _ => (Int.zero_sub _).symm,
    -- VMOV, VBSEL
    issue_vec ha rfl (fun _ => rfl) fun _ _ => rfl,
    issue_vec ha rfl (fun _ => rfl) fun _ _ => rfl,
    -- VPOPC, VCLZ, VAVG
    issue_vec ha rfl id fun _ _ => mapEl_congr fun _ => popc_ofNat _,
    issue_vec ha rfl id fun _ _ => mapEl_congr fun _ => clz_eq_sub _ _,
    issue_vec ha rfl id fun _ _ => rfl,
    -- VDIV, VREM
    issue_vec ha rfl id fun _ _ => mapInt_congr fun _ => vDiv_eq (elInt_unsigned_ne_neg_one _ _),
    issue_vec ha rfl id fun _ _ => mapInt_congr fun _ => ite_congr rfl (fun _ => rfl) fun _ => Int.tmod_def _ _,
    -- VADDI, VLI
    issue_vec ha rfl clsI64_of_mem fun _ _ => rfl,
    issue_vec ha rfl (fun _ => rfl) fun _ _ => rfl⟩

end Sys2Proof.Machine
end

section
/-! PROOF of O7: the compares. A compare of floats reads its elements through FTZ, which keeps NaNs and turns the order of encodings
into the order of the values that the statement names (`Fmt.orderValue`). -/
namespace Sys2Proof.Machine

/-! ## Elements read under FTZ (R135, R149) -/

/-- A subnormal reads as a zero of its sign under FTZ. -/
def Fmt.flush (f : Fmt) (ftz : Bool) (x : Nat) : Nat := if ftz && f.isSub x then f.put (f.neg x) 0 else x

theorem Fmt.mag_put_zero (f : Fmt) (n : Bool) : f.mag (f.put n 0) = 0 := by
  cases n <;> simp [Fmt.mag, Fmt.put]

theorem Fmt.isNan_of_mag_lt {f : Fmt} {x : Nat} (h : f.mag x < 2 ^ f.mb) : f.isNan x = false := by
  cases f <;> simp [Fmt.isNan, Fmt.infMag, Fmt.maxFin, Fmt.mb] at h ⊢ <;> omega

theorem Fmt.isInf_of_mag_lt {f : Fmt} {x : Nat} (h : f.mag x < 2 ^ f.mb) : f.isInf x = false := by
  cases f <;> simp [Fmt.isInf, Fmt.hasInf, Fmt.infMag, Fmt.maxFin, Fmt.mb] at h ⊢ <;> omega

theorem Fmt.signed_of_mag_zero {f : Fmt} {x : Nat} (h : f.mag x = 0) : f.signed x = 0 := by
  simp [Fmt.signed, Fmt.exact, h]

theorem Fmt.isSnan_of_not_isNan {f : Fmt} {x : Nat} (h : f.isNan x = false) : f.isSnan x = false := by
  rw [Fmt.isSnan, h, Bool.false_and, Bool.false_and]

/-- What is flushed: a subnormal, in whose place a zero stands. -/
theorem Fmt.flush_cases (f : Fmt) (ftz : Bool) (x : Nat) :
    ((ftz && f.isSub x) = true ∧ f.mag x < 2 ^ f.mb ∧ f.mag (f.flush ftz x) = 0)
    ∨ ((ftz && f.isSub x) = false ∧ f.flush ftz x = x) := by
  unfold Fmt.flush
  cases h : ftz && f.isSub x
  · exact .inr ⟨rfl, rfl⟩
  · obtain ⟨-, hs⟩ := (Bool.and_eq_true _ _).mp h
    exact .inl ⟨rfl, (of_decide_eq_true hs).2, f.mag_put_zero _⟩

theorem Fmt.isNan_flush (f : Fmt) (ftz : Bool) (x : Nat) : f.isNan (f.flush ftz x) = f.isNan x := by
  rcases f.flush_cases ftz x with ⟨-, hx, h0⟩ | ⟨-, h⟩
  · rw [Fmt.isNan_of_mag_lt hx, Fmt.isNan_of_mag_lt (h0 ▸ Nat.two_pow_pos _)]
  · rw [h]

theorem Fmt.isSnan_flush (f : Fmt) (ftz : Bool) (x : Nat) : f.isSnan (f.flush ftz x) = f.isSnan x := by
  rcases f.flush_cases ftz x with ⟨-, hx, h0⟩ | ⟨-, h⟩
  · rw [Fmt.isSnan_of_not_isNan (Fmt.isNan_of_mag_lt hx), Fmt.isSnan_of_not_isNan (Fmt.isNan_of_mag_lt (h0 ▸ Nat.two_pow_pos _))]
  · rw [h]

/-! ## The order of values -/

/-- The value by which an encoding is compared: an infinity lies beyond every finite value. -/
def Fmt.orderValue (f : Fmt) (ftz : Bool) (x : Nat) : Int :=
  if f.isInf x then (if f.neg x then -(2 ^ 400) else 2 ^ 400) else if ftz && f.isSub x then 0 else f.signed x

theorem Fmt.orderValue_flush (f : Fmt) (ftz : Bool) (x : Nat) : f.orderValue false (f.flush ftz x) = f.orderValue ftz x := by
  rcases f.flush_cases ftz x with ⟨hs, hx, h0⟩ | ⟨hs, h⟩
  · simp only [Fmt.orderValue, hs, Fmt.isInf_of_mag_lt hx, Fmt.isInf_of_mag_lt (h0 ▸ Nat.two_pow_pos _), Fmt.signed_of_mag_zero h0,
      Bool.false_and, Bool.false_eq_true, if_false, if_true]
  · simp only [Fmt.orderValue, hs, h, Bool.false_and]

theorem Fmt.cmp_flush (f : Fmt) (ftz : Bool) (x y : Nat) :
    f.cmp (f.flush ftz x) (f.flush ftz y) = compare (f.orderValue ftz x) (f.orderValue ftz y) := by
  rw [← f.orderValue_flush ftz x, ← f.orderValue_flush ftz y]
  rfl

/-- Whether a relation holds of elements that compare so (R135). -/
def relOrd (rel : Nat) (o : Ordering) : Bool :=
  match rel with
  | 0 => o == .eq | 1 => o != .eq | 2 => o == .lt | 3 => o != .gt | 4 => o == .gt | _ => o != .lt

/-- The relations of the order of two integers are those of the integers. -/
theorem relOrd_compare {rel : Nat} (i j : Int) (h : rel < 6) : relOrd rel (compare i j) = relInt rel i j := by
  rcases lt_trichotomy i j with hlt | rfl | hgt
  · rw [compare_lt_iff_lt.mpr hlt]
    interval_cases rel <;> simp [relOrd, relInt, hlt.ne, hlt.le, hlt.not_gt, hlt, hlt.not_ge]
  · rw [compare_eq_iff_eq.mpr rfl]
    interval_cases rel <;> simp [relOrd, relInt]
  · rw [compare_gt_iff_gt.mpr hgt]
    interval_cases rel <;> simp [relOrd, relInt, hgt.ne', hgt.le, hgt.not_gt, hgt, hgt.not_ge]

/-- A relation of floats in terms of what its elements read as. -/
theorem relFloat_flush (f : Fmt) (ftz : Bool) (rel x y : Nat) :
    let p := f.flush ftz x
    let q := f.flush ftz y
    let nan := f.isNan p || f.isNan q
    let fl : Flags := if f.isSnan p || f.isSnan q || (nan && decide (2 ≤ rel ∧ rel ≤ 5)) then flNV else 0
    relFloat f ftz rel x y = if rel = 6 then (nan, fl) else if nan then (false, fl) else (relOrd rel (f.cmp p q), fl) := rfl

/-- R135: a relation of floats by NaNs, values and the relation's number. -/
theorem relFloat_eq (f : Fmt) (ftz : Bool) {rel : Nat} (x y : Nat) (hrel : rel < 7) :
    relFloat f ftz rel x y =
      (if f.isNan x || f.isNan y then decide (rel = 6) else relInt rel (f.orderValue ftz x) (f.orderValue ftz y),
        if f.isSnan x || f.isSnan y || ((f.isNan x || f.isNan y) && decide (2 ≤ rel ∧ rel ≤ 5)) then flNV else 0) := by
  simp only [relFloat_flush, Fmt.isNan_flush, Fmt.isSnan_flush, Fmt.cmp_flush]
  by_cases h6 : rel = 6
  · subst h6
    cases f.isNan x || f.isNan y <;> rfl
  · rw [if_neg h6, relOrd_compare _ _ (by omega), decide_eq_false h6]
    cases f.isNan x || f.isNan y <;> rfl

/-- R134, R135. -/
theorem compareRelations : Claims.CompareRelations := by
  intro t rel x y ftz _ hrel _ _
  refine ⟨fun h => ?_, fun f h => ?_⟩
  · rw [relEl, h]
    rfl
  · have hr : relEl t ftz rel x y = relFloat f ftz rel x y := by rw [relEl, h]
    rw [hr, relFloat_eq f ftz x y hrel]
    refine ⟨fun hn => if_pos hn, fun hn => ?_, ?_⟩
    · rw [hn]
      rfl
    · simp only [Bool.or_eq_true, Bool.and_eq_true, decide_eq_true_eq, or_assoc]

/-! ## The forms (R134) -/

/-- A predicate with the bits of the guard lanes replaced. -/
theorem masked_eq {old g v : BitVec 32} {p : Nat → Bool} (hv : ∀ l < 32, bit v l = if bit g l then p l else bit old l) :
    (old &&& ~~~g) ||| maskOf ((lanesOf g).filter p) = v := by
  refine BitVec.eq_of_getLsbD_eq fun l hl => Eq.trans ?_ (hv l hl).symm
  have hm : bit (maskOf ((lanesOf g).filter p)) l = (bit g l && p l) := by
    rw [bit_maskOf _ hl, Bool.eq_iff_iff, List.any_eq_true]
    simp [List.mem_filter, mem_lanesOf, hl]
  have hb : bit ((old &&& ~~~g) ||| maskOf ((lanesOf g).filter p)) l = ((bit old l && !bit g l) || (bit g l && p l)) := by
    rw [← hm]
    simp [hl]
  refine hb.trans ?_
  cases bit g l <;> simp

theorem State.opnd_narrow {s : State} (n l : Nat) (h : s.wide = false) : s.opnd n l = (s.vget s.cur n l).setWidth 64 := by
  rw [State.opnd, State.operandVal, h]
  rfl

theorem State.opnd_narrow_toNat {s : State} (n l : Nat) (h : s.wide = false) : (s.opnd n l).toNat = (s.vget s.cur n l).toNat := by
  rw [State.opnd_narrow n l h, BitVec.toNat_setWidth_of_le (by decide)]

/-- Under the types of VCMP an operand is its one element. -/
theorem State.el_opnd_zero {s : State} (n l : Nat) (h : clsCmp s.ty = true) : el (elW s.ty) (s.opnd n l) 0 = (s.opnd n l).toNat := by
  have hlt : (s.opnd n l).toNat < 2 ^ elW s.ty := by
    cases hw : s.wide
    · have h32 : elW s.ty = 32 := by
        have hne : s.ty ≠ 15 := by simpa [State.wide] using hw
        have hlt : s.ty < 4 := by
          simp only [clsCmp, Bool.or_eq_true, beq_iff_eq] at h
          omega
        exact if_pos hlt
      rw [State.opnd_narrow_toNat n l hw, h32]
      exact (s.vget s.cur n l).isLt
    · have h64 : s.ty = 15 := by simpa [State.wide] using hw
      rw [h64]
      exact (s.opnd n l).isLt
  rw [el, Nat.mul_zero, Nat.shiftRight_zero, Nat.mod_eq_of_lt hlt]

theorem State.vcmp_free {s : State} (e : Bool) (rel : Nat) {d : BitVec 3} {a b : BitVec 6} (ha : s.acts) (hty : clsCmp s.ty = true)
    (hw : s.wide = true → a.toNat % 2 = 0 ∧ b.toNat % 2 = 0)
    (hf : s.free { sv := regs s.wide a.toNat ++ regs s.wide b.toNat, dq := [d.toNat] }) :
    let r (l : Nat) := relEl s.ty s.ftz rel (s.opnd a.toNat l).toNat (s.opnd b.toNat l).toNat
    let new := (s.pget s.cur d.toNat &&& ~~~ (s.guard s.cur)) ||| maskOf ((s.glanes s.cur).filter fun l => (r l).1)
    s.vcmp e rel d a b = ((s.pset s.cur d.toNat new).orLanes (s.glanes s.cur) fun l => (r l).2).advance e := by
  have hodd : (s.wide && (a.toNat % 2 == 1 || b.toNat % 2 == 1)) = false := by
    cases h : s.wide
    · rfl
    · simp [hw h]
  unfold State.vcmp
  simp only [hty, hodd, Bool.not_true, Bool.or_false, Bool.false_eq_true, if_false]
  exact State.form_free e _ _ ha hf

/-- R134. -/
theorem compareResults : Claims.CompareResults := by
  intro s e rel p d a b ha hrel
  refine ⟨fun ⟨hty, hw⟩ hf v hv => ?_, fun hty hf => ?_⟩
  · have hcls : clsCmp s.ty = true := (clsCmp_eq s.ty).trans hty
    simp only [s.el_opnd_zero _ _ hcls] at hv ⊢
    rw [exec_vcmpOf hrel, issue_valid _ ha.1,
      State.vcmp_free e rel ha hcls (fun h => ⟨hw h _ (by simp), hw h _ (by simp)⟩) hf, State.glanes, masked_eq hv]
  · rw [exec_vcmpvOf hrel, issue_valid _ ha.1, State.vcmpv, clsCmpv_of_mem hty]
    exact congrArg _ (State.vecFl_free e _ _ _ ha hf)

/-- Settles O7: the forms, and the relations that they test. -/
theorem compares : Obligations.Compares := ⟨compareResults, compareRelations⟩

end Sys2Proof.Machine
end

section
/-! PROOF of O6: the permute and cross-lane forms. Bit fields and permuted bytes are compared bit by bit and byte by byte with what
the statement asks of them; the packed scalar is a sum of bits in ascending order (`packedBits`); a scan is followed
through the guard lanes (`scanFold`). -/
namespace Sys2Proof.Machine

/-! ## Bit fields (R130) -/

/-- Words of 32 bits agree where their bits do. -/
theorem ofNat_eq_of_bits {v : Word64} {n : Nat} (hv : v.toNat < 2 ^ 32) (hn : n < 2 ^ 32) (h : ∀ i < 32, bit v i = n.testBit i) :
    BitVec.ofNat 64 n = v := by
  refine BitVec.eq_of_toNat_eq ?_
  rw [BitVec.toNat_ofNat, Nat.mod_eq_of_lt (hn.trans (by decide))]
  refine Nat.eq_of_testBit_eq fun i => ?_
  by_cases hi : i < 32
  · exact (h i hi).symm
  · have hpow : 2 ^ 32 ≤ 2 ^ i := Nat.pow_le_pow_right (by decide) (by omega)
    rw [Nat.testBit_lt_two_pow (hn.trans_le hpow), Nat.testBit_lt_two_pow (hv.trans_le hpow)]

/-- The field is at most 32 bits long; its sign is its top bit. -/
theorem bfe_eq (signed : Bool) (a b : Nat) :
    let v := a / 2 ^ (b % 32) % 2 ^ bfLen b
    bfe signed a b =
      ((if signed = true ∧ 1 ≤ bfLen b ∧ 2 ^ (bfLen b - 1) ≤ v then (v : Int) - 2 ^ bfLen b else v) % 2 ^ 32).toNat := by
  intro v
  have hlen : bfLen b ≤ 32 := Nat.min_le_right _ _
  have hv : v < 2 ^ bfLen b := Nat.mod_lt _ (Nat.two_pow_pos _)
  have hv32 : v < 2 ^ 32 := hv.trans_le (Nat.pow_le_pow_right (by decide) hlen)
  have hfield : (a >>> bfPos b) % 2 ^ bfLen b = v := by rw [Nat.shiftRight_eq_div_pow, bfPos]
  simp only [bfe, hfield]
  by_cases hs : signed = true ∧ 1 ≤ bfLen b
  · obtain ⟨rfl, h1⟩ := hs
    have htop : v.testBit (bfLen b - 1) = decide (2 ^ (bfLen b - 1) ≤ v) := testBit_top (by rwa [Nat.sub_add_cancel h1])
    simp [h1, wrapTo, elInt, htop]
  · have hb : (signed && decide (1 ≤ bfLen b)) = false := by simpa using hs
    simp only [hb, Bool.false_eq_true, if_false]
    rw [if_neg fun ⟨h, h1, _⟩ => hs ⟨h, h1⟩]
    omega

theorem bfi_lt (d a b : Nat) : bfi d a b < 2 ^ 32 := Nat.mod_lt _ (by decide)

/-- The bits of the field come from the source, the others are kept. -/
theorem testBit_bfi (d a b : Nat) {i : Nat} (hi : i < 32) :
    (bfi d a b).testBit i = if bfPos b ≤ i ∧ i < bfPos b + bfLen b then a.testBit (i - bfPos b) else d.testBit i := by
  have hlen : bfLen b ≤ 32 := Nat.min_le_right _ _
  have hpos : bfPos b < 32 := Nat.mod_lt _ (by decide)
  have hm : (2 ^ bfLen b - 1) <<< bfPos b < 2 ^ 64 := by
    rw [Nat.shiftLeft_eq]
    calc (2 ^ bfLen b - 1) * 2 ^ bfPos b
        < 2 ^ bfLen b * 2 ^ bfPos b := Nat.mul_lt_mul_of_pos_right (by have := Nat.two_pow_pos (bfLen b); omega) (Nat.two_pow_pos _)
      _ = 2 ^ (bfLen b + bfPos b) := (Nat.pow_add ..).symm
      _ ≤ 2 ^ 64 := Nat.pow_le_pow_right (by decide) (by omega)
  have hkeep := Nat.testBit_two_pow_sub_succ hm i
  rw [Nat.add_comm, ← Nat.sub_sub] at hkeep
  unfold bfi
  simp only [Nat.testBit_mod_two_pow, Nat.testBit_or, Nat.testBit_and, hkeep, Nat.testBit_shiftLeft, Nat.testBit_two_pow_sub_one]
  by_cases hlo : bfPos b ≤ i
  · by_cases hhi : i < bfPos b + bfLen b
    · simp [hi, hlo, hhi, show i - bfPos b < bfLen b by omega]
    · simp [hi, hlo, hhi, show ¬ i - bfPos b < bfLen b by omega, show i < 64 by omega]
  · simp [hi, hlo, show i < 64 by omega]

/-! ## Bytes picked (R131) -/

theorem prmtByte_eq (ab n : Nat) : prmtByte ab n =
    if n < 8 then ab / 256 ^ (n % 8) % 256 else if ab / 256 ^ (n % 8) % 256 < 128 then 0 else 255 := by
  rw [prmtByte, Nat.shiftRight_eq_div_pow, Nat.pow_mul]

theorem prmtByte_lt (ab n : Nat) : prmtByte ab n < 256 := by
  rw [prmtByte_eq]
  split
  · exact Nat.mod_lt _ (by decide)
  · split <;> decide

/-- The four bytes are packed as elements of 8 bits are. -/
theorem prmt_eq_packSum (d a b : Nat) : prmt d a b = packSum 8 4 fun i => prmtByte (a + 2 ^ 32 * b) (d >>> (4 * i) % 16) := by
  unfold prmt packSum
  refine List.foldl_ext _ _ 0 fun acc i _ => ?_
  rw [Nat.pow_mul]
  exact congrArg (acc + · * 256 ^ i) (Nat.mod_eq_of_lt (prmtByte_lt _ _)).symm

theorem prmt_lt (d a b : Nat) : prmt d a b < 2 ^ 32 := by
  rw [prmt_eq_packSum]
  exact packSum_lt 8 4 _

theorem prmt_byte (d a b : Nat) {i : Nat} (hi : i < 4) :
    prmt d a b / 256 ^ i % 256 = prmtByte (a + 2 ^ 32 * b) (d / 16 ^ i % 16) := by
  have h := packSum_digit 8 (fun i => prmtByte (a + 2 ^ 32 * b) (d >>> (4 * i) % 16)) hi
  rw [← prmt_eq_packSum, Nat.pow_mul, Nat.shiftRight_eq_div_pow, Nat.pow_mul] at h
  exact h.trans (Nat.mod_eq_of_lt (prmtByte_lt _ _))

/-- Words of 32 bits agree where their bytes do. -/
theorem ofNat_eq_of_bytes {v : Word64} {n : Nat} (hv : v.toNat < 2 ^ 32) (hn : n < 2 ^ 32)
    (h : ∀ i < 4, v.toNat / 256 ^ i % 256 = n / 256 ^ i % 256) : BitVec.ofNat 64 n = v := by
  refine BitVec.eq_of_toNat_eq ?_
  have h0 := h 0 (by decide)
  have h1 := h 1 (by decide)
  have h2 := h 2 (by decide)
  have h3 := h 3 (by decide)
  rw [BitVec.toNat_ofNat]
  omega

/-! ## Packed bits (R132) -/

/-- The lowest bit of an element. -/
theorem el_mod_two {w : Nat} (x : Word64) (i : Nat) (hw : 0 < w) : el w x i % 2 = (x.toNat.testBit (w * i)).toNat := by
  rw [el, Nat.mod_mod_of_dvd _ (dvd_pow_self 2 hw.ne'), Nat.shiftRight_eq_div_pow, Nat.testBit_eq_decide_div_mod_eq]
  rcases Nat.mod_two_eq_zero_or_one (x.toNat / 2 ^ (w * i)) with h | h <;> rw [h] <;> rfl

/-- A sum over m blocks of n bits, of those blocks that p selects, is the sum over all bits in ascending order. -/
theorem packedBits {n : Nat} (hn : 0 < n) (p : Nat → Bool) (c : Nat → Nat → Bool) (m : Nat) :
    ((List.range m).filter p).foldl (fun acc l => (List.range n).foldl (fun acc i => acc + (c l i).toNat * 2 ^ (n * l + i)) acc) 0
      = (List.range (n * m)).foldl (fun acc k => if p (k / n) && c (k / n) (k % n) then acc + 2 ^ k else acc) 0 := by
  induction m with
  | zero => rfl
  | succ m ih =>
    rw [List.range_succ, List.filter_append, List.foldl_append, ih, Nat.mul_succ, List.range_add, List.foldl_append, List.foldl_map]
    generalize List.foldl _ 0 (List.range (n * m)) = start
    have hblock : ∀ i ∈ List.range n, (n * m + i) / n = m ∧ (n * m + i) % n = i := fun i hi => by
      have hi := List.mem_range.mp hi
      rw [Nat.mul_add_div hn, Nat.div_eq_of_lt hi, Nat.mul_add_mod, Nat.mod_eq_of_lt hi]
      exact ⟨rfl, rfl⟩
    cases hp : p m
    · have hnone : (List.range n).foldl (fun acc i => if p ((n * m + i) / n) && c ((n * m + i) / n) ((n * m + i) % n)
          then acc + 2 ^ (n * m + i) else acc) start = (List.range n).foldl (fun acc _ => acc) start :=
        List.foldl_ext _ _ start fun acc i hi => by rw [(hblock i hi).1, hp]; rfl
      rw [hnone, List.foldl_fixed]
      simp [hp]
    · simp only [hp, List.filter_cons_of_pos, List.filter_nil, List.foldl_cons, List.foldl_nil]
      refine List.foldl_ext _ _ start fun acc i hi => ?_
      rw [(hblock i hi).1, (hblock i hi).2, hp]
      cases c m i <;> simp

/-- VPACKB's scalar: bit E l + e is the lowest bit of element e of lane l, for the lanes of the guard set. -/
theorem State.packBits_eq {s : State} {a : Nat} {v : Word64} (hn : 0 < elN s.ty) (hw : 0 < elW s.ty) (hwide : s.wide = false)
    (hv : ∀ i < 64, bit v i = (bit (s.guard s.cur) (i / elN s.ty)
      && ((s.vget s.cur a (i / elN s.ty)).toNat).testBit (elW s.ty * (i % elN s.ty)))) : s.packBits a = v := by
  unfold State.packBits
  dsimp only
  simp only [el_mod_two _ _ hw, s.opnd_narrow_toNat _ _ hwide, State.glanes, lanesOf, lanes]
  rw [packedBits hn (fun l => bit (s.guard s.cur) l) (fun l i => (s.vget s.cur a l).toNat.testBit (elW s.ty * i)) 32]
  refine BitVec.eq_of_getLsbD_eq fun i hi => ?_
  rw [BitVec.getLsbD_ofNat, (ofBits_nat _ _).2 i, decide_eq_true hi, Bool.true_and, ← bit, hv i hi]
  by_cases h : i < elN s.ty * 32
  · rw [decide_eq_true h, Bool.true_and]
  · have hge : 32 ≤ i / elN s.ty := (Nat.le_div_iff_mul_le hn).mpr (by omega)
    rw [bit, BitVec.getLsbD_of_ge _ _ hge]
    simp

/-! ## Scans (R133) -/

/-- What a scan has accumulated over a list of lanes. -/
def scanOver (step : Word64 → Word64 → Word64) (x : Nat → Word64) (ls : List Nat) : Option Word64 :=
  ls.foldl (fun acc l => some (acc.elim (x l) fun y => step y (x l))) none

theorem scanOver_concat (step : Word64 → Word64 → Word64) (x : Nat → Word64) (ls : List Nat) (k : Nat) :
    scanOver step x (ls ++ [k]) = some ((scanOver step x ls).elim (x k) fun y => step y (x k)) := by
  rw [scanOver, List.foldl_append]
  rfl

theorem State.scanUpTo_eq (s : State) (a l : Nat) (step : Word64 → Word64 → Word64) :
    s.scanUpTo a l step = (scanOver step (s.opnd a) ((s.glanes s.cur).filter fun m => m ≤ l)).getD 0 := by
  unfold State.scanUpTo scanOver
  congr 1
  refine List.foldl_ext _ _ none fun acc m _ => ?_
  cases acc <;> rfl

/-- One lane of a scan: what is accumulated so far is listed for the lane, and the next lane goes on from it. -/
def scanStep (step : Word64 → Word64 → Word64) (x : Nat → Word64) (acc : List (Nat × Word64) × Option Word64) (l : Nat) :
    List (Nat × Word64) × Option Word64 :=
  let v := acc.2.elim (x l) fun y => step y (x l)
  (acc.1 ++ [(l, v)], some v)

theorem State.scan_eq (s : State) (a op : Nat) : s.scan a op = ((s.glanes s.cur).foldl
    (scanStep (fun y x => mapEl s.ty (fun p q _ => scanOp s.ty s.sat op p q) y x 0) (s.opnd a)) ([], none)).1 := by
  unfold State.scan
  congr 1
  refine List.foldl_ext _ _ _ fun acc m _ => ?_
  obtain ⟨ps, last⟩ := acc
  cases last <;> rfl

/-- Over rising lanes a scan lists each lane with what is accumulated up to it. -/
theorem scanFold (step : Word64 → Word64 → Word64) (x : Nat → Word64) (ls : List Nat) (h : ls.Pairwise (· < ·)) :
    (ls.foldl (scanStep step x) ([], none)).2 = scanOver step x ls
    ∧ (ls.foldl (scanStep step x) ([], none)).1 = ls.map (fun l => (l, (scanOver step x (ls.filter fun m => m ≤ l)).getD 0))
    ∧ (ls.foldl (scanStep step x) ([], none)).1.getLast?.map Prod.snd = scanOver step x ls := by
  induction ls using List.reverseRecOn with
  | nil => exact ⟨rfl, rfl, rfl⟩
  | append_singleton ls k ih =>
    obtain ⟨hls, -, hlt⟩ := List.pairwise_append.mp h
    obtain ⟨hlast, hlist, -⟩ := ih hls
    rw [List.foldl_append, List.foldl_cons, List.foldl_nil, scanStep, hlast, hlist, scanOver_concat, List.map_append]
    refine ⟨rfl, congrArg₂ _ (List.map_congr_left fun l hl => ?_) ?_, by rw [List.getLast?_concat]; rfl⟩
    · have hlk : l < k := hlt l hl k (List.mem_singleton_self k)
      rw [List.filter_append, List.filter_cons_of_neg (by simpa using hlk), List.filter_nil, List.append_nil]
    · have hall : (ls ++ [k]).filter (fun m => m ≤ k) = ls ++ [k] := List.filter_eq_self.mpr fun m hm => by
        rcases List.mem_append.mp hm with hm | hm
        · exact decide_eq_true (hlt m hm k (List.mem_singleton_self k)).le
        · exact decide_eq_true (List.mem_singleton.mp hm).le
      rw [List.map_singleton, hall, scanOver_concat]
      rfl

theorem afind_map_mem {α : Type} (f : Nat → α) {ls : List Nat} {l : Nat} (h : l ∈ ls) :
    afind (ls.map fun m => (m, f m)) l = some (f l) := by
  induction ls with
  | nil => cases h
  | cons m ls ih =>
    by_cases hm : m = l
    · simp [afind, hm]
    · have hl : l ∈ ls := (List.mem_cons.mp h).resolve_left fun e => hm e.symm
      simpa [afind, hm] using ih hl

theorem pairwise_lanesOf (m : BitVec 32) : (lanesOf m).Pairwise (· < ·) := List.Pairwise.filter _ List.pairwise_lt_range

section Scan
variable {s : State} {op : Nat} {step : Word64 → Word64 → Word64}
  (hstep : ∀ p q, mapEl s.ty (fun p q _ => scanOp s.ty s.sat op p q) p q 0 = step p q)
include hstep

/-- What is listed for a guard lane is the scan up to it. -/
theorem State.afind_scan (a : Nat) {l : Nat} (hl : l ∈ s.glanes s.cur) : (afind (s.scan a op) l).getD 0 = s.scanUpTo a l step := by
  obtain ⟨-, hlist, -⟩ := scanFold step (s.opnd a) (s.glanes s.cur) (pairwise_lanesOf _)
  rw [s.scan_eq, funext fun p => funext (hstep p), hlist, afind_map_mem _ hl, s.scanUpTo_eq]
  rfl

/-- What is listed last is the scan over all guard lanes. -/
theorem State.getLast_scan (a : Nat) : ((s.scan a op).getLast?.map Prod.snd).getD 0 = s.scanUpTo a 31 step := by
  obtain ⟨-, -, hlast⟩ := scanFold step (s.opnd a) (s.glanes s.cur) (pairwise_lanesOf _)
  have hall : (s.glanes s.cur).filter (fun m => m ≤ 31) = s.glanes s.cur :=
    List.filter_eq_self.mpr fun m hm => decide_eq_true (Nat.le_of_lt_succ (mem_lanesOf.mp hm).1)
  rw [s.scan_eq, funext fun p => funext (hstep p), hlast, s.scanUpTo_eq, hall]

end Scan

/-! ## The operations of a scan -/

theorem el_lt_two_pow (w : Nat) (x : Word64) (i : Nat) : el w x i < 2 ^ w := Nat.mod_lt _ (Nat.two_pow_pos w)

/-- An element's code is that of its integer. -/
theorem wrapTo_elInt {signed : Bool} {w x : Nat} (h : x < 2 ^ w) : wrapTo w (elInt signed w x) = x := by
  have hx : ((x : Int) % 2 ^ w) = x := Int.emod_eq_of_lt (Int.natCast_nonneg x) (by exact_mod_cast h)
  unfold wrapTo elInt
  split
  · rw [Int.sub_emod_right, hx, Int.toNat_natCast]
  · rw [hx, Int.toNat_natCast]

theorem fitEl_unclamped (signed : Bool) (w : Nat) (v : Int) : fitEl false signed w v = wrapTo w v := rfl

/-- The least of two elements, as an integer wrapped. -/
theorem fitEl_min {signed : Bool} {w x y : Nat} (hx : x < 2 ^ w) (hy : y < 2 ^ w) :
    fitEl false signed w (min (elInt signed w x) (elInt signed w y)) = if elInt signed w y < elInt signed w x then y else x := by
  rw [fitEl_unclamped]
  split
  · next h => rw [min_eq_right h.le, wrapTo_elInt hy]
  · next h => rw [min_eq_left (Int.not_lt.mp h), wrapTo_elInt hx]

/-- The greatest of two elements, as an integer wrapped. -/
theorem fitEl_max {signed : Bool} {w x y : Nat} (hx : x < 2 ^ w) (hy : y < 2 ^ w) :
    fitEl false signed w (max (elInt signed w x) (elInt signed w y)) = if elInt signed w x < elInt signed w y then y else x := by
  rw [fitEl_unclamped]
  split
  · next h => rw [max_eq_right h.le, wrapTo_elInt hy]
  · next h => rw [max_eq_left (Int.not_lt.mp h), wrapTo_elInt hx]

section ScanOp
variable {t : Nat} (sat : Bool) (p q : Word64)

theorem scanAdd_eq (ht : t ≠ 15) : mapEl t (fun p q _ => scanOp t sat 0 p q) p q 0 = mapInt t sat (fun i j _ => i + j) p q 0 := by
  have h : (sat && t != 15) = sat := by simp [ht]
  rw [mapInt, h]
  rfl

theorem scanMin_eq : mapEl t (fun p q _ => scanOp t sat 1 p q) p q 0 = mapInt t false (fun i j _ => min i j) p q 0 := by
  rw [mapInt, Bool.false_and]
  exact mapEl_congr fun j => (fitEl_min (el_lt_two_pow (elW t) p j) (el_lt_two_pow (elW t) q j)).symm

theorem scanMax_eq : mapEl t (fun p q _ => scanOp t sat 2 p q) p q 0 = mapInt t false (fun i j _ => max i j) p q 0 := by
  rw [mapInt, Bool.false_and]
  exact mapEl_congr fun j => (fitEl_max (el_lt_two_pow (elW t) p j) (el_lt_two_pow (elW t) q j)).symm

end ScanOp

/-- The step of a scan by its op code. -/
theorem mapEl_scanOp {t n : Nat} {sat : Bool} {step : Word64 → Word64 → Word64} (ht : t ≠ 15) (hn : n ≤ 5)
    (h0 : n = 0 → step = fun p q => mapInt t sat (fun i j _ => i + j) p q 0)
    (h1 : n = 1 → step = fun p q => mapInt t false (fun i j _ => min i j) p q 0)
    (h2 : n = 2 → step = fun p q => mapInt t false (fun i j _ => max i j) p q 0)
    (h3 : n = 3 → step = fun p q => mapEl t (fun i j _ => i &&& j) p q 0)
    (h4 : n = 4 → step = fun p q => mapEl t (fun i j _ => i ||| j) p q 0)
    (h5 : n = 5 → step = fun p q => mapEl t (fun i j _ => i ^^^ j) p q 0) (p q : Word64) :
    mapEl t (fun p q _ => scanOp t sat n p q) p q 0 = step p q := by
  interval_cases n
  · rw [h0 rfl, scanAdd_eq sat p q ht]
  · rw [h1 rfl, scanMin_eq]
  · rw [h2 rfl, scanMax_eq]
  · rw [h3 rfl]; rfl
  · rw [h4 rfl]; rfl
  · rw [h5 rfl]; rfl

/-! ## The forms -/

theorem State.narrow_of_mem {s : State} {types : List Nat} (h : types.contains s.ty = true) (h15 : types.contains 15 = false) :
    s.wide = false := by
  cases hw : s.wide
  · rfl
  · rw [show s.ty = 15 by simpa [State.wide] using hw, h15] at h
    exact h.symm

/-- No odd pair is named. -/
theorem State.wide_and_odd {s : State} {n : Nat} (hw : s.wide = true → n % 2 = 0) : (s.wide && decide (n % 2 = 1)) = false := by
  cases h : s.wide
  · rfl
  · simp [hw h]

/-- The types of one or two elements in a register. -/
theorem State.halfWords_of_lt {s : State} (h : s.ty < 8) : 0 < elN s.ty ∧ 0 < elW s.ty ∧ s.wide = false := by
  have hwide : s.wide = false := by simpa [State.wide] using (by omega : s.ty ≠ 15)
  refine ⟨?_, ?_, hwide⟩
  all_goals
    revert h
    generalize s.ty = t
    intro h
    interval_cases t <;> decide

theorem clsBf_of_mem {t : Nat} (h : [0, 1, 2].contains t = true) : clsBf t = true := (clsBf_eq t).trans h

theorem ne_15_of_mem {t : Nat} (h : (List.range 15).contains t = true) : (t != 15) = true := by
  have hlt : t < 15 := by simpa [List.contains_eq_mem] using h
  simpa using hlt.ne

section Forms
variable {s : State} {e : Bool} {d a b : BitVec 6} (ha : s.acts)
include ha

theorem vecGives_vbfe : VecGives s e (.vbfe e d a b) [0, 1, 2] d.toNat [a.toNat, b.toNat]
    fun l => BitVec.ofNat 64 (bfe (s.ty == 1) (s.vget s.cur a.toNat l).toNat (s.vget s.cur b.toNat l).toNat) := by
  intro hacc hf
  unfold exec
  refine issue_vec ha rfl clsBf_of_mem (fun l _ => ?_) hacc hf
  simp only [s.opnd_narrow_toNat _ _ (s.narrow_of_mem hacc.1 (by decide))]

theorem vecGives_vbfi : VecGives s e (.vbfi e d a b) [0, 1, 2] d.toNat [a.toNat, b.toNat, d.toNat] fun l => BitVec.ofNat 64
    (bfi (s.vget s.cur d.toNat l).toNat (s.vget s.cur a.toNat l).toNat (s.vget s.cur b.toNat l).toNat) := by
  intro hacc hf
  unfold exec
  refine issue_vec ha rfl clsBf_of_mem (fun l _ => ?_) hacc hf
  simp only [s.opnd_narrow_toNat _ _ (s.narrow_of_mem hacc.1 (by decide))]

theorem vecGives_vprmt : VecGives s e (.vprmt e d a b) (List.range 15) d.toNat [a.toNat, b.toNat, d.toNat] fun l => BitVec.ofNat 64
    (prmt (s.vget s.cur d.toNat l).toNat (s.vget s.cur a.toNat l).toNat (s.vget s.cur b.toNat l).toNat) := by
  intro hacc hf
  unfold exec
  refine issue_vec ha rfl (ok := fun s => s.ty != 15) ne_15_of_mem (fun l _ => ?_) hacc hf
  simp only [s.opnd_narrow_toNat _ _ (s.narrow_of_mem hacc.1 (by decide))]

theorem exec_vshuf (hty : s.ty ≠ 15) (hf : s.free { sv := [a.toNat, b.toNat], dv := [d.toNat], cross := true }) :
    exec (.vshuf e d a b) s = .next ((s.putLanes d.toNat false fun l =>
      (s.crossGet s.cur a.toNat ((s.vget s.cur b.toNat l).toNat % 32)).setWidth 64).advance e) := by
  unfold exec execVshuf
  simp only [issue_valid _ ha.1, if_neg hty]
  exact congrArg _ (State.form_free e _ _ ha hf)

theorem exec_vbcast {r : BitVec 5} (hw : s.wide = true → d.toNat % 2 = 0) (hf : s.free { ss := [r.toNat], dv := regs s.wide d.toNat }) :
    exec (.vbcast e d r) s = .next ((s.putLanes d.toNat s.wide fun _ => s.sget s.cur r.toNat).advance e) := by
  unfold exec execVbcast
  simp only [issue_valid _ ha.1, s.wide_and_odd hw, Bool.false_eq_true, if_false]
  exact congrArg _ (State.form_free e _ _ ha hf)

theorem exec_vext {r n : BitVec 5} (hw : s.wide = true → a.toNat % 2 = 0)
    (hf : s.free { sv := regs s.wide a.toNat, ds := [r.toNat], cross := true }) :
    exec (.vext e r a n) s = .next ((if s.guard s.cur = 0 then s else s.sset s.cur r.toNat
      (if s.wide then pair64 (s.crossGet s.cur (a.toNat + 1) n.toNat) (s.crossGet s.cur a.toNat n.toNat)
        else (s.crossGet s.cur a.toNat n.toNat).setWidth 64)).advance e) := by
  unfold exec execVext
  simp only [issue_valid _ ha.1, s.wide_and_odd hw, Bool.false_eq_true, if_false]
  exact congrArg _ (State.form_free e _ _ ha hf)

theorem exec_vpackb {r : BitVec 5} (hty : s.ty < 8) (hf : s.free { sv := [a.toNat], ds := [r.toNat] }) :
    exec (.vpackb e r a) s = .next ((if s.guard s.cur = 0 then s else s.sset s.cur r.toNat (s.packBits a.toNat)).advance e) := by
  unfold exec execVpackb
  simp only [issue_valid _ ha.1, if_neg (show ¬ 7 < s.ty by omega)]
  exact congrArg _ (State.form_free e _ _ ha hf)

theorem vecGives_scans {o : BitVec 3} {step : Word64 → Word64 → Word64}
    (hstep : s.ty ≠ 15 → ∀ p q, mapEl s.ty (fun p q _ => scanOp s.ty s.sat o.toNat p q) p q 0 = step p q) :
    VecGives s e (.vscan e d a o) typesI d.toNat [a.toNat] (fun l => s.scanUpTo a.toNat l step)
    ∧ VecGives s e (.vreduce e d a o) typesI d.toNat [a.toNat] (fun _ => s.scanUpTo a.toNat 31 step) := by
  have hne (hty : typesI.contains s.ty = true) : s.ty ≠ 15 := beq_eq_false_iff_ne.mp (s.narrow_of_mem hty (by decide))
  constructor
  all_goals
    intro hacc hf
    unfold exec
  · exact issue_vec ha rfl id (fun l hl => s.afind_scan (hstep (hne hacc.1)) _ hl) hacc hf
  · refine issue_vec ha rfl id (fun l _ => Eq.trans ?_ (s.getLast_scan (hstep (hne hacc.1)) _)) hacc hf
    cases (s.scan a.toNat o.toNat).getLast? <;> rfl

end Forms

/-- Settles O6, form by form. -/
theorem permuteResults : Obligations.PermuteResults := by
  intro s e d a b r n o ha
  refine ⟨?_, fun f hv => ?_, fun f hv => ?_, fun hty hf => ?_, exec_vbcast ha, fun hw hf => ⟨fun hg => ?_, fun hg => ?_⟩,
    fun hty hf => ⟨fun hg => ?_, fun hg v hv => ?_⟩, fun step h0 h1 h2 h3 h4 h5 ho => ?_⟩
  · have h := vecGives_vbfe (e := e) (d := d) (a := a) (b := b) ha
    simp only [bfe_eq, beq_iff_eq] at h
    exact h
  · have hf : f = _ := funext fun l => (ofNat_eq_of_bits (hv l).1 (bfi_lt _ _ _) fun i hi =>
      ((hv l).2 i hi).trans (testBit_bfi _ _ _ hi).symm).symm
    rw [hf]
    exact vecGives_vbfi ha
  · have hf : f = _ := funext fun l => (ofNat_eq_of_bytes (hv l).1 (prmt_lt _ _ _) fun i hi =>
      ((hv l).2 i hi).trans ((prmt_byte _ _ _ hi).trans (prmtByte_eq _ _)).symm).symm
    rw [hf]
    exact vecGives_vprmt ha
  · have hw : s.wide = false := beq_eq_false_iff_ne.mpr hty
    refine (exec_vshuf ha hty hf).trans ?_
    dsimp only
    rw [hw]
    rfl
  · rw [exec_vext ha hw hf, if_pos hg]
  · refine (exec_vext ha hw hf).trans ?_
    rw [if_neg hg]
    rfl
  · rw [exec_vpackb ha hty hf, if_pos hg]
  · obtain ⟨hn, hw, hwide⟩ := State.halfWords_of_lt hty
    refine (exec_vpackb ha hty hf).trans ?_
    rw [if_neg hg, State.packBits_eq hn hw hwide hv]
  · exact vecGives_scans ha fun ht => mapEl_scanOp ht ho h0 h1 h2 h3 h4 h5

end Sys2Proof.Machine
end

section
/-! PROOF of O9, and of the forms of O8. Every form of majors 0x12 to 0x16 is a `State.vecFl`, which writes its function's words and
flags for the guard lanes (`issue_vecFl`); those of class F act element by element (`floatGives_fform`), the conversions on groups of
registers (`issue_convert`). -/
namespace Sys2Proof.Machine

/-! ## Flagged forms -/

/-- A form that sets flags writes what its function gives the guard lanes. -/
theorem State.putFloat_congr {s : State} (ds : List Nat) {f g : Nat → List Word32 × Flags} (h : ∀ l, f l = g l) :
    s.putFloat ds f = s.putFloat ds g := by rw [funext h]

/-- A flagged form of an accepted type, its registers free, gives each guard lane the words and flags of its function. -/
theorem issue_vecFl {s : State} {x : Out} {e : Bool} {ok : State → Bool} {srcs ds : List Nat}
    {f : State → State → Nat → List Word32 × Flags} {g : Nat → List Word32 × Flags} (ha : s.acts)
    (hx : x = issue s fun s => s.vecFl e (ok s) srcs ds (f s)) (hok : ok s = true) (hv : ∀ l, f s s l = g l)
    (hf : s.free { sv := srcs, dv := ds }) : x = .next ((s.putFloat ds g).advance e) := by
  rw [hx, issue_valid _ ha.1, hok, State.vecFl_free e srcs ds (f s) ha hf, ← State.putFloat_congr ds hv]
  rfl

theorem clsF_of_mem {t : Nat} (h : typesF.contains t = true) : clsF t = true := by
  simpa [clsF, typesF, or_assoc] using h

/-- The elements of a class F type fill its registers. -/
theorem elW_eq_width_of_mem {t : Nat} (h : typesF.contains t = true) : ((fmtOf t).getD .fp32).width = elW t := by
  have h3 : t = 3 ∨ t = 6 ∨ t = 7 := by simpa [typesF] using h
  rcases h3 with rfl | rfl | rfl <;> rfl

/-- A form of class F gives each guard lane the elements of its function. -/
theorem floatGives_fform {s : State} {e : Bool} {i : Instr} {d : BitVec 6} (srcs : List (BitVec 6)) {f : FCtx → List Nat → FRes}
    {g : Nat → Nat → FRes} (ha : s.acts) (hi : exec i s = issue s fun s => s.fform e d srcs f)
    (hv : typesF.contains s.ty = true →
      ∀ l j, f s.fctx (srcs.map fun r => el (elW s.ty) ((s.vget s.cur r.toNat l).setWidth 64) j) = g l j) :
    FloatGives s e i typesF [d.toNat] (srcs.map BitVec.toNat) fun l => mapFl s.ty (g l) := by
  intro hty hf
  exact issue_vecFl ha hi (ok := fun s => clsF s.ty) (clsF_of_mem hty) (fun l => congrArg _ (funext (hv hty l))) hf

/-- Inverting the top bit of a code. -/
theorem Fmt.flip_eq (f : Fmt) {p : Nat} (h : p < 2 ^ f.width) :
    f.flip p = if p < 2 ^ (f.width - 1) then p + 2 ^ (f.width - 1) else p - 2 ^ (f.width - 1) := by
  have hw : f.width - 1 + 1 = f.width := by cases f <;> rfl
  rw [← hw] at h
  have htwo := Nat.pow_succ 2 (f.width - 1)
  rw [Fmt.flip, Fmt.put, Fmt.neg, Fmt.mag, testBit_top h]
  by_cases hp : 2 ^ (f.width - 1) ≤ p
  · rw [decide_eq_true hp, if_neg (show ¬ p < 2 ^ (f.width - 1) by omega), Nat.mod_eq_sub_mod hp, Nat.mod_eq_of_lt (by omega)]
    rfl
  · rw [decide_eq_false hp, if_pos (show p < 2 ^ (f.width - 1) by omega), Nat.mod_eq_of_lt (by omega)]
    rfl

/-- The forms of majors 0x12 to 0x14, in the order of the statement. -/
theorem floatForms : Claims.FloatForms := by
  intro s e d a b ha
  exact ⟨
    -- FADD, FSUB, FMUL, FDIV, FMIN, FMAX, FSCALE
    floatGives_fform [a, b] ha rfl fun _ _ _ => rfl,
    floatGives_fform [a, b] ha rfl fun _ _ _ => rfl,
    floatGives_fform [a, b] ha rfl fun _ _ _ => rfl,
    floatGives_fform [a, b] ha rfl fun _ _ _ => rfl,
    floatGives_fform [a, b] ha rfl fun _ _ _ => rfl,
    floatGives_fform [a, b] ha rfl fun _ _ _ => rfl,
    floatGives_fform [a, b] ha rfl fun _ _ _ => rfl,
    -- FABS, FNEG
    floatGives_fform [a] ha rfl fun _ _ _ => rfl,
    floatGives_fform [a] ha rfl fun hty l j => congrArg (·, 0) (Fmt.flip_eq _ ((Nat.mod_lt _ (Nat.two_pow_pos _)).trans_eq
      (congrArg (2 ^ ·) (elW_eq_width_of_mem hty).symm))),
    -- FRCP, FRSQ, FSQRT, FEXP2, FLOG2, FSINP, FCOSP
    floatGives_fform [a] ha rfl fun _ _ _ => rfl,
    floatGives_fform [a] ha rfl fun _ _ _ => rfl,
    floatGives_fform [a] ha rfl fun _ _ _ => rfl,
    floatGives_fform [a] ha rfl fun _ _ _ => rfl,
    floatGives_fform [a] ha rfl fun _ _ _ => rfl,
    floatGives_fform [a] ha rfl fun _ _ _ => rfl,
    floatGives_fform [a] ha rfl fun _ _ _ => rfl,
    -- FMA, FMS, FNMA
    floatGives_fform [a, b, d] ha rfl fun _ _ _ => rfl,
    floatGives_fform [a, b, d] ha rfl fun _ _ _ => rfl,
    floatGives_fform [a, b, d] ha rfl fun _ _ _ => rfl⟩

/-! ## Dot products (R160, R161) -/

theorem fmtOf_getD_of_mem {t : Nat} (h : [6, 7, 10, 11, 14].contains t = true) : (fmtOf t).getD .fp16 = (fmtOf t).getD .fp32 := by
  have h5 : t = 6 ∨ t = 7 ∨ t = 10 ∨ t = 11 ∨ t = 14 := by simpa using h
  rcases h5 with rfl | rfl | rfl | rfl | rfl <;> rfl

/-! ## Conversions (R164) -/

/-- A packed value depends on its elements alone. -/
theorem packEl_congr {w n : Nat} {f g : Nat → Nat} (h : ∀ i < n, f i = g i) : packEl w n f = packEl w n g := by
  unfold packEl
  exact congrArg _ (List.foldl_ext _ _ 0 fun acc i hi => by rw [h i (List.mem_range.mp hi)])

/-- An element of a register of the destination group is one of those converted. -/
theorem getD_map_range {k n j i : Nat} (h : Nat → FRes) (hj : j < k / n) (hi : i < n) :
    (((List.range k).map h)[j * n + i]?.getD (0, 0)) = h (j * n + i) := by
  have hlt : j * n + i < k := calc
    j * n + i < (j + 1) * n := by rw [Nat.succ_mul]; omega
    _ ≤ k / n * n := Nat.mul_le_mul_right _ hj
    _ ≤ k := Nat.div_mul_le_self k n
  simp [hlt]

/-- A conversion of an accepted pair of types, whose groups end by v63, its registers free. -/
theorem issue_convert {s : State} {x : Out} {e ok : Bool} {d a : BitVec 6} {src : Nat} {okM : State → Bool}
    {f : State → State → Nat → FRes} {h : Nat → FRes} (ha : s.acts)
    (hx : x = issue s fun s => s.convert e (okM s) d a src s.ty (f s)) (hok : ok = true → okM s = true) (hv : ∀ v, f s s v = h v) :
    let k := max (elN src) (elN s.ty)
    let into := (List.range (k / elN s.ty)).map fun i => d.toNat + i
    let y (l i : Nat) := el (elW src) ((s.vget s.cur (a.toNat + i / elN src) l).setWidth 64) (i % elN src)
    ok = true → a.toNat + k / elN src ≤ 64 → d.toNat + k / elN s.ty ≤ 64 →
    s.free { sv := (List.range (k / elN src)).map fun i => a.toNat + i, dv := into } →
    x = .next ((s.putFloat into fun l =>
      ((List.range (k / elN s.ty)).map fun n => lo32 (packEl (elW s.ty) (elN s.ty) fun i => (h (y l (n * elN s.ty + i))).1),
        (List.range k).foldl (fun fl i => fl ||| (h (y l i)).2) 0)).advance e) := by
  intro k into y hacc hsrc hdst hf
  have hgroup : (!okM s || decide (64 < a.toNat + spanOf src s.ty src) || decide (64 < d.toNat + spanOf src s.ty s.ty)) = false := by
    rw [hok hacc, spanOf, spanOf, decide_eq_false (Nat.not_lt.mpr hsrc), decide_eq_false (Nat.not_lt.mpr hdst)]
    rfl
  rw [hx, issue_valid _ ha.1, State.convert]
  simp only [hgroup, Bool.false_eq_true, if_false]
  refine congrArg _ ((State.vecFl_free e _ _ _ ha hf).trans (congrArg (State.advance · e) (State.putFloat_congr into fun l => ?_)))
  refine Prod.ext (List.map_congr_left fun n hn => congrArg _ (packEl_congr fun i hi => ?_)) ?_
  · refine (congrArg Prod.fst (getD_map_range _ (List.mem_range.mp hn) hi)).trans ?_
    rw [hv]
  · rw [List.foldl_map]
    simp only [hv]
    rfl

/-- SAT acts in conversions into FP16, BF16 and F8B (R146). -/
theorem State.cvtCtx_eq (s : State) (t : Nat) : s.cvtCtx t =
    { f := (fmtOf t).getD .fp32, mode := s.rnd, sat := s.sat && [6, 7, 11].contains t, ftz := s.ftz } := by
  simp only [State.cvtCtx, satCvt, List.contains_cons, List.contains_nil, Bool.or_false, Bool.or_assoc]

theorem classType_of_mem {src dst : Nat}
    (h : [(3, 2), (6, 5), (7, 5), (10, 9), (11, 9), (14, 13)].contains (src, dst) = true) :
    (clsCvtF src && dst == classType src) = true := by
  have h6 : (src, dst) ∈ [(3, 2), (6, 5), (7, 5), (10, 9), (11, 9), (14, 13)] := by simpa using h
  fin_cases h6 <;> rfl

theorem beq_and_clsF_of_mem {src dst : Nat} (h : (src == dst && typesF.contains dst) = true) : (src == dst && clsF dst) = true := by
  obtain ⟨heq, hmem⟩ := (Bool.and_eq_true _ _).mp h
  rw [heq, clsF_of_mem hmem]
  rfl

/-- Settles O9, form by form: a conversion gives the elements of its groups (`issue_convert`), a dot product one word. -/
theorem dotAndConversionResults : Obligations.DotAndConversionResults := by
  intro s e d a b t ha
  dsimp only [exec, execFcvt, execFrnd, execFclass, execF2i, execI2f]
  refine ⟨?_, ?_, ?_, ?_, ?_, fun hty hf => ?_, fun hty hf => ?_⟩
  -- FCVT, FRND, FCLASS, F2I, I2F
  · exact issue_convert (h := FCtx.cvt _ _) ha rfl (fun h => h) fun v => congrArg (FCtx.cvt · _ v) (s.cvtCtx_eq s.ty)
  · exact issue_convert (h := s.fctx.rnd) ha rfl beq_and_clsF_of_mem fun _ => rfl
  · exact issue_convert (h := fun v => (fclass _ v, 0)) ha rfl classType_of_mem fun _ => rfl
  · exact issue_convert (h := toInt _ s.rnd s.ftz s.ty) ha rfl (fun h => h) fun _ => rfl
  · exact issue_convert (h := fun v => FCtx.ofInt _ (elInt _ _ v)) ha rfl (fun h => h) fun v =>
      congrArg (FCtx.ofInt · _) (s.cvtCtx_eq s.ty)
  -- IDOT, FDOT
  · have hw : s.wide = false := s.narrow_of_mem hty (by decide)
    unfold exec execIdot
    refine issue_vecFl (ok := fun s => [4, 5, 8, 9, 12, 13].contains s.ty) ha rfl hty (fun l => ?_) hf
    rw [idot, fitEl, ofNat_wrapTo, s.opnd_narrow_toNat _ _ hw, s.opnd_narrow _ _ hw, s.opnd_narrow _ _ hw]
    rfl
  · have hw : s.wide = false := s.narrow_of_mem hty (by decide)
    unfold exec execFdot
    refine issue_vecFl (ok := fun s => [6, 7, 10, 11, 14].contains s.ty) ha rfl hty (fun l => ?_) hf
    simp only [s.opnd_narrow _ _ hw, fmtOf_getD_of_mem hty]

end Sys2Proof.Machine
end

section
/-! PROOF of O8, rounding (R145-R149). A positive value lies in a cell between two neighbours of the grid of its format (`Fmt.Cell`), and
where it lies in its cell, counted in steps of the row, decides what `roundTo` gives (`roundTo_cell`). `Rounds` asks where a
value lies by comparing it with places of the grid and points between them; `rounds_roundTo` brings the two together. A root and a
clamped scale are rounded through a value that compares alike at all those points (`AgreesWith`). -/
namespace Sys2Proof.Machine

/-! ## Comparisons -/

theorem compare_congr {α β : Type} [LinearOrder α] [LinearOrder β] {a b : α} {c d : β} (hlt : a < b ↔ c < d) (hgt : b < a ↔ d < c) :
    compare a b = compare c d := by
  rcases lt_trichotomy a b with h | h | h
  · rw [compare_lt_iff_lt.mpr h, compare_lt_iff_lt.mpr (hlt.mp h)]
  · have hc : c = d := le_antisymm (not_lt.mp fun hd => (hgt.mpr hd).ne' h) (not_lt.mp fun hc => (hlt.mpr hc).ne h)
    rw [compare_eq_iff_eq.mpr h, compare_eq_iff_eq.mpr hc]
  · rw [compare_gt_iff_gt.mpr h, compare_gt_iff_gt.mpr (hgt.mp h)]

theorem compare_div_left {a b c : ℚ} (hc : 0 < c) : compare (a / c) b = compare a (b * c) :=
  compare_congr (div_lt_iff₀ hc) (lt_div_iff₀ hc)

/-- The order of n/d and p/q. -/
theorem ratio_eq_compare {n d p q : ℕ} (hd : 0 < d) (hq : 0 < q) : ratio n d p q = compare (n / d : ℚ) (p / q) := by
  have hd' : (0 : ℚ) < d := Nat.cast_pos.mpr hd
  have hq' : (0 : ℚ) < q := Nat.cast_pos.mpr hq
  refine compare_congr ?_ ?_
  · rw [div_lt_div_iff₀ hd' hq']
    exact_mod_cast Iff.rfl
  · rw [div_lt_div_iff₀ hq' hd']
    exact_mod_cast Iff.rfl

/-! ## The neighbour that a mode chooses (R145) -/

/-- Whether a mode takes the greater magnitude of every inexact value of a sign. -/
def awayFrom (mode : ℕ) (neg : Bool) : Bool := (mode == 2 && !neg) || (mode == 3 && neg)

/-- Whether the greater magnitude is taken of an inexact value, by its order to the midpoint and the parity of the lesser neighbour. -/
def takesUp (mode : ℕ) (neg odd : Bool) (mid : Ordering) : Bool :=
  awayFrom mode neg || (mode == 0 && (mid == .gt || (mid == .eq && odd))) || (mode == 4 && mid != .lt)

theorem roundsUp_eq (mode : ℕ) (neg : Bool) (k : ℕ) {r : ℕ} (d : ℕ) (hr : r ≠ 0) :
    roundsUp mode neg k r d = takesUp mode neg (k % 2 == 1) (compare (2 * r) d) := by
  have hgt : decide (2 * r > d) = (compare (2 * r) d == .gt) := by
    rw [Bool.eq_iff_iff, decide_eq_true_iff, beq_iff_eq, compare_gt_iff_gt]
  have heq : decide (2 * r = d) = (compare (2 * r) d == .eq) := by
    rw [Bool.eq_iff_iff, decide_eq_true_iff, beq_iff_eq, compare_eq_iff_eq]
  have hge : decide (2 * r ≥ d) = (compare (2 * r) d != .lt) := by
    rw [Bool.eq_iff_iff, decide_eq_true_iff, bne_iff_ne, ne_eq, compare_lt_iff_lt, not_lt]
  unfold roundsUp
  rw [if_neg hr, hgt, heq, hge]
  match mode with
  | 0 | 1 | 2 | 3 | 4 | _ + 5 => simp [takesUp, awayFrom]

/-- The integer to which t is rounded, its integer part being k. -/
def roundStep (mode : ℕ) (neg : Bool) (k : ℕ) (t : ℚ) : ℕ :=
  if t ≠ k ∧ takesUp mode neg (k % 2 == 1) (compare t (k + 1 / 2)) = true then k + 1 else k

theorem le_roundStep (mode : ℕ) (neg : Bool) (k : ℕ) (t : ℚ) : k ≤ roundStep mode neg k t := by
  unfold roundStep
  split <;> omega

theorem roundStep_le (mode : ℕ) (neg : Bool) (k : ℕ) (t : ℚ) : roundStep mode neg k t ≤ k + 1 := by
  unfold roundStep
  split <;> omega

/-- A quotient rounded, from its integer part. -/
theorem roundDiv_eq (mode : ℕ) (neg : Bool) {n d k : ℕ} (hd : 0 < d) (hk : (k : ℚ) ≤ n / d) (hk' : (n / d : ℚ) < k + 1) :
    (if roundsUp mode neg (n / d) (n % d) d then n / d + 1 else n / d, decide (n % d ≠ 0))
      = (roundStep mode neg k (n / d), decide ((n / d : ℚ) ≠ k)) := by
  have hd' : (0 : ℚ) < d := Nat.cast_pos.mpr hd
  have hdiv : n / d = k := by
    refine Nat.div_eq_of_lt_le ?_ ?_
    · exact_mod_cast (le_div_iff₀ hd').mp hk
    · exact_mod_cast (div_lt_iff₀ hd').mp hk'
  have hmod : ((n % d : ℕ) : ℚ) = n - k * d := by
    have h := Nat.div_add_mod n d
    rw [hdiv] at h
    rw [eq_sub_iff_add_eq]
    exact_mod_cast (by linarith [h, Nat.mul_comm d k] : n % d + k * d = n)
  have hzero : n % d = 0 ↔ (n / d : ℚ) = k := by
    rw [div_eq_iff hd'.ne', ← sub_eq_zero (a := (n : ℚ)), ← hmod, Nat.cast_eq_zero]
  have hmid : compare (2 * (n % d)) d = compare (n / d : ℚ) (k + 1 / 2) := by
    rw [compare_div_left hd']
    have hl : ((2 * (n % d) : ℕ) : ℚ) = 2 * (n - k * d) := by rw [Nat.cast_mul, hmod]; rfl
    refine compare_congr ?_ ?_
    · rw [← Nat.cast_lt (α := ℚ), hl]
      constructor <;> intro h <;> linarith
    · rw [← Nat.cast_lt (α := ℚ), hl]
      constructor <;> intro h <;> linarith
  rw [hdiv]
  by_cases h0 : n % d = 0
  · simp [roundStep, h0, hzero.mp h0, roundsUp]
  · have hne := mt hzero.mpr h0
    rw [roundsUp_eq mode neg k d h0, hmid]
    simp [roundStep, h0, hne]

/-- n / d / 2^u rounded, from its integer part. -/
theorem roundQ_eq (mode : ℕ) (neg : Bool) {n d k : ℕ} {u : ℤ} {t : ℚ} (hd : 0 < d) (ht : t = n / d / 2 ^ u) (hk : (k : ℚ) ≤ t)
    (hk' : t < k + 1) : roundQ mode neg n d u = (roundStep mode neg k t, decide (t ≠ k)) := by
  have hscale : ((if u < 0 then n * 2 ^ u.natAbs else n : ℕ) : ℚ) / ((if u < 0 then d else d * 2 ^ u.natAbs : ℕ) : ℚ) = t := by
    rw [ht]
    obtain ⟨m, rfl | rfl⟩ := u.eq_nat_or_neg
    · rw [if_neg (by omega), if_neg (by omega)]
      simp [div_div]
    · rcases m.eq_zero_or_pos with rfl | hm
      · simp
      · rw [if_pos (by omega), if_pos (by omega)]
        simp [div_mul_eq_mul_div]
  have hd' : 0 < if u < 0 then d else d * 2 ^ u.natAbs := by split <;> positivity
  rw [roundQ, roundDiv_eq mode neg hd' (hscale ▸ hk) (hscale ▸ hk'), hscale]

/-! ## Exponents -/

theorem cast_zpow_two (n : ℕ) : ((2 : ℕ) : ℚ) ^ (n : ℤ) = ((2 ^ n : ℕ) : ℚ) := by
  rw [zpow_natCast, Nat.cast_pow]

/-- A quotient of k by d reaches a power of two when its scaled parts do. -/
theorem scaled_le_iff {n d : ℕ} (hd : 0 < d) (e : ℤ) :
    (if e < 0 then decide (n * 2 ^ e.natAbs ≥ d) else decide (n ≥ d * 2 ^ e.natAbs)) = decide ((2 : ℚ) ^ e ≤ n / d) := by
  have hd' : (0 : ℚ) < d := Nat.cast_pos.mpr hd
  have hp (m : ℕ) : (0 : ℚ) < 2 ^ m := by positivity
  obtain ⟨m, rfl | rfl⟩ := e.eq_nat_or_neg
  · rw [if_neg (by omega), decide_eq_decide, le_div_iff₀ hd', zpow_natCast, Int.natAbs_natCast, mul_comm]
    exact_mod_cast Iff.rfl
  · have h : d ≤ n * 2 ^ m ↔ (2 : ℚ) ^ (-(m : ℤ)) ≤ n / d := by
      rw [le_div_iff₀ hd', zpow_neg, zpow_natCast, inv_mul_le_iff₀ (hp m), mul_comm ((2 : ℚ) ^ m)]
      exact_mod_cast Iff.rfl
    rw [← decide_eq_decide.mpr h]
    rcases m.eq_zero_or_pos with rfl | hm
    · simp
    · rw [if_pos (by omega), Int.natAbs_neg, Int.natAbs_natCast]

/-- The exponent of a quotient is its binary logarithm. -/
theorem expOf_eq_log {n d : ℕ} (hn : 0 < n) (hd : 0 < d) : expOf n d = Int.log 2 (n / d : ℚ) := by
  have hd' : (0 : ℚ) < d := Nat.cast_pos.mpr hd
  have hv : (0 : ℚ) < n / d := div_pos (Nat.cast_pos.mpr hn) hd'
  have hlog (e : ℤ) : (2 : ℚ) ^ e ≤ n / d ↔ e ≤ Int.log 2 (n / d : ℚ) := Int.zpow_le_iff_le_log one_lt_two hv
  have hlow : (Nat.log2 n : ℤ) - Nat.log2 d - 1 ≤ Int.log 2 (n / d : ℚ) := by
    rw [← hlog, show (Nat.log2 n : ℤ) - Nat.log2 d - 1 = Nat.log2 n - (Nat.log2 d + 1 : ℕ) by omega, zpow_sub₀ two_ne_zero,
      zpow_natCast, zpow_natCast]
    refine div_le_div₀ (Nat.cast_nonneg n) ?_ hd' ?_
    · exact_mod_cast Nat.log2_self_le hn.ne'
    · exact_mod_cast Nat.lt_log2_self.le
  have hhigh : Int.log 2 (n / d : ℚ) < (Nat.log2 n : ℤ) - Nat.log2 d + 1 := by
    refine not_le.mp fun h => ?_
    rw [← hlog, show (Nat.log2 n : ℤ) - Nat.log2 d + 1 = (Nat.log2 n + 1 : ℕ) - Nat.log2 d by omega, zpow_sub₀ two_ne_zero,
      zpow_natCast, zpow_natCast] at h
    refine absurd h (not_le.mpr ?_)
    refine div_lt_div₀ ?_ ?_ (by positivity) (by positivity)
    · exact_mod_cast Nat.lt_log2_self
    · exact_mod_cast Nat.log2_self_le hd.ne'
  rw [expOf, scaled_le_iff hd, decide_eq_decide.mpr (hlog _)]
  by_cases h : (Nat.log2 n : ℤ) - Nat.log2 d ≤ Int.log 2 (n / d : ℚ)
  · rw [decide_eq_true h, if_pos rfl]
    omega
  · rw [decide_eq_false h, if_neg Bool.false_ne_true]
    omega

/-! ## Binades -/

/-- The step between neighbours in row j of a format: row 0 holds the subnormals and the first binade of normals, and each further row
one binade. -/
def Fmt.step (f : Fmt) (j : ℕ) : ℚ := 2 ^ ((j : ℤ) + 1 - f.bias - f.mb)

theorem Fmt.step_pos (f : Fmt) (j : ℕ) : 0 < f.step j := zpow_pos two_pos _

theorem Fmt.step_mul (f : Fmt) (j : ℕ) : f.step j * 2 ^ f.mb = 2 ^ ((j : ℤ) + 1 - f.bias) := by
  rw [Fmt.step, ← zpow_natCast, ← zpow_add₀ two_ne_zero]
  congr 1
  omega

/-- A place of the grid: number k in row j, which is the magnitude j·2^mb + k. -/
structure Fmt.GridPlace (f : Fmt) (j k : ℕ) : Prop where
  normal : j = 0 ∨ 2 ^ f.mb ≤ k
  inRow : k < 2 ^ (f.mb + 1)

/-- A value lies at a place, or between it and the next. -/
structure Fmt.Cell (f : Fmt) (v : ℚ) (j k : ℕ) : Prop extends f.GridPlace j k where
  lower : k ≤ v / f.step j
  upper : v / f.step j < k + 1

theorem Fmt.GridPlace.of_mag (f : Fmt) (m : ℕ) : ∃ j k, m = j * 2 ^ f.mb + k ∧ f.GridPlace j k := by
  have hlt := Nat.mod_lt m (Nat.two_pow_pos f.mb)
  have hm := Nat.div_add_mod m (2 ^ f.mb)
  have hp := Nat.pow_succ 2 f.mb
  cases hq : m / 2 ^ f.mb with
  | zero =>
    rw [hq] at hm
    exact ⟨0, m, by omega, .inl rfl, by omega⟩
  | succ j =>
    rw [hq, Nat.mul_succ, Nat.mul_comm] at hm
    exact ⟨j, 2 ^ f.mb + m % 2 ^ f.mb, by omega, .inr (by omega), by omega⟩

/-- The exponent that a value is rounded at is that of its row. -/
theorem Fmt.Cell.exponent {f : Fmt} {v : ℚ} {j k : ℕ} (h : f.Cell v j k) (hv : 0 < v) :
    (if Int.log 2 v < 1 - (f.bias : ℤ) then 1 - (f.bias : ℤ) else Int.log 2 v) = j + 1 - f.bias
    ∧ (Int.log 2 v < 1 - (f.bias : ℤ) ↔ j = 0 ∧ k < 2 ^ f.mb) := by
  have hs := f.step_pos j
  have hlog {x : ℤ} : Int.log 2 v < x ↔ v < 2 ^ x := (Int.lt_zpow_iff_log_lt one_lt_two hv).symm
  have hupper : Int.log 2 v < (j : ℤ) + 1 - f.bias + 1 := by
    rw [hlog, zpow_add_one₀ two_ne_zero, ← f.step_mul j]
    have hk : ((k + 1 : ℕ) : ℚ) ≤ (2 ^ (f.mb + 1) : ℕ) := Nat.cast_le.mpr h.inRow
    push_cast at hk
    calc v < (k + 1) * f.step j := (div_lt_iff₀ hs).mp h.upper
      _ ≤ 2 ^ (f.mb + 1) * f.step j := by gcongr
      _ = f.step j * 2 ^ f.mb * 2 := by ring
  have hrow : Int.log 2 v < (j : ℤ) + 1 - f.bias ↔ k < 2 ^ f.mb := by
    rw [hlog, ← f.step_mul j, mul_comm, ← div_lt_iff₀ hs]
    constructor
    · intro hlt
      exact_mod_cast h.lower.trans_lt hlt
    · intro hlt
      refine h.upper.trans_le ?_
      exact_mod_cast hlt
  rcases h.normal with rfl | hk
  · refine ⟨?_, ?_⟩
    · split <;> omega
    · rw [show 1 - (f.bias : ℤ) = (0 : ℕ) + 1 - f.bias by omega, hrow]
      simp
  · have hge := mt hrow.mp (by omega)
    refine ⟨?_, ?_⟩
    · split <;> omega
    · constructor <;> intro _ <;> omega

/-- Every value lies in a cell. -/
theorem Fmt.Cell.exists (f : Fmt) {v : ℚ} (hv : 0 < v) : ∃ j k, f.Cell v j k := by
  obtain ⟨j, hj⟩ : ∃ j : ℕ, max (Int.log 2 v) (1 - (f.bias : ℤ)) = j + 1 - f.bias :=
    ⟨(max (Int.log 2 v) (1 - (f.bias : ℤ)) + f.bias - 1).toNat, by omega⟩
  have hs := f.step_pos j
  have hq : 0 ≤ v / f.step j := (div_pos hv hs).le
  refine ⟨j, ⌊v / f.step j⌋₊, ⟨?_, ?_⟩, Nat.floor_le hq, Nat.lt_floor_add_one _⟩
  · rcases j.eq_zero_or_pos with h0 | hpos
    · exact .inl h0
    · refine .inr (Nat.le_floor ?_)
      rw [le_div_iff₀ hs, Nat.cast_pow, mul_comm]
      exact (f.step_mul j).trans_le ((Int.zpow_le_iff_le_log one_lt_two hv).mpr (by omega))
  · rw [Nat.floor_lt hq, div_lt_iff₀ hs, Nat.cast_pow, pow_succ]
    have h := (Int.lt_zpow_iff_log_lt one_lt_two hv).mpr (show Int.log 2 v < (j : ℤ) + 1 - f.bias + 1 by omega)
    rw [zpow_add_one₀ (by norm_num), Nat.cast_ofNat, ← f.step_mul j] at h
    calc v < f.step j * 2 ^ f.mb * 2 := h
      _ = 2 ^ f.mb * 2 * f.step j := by ring

/-! ## Rounding (R145-R149) -/

/-- What is delivered of a magnitude rounded to, inexact or not, tiny or not (R146-R149). -/
def Fmt.deliver (f : Fmt) (mode : ℕ) (sat ftz neg : Bool) (m : ℕ) (inexact tiny : Bool) : FRes :=
  if m > f.maxFin then overflow f mode sat neg
  else if ftz && decide (m < 2 ^ f.mb) then (f.put neg 0, flUF ||| flNX)
  else (f.put neg m, (if inexact then flNX else 0) ||| (if tiny && inexact then flUF else 0))

/-- Whether a value, rounded with an unbounded exponent, stays below the smallest normal (R148). -/
def Fmt.tiny (f : Fmt) (mode : ℕ) (neg : Bool) (n d : ℕ) : Bool :=
  let e := expOf n d
  decide (e < 1 - (f.bias : ℤ))
    && !(decide (e = 1 - (f.bias : ℤ) - 1) && decide ((roundQ mode neg n d (e - f.mb)).1 = 2 ^ (f.mb + 1)))

/-- A value is rounded to a neighbour in its row. -/
theorem roundTo_cell {f : Fmt} {n d j k : ℕ} (mode : ℕ) (sat ftz neg : Bool) (hn : 0 < n) (hd : 0 < d) (h : f.Cell (n / d : ℚ) j k) :
    roundTo f mode sat ftz neg n d = f.deliver mode sat ftz neg (j * 2 ^ f.mb + roundStep mode neg k (n / d / f.step j : ℚ))
      (decide ((n / d / f.step j : ℚ) ≠ k)) (f.tiny mode neg n d) := by
  have hv : (0 : ℚ) < n / d := div_pos (Nat.cast_pos.mpr hn) (Nat.cast_pos.mpr hd)
  obtain ⟨hexp, -⟩ := h.exponent hv
  have hq : roundQ mode neg n d ((j : ℤ) + 1 - f.bias - f.mb) = (roundStep mode neg k (n / d / f.step j : ℚ), _) :=
    roundQ_eq mode neg hd rfl h.lower h.upper
  rw [roundTo, if_neg hn.ne']
  dsimp only
  rw [expOf_eq_log hn hd, hexp, hq, show ((j : ℤ) + 1 - f.bias + f.bias - 1).toNat = j by omega, Fmt.deliver, Fmt.tiny, expOf_eq_log hn hd]

theorem roundStep_eq_succ_iff (mode : ℕ) (neg : Bool) (k : ℕ) (t : ℚ) :
    roundStep mode neg k t = k + 1 ↔ t ≠ k ∧ takesUp mode neg (k % 2 == 1) (compare t (k + 1 / 2)) = true := by
  unfold roundStep
  split
  · next h => exact iff_of_true rfl h
  · next h => exact iff_of_false (by omega) h

theorem takesUp_odd (mode : ℕ) (neg : Bool) (mid : Ordering) :
    takesUp mode neg true mid = (awayFrom mode neg || ((mode == 0 || mode == 4) && mid != .lt)) := by
  rw [takesUp, Bool.or_assoc, Bool.and_true, Bool.and_or_distrib_right]
  cases mid <;> rfl

/-- Whether an inexact value in the last cell below the normals reaches the smallest normal with an unbounded exponent, whose places
there are twice as dense. -/
def reachesNormal (mode : ℕ) (neg : Bool) (k : ℕ) (t : ℚ) : Bool :=
  (awayFrom mode neg && compare t (k + 1 / 2) == .gt) || ((mode == 0 || mode == 4) && compare t (k + 3 / 4) != .lt)

theorem compare_double (t c : ℚ) : compare (2 * t) (2 * c) = compare t c :=
  compare_congr (mul_lt_mul_iff_right₀ two_pos) (mul_lt_mul_iff_right₀ two_pos)

/-- Rounding in steps of one half: the next whole step is taken just in these cases. -/
theorem roundStep_double_eq_iff (mode : ℕ) (neg : Bool) {k i : ℕ} {t : ℚ} (hk' : t < k + 1) (hi : (i : ℚ) ≤ 2 * t)
    (hi' : 2 * t < i + 1) : roundStep mode neg i (2 * t) = 2 * k + 2 ↔ reachesNormal mode neg k t = true := by
  have hik : i < 2 * k + 2 := by
    have : (i : ℚ) < 2 * k + 2 := by linarith
    exact_mod_cast this
  by_cases hmid : t < k + 1 / 2
  · have hlt : i < 2 * k + 1 := by
      have : (i : ℚ) < 2 * k + 1 := by linarith
      exact_mod_cast this
    have hstep := roundStep_le mode neg i (2 * t)
    have hnot : reachesNormal mode neg k t = false := by
      rw [reachesNormal, compare_lt_iff_lt.mpr hmid, compare_lt_iff_lt.mpr (show t < k + 3 / 4 by linarith)]
      simp
    rw [hnot]
    constructor
    · omega
    · exact fun h => absurd h Bool.false_ne_true
  · have hi2 : i = 2 * k + 1 := by
      have : ((2 * k + 1 : ℕ) : ℚ) < (i + 1 : ℕ) := by push_cast; linarith
      have : 2 * k + 1 < i + 1 := by exact_mod_cast this
      omega
    subst hi2
    have hodd : ((2 * k + 1) % 2 == 1) = true := by rw [beq_iff_eq]; omega
    have hquarter : compare (2 * t) (((2 * k + 1 : ℕ) : ℚ) + 1 / 2) = compare t (k + 3 / 4) := by
      rw [← compare_double t]
      congr 1
      push_cast
      ring
    have hhalf : 2 * t ≠ ((2 * k + 1 : ℕ) : ℚ) ↔ compare t (k + 1 / 2) = .gt := by
      rw [compare_gt_iff_gt]
      push_cast
      constructor
      · intro hne
        exact lt_of_le_of_ne (not_lt.mp hmid) fun he => hne (by linarith)
      · intro hlt he
        linarith
    have himp : compare t (k + 3 / 4) ≠ .lt → compare t (k + 1 / 2) = .gt := by
      rw [compare_gt_iff_gt, ne_eq, compare_lt_iff_lt]
      intro h
      linarith
    rw [roundStep_eq_succ_iff, hodd, takesUp_odd, hquarter, hhalf, reachesNormal]
    simp only [Bool.or_eq_true, Bool.and_eq_true, beq_iff_eq, bne_iff_ne]
    tauto

/-- Below the normals the binade of a value has steps of half the row's. -/
theorem Fmt.roundQ_half {f : Fmt} {n d i : ℕ} (mode : ℕ) (neg : Bool) (hd : 0 < d)
    (he : Int.log 2 (n / d : ℚ) = 1 - (f.bias : ℤ) - 1) (hi : (i : ℚ) ≤ 2 * (n / d / f.step 0))
    (hi' : 2 * (n / d / f.step 0) < (i : ℚ) + 1) :
    (roundQ mode neg n d (Int.log 2 (n / d : ℚ) - f.mb)).1 = roundStep mode neg i (2 * (n / d / f.step 0)) := by
  have hs : f.step 0 = 2 ^ (Int.log 2 (n / d : ℚ) - (f.mb : ℤ)) * 2 := by
    rw [Fmt.step, he, ← zpow_add_one₀ two_ne_zero]
    congr 1
    omega
  have hu : 2 * (n / d / f.step 0) = n / d / 2 ^ (Int.log 2 (n / d : ℚ) - (f.mb : ℤ)) := by
    rw [hs]
    field_simp
  rw [roundQ_eq mode neg hd hu hi hi']

/-- The last cell below the normals lies in the binade below theirs. -/
theorem Fmt.Cell.log_of_last {f : Fmt} {v : ℚ} {k : ℕ} (hmb : 1 ≤ f.mb) (hv : 0 < v) (h : f.Cell v 0 k) (hk : k + 1 = 2 ^ f.mb) :
    Int.log 2 v = 1 - (f.bias : ℤ) - 1 := by
  have hhigh := (h.exponent hv).2.mpr ⟨rfl, by omega⟩
  have hlow : 1 - (f.bias : ℤ) - 1 ≤ Int.log 2 v := by
    refine (Int.zpow_le_iff_le_log one_lt_two hv).mp ?_
    have h2k : ((2 ^ f.mb : ℕ) : ℚ) ≤ (2 * k : ℕ) := Nat.cast_le.mpr (by have := Nat.pow_le_pow_right two_pos hmb; omega)
    have hpow : (2 : ℚ) ^ (1 - (f.bias : ℤ) - 1) * 2 = f.step 0 * 2 ^ f.mb := by
      rw [← zpow_add_one₀ two_ne_zero, f.step_mul]
      congr 1
      omega
    have hkv : k * f.step 0 ≤ v := (le_div_iff₀ (f.step_pos 0)).mp h.lower
    push_cast at h2k ⊢
    nlinarith [mul_le_mul_of_nonneg_left h2k (f.step_pos 0).le]
  omega

/-- R148: an inexact value is tiny when its greater neighbour is subnormal, or is the smallest normal and not reached. -/
theorem Fmt.Cell.tiny_eq {f : Fmt} {n d j k : ℕ} (mode : ℕ) (neg : Bool) (hmb : 1 ≤ f.mb) (hn : 0 < n) (hd : 0 < d)
    (h : f.Cell (n / d : ℚ) j k) : f.tiny mode neg n d = decide (j * 2 ^ f.mb + k + 1 < 2 ^ f.mb
      ∨ (j * 2 ^ f.mb + k + 1 = 2 ^ f.mb ∧ reachesNormal mode neg k (n / d / f.step j : ℚ) = false)) := by
  have hv : (0 : ℚ) < n / d := div_pos (Nat.cast_pos.mpr hn) (Nat.cast_pos.mpr hd)
  obtain ⟨-, hsub⟩ := h.exponent hv
  rw [Fmt.tiny, expOf_eq_log hn hd, Bool.eq_iff_iff, decide_eq_true_iff, Bool.and_eq_true, Bool.not_eq_true', Bool.and_eq_false_iff,
    decide_eq_true_iff, hsub, decide_eq_false_iff_not, decide_eq_false_iff_not]
  by_cases hj : j = 0 ∧ k < 2 ^ f.mb
  · obtain ⟨rfl, hk⟩ := hj
    obtain ⟨i, hi, hi'⟩ : ∃ i : ℕ, (i : ℚ) ≤ 2 * (n / d / f.step 0) ∧ 2 * (n / d / f.step 0 : ℚ) < i + 1 :=
      ⟨⌊2 * (n / d / f.step 0 : ℚ)⌋₊, Nat.floor_le (by have := (div_pos hv (f.step_pos 0)).le; positivity), Nat.lt_floor_add_one _⟩
    have hpow := Nat.pow_succ 2 f.mb
    rcases Nat.lt_or_eq_of_le (show k + 1 ≤ 2 ^ f.mb from hk) with hlt | heq
    · have hik : (i : ℚ) < 2 * k + 2 := by linarith [h.upper]
      have hik : i < 2 * k + 2 := by exact_mod_cast hik
      have hstep := roundStep_le mode neg i (2 * (n / d / f.step 0))
      have hround := Fmt.roundQ_half (f := f) (n := n) (i := i) mode neg hd
      refine iff_of_true ⟨⟨rfl, hk⟩, ?_⟩ (.inl (by omega))
      by_cases he : Int.log 2 (n / d : ℚ) = 1 - (f.bias : ℤ) - 1
      · exact .inr (by rw [hround he hi hi']; omega)
      · exact .inl he
    · have he := h.log_of_last hmb hv heq
      have hdouble := roundStep_double_eq_iff mode neg h.upper hi hi'
      rw [Fmt.roundQ_half mode neg hd he hi hi', show 2 ^ (f.mb + 1) = 2 * k + 2 by omega, hdouble, Bool.not_eq_true]
      simp only [he, hk, Nat.zero_mul, Nat.zero_add, heq, not_true, lt_self_iff_false, true_and, false_or]
  · refine iff_of_false (fun hn => hj hn.1) ?_
    rcases Nat.eq_zero_or_pos j with rfl | hpos
    · omega
    · have := Nat.le_mul_of_pos_left (2 ^ f.mb) hpos
      obtain h0 | hk := h.normal <;> omega

/-! ## Exact values (R141) -/

/-- The row of the largest finite value of a format with infinities. -/
def Fmt.topRow (f : Fmt) : ℕ := 2 ^ f.eb - 3

/-- What the three arithmetic formats have in common: each has infinities, and its largest finite magnitude is the last place of a row. -/
theorem Fmt.arith_facts {f : Fmt} (hf : f ∈ [Fmt.fp32, .fp16, .bf16]) :
    f.hasInf = true ∧ 1 ≤ f.mb ∧ f.maxFin + 1 < 2 ^ (f.width - 1)
    ∧ f.maxFin = f.topRow * 2 ^ f.mb + (2 ^ (f.mb + 1) - 1) := by
  simp only [List.mem_cons, List.not_mem_nil, or_false] at hf
  rcases hf with rfl | rfl | rfl <;> decide

theorem Fmt.bias_add_mb_le (f : Fmt) : f.bias + f.mb ≤ 150 := by
  cases f <;> decide

/-- The exact value of a place of the grid; the first place of the next row may be named as one beyond its row. -/
theorem Fmt.exact_grid {f : Fmt} {j k : ℕ} (hn : j = 0 ∨ 2 ^ f.mb ≤ k) (hk : k ≤ 2 ^ (f.mb + 1))
    (hm : j * 2 ^ f.mb + k < 2 ^ (f.width - 1)) : f.exact (j * 2 ^ f.mb + k) = k * 2 ^ (j + (150 - f.bias - f.mb)) := by
  have hb := f.bias_add_mb_le
  have hpos := Nat.two_pow_pos f.mb
  have hpow := Nat.pow_succ 2 f.mb
  rw [Fmt.exact, Fmt.mag, Nat.mod_eq_of_lt hm]
  generalize hB : 2 ^ f.mb = B at *
  have hdiv (c r : ℕ) (hr : r < B) (he : k = c * B + r) : (j * B + k) / B = j + c ∧ (j * B + k) % B = r := by
    have : j * B + k = r + (j + c) * B := by rw [he]; ring
    rw [this, Nat.add_mul_div_right _ _ hpos, Nat.add_mul_mod_self_right, Nat.div_eq_of_lt hr, Nat.mod_eq_of_lt hr, Nat.zero_add]
    exact ⟨rfl, rfl⟩
  rcases Nat.lt_or_ge k B with hlt | hge
  · obtain ⟨hq, hr⟩ := hdiv 0 k hlt (by omega)
    obtain rfl : j = 0 := hn.resolve_right (by omega)
    simp only [hq, hr]
    rw [if_pos trivial, if_pos trivial]
    congr 2
    omega
  rcases Nat.lt_or_ge k (2 * B) with hlt | hlast
  · obtain ⟨hq, hr⟩ := hdiv 1 (k - B) (by omega) (by omega)
    simp only [hq, hr]
    rw [if_neg (by omega), if_neg (by omega), Nat.sub_add_cancel hge]
    congr 2
    omega
  · obtain ⟨hq, hr⟩ := hdiv 2 0 hpos (by omega)
    simp only [hq, hr]
    rw [if_neg (by omega), if_neg (by omega), show j + 2 + 149 - f.bias - f.mb = j + (150 - f.bias - f.mb) + 1 by omega, Nat.pow_succ,
      show k = 2 * B by omega]
    ring

/-- The same in steps of the row. -/
theorem Fmt.exact_div {f : Fmt} {j k : ℕ} (hn : j = 0 ∨ 2 ^ f.mb ≤ k) (hk : k ≤ 2 ^ (f.mb + 1))
    (hm : j * 2 ^ f.mb + k < 2 ^ (f.width - 1)) : (f.exact (j * 2 ^ f.mb + k) : ℚ) = k * f.step j * 2 ^ 149 := by
  have hb := f.bias_add_mb_le
  have hpow : f.step j * 2 ^ 149 = ((2 ^ (j + (150 - f.bias - f.mb)) : ℕ) : ℚ) := by
    rw [Fmt.step, ← cast_zpow_two, ← zpow_natCast, Nat.cast_ofNat, ← zpow_add₀ two_ne_zero]
    congr 1
    omega
  rw [Fmt.exact_grid hn hk hm, mul_assoc, hpow, Nat.cast_mul]

theorem two_pow_le_four_pow {a m : ℕ} (h : m ≤ 2 * a) : 2 ^ m ≤ 4 ^ a := by
  rw [show (4 : ℕ) = 2 ^ 2 from rfl, ← Nat.pow_mul]
  exact Nat.pow_le_pow_right two_pos h

/-- Exact values keep clear of the bound below which comparisons with them are needed. -/
theorem Fmt.exact_lt (f : Fmt) (x : ℕ) : f.exact x < 4 ^ 140 := by
  have hrange : f.mb + 1 + (2 ^ f.eb + 149 - f.bias - f.mb) ≤ 280 := by cases f <;> decide
  have hrow : f.mag x / 2 ^ f.mb < 2 ^ f.eb := by
    refine Nat.div_lt_of_lt_mul ?_
    rw [← Nat.pow_add, Nat.add_comm]
    exact Nat.mod_lt _ (Nat.two_pow_pos _)
  have hnum : (if f.mag x / 2 ^ f.mb = 0 then f.mag x % 2 ^ f.mb else f.mag x % 2 ^ f.mb + 2 ^ f.mb) < 2 ^ (f.mb + 1) := by
    have := Nat.mod_lt (f.mag x) (Nat.two_pow_pos f.mb)
    have := Nat.pow_succ 2 f.mb
    split <;> omega
  refine (Nat.mul_lt_mul_of_pos_right hnum (Nat.two_pow_pos _)).trans_le ?_
  rw [← Nat.pow_add]
  refine two_pow_le_four_pow ?_
  have := Nat.one_le_two_pow (n := f.eb)
  split <;> omega

/-! ## Rounding as the statement describes it -/

/-- An order to dyadic numbers that is that of a quotient, as far as rounding asks. -/
def AgreesWith (value : ℕ → ℕ → Ordering) (v : ℚ) : Prop :=
  ∀ p s, p < 4 ^ 145 → s ≤ 151 → value p (2 ^ s) = compare v (p / 2 ^ s)

/-- The order to a place within a row, in steps of the row. -/
theorem AgreesWith.at_row {value : ℕ → ℕ → Ordering} {v c : ℚ} (h : AgreesWith value v) (f : Fmt) (j p s : ℕ) (hp : p < 4 ^ 145)
    (hs : s ≤ 151) (hc : (p : ℚ) = c * f.step j * 2 ^ s) : value p (2 ^ s) = compare (v / f.step j) c := by
  rw [h p s hp hs, compare_div_left (f.step_pos j), hc, mul_div_cancel_right₀ _ (by positivity)]

/-- The neighbours of a place, and the points between them that rounding asks about, in steps of the row. -/
theorem AgreesWith.at_place {value : ℕ → ℕ → Ordering} {v : ℚ} (h : AgreesWith value v) {f : Fmt} {j k : ℕ} (hp : f.GridPlace j k)
    (hm : j * 2 ^ f.mb + k + 1 < 2 ^ (f.width - 1)) :
    let m := j * 2 ^ f.mb + k
    value (f.exact m) (2 ^ 149) = compare (v / f.step j) k
    ∧ value (f.exact (m + 1)) (2 ^ 149) = compare (v / f.step j) (k + 1)
    ∧ value (f.exact m + f.exact (m + 1)) (2 ^ 150) = compare (v / f.step j) (k + 1 / 2)
    ∧ value (f.exact m + 3 * f.exact (m + 1)) (2 ^ 151) = compare (v / f.step j) (k + 3 / 4) := by
  intro m
  have hx : (f.exact m : ℚ) = k * f.step j * 2 ^ 149 := Fmt.exact_div hp.normal hp.inRow.le (by omega)
  have hy : (f.exact (m + 1) : ℚ) = (k + 1) * f.step j * 2 ^ 149 := by
    have := Fmt.exact_div (f := f) (j := j) (k := k + 1) (hp.normal.imp_right (·.trans (Nat.le_succ k))) hp.inRow hm
    rw [Nat.cast_succ] at this
    exact this
  have hlx := f.exact_lt m
  have hly := f.exact_lt (m + 1)
  refine ⟨h.at_row f j _ _ ?_ (by decide) hx, h.at_row f j _ _ ?_ (by decide) hy, h.at_row f j _ _ ?_ (by decide) ?_,
    h.at_row f j _ _ ?_ (by decide) ?_⟩
  · omega
  · omega
  · omega
  · push_cast [hx, hy]; ring
  · omega
  · push_cast [hx, hy]; ring

theorem Fmt.deliver_exact {f : Fmt} {m : ℕ} (mode : ℕ) (sat ftz neg tiny : Bool) (hm : m ≤ f.maxFin) :
    f.deliver mode sat ftz neg m false tiny = if ftz = true ∧ m < 2 ^ f.mb then (f.put neg 0, flUF ||| flNX) else (f.put neg m, 0) := by
  simp [Fmt.deliver, Nat.not_lt.mpr hm]

theorem Fmt.deliver_inexact {f : Fmt} {m : ℕ} (mode : ℕ) (sat ftz neg tiny : Bool) (hm : m ≤ f.maxFin) :
    f.deliver mode sat ftz neg m true tiny = if ftz = true ∧ m < 2 ^ f.mb then (f.put neg 0, flUF ||| flNX)
      else (f.put neg m, flNX ||| if tiny then flUF else 0) := by
  simp [Fmt.deliver, Nat.not_lt.mpr hm]

section Rounds
variable {f : Fmt} {n d : ℕ} (mode : ℕ) (ftz neg : Bool)

/-- A value of the format is kept, or flushed. -/
theorem roundTo_exact {j k : ℕ} (hn : 0 < n) (hd : 0 < d) (hp : f.GridPlace j k) (hm : j * 2 ^ f.mb + k ≤ f.maxFin)
    (ht : (n / d / f.step j : ℚ) = k) :
    roundTo f mode false ftz neg n d = if ftz = true ∧ 0 < j * 2 ^ f.mb + k ∧ j * 2 ^ f.mb + k < 2 ^ f.mb
      then (f.put neg 0, flUF ||| flNX) else (f.put neg (j * 2 ^ f.mb + k), 0) := by
  have hv : (0 : ℚ) < n / d / f.step j := div_pos (div_pos (Nat.cast_pos.mpr hn) (Nat.cast_pos.mpr hd)) (f.step_pos j)
  have hk : 0 < k := by
    rw [ht] at hv
    exact_mod_cast hv
  rw [roundTo_cell mode false ftz neg hn hd ⟨hp, ht.ge, by rw [ht]; exact lt_add_one _⟩, ht, roundStep, if_neg (fun h => h.1 rfl),
    decide_eq_false (fun h => h rfl), Fmt.deliver_exact _ _ _ _ _ hm]
  simp [hk]

/-- Between two neighbours the mode chooses. -/
theorem roundTo_between {j k : ℕ} (hmb : 1 ≤ f.mb) (hn : 0 < n) (hd : 0 < d) (hp : f.GridPlace j k) (hm : j * 2 ^ f.mb + k < f.maxFin)
    (hlow : (k : ℚ) < n / d / f.step j) (hhigh : (n / d / f.step j : ℚ) < k + 1) :
    let t : ℚ := n / d / f.step j
    let m := j * 2 ^ f.mb + k
    let r := if takesUp mode neg (m % 2 == 1) (compare t (k + 1 / 2)) then m + 1 else m
    roundTo f mode false ftz neg n d = if ftz = true ∧ r < 2 ^ f.mb then (f.put neg 0, flUF ||| flNX)
      else (f.put neg r, flNX ||| if m + 1 < 2 ^ f.mb ∨ (m + 1 = 2 ^ f.mb ∧ reachesNormal mode neg k t = false) then flUF else 0) := by
  intro t m r
  have hc : f.Cell (n / d : ℚ) j k := ⟨hp, hlow.le, hhigh⟩
  have hodd : m % 2 = k % 2 := by
    obtain ⟨b, hb⟩ : 2 ∣ 2 ^ f.mb := dvd_pow_self 2 (by omega)
    rw [show m = 2 * (j * b) + k by rw [show m = j * (2 * b) + k by rw [← hb]]; ring, Nat.mul_add_mod]
  have hr : j * 2 ^ f.mb + roundStep mode neg k t = r := by
    change _ = if takesUp mode neg (m % 2 == 1) (compare t (k + 1 / 2)) then m + 1 else m
    rw [roundStep, hodd]
    simp only [show t ≠ k from hlow.ne', ne_eq, not_false_eq_true, true_and]
    split <;> rfl
  have hle : r ≤ f.maxFin := by
    rw [← hr]
    have := roundStep_le mode neg k t
    omega
  rw [roundTo_cell mode false ftz neg hn hd hc, hr, decide_eq_true hlow.ne', Fmt.deliver_inexact _ _ _ _ _ hle, hc.tiny_eq mode neg hmb hn hd]
  simp only [decide_eq_true_eq]
  rfl

end Rounds

/-- Beyond the largest finite value in a format with infinities, where SAT does not act (R146). -/
theorem overflow_eq {f : Fmt} (mode : ℕ) (neg : Bool) (hinf : f.hasInf = true) :
    overflow f mode false neg = (f.put neg
      (if (mode == 1 || (mode == 2 && neg) || (mode == 3 && !neg)) = true then f.maxFin else f.maxFin + 1), flOF ||| flNX) := by
  unfold overflow Fmt.infMag
  rw [hinf]
  match mode with
  | 0 | 1 | 2 | 3 | 4 | _ + 5 => cases neg <;> rfl

/-- The largest finite value stands last in its row. -/
theorem Fmt.gridPlace_top (f : Fmt) : f.GridPlace f.topRow (2 ^ (f.mb + 1) - 1) := by
  have := Nat.pow_succ 2 f.mb
  have := Nat.two_pow_pos f.mb
  exact ⟨.inr (by omega), by omega⟩

section Top
variable {f : Fmt} {n d : ℕ} (mode : ℕ) (ftz neg : Bool) (hf : f ∈ [Fmt.fp32, .fp16, .bf16]) (hn : 0 < n) (hd : 0 < d)
include hf hn hd

/-- A value of a later row than that of the largest finite one overflows. -/
theorem roundTo_beyondRow (h : (2 ^ (f.mb + 1) : ℚ) ≤ n / d / f.step f.topRow) :
    roundTo f mode false ftz neg n d = overflow f mode false neg := by
  obtain ⟨-, -, -, htop⟩ := Fmt.arith_facts hf
  have hv : (0 : ℚ) < n / d := div_pos (Nat.cast_pos.mpr hn) (Nat.cast_pos.mpr hd)
  obtain ⟨j, k, hc⟩ := Fmt.Cell.exists f hv
  have hj : f.topRow < j := by
    by_contra hle
    have hk : ((k + 1 : ℕ) : ℚ) ≤ (2 ^ (f.mb + 1) : ℕ) := Nat.cast_le.mpr hc.inRow
    have hstep : f.step j ≤ f.step f.topRow := zpow_le_zpow_right₀ one_le_two (by omega)
    have hup := (div_lt_iff₀ (f.step_pos j)).mp hc.upper
    push_cast at hk
    refine absurd ((le_div_iff₀ (f.step_pos _)).mp h) (not_le.mpr ?_)
    calc (n / d : ℚ) < (k + 1) * f.step j := hup
      _ ≤ 2 ^ (f.mb + 1) * f.step f.topRow := by gcongr; exact (f.step_pos j).le
  have hk := hc.normal.resolve_left (by omega)
  have hrow : (f.topRow + 1) * 2 ^ f.mb ≤ j * 2 ^ f.mb := Nat.mul_le_mul_right _ hj
  have hstep := le_roundStep mode neg k (n / d / f.step j)
  have hpow := Nat.pow_succ 2 f.mb
  have hpos := Nat.two_pow_pos f.mb
  rw [Nat.succ_mul] at hrow
  rw [roundTo_cell mode false ftz neg hn hd hc, Fmt.deliver, if_pos (by omega)]

/-- Beyond the largest finite value in its row, the mode chooses between that and an overflow. -/
theorem roundTo_topRow (hlow : ((2 ^ (f.mb + 1) - 1 : ℕ) : ℚ) < n / d / f.step f.topRow)
    (hhigh : (n / d / f.step f.topRow : ℚ) < (2 ^ (f.mb + 1) - 1 : ℕ) + 1) :
    roundTo f mode false ftz neg n d =
      if takesUp mode neg true (compare (n / d / f.step f.topRow : ℚ) ((2 ^ (f.mb + 1) - 1 : ℕ) + 1 / 2)) = true
      then overflow f mode false neg else (f.put neg f.maxFin, flNX) := by
  obtain ⟨-, hmb, -, htop⟩ := Fmt.arith_facts hf
  have hplace := f.gridPlace_top
  have hc : f.Cell (n / d : ℚ) f.topRow (2 ^ (f.mb + 1) - 1) := ⟨hplace, hlow.le, hhigh⟩
  have hpow := Nat.pow_succ 2 f.mb
  have hpos := Nat.two_pow_pos f.mb
  have hodd : ((2 ^ (f.mb + 1) - 1) % 2 == 1) = true := by rw [beq_iff_eq]; omega
  have hleast : 2 ^ f.mb ≤ f.maxFin := by omega
  rw [roundTo_cell mode false ftz neg hn hd hc, decide_eq_true hlow.ne', hc.tiny_eq mode neg hmb hn hd, roundStep, hodd]
  simp only [hlow.ne', ne_eq, not_false_eq_true, true_and]
  split
  · rw [Fmt.deliver, if_pos (by omega)]
  · rw [← htop, Fmt.deliver_inexact _ _ _ _ _ le_rfl, if_neg (by omega), if_neg]
    · rfl
    rw [decide_eq_true_iff]
    omega

end Top

/-- The points beyond the largest finite value that rounding asks about, in steps of its row. -/
theorem AgreesWith.at_top {value : ℕ → ℕ → Ordering} {v : ℚ} (h : AgreesWith value v) {f : Fmt} (hf : f ∈ [Fmt.fp32, .fp16, .bf16]) :
    let x := f.exact f.maxFin
    let y := f.exact (f.maxFin - 1)
    let t := v / f.step f.topRow
    let k : ℕ := 2 ^ (f.mb + 1) - 1
    value x (2 ^ 149) = compare t k ∧ value (2 * x - y) (2 ^ 149) = compare t (k + 1)
    ∧ value (3 * x - y) (2 ^ 150) = compare t (k + 1 / 2) := by
  intro x y t k
  obtain ⟨-, hmb, hwidth, htop⟩ := Fmt.arith_facts hf
  have hpow := Nat.pow_succ 2 f.mb
  have hmb2 := Nat.pow_le_pow_right two_pos hmb
  have hk : 1 ≤ k := by omega
  have hx : (x : ℚ) = k * f.step f.topRow * 2 ^ 149 := by
    have := Fmt.exact_div (f := f) (j := f.topRow) (k := k) (.inr (by omega)) (by omega) (by omega)
    rwa [← htop] at this
  have hy : (y : ℚ) = (k - 1) * f.step f.topRow * 2 ^ 149 := by
    have := Fmt.exact_div (f := f) (j := f.topRow) (k := k - 1) (.inr (by omega)) (by omega) (by omega)
    rwa [show f.topRow * 2 ^ f.mb + (k - 1) = f.maxFin - 1 by omega, Nat.cast_sub hk, Nat.cast_one] at this
  have hle : y ≤ x := by
    have hs := f.step_pos f.topRow
    rw [← Nat.cast_le (α := ℚ), hx, hy]
    gcongr
    linarith
  have hlx : x < 4 ^ 140 := f.exact_lt _
  refine ⟨h.at_row f _ _ _ (by omega) (by decide) hx, h.at_row f _ _ _ (by omega) (by decide) ?_,
    h.at_row f _ _ _ (by omega) (by decide) ?_⟩
  · rw [Nat.cast_sub (by omega)]
    push_cast [hx, hy]
    ring
  · rw [Nat.cast_sub (by omega)]
    push_cast [hx, hy]
    ring

/-- `roundTo` rounds as the statement describes it (R145-R149). -/
theorem rounds_roundTo {f : Fmt} {n d : ℕ} {value : ℕ → ℕ → Ordering} (mode : ℕ) (ftz neg : Bool)
    (hf : f ∈ [Fmt.fp32, .fp16, .bf16]) (hn : 0 < n) (hd : 0 < d) (hval : AgreesWith value (n / d)) :
    Rounds f mode ftz neg value (roundTo f mode false ftz neg n d) := by
  obtain ⟨hinf, hmb, hwidth, htop⟩ := Fmt.arith_facts hf
  refine ⟨fun m hm heq => ?_, fun m hm hgt hlt => ?_, fun hgt => ?_⟩
  · obtain ⟨j, k, rfl, hp⟩ := Fmt.GridPlace.of_mag f m
    obtain ⟨hx, -⟩ := hval.at_place hp (by omega)
    exact roundTo_exact mode ftz neg hn hd hp hm (compare_eq_iff_eq.mp (hx ▸ heq))
  · obtain ⟨j, k, rfl, hp⟩ := Fmt.GridPlace.of_mag f m
    obtain ⟨hx, hy, hmid, hquarter⟩ := hval.at_place hp (by omega)
    rw [hx] at hgt
    rw [hy] at hlt
    dsimp only
    rw [hmid, hquarter]
    exact roundTo_between mode ftz neg hmb hn hd hp hm (compare_gt_iff_gt.mp hgt) (compare_lt_iff_lt.mp hlt)
  · obtain ⟨hx, hnext, hmid⟩ := hval.at_top hf
    rw [hx, compare_gt_iff_gt] at hgt
    dsimp only
    rw [hnext, hmid]
    have hodd := takesUp_odd mode neg (compare (n / d / f.step f.topRow : ℚ) ((2 ^ (f.mb + 1) - 1 : ℕ) + 1 / 2))
    rcases lt_or_ge (n / d / f.step f.topRow : ℚ) ((2 ^ (f.mb + 1) - 1 : ℕ) + 1) with hlt | hge
    · rw [roundTo_topRow mode ftz neg hf hn hd hgt hlt, overflow_eq mode neg hinf, hodd, compare_lt_iff_lt.mpr hlt]
      simp only [bne_self_eq_false, Bool.or_false]
      rfl
    · have hrow : (2 ^ (f.mb + 1) : ℚ) ≤ n / d / f.step f.topRow := by
        rw [← Nat.cast_add_one, Nat.sub_add_cancel Nat.one_le_two_pow] at hge
        exact_mod_cast hge
      have hbeyond : (compare (n / d / f.step f.topRow : ℚ) ((2 ^ (f.mb + 1) - 1 : ℕ) + 1) != .lt) = true := by
        rw [bne_iff_ne, ne_eq, compare_lt_iff_lt]
        exact not_lt.mpr hge
      rw [roundTo_beyondRow mode ftz neg hf hn hd hrow, overflow_eq mode neg hinf, hbeyond, Bool.or_true, Bool.true_or, if_pos rfl]

/-! ## Values that agree in every comparison -/

theorem agreesWith_ratio {n d : ℕ} (hd : 0 < d) : AgreesWith (ratio n d) (n / d) := fun p s _ _ => by
  rw [ratio_eq_compare hd (Nat.two_pow_pos s), Nat.cast_pow, Nat.cast_ofNat]

/-- Values beyond every point asked about compare alike. -/
theorem AgreesWith.of_large {value : ℕ → ℕ → Ordering} {v w : ℚ} (h : AgreesWith value v) (hv : 4 ^ 145 ≤ v) (hw : 4 ^ 145 ≤ w) :
    AgreesWith value w := by
  intro p s hp hs
  have hq : (p / 2 ^ s : ℚ) < 4 ^ 145 := by
    refine (div_le_self p.cast_nonneg (one_le_pow₀ one_le_two)).trans_lt ?_
    exact_mod_cast hp
  rw [h p s hp hs, compare_gt_iff_gt.mpr (hq.trans_le hv), compare_gt_iff_gt.mpr (hq.trans_le hw)]

/-- Values below every point asked about but zero compare alike. -/
theorem AgreesWith.of_small {value : ℕ → ℕ → Ordering} {v w : ℚ} (h : AgreesWith value v) (hv : 0 < v) (hv' : v < 1 / 2 ^ 151)
    (hw : 0 < w) (hw' : w < 1 / 2 ^ 151) : AgreesWith value w := by
  intro p s hp hs
  rw [h p s hp hs]
  rcases p.eq_zero_or_pos with rfl | hpos
  · rw [Nat.cast_zero, zero_div, compare_gt_iff_gt.mpr hv, compare_gt_iff_gt.mpr hw]
  · have hq : (1 / 2 ^ 151 : ℚ) ≤ p / 2 ^ s := by
      gcongr
      · exact_mod_cast hpos
      · exact one_le_two
    rw [compare_lt_iff_lt.mpr (hv'.trans_le hq), compare_lt_iff_lt.mpr (hw'.trans_le hq)]

/-! ## Roots (R158) -/

theorem isqrtFrom_spec (n : ℕ) : ∀ i r, r * r ≤ n → n < (r + 2 ^ i) * (r + 2 ^ i) →
    isqrtFrom n i r * isqrtFrom n i r ≤ n ∧ n < (isqrtFrom n i r + 1) * (isqrtFrom n i r + 1)
  | 0, _, h, h' => ⟨h, h'⟩
  | i + 1, r, h, h' => by
    rw [isqrtFrom]
    split
    · next hle => exact isqrtFrom_spec n i _ hle (by rwa [Nat.add_assoc, ← Nat.two_mul, ← Nat.pow_succ'])
    · next hgt => exact isqrtFrom_spec n i r h (Nat.not_le.mp hgt)

/-- The integer square root. -/
theorem isqrt_spec (n : ℕ) : isqrt n * isqrt n ≤ n ∧ n < (isqrt n + 1) * (isqrt n + 1) := by
  refine isqrtFrom_spec n _ 0 n.zero_le ?_
  rw [Nat.zero_add, ← Nat.pow_add]
  exact Nat.lt_log2_self.trans_le (Nat.pow_le_pow_right two_pos (by omega))

/-- The order of √(p/q) to a dyadic number is that of two integers, on any grid fine enough. -/
theorem root_eq_compare {p q s T : ℕ} (P : ℕ) (hq : 0 < q) (hs : s ≤ T) :
    root p q P (2 ^ s) = compare (p * q * 4 ^ T) (P * q * 2 ^ (T - s) * (P * q * 2 ^ (T - s))) := by
  obtain ⟨u, rfl⟩ := Nat.exists_eq_add_of_le hs
  have hpos : 0 < q * 4 ^ u := by positivity
  have hl : p * q * 4 ^ (s + u) = p * (2 ^ s) ^ 2 * (q * 4 ^ u) := by
    rw [Nat.pow_add, ← Nat.pow_mul, Nat.mul_comm s 2, Nat.pow_mul]
    ring
  have hr : P * q * 2 ^ u * (P * q * 2 ^ u) = P ^ 2 * q * (q * 4 ^ u) := by
    rw [show (4 : ℕ) = 2 * 2 from rfl, Nat.mul_pow]
    ring
  rw [Nat.add_sub_cancel_left, hl, hr]
  exact compare_congr (Nat.mul_lt_mul_right hpos).symm (Nat.mul_lt_mul_right hpos).symm

/-- A dyadic number on that grid. -/
theorem div_two_pow_eq {q s T : ℕ} (P : ℕ) (hq : 0 < q) (hs : s ≤ T) : (P / 2 ^ s : ℚ) = (P * q * 2 ^ (T - s) : ℕ) / (q * 2 ^ T) := by
  have hq' : (q : ℚ) ≠ 0 := Nat.cast_ne_zero.mpr hq.ne'
  obtain ⟨u, rfl⟩ := Nat.exists_eq_add_of_le hs
  rw [Nat.add_sub_cancel_left, pow_add]
  push_cast
  field_simp

section Sqrt
variable {p q k T : ℕ} (hq : 0 < q) (hT : 151 ≤ T)
include hq hT

/-- A root on the grid. -/
theorem agreesWith_root_exact (hk : k * k = p * q * 4 ^ T) : AgreesWith (root p q) (k / (q * 2 ^ T)) := by
  intro P s _ hs
  have hd : (0 : ℚ) < q * 2 ^ T := mul_pos (Nat.cast_pos.mpr hq) (by positivity)
  rw [root_eq_compare P hq (hs.trans hT), div_two_pow_eq P hq (hs.trans hT), ← hk]
  refine compare_congr ?_ ?_
  · rw [div_lt_div_iff_of_pos_right hd, Nat.cast_lt, Nat.mul_self_lt_mul_self_iff]
  · rw [div_lt_div_iff_of_pos_right hd, Nat.cast_lt, Nat.mul_self_lt_mul_self_iff]

/-- A root between two neighbours of the grid compares as the midpoint. -/
theorem agreesWith_root_between (hlow : k * k < p * q * 4 ^ T) (hhigh : p * q * 4 ^ T < (k + 1) * (k + 1)) :
    AgreesWith (root p q) ((2 * k + 1 : ℕ) / (q * 2 ^ (T + 1))) := by
  intro P s _ hs
  have hd : (0 : ℚ) < q * 2 ^ T := mul_pos (Nat.cast_pos.mpr hq) (by positivity)
  have hmid : ((2 * k + 1 : ℕ) / (q * 2 ^ (T + 1)) : ℚ) = (k + 1 / 2) / (q * 2 ^ T) := by
    have hq' : (q : ℚ) ≠ 0 := Nat.cast_ne_zero.mpr hq.ne'
    rw [pow_succ]
    push_cast
    field_simp
  rw [root_eq_compare P hq (hs.trans hT), div_two_pow_eq P hq (hs.trans hT), hmid]
  generalize P * q * 2 ^ (T - s) = y
  rcases Nat.lt_or_ge k y with hlt | hge
  · have hy : p * q * 4 ^ T < y * y := hhigh.trans_le (Nat.mul_self_le_mul_self hlt)
    have hy' : ((k + 1 : ℕ) : ℚ) ≤ y := Nat.cast_le.mpr hlt
    push_cast at hy'
    rw [compare_lt_iff_lt.mpr hy, compare_lt_iff_lt.mpr ((div_lt_div_iff_of_pos_right hd).mpr (by linarith))]
  · have hy : y * y < p * q * 4 ^ T := (Nat.mul_self_le_mul_self hge).trans_lt hlow
    have hy' : (y : ℚ) ≤ k := Nat.cast_le.mpr hge
    rw [compare_gt_iff_gt.mpr hy, compare_gt_iff_gt.mpr ((div_lt_div_iff_of_pos_right hd).mpr (by linarith))]

end Sqrt

/-! ## Scaled values (R157) -/

theorem four_pow_mul_two_pow_le {a b m : ℕ} (h : 2 * a + b ≤ m) : 4 ^ a * 2 ^ b ≤ 2 ^ m := by
  rw [show (4 : ℕ) = 2 ^ 2 from rfl, ← Nat.pow_mul, ← Nat.pow_add]
  exact Nat.pow_le_pow_right two_pos h

theorem large_of_scaleUp {A m : ℕ} (hA : 0 < A) (hm : 2000 ≤ m) :
    (4 ^ 145 : ℚ) ≤ ((A * 2 ^ m : ℕ) : ℚ) / ((2 ^ 149 : ℕ) : ℚ) := by
  rw [le_div_iff₀ (by positivity)]
  have h : 4 ^ 145 * 2 ^ 149 ≤ A * 2 ^ m := (four_pow_mul_two_pow_le (by omega)).trans (Nat.le_mul_of_pos_left _ hA)
  exact_mod_cast h

theorem small_of_scaleDown {A m : ℕ} (hA : 0 < A) (hlt : A < 4 ^ 140) (hm : 2000 ≤ m) :
    0 < (A : ℚ) / ((2 ^ 149 * 2 ^ m : ℕ) : ℚ) ∧ (A : ℚ) / ((2 ^ 149 * 2 ^ m : ℕ) : ℚ) < 1 / 2 ^ 151 := by
  refine ⟨div_pos (Nat.cast_pos.mpr hA) (by positivity), ?_⟩
  rw [div_lt_div_iff₀ (by positivity) (by positivity), one_mul]
  have h : A * 2 ^ 151 < 2 ^ 149 * 2 ^ m := calc
    A * 2 ^ 151 < 4 ^ 140 * 2 ^ 151 := Nat.mul_lt_mul_of_pos_right hlt (by positivity)
    _ ≤ 2 ^ m := four_pow_mul_two_pow_le (by omega)
    _ ≤ 2 ^ 149 * 2 ^ m := Nat.le_mul_of_pos_left _ (by positivity)
  exact_mod_cast h

/-- The exponent kept by the clamp, or one beyond which all results are alike. -/
theorem clampExp_nonneg {b : ℤ} (h : 0 ≤ b) : ∃ m : ℕ, clampExp b = m ∧ (m = b.natAbs ∨ (2000 ≤ b.natAbs ∧ 2000 ≤ m)) := by
  unfold clampExp
  split
  · exact ⟨2000, rfl, .inr (by omega)⟩
  · rw [if_neg (by omega)]
    exact ⟨b.natAbs, by omega, .inl rfl⟩

theorem clampExp_neg {b : ℤ} (h : b < 0) :
    ∃ m : ℕ, 0 < m ∧ clampExp b = -(m : ℤ) ∧ (m = b.natAbs ∨ (2000 ≤ b.natAbs ∧ 2000 ≤ m)) := by
  unfold clampExp
  rw [if_neg (by omega)]
  split
  · exact ⟨2000, by omega, rfl, .inr (by omega)⟩
  · exact ⟨b.natAbs, by omega, by omega, .inl rfl⟩

/-! ## The rounding functions of a context -/

section Context
variable {c : FCtx} (hf : c.f ∈ [Fmt.fp32, .fp16, .bf16]) (hsat : c.sat = false)
include hf hsat

theorem FCtx.rounds_roundTo {n d : ℕ} {value : ℕ → ℕ → Ordering} (neg : Bool) (hn : 0 < n) (hd : 0 < d)
    (hval : AgreesWith value (n / d)) : Rounds c.f c.mode c.ftz neg value (roundTo c.f c.mode c.sat c.ftz neg n d) := by
  rw [hsat]
  exact Machine.rounds_roundTo c.mode c.ftz neg hf hn hd hval

theorem FCtx.rounds_ratio {n d : ℕ} (neg : Bool) (hn : 0 < n) (hd : 0 < d) :
    Rounds c.f c.mode c.ftz neg (ratio n d) (roundTo c.f c.mode c.sat c.ftz neg n d) :=
  c.rounds_roundTo hf hsat neg hn hd (agreesWith_ratio hd)

theorem FCtx.rounds_roundZ {v : ℤ} (zneg : Bool) (k : ℕ) (hv : v ≠ 0) :
    Rounds c.f c.mode c.ftz (decide (v < 0)) (ratio v.natAbs (2 ^ k)) (c.roundZ zneg v k) := by
  rw [FCtx.roundZ, if_neg hv]
  exact c.rounds_ratio hf hsat _ (Int.natAbs_pos.mpr hv) (Nat.two_pow_pos k)

theorem FCtx.rounds_roundSqrt {p q : ℕ} (hp : 0 < p) (hq : 0 < q) : Rounds c.f c.mode c.ftz false (root p q) (c.roundSqrt p q) := by
  obtain ⟨hlow, hhigh⟩ := isqrt_spec (p * q * 4 ^ 500)
  rw [FCtx.roundSqrt]
  generalize hk : isqrt (p * q * 4 ^ 500) = k at *
  split
  · next heq =>
    have hkpos : 0 < k := Nat.pos_of_ne_zero fun h0 => by
      have : 0 < p * q * 4 ^ 500 := by positivity
      rw [← heq, h0] at this
      exact absurd this (Nat.lt_irrefl 0)
    refine c.rounds_roundTo hf hsat false hkpos (by positivity) ?_
    rw [Nat.cast_mul, Nat.cast_pow]
    exact agreesWith_root_exact hq (by decide) heq
  · next hne =>
    refine c.rounds_roundTo hf hsat false (Nat.succ_pos _) (by positivity) ?_
    rw [Nat.cast_mul q, Nat.cast_pow]
    exact agreesWith_root_between hq (by decide) (lt_of_le_of_ne hlow hne) hhigh

/-- Scaling up: beyond the clamp every result overflows alike. -/
theorem FCtx.rounds_scaleUp {A m m' : ℕ} (neg : Bool) (hA : 0 < A) (hm : m' = m ∨ (2000 ≤ m ∧ 2000 ≤ m')) :
    Rounds c.f c.mode c.ftz neg (ratio (A * 2 ^ m) (2 ^ 149)) (roundTo c.f c.mode c.sat c.ftz neg (A * 2 ^ m') (2 ^ 149)) := by
  refine c.rounds_roundTo hf hsat neg (by positivity) (by positivity) ?_
  obtain rfl | ⟨hm, hm'⟩ := hm
  · exact agreesWith_ratio (by positivity)
  · exact (agreesWith_ratio (by positivity)).of_large (large_of_scaleUp hA hm) (large_of_scaleUp hA hm')

/-- Scaling down: beyond the clamp every result is below every boundary. -/
theorem FCtx.rounds_scaleDown {A m m' : ℕ} (neg : Bool) (hA : 0 < A) (hlt : A < 4 ^ 140) (hm : m' = m ∨ (2000 ≤ m ∧ 2000 ≤ m')) :
    Rounds c.f c.mode c.ftz neg (ratio A (2 ^ 149 * 2 ^ m)) (roundTo c.f c.mode c.sat c.ftz neg A (2 ^ 149 * 2 ^ m')) := by
  refine c.rounds_roundTo hf hsat neg hA (by positivity) ?_
  obtain rfl | ⟨hm, hm'⟩ := hm
  · exact agreesWith_ratio (by positivity)
  · obtain ⟨hpos, hsmall⟩ := small_of_scaleDown hA hlt hm
    obtain ⟨hpos', hsmall'⟩ := small_of_scaleDown hA hlt hm'
    exact (agreesWith_ratio (by positivity)).of_small hpos hsmall hpos' hsmall'

end Context

end Sys2Proof.Machine
end

section
/-! PROOF of O8, the operations (R151, R154, R157-R159): what each gives of NaNs, infinities and zeros, and that it otherwise rounds the exact
result once. -/
namespace Sys2Proof.Machine

/-! ## Classes of encodings (R141, R143) -/

section Classes
variable {f : Fmt} (hf : f ∈ [Fmt.fp32, .fp16, .bf16]) {v : ℕ}
include hf

theorem Fmt.isNan_iff : f.isNan v = true ↔ f.maxFin + 1 < f.mag v := by
  simp only [List.mem_cons, List.not_mem_nil, or_false] at hf
  rcases hf with rfl | rfl | rfl <;> exact decide_eq_true_iff

theorem Fmt.isInf_iff : f.isInf v = true ↔ f.mag v = f.maxFin + 1 := by
  rw [Fmt.isInf, (Fmt.arith_facts hf).1, Bool.true_and, beq_iff_eq, Fmt.infMag]

theorem Fmt.class_of_inf (h : f.mag v = f.maxFin + 1) : f.isNan v = false ∧ f.isInf v = true :=
  ⟨Bool.eq_false_iff.mpr fun hn => by have := (Fmt.isNan_iff hf).mp hn; omega, (Fmt.isInf_iff hf).mpr h⟩

theorem Fmt.class_of_fin (h : f.mag v ≤ f.maxFin) : f.isNan v = false ∧ f.isInf v = false :=
  ⟨Bool.eq_false_iff.mpr fun hn => by have := (Fmt.isNan_iff hf).mp hn; omega,
    Bool.eq_false_iff.mpr fun hi => by have := (Fmt.isInf_iff hf).mp hi; omega⟩

theorem Fmt.isNan_eq_false (h : ¬ f.maxFin + 1 < f.mag v) : f.isNan v = false :=
  Bool.eq_false_iff.mpr (mt (Fmt.isNan_iff hf).mp h)

theorem Fmt.isSnan_eq : f.isSnan v = (f.isNan v && !v.testBit (f.mb - 1)) := by
  rw [Fmt.isSnan, (Fmt.arith_facts hf).1, Bool.and_true]

theorem Fmt.quiet_eq (h : f.isNan v = true) : f.quiet v = if v.testBit (f.mb - 1) then v else v + 2 ^ (f.mb - 1) := by
  rw [Fmt.quiet, Fmt.isSnan_eq hf, h]
  cases v.testBit (f.mb - 1) <;> rfl

end Classes

/-- An encoding is its sign and its magnitude. -/
theorem Fmt.put_neg_mag (f : Fmt) {v : ℕ} (h : v < 2 ^ f.width) : f.put (f.neg v) (f.mag v) = v := by
  have hw : f.width - 1 + 1 = f.width := by cases f <;> rfl
  rw [← hw] at h
  have htwo := Nat.pow_succ 2 (f.width - 1)
  rw [Fmt.put, Fmt.neg, Fmt.mag, testBit_top h]
  by_cases hv : 2 ^ (f.width - 1) ≤ v
  · rw [decide_eq_true hv, if_pos rfl, Nat.mod_eq_sub_mod hv, Nat.mod_eq_of_lt (by omega), Nat.sub_add_cancel hv]
  · rw [decide_eq_false hv, Nat.mod_eq_of_lt (by omega)]
    rfl

theorem Fmt.mag_flip (f : Fmt) (v : ℕ) : f.mag (f.flip v) = f.mag v := by
  rw [Fmt.flip, Fmt.put, Fmt.mag, Fmt.mag]
  split <;> simp

theorem Fmt.exact_pos {f : Fmt} {v : ℕ} (h : f.mag v ≠ 0) : 0 < f.exact v := by
  rw [Fmt.exact]
  refine Nat.mul_pos ?_ (Nat.two_pow_pos _)
  have hm := Nat.div_add_mod (f.mag v) (2 ^ f.mb)
  have hpos := Nat.two_pow_pos f.mb
  split
  · next h0 =>
    rw [h0, Nat.mul_zero] at hm
    omega
  · omega

theorem Fmt.exact_of_mag_zero {f : Fmt} {v : ℕ} (h : f.mag v = 0) : f.exact v = 0 := by
  simp [Fmt.exact, h]

theorem Fmt.natAbs_signed (f : Fmt) (v : ℕ) : (f.signed v).natAbs = f.exact v := by
  unfold Fmt.signed
  split <;> simp

theorem Fmt.signed_neg_iff {f : Fmt} {v : ℕ} (h : f.mag v ≠ 0) : decide (f.signed v < 0) = f.neg v := by
  have hpos := Fmt.exact_pos h
  unfold Fmt.signed
  cases f.neg v
  · simp
  · simpa using hpos

/-! ## Inputs (R149) -/

theorem FCtx.input_eq (c : FCtx) (v : ℕ) :
    c.input v = if c.ftz = true ∧ 0 < c.f.mag v ∧ c.f.mag v < 2 ^ c.f.mb then c.f.put (c.f.neg v) 0 else v := by
  simp [FCtx.input, Fmt.isSub]

theorem FCtx.isNan_input (c : FCtx) (v : ℕ) : c.f.isNan (c.input v) = c.f.isNan v := c.f.isNan_flush c.ftz v

theorem FCtx.input_lt (c : FCtx) {v : ℕ} (h : v < 2 ^ c.f.width) : c.input v < 2 ^ c.f.width := by
  unfold FCtx.input
  split
  · rw [Fmt.put, Nat.zero_add]
    split
    · exact Nat.pow_lt_pow_right one_lt_two (by cases c.f <;> decide)
    · exact Nat.two_pow_pos _
  · exact h

/-! ## The rule for NaNs (R151) -/

/-- What the rule for NaNs gives of inputs in their order: the first NaN, quietened, and NV where any signals. -/
def QuietsFirst (f : Fmt) (vs : List ℕ) (r : FRes) : Prop :=
  ∀ v n w, vs = n ++ v :: w → (∀ u ∈ n, ¬ f.maxFin + 1 < f.mag u) → f.maxFin + 1 < f.mag v →
    r.1 = (if v.testBit (f.mb - 1) then v else v + 2 ^ (f.mb - 1))
    ∧ r.2 = if vs.any fun u => f.isNan u && !u.testBit (f.mb - 1) then flNV else 0

theorem nanRule_eq_none {f : Fmt} {vs : List ℕ} (h : ∀ v ∈ vs, f.isNan v = false) : nanRule f vs = none := by
  rw [nanRule, List.filter_eq_nil_iff.mpr fun v hv => by simp [h v hv]]

theorem quietsFirst_of_nanRule {f : Fmt} (hf : f ∈ [Fmt.fp32, .fp16, .bf16]) {vs : List ℕ} {r : FRes}
    (h : ∀ q, nanRule f vs = some q → r = q) : QuietsFirst f vs r := by
  intro v n w hvs hn hv
  have hnan : f.isNan v = true := (Fmt.isNan_iff hf).mpr hv
  have hfilter : vs.filter f.isNan = v :: w.filter f.isNan := by
    rw [hvs, List.filter_append, List.filter_eq_nil_iff.mpr fun u hu => by simp [Fmt.isNan_eq_false hf (hn u hu)], List.nil_append,
      List.filter_cons, if_pos hnan]
  have hr := h (f.quiet v, if vs.any f.isSnan then flNV else 0) (by rw [nanRule, hfilter])
  rw [hr, Fmt.quiet_eq hf hnan]
  exact ⟨rfl, by simp only [← Fmt.isSnan_eq hf]⟩

/-- An input that is no NaN does not matter to the rule. -/
theorem nanRule_congr {f : Fmt} {u v v' : ℕ} (h : f.isNan v = false) (h' : f.isNan v' = false) : nanRule f [u, v] = nanRule f [u, v'] := by
  simp only [nanRule, List.filter_cons, h, h', List.filter_nil, List.any_cons, List.any_nil, Fmt.isSnan_of_not_isNan h,
    Fmt.isSnan_of_not_isNan h', Bool.false_eq_true, if_false]

/-! ## Operations (R154, R157-R159) -/

/-- What rounding a signed number of 2^-k-ths gives: a zero of the sign given, or the number rounded. -/
def SumRounds (c : FCtx) (v : ℤ) (k : ℕ) (zneg : Bool) (r : FRes) : Prop :=
  (v = 0 → r = (c.f.put zneg 0, 0)) ∧ (v ≠ 0 → Rounds c.f c.mode c.ftz (decide (v < 0)) (ratio v.natAbs (2 ^ k)) r)

section Ops
variable {c : FCtx} {x y z : ℕ} (hf : c.f ∈ [Fmt.fp32, .fp16, .bf16])
include hf

/-! ### NaNs -/

theorem FCtx.add_nan : QuietsFirst c.f [c.input x, c.input y] (c.add x y) :=
  quietsFirst_of_nanRule hf fun q hq => by rw [FCtx.add, hq]

theorem FCtx.sub_nan : QuietsFirst c.f [c.input x, c.input y] (c.sub x y) := by
  refine quietsFirst_of_nanRule hf fun q hq => ?_
  rw [FCtx.sub]
  cases hn : c.f.isNan y
  · have hflip : c.f.isNan (c.f.flip y) = false :=
      Fmt.isNan_eq_false hf (by rw [c.f.mag_flip, ← Fmt.isNan_iff hf, hn]; exact Bool.false_ne_true)
    rw [nanRule_congr ((c.isNan_input y).trans hn) ((c.isNan_input (c.f.flip y)).trans hflip)] at hq
    rw [if_neg Bool.false_ne_true, FCtx.add, hq]
  · rw [if_pos rfl, FCtx.add, hq]

theorem FCtx.mul_nan : QuietsFirst c.f [c.input x, c.input y] (c.mul x y) :=
  quietsFirst_of_nanRule hf fun q hq => by rw [FCtx.mul, hq]

theorem FCtx.div_nan : QuietsFirst c.f [c.input x, c.input y] (c.div x y) :=
  quietsFirst_of_nanRule hf fun q hq => by rw [FCtx.div, hq]

theorem FCtx.scale_nan (i : ℤ) : QuietsFirst c.f [c.input x] (c.scale x i) :=
  quietsFirst_of_nanRule hf fun q hq => by rw [FCtx.scale, hq]

theorem FCtx.unary_nan (op : ℕ) : QuietsFirst c.f [c.input x] (c.unary op x) :=
  quietsFirst_of_nanRule hf fun q hq => by unfold FCtx.unary; simp only [hq]

end Ops

theorem nanRule_one {f : Fmt} {a : ℕ} (ha : f.isNan a = false) : nanRule f [a] = none :=
  nanRule_eq_none (by simp [ha])

theorem nanRule_two {f : Fmt} {a b : ℕ} (ha : f.isNan a = false) (hb : f.isNan b = false) : nanRule f [a, b] = none :=
  nanRule_eq_none (by simp [ha, hb])

theorem nanRule_three {f : Fmt} {a b d : ℕ} (ha : f.isNan a = false) (hb : f.isNan b = false) (hd : f.isNan d = false) :
    nanRule f [a, b, d] = none :=
  nanRule_eq_none (by simp [ha, hb, hd])

theorem Fmt.signed_mul_neg {f : Fmt} {a b : ℕ} (ha : f.mag a ≠ 0) (hb : f.mag b ≠ 0) :
    decide (f.signed a * f.signed b < 0) = (f.neg a != f.neg b) := by
  have hp : (0 : ℤ) < f.exact a * f.exact b := by exact_mod_cast Nat.mul_pos (Fmt.exact_pos ha) (Fmt.exact_pos hb)
  unfold Fmt.signed
  cases f.neg a <;> cases f.neg b <;> simp [hp, hp.le]

/-- The rule for NaNs raises NV or nothing, and is silent where no input is a NaN. -/
theorem nanRule_cases (f : Fmt) (vs : List ℕ) :
    (nanRule f vs = none ∧ ∀ v ∈ vs, f.isNan v = false) ∨ ∃ q, nanRule f vs = some q ∧ (q.2 = flNV ∨ q.2 = 0) := by
  unfold nanRule
  split
  · next h => exact .inl ⟨rfl, fun v hv => by simpa using List.filter_eq_nil_iff.mp h v hv⟩
  · exact .inr ⟨_, rfl, by split <;> simp⟩

/-- An infinity is its sign. -/
theorem Fmt.eq_put_of_inf {f : Fmt} {a : ℕ} (ha : a < 2 ^ f.width) (h : f.mag a = f.maxFin + 1) : a = f.put (f.neg a) (f.maxFin + 1) := by
  rw [← h, f.put_neg_mag ha]

theorem FCtx.sumRounds_roundZ {c : FCtx} (hf : c.f ∈ [Fmt.fp32, .fp16, .bf16]) (hsat : c.sat = false) (v : ℤ) (k : ℕ) (zneg : Bool) :
    SumRounds c v k zneg (c.roundZ zneg v k) :=
  ⟨fun h => by rw [FCtx.roundZ, if_pos h], c.rounds_roundZ hf hsat zneg k⟩

/-! ### Sums, products and quotients -/

theorem FCtx.sub_eq_add {c : FCtx} (hf : c.f ∈ [Fmt.fp32, .fp16, .bf16]) {x y : ℕ}
    (h : ¬ c.f.maxFin + 1 < c.f.mag y) : c.sub x y = c.add x (c.f.put (!c.f.neg y) (c.f.mag y)) := by
  rw [FCtx.sub, Fmt.isNan_eq_false hf h]
  rfl

section Two
variable {c : FCtx} (hf : c.f ∈ [Fmt.fp32, .fp16, .bf16]) (hsat : c.sat = false) {x y a b : ℕ} (ha : c.input x = a) (hb : c.input y = b)
include ha hb

/-- FMUL and FDIV decide by the classes of their operands. -/
theorem FCtx.mul_eq (hna : c.f.isNan a = false) (hnb : c.f.isNan b = false) : c.mul x y =
    if c.f.isInf a || c.f.isInf b then
      if c.f.mag a = 0 ∨ c.f.mag b = 0 then invalid c.f else (c.f.put (c.f.neg a != c.f.neg b) (c.f.maxFin + 1), 0)
    else c.roundZ (c.f.neg a != c.f.neg b) (c.f.signed a * c.f.signed b) 298 := by
  rw [FCtx.mul, ha, hb, nanRule_two hna hnb]
  rfl

theorem FCtx.div_eq (hna : c.f.isNan a = false) (hnb : c.f.isNan b = false) : c.div x y =
    if c.f.isInf a then if c.f.isInf b then invalid c.f else (c.f.put (c.f.neg a != c.f.neg b) (c.f.maxFin + 1), 0)
    else if c.f.isInf b then (c.f.put (c.f.neg a != c.f.neg b) 0, 0)
    else if c.f.mag b = 0 then
      if c.f.mag a = 0 then invalid c.f else (c.f.put (c.f.neg a != c.f.neg b) (c.f.maxFin + 1), flDZ)
    else roundTo c.f c.mode c.sat c.ftz (c.f.neg a != c.f.neg b) (c.f.exact a) (c.f.exact b) := by
  rw [FCtx.div, ha, hb, nanRule_two hna hnb]
  rfl

include hf

theorem FCtx.add_inf_inf (hlt : a < 2 ^ c.f.width) (hia : c.f.mag a = c.f.maxFin + 1) (hib : c.f.mag b = c.f.maxFin + 1) :
    c.add x y = if c.f.neg a = c.f.neg b then (c.f.put (c.f.neg a) (c.f.maxFin + 1), 0) else invalid c.f := by
  obtain ⟨hna, hia'⟩ := Fmt.class_of_inf hf hia
  obtain ⟨hnb, hib'⟩ := Fmt.class_of_inf hf hib
  rw [FCtx.add, ha, hb, nanRule_two hna hnb, ← Fmt.eq_put_of_inf hlt hia]
  simp only [hia', hib', if_true, Bool.true_and, bne_iff_ne, ne_eq, ite_not]

theorem FCtx.add_inf_fin (hlt : a < 2 ^ c.f.width) (hia : c.f.mag a = c.f.maxFin + 1) (hb' : c.f.mag b ≤ c.f.maxFin) :
    c.add x y = (c.f.put (c.f.neg a) (c.f.maxFin + 1), 0) := by
  obtain ⟨hna, hia'⟩ := Fmt.class_of_inf hf hia
  obtain ⟨hnb, hib'⟩ := Fmt.class_of_fin hf hb'
  rw [FCtx.add, ha, hb, nanRule_two hna hnb, ← Fmt.eq_put_of_inf hlt hia]
  simp only [hia', hib', if_true, Bool.false_and, Bool.false_eq_true, if_false]

theorem FCtx.add_fin_inf (hlt : b < 2 ^ c.f.width) (ha' : c.f.mag a ≤ c.f.maxFin) (hib : c.f.mag b = c.f.maxFin + 1) :
    c.add x y = (c.f.put (c.f.neg b) (c.f.maxFin + 1), 0) := by
  obtain ⟨hna, hia'⟩ := Fmt.class_of_fin hf ha'
  obtain ⟨hnb, hib'⟩ := Fmt.class_of_inf hf hib
  rw [FCtx.add, ha, hb, nanRule_two hna hnb, ← Fmt.eq_put_of_inf hlt hib]
  simp only [hia', hib', if_true, Bool.false_eq_true, if_false]

include hsat in
theorem FCtx.add_fin_fin (ha' : c.f.mag a ≤ c.f.maxFin) (hb' : c.f.mag b ≤ c.f.maxFin) :
    SumRounds c (c.f.signed a + c.f.signed b) 149 (zeroSign c.mode (c.f.neg a) (c.f.neg b)) (c.add x y) := by
  obtain ⟨hna, hia⟩ := Fmt.class_of_fin hf ha'
  obtain ⟨hnb, hib⟩ := Fmt.class_of_fin hf hb'
  have hadd : c.add x y = c.roundZ (zeroSign c.mode (c.f.neg a) (c.f.neg b)) (c.f.signed a + c.f.signed b) 149 := by
    rw [FCtx.add, ha, hb, nanRule_two hna hnb]
    simp only [hia, hib, Bool.false_eq_true, if_false]
  rw [hadd]
  exact c.sumRounds_roundZ hf hsat _ _ _

theorem FCtx.mul_inf_zero (h : (c.f.mag a = c.f.maxFin + 1 ∧ c.f.mag b = 0) ∨ (c.f.mag a = 0 ∧ c.f.mag b = c.f.maxFin + 1)) :
    c.mul x y = invalid c.f := by
  rcases h with ⟨hia, hzb⟩ | ⟨hza, hib⟩
  · obtain ⟨hna, hia'⟩ := Fmt.class_of_inf hf hia
    obtain ⟨hnb, -⟩ := Fmt.class_of_fin hf (v := b) (by omega)
    rw [FCtx.mul_eq ha hb hna hnb, hia', Bool.true_or, if_pos rfl, if_pos (.inr hzb)]
  · obtain ⟨hna, -⟩ := Fmt.class_of_fin hf (v := a) (by omega)
    obtain ⟨hnb, hib'⟩ := Fmt.class_of_inf hf hib
    rw [FCtx.mul_eq ha hb hna hnb, hib', Bool.or_true, if_pos rfl, if_pos (.inl hza)]

theorem FCtx.mul_inf (h : (c.f.mag a = c.f.maxFin + 1 ∧ ¬ c.f.mag b = 0 ∧ ¬ c.f.maxFin + 1 < c.f.mag b)
      ∨ (c.f.mag b = c.f.maxFin + 1 ∧ ¬ c.f.mag a = 0 ∧ ¬ c.f.maxFin + 1 < c.f.mag a)) :
    c.mul x y = (c.f.put (c.f.neg a != c.f.neg b) (c.f.maxFin + 1), 0) := by
  rcases h with ⟨hia, hzb, hnb⟩ | ⟨hib, hza, hna⟩
  · obtain ⟨hna, hia'⟩ := Fmt.class_of_inf hf hia
    rw [FCtx.mul_eq ha hb hna (Fmt.isNan_eq_false hf hnb), hia', Bool.true_or, if_pos rfl, if_neg (by omega)]
  · obtain ⟨hnb, hib'⟩ := Fmt.class_of_inf hf hib
    rw [FCtx.mul_eq ha hb (Fmt.isNan_eq_false hf hna) hnb, hib', Bool.or_true, if_pos rfl, if_neg (by omega)]

theorem FCtx.mul_fin (ha' : c.f.mag a ≤ c.f.maxFin) (hb' : c.f.mag b ≤ c.f.maxFin) :
    c.mul x y = c.roundZ (c.f.neg a != c.f.neg b) (c.f.signed a * c.f.signed b) 298 := by
  obtain ⟨hna, hia⟩ := Fmt.class_of_fin hf ha'
  obtain ⟨hnb, hib⟩ := Fmt.class_of_fin hf hb'
  rw [FCtx.mul_eq ha hb hna hnb, hia, hib, Bool.or_false, if_neg Bool.false_ne_true]

theorem FCtx.mul_fin_zero (ha' : c.f.mag a ≤ c.f.maxFin) (hb' : c.f.mag b ≤ c.f.maxFin) (h : c.f.mag a = 0 ∨ c.f.mag b = 0) :
    c.mul x y = (c.f.put (c.f.neg a != c.f.neg b) 0, 0) := by
  have hzero : c.f.signed a * c.f.signed b = 0 := mul_eq_zero.mpr (h.imp Fmt.signed_of_mag_zero Fmt.signed_of_mag_zero)
  rw [FCtx.mul_fin hf ha hb ha' hb', FCtx.roundZ, if_pos hzero]

include hsat in
theorem FCtx.mul_fin_fin (ha' : c.f.mag a ≤ c.f.maxFin) (hb' : c.f.mag b ≤ c.f.maxFin) (hza : ¬ c.f.mag a = 0) (hzb : ¬ c.f.mag b = 0) :
    Rounds c.f c.mode c.ftz (c.f.neg a != c.f.neg b) (ratio (c.f.exact a * c.f.exact b) (2 ^ 298)) (c.mul x y) := by
  have hne : c.f.signed a * c.f.signed b ≠ 0 := by
    rw [← Int.natAbs_ne_zero, Int.natAbs_mul, c.f.natAbs_signed, c.f.natAbs_signed]
    exact (Nat.mul_pos (Fmt.exact_pos hza) (Fmt.exact_pos hzb)).ne'
  have h := c.rounds_roundZ hf hsat (c.f.neg a != c.f.neg b) 298 hne
  rw [Int.natAbs_mul, c.f.natAbs_signed, c.f.natAbs_signed, ← FCtx.mul_fin hf ha hb ha' hb'] at h
  rwa [Fmt.signed_mul_neg hza hzb] at h

theorem FCtx.div_invalid (h : (c.f.mag a = c.f.maxFin + 1 ∧ c.f.mag b = c.f.maxFin + 1) ∨ (c.f.mag a = 0 ∧ c.f.mag b = 0)) :
    c.div x y = invalid c.f := by
  rcases h with ⟨hia, hib⟩ | ⟨hza, hzb⟩
  · obtain ⟨hna, hia'⟩ := Fmt.class_of_inf hf hia
    obtain ⟨hnb, hib'⟩ := Fmt.class_of_inf hf hib
    rw [FCtx.div_eq ha hb hna hnb, hia', if_pos rfl, hib', if_pos rfl]
  · obtain ⟨hna, hia⟩ := Fmt.class_of_fin hf (v := a) (by omega)
    obtain ⟨hnb, hib⟩ := Fmt.class_of_fin hf (v := b) (by omega)
    rw [FCtx.div_eq ha hb hna hnb, hia, hib, if_neg Bool.false_ne_true, if_neg Bool.false_ne_true, if_pos hzb, if_pos hza]

theorem FCtx.div_inf_fin (hia : c.f.mag a = c.f.maxFin + 1) (hb' : c.f.mag b ≤ c.f.maxFin) :
    c.div x y = (c.f.put (c.f.neg a != c.f.neg b) (c.f.maxFin + 1), 0) := by
  obtain ⟨hna, hia'⟩ := Fmt.class_of_inf hf hia
  obtain ⟨hnb, hib⟩ := Fmt.class_of_fin hf hb'
  rw [FCtx.div_eq ha hb hna hnb, hia', if_pos rfl, hib, if_neg Bool.false_ne_true]

theorem FCtx.div_fin_inf (ha' : c.f.mag a ≤ c.f.maxFin) (hib : c.f.mag b = c.f.maxFin + 1) :
    c.div x y = (c.f.put (c.f.neg a != c.f.neg b) 0, 0) := by
  obtain ⟨hna, hia⟩ := Fmt.class_of_fin hf ha'
  obtain ⟨hnb, hib'⟩ := Fmt.class_of_inf hf hib
  rw [FCtx.div_eq ha hb hna hnb, hia, if_neg Bool.false_ne_true, hib', if_pos rfl]

theorem FCtx.div_by_zero (ha' : c.f.mag a ≤ c.f.maxFin) (hza : ¬ c.f.mag a = 0) (hzb : c.f.mag b = 0) :
    c.div x y = (c.f.put (c.f.neg a != c.f.neg b) (c.f.maxFin + 1), flDZ) := by
  obtain ⟨hna, hia⟩ := Fmt.class_of_fin hf ha'
  obtain ⟨hnb, hib⟩ := Fmt.class_of_fin hf (v := b) (by omega)
  rw [FCtx.div_eq ha hb hna hnb, hia, hib, if_neg Bool.false_ne_true, if_neg Bool.false_ne_true, if_pos hzb, if_neg hza]

theorem FCtx.div_fin (ha' : c.f.mag a ≤ c.f.maxFin) (hb' : c.f.mag b ≤ c.f.maxFin) (hzb : ¬ c.f.mag b = 0) :
    c.div x y = roundTo c.f c.mode c.sat c.ftz (c.f.neg a != c.f.neg b) (c.f.exact a) (c.f.exact b) := by
  obtain ⟨hna, hia⟩ := Fmt.class_of_fin hf ha'
  obtain ⟨hnb, hib⟩ := Fmt.class_of_fin hf hb'
  rw [FCtx.div_eq ha hb hna hnb, hia, hib, if_neg Bool.false_ne_true, if_neg Bool.false_ne_true, if_neg hzb]

theorem FCtx.div_zero_fin (hza : c.f.mag a = 0) (hb' : c.f.mag b ≤ c.f.maxFin) (hzb : ¬ c.f.mag b = 0) :
    c.div x y = (c.f.put (c.f.neg a != c.f.neg b) 0, 0) := by
  rw [FCtx.div_fin hf ha hb (by omega) hb' hzb, roundTo, if_pos (Fmt.exact_of_mag_zero hza)]

include hsat in
theorem FCtx.div_fin_fin (ha' : c.f.mag a ≤ c.f.maxFin) (hza : ¬ c.f.mag a = 0) (hb' : c.f.mag b ≤ c.f.maxFin) (hzb : ¬ c.f.mag b = 0) :
    Rounds c.f c.mode c.ftz (c.f.neg a != c.f.neg b) (ratio (c.f.exact a) (c.f.exact b)) (c.div x y) := by
  rw [FCtx.div_fin hf ha hb ha' hb' hzb]
  exact c.rounds_ratio hf hsat _ (Fmt.exact_pos hza) (Fmt.exact_pos hzb)

end Two

/-! ### Scaling and forms of one operand -/

section One
variable {c : FCtx} (hf : c.f ∈ [Fmt.fp32, .fp16, .bf16]) (hsat : c.sat = false) {x a : ℕ} (ha : c.input x = a)
include hf ha

theorem FCtx.scale_special (i : ℤ) (h : c.f.mag a = c.f.maxFin + 1 ∨ c.f.mag a = 0) : c.scale x i = (a, 0) := by
  rw [FCtx.scale, ha]
  rcases h with hia | hza
  · obtain ⟨hna, hia'⟩ := Fmt.class_of_inf hf hia
    rw [nanRule_one hna]
    simp only [hia', Bool.true_or, if_true]
  · obtain ⟨hna, -⟩ := Fmt.class_of_fin hf (v := a) (by omega)
    rw [nanRule_one hna]
    simp only [hza, beq_self_eq_true, Bool.or_true, if_true]

theorem FCtx.scale_fin (i : ℤ) (ha' : c.f.mag a ≤ c.f.maxFin) (hza : ¬ c.f.mag a = 0) : c.scale x i =
    roundTo c.f c.mode c.sat c.ftz (c.f.neg a) (c.f.exact a * if clampExp i < 0 then 1 else 2 ^ (clampExp i).natAbs)
      (2 ^ 149 * if clampExp i < 0 then 2 ^ (clampExp i).natAbs else 1) := by
  obtain ⟨hna, hia⟩ := Fmt.class_of_fin hf ha'
  rw [FCtx.scale, ha, nanRule_one hna]
  simp only [hia, beq_eq_false_iff_ne.mpr hza, Bool.or_false, Bool.false_eq_true, if_false]

include hsat in
theorem FCtx.scale_up {i : ℤ} (ha' : c.f.mag a ≤ c.f.maxFin) (hza : ¬ c.f.mag a = 0) (hi : 0 ≤ i) :
    Rounds c.f c.mode c.ftz (c.f.neg a) (ratio (c.f.exact a * 2 ^ i.natAbs) (2 ^ 149)) (c.scale x i) := by
  obtain ⟨m, hm, hclamp⟩ := clampExp_nonneg hi
  rw [FCtx.scale_fin hf ha i ha' hza, hm, if_neg (by omega), if_neg (by omega), Nat.mul_one, Int.natAbs_natCast]
  exact c.rounds_scaleUp hf hsat _ (Fmt.exact_pos hza) hclamp

include hsat in
theorem FCtx.scale_down {i : ℤ} (ha' : c.f.mag a ≤ c.f.maxFin) (hza : ¬ c.f.mag a = 0) (hi : i < 0) :
    Rounds c.f c.mode c.ftz (c.f.neg a) (ratio (c.f.exact a) (2 ^ 149 * 2 ^ i.natAbs)) (c.scale x i) := by
  obtain ⟨m, hpos, hm, hclamp⟩ := clampExp_neg hi
  rw [FCtx.scale_fin hf ha i ha' hza, hm, if_pos (by omega), if_pos (by omega), Nat.mul_one, Int.natAbs_neg, Int.natAbs_natCast]
  exact c.rounds_scaleDown hf hsat _ (Fmt.exact_pos hza) (c.f.exact_lt a) hclamp

/-- FRCP, FRSQ and FSQRT of zeros. -/
theorem FCtx.unary_zero (hza : c.f.mag a = 0) : c.unary 0 x = (c.f.put (c.f.neg a) (c.f.maxFin + 1), flDZ)
    ∧ c.unary 1 x = (c.f.put (c.f.neg a) (c.f.maxFin + 1), flDZ) ∧ c.unary 2 x = (a, 0) := by
  obtain ⟨hna, -⟩ := Fmt.class_of_fin hf (v := a) (by omega)
  simp only [FCtx.unary, ha, nanRule_one hna, hza, beq_self_eq_true, if_true, Fmt.infMag, and_self]

/-- Of infinities. -/
theorem FCtx.unary_inf (hia : c.f.mag a = c.f.maxFin + 1) : c.unary 0 x = (c.f.put (c.f.neg a) 0, 0)
    ∧ c.unary 1 x = (if c.f.neg a then invalid c.f else (c.f.put false 0, 0))
    ∧ c.unary 2 x = if c.f.neg a then invalid c.f else (a, 0) := by
  obtain ⟨hna, hia'⟩ := Fmt.class_of_inf hf hia
  have hz : (c.f.mag a == 0) = false := beq_eq_false_iff_ne.mpr (by omega)
  simp only [FCtx.unary, ha, nanRule_one hna, hia', hz, Bool.false_eq_true, if_false, if_true, true_and, and_true]
  rfl

/-- Of finite numbers. -/
theorem FCtx.unary_fin (ha' : c.f.mag a ≤ c.f.maxFin) (hza : ¬ c.f.mag a = 0) :
    c.unary 0 x = roundTo c.f c.mode c.sat c.ftz (c.f.neg a) (2 ^ 149) (c.f.exact a)
    ∧ c.unary 1 x = (if c.f.neg a then invalid c.f else c.roundSqrt (2 ^ 149) (c.f.exact a))
    ∧ c.unary 2 x = if c.f.neg a then invalid c.f else c.roundSqrt (c.f.exact a) (2 ^ 149) := by
  obtain ⟨hna, hia⟩ := Fmt.class_of_fin hf ha'
  have hz : (c.f.mag a == 0) = false := beq_eq_false_iff_ne.mpr hza
  simp only [FCtx.unary, ha, nanRule_one hna, hia, hz, Bool.false_eq_true, if_false, and_self]

include hsat in
theorem FCtx.unary_rounds (ha' : c.f.mag a ≤ c.f.maxFin) (hza : ¬ c.f.mag a = 0) :
    Rounds c.f c.mode c.ftz (c.f.neg a) (ratio (2 ^ 149) (c.f.exact a)) (c.unary 0 x)
    ∧ (c.f.neg a = true → c.unary 1 x = invalid c.f ∧ c.unary 2 x = invalid c.f)
    ∧ (c.f.neg a = false → Rounds c.f c.mode c.ftz false (root (2 ^ 149) (c.f.exact a)) (c.unary 1 x)
      ∧ Rounds c.f c.mode c.ftz false (root (c.f.exact a) (2 ^ 149)) (c.unary 2 x)) := by
  obtain ⟨h0, h1, h2⟩ := c.unary_fin hf ha ha' hza
  have hpos := Fmt.exact_pos hza
  have hone : 0 < 2 ^ 149 := by positivity
  rw [h0, h1, h2]
  refine ⟨c.rounds_ratio hf hsat _ hone hpos, fun hneg => ?_, fun hneg => ?_⟩
  · simp only [hneg, if_true, and_self]
  · simp only [hneg, Bool.false_eq_true, if_false]
    exact ⟨c.rounds_roundSqrt hf hsat hone hpos, c.rounds_roundSqrt hf hsat hpos hone⟩

end One

/-! ### Fused multiply-add -/

section Three
variable {c : FCtx} (hf : c.f ∈ [Fmt.fp32, .fp16, .bf16]) (hsat : c.sat = false) {x y z a b d : ℕ} (np nd : Bool)
  (ha : c.input x = a) (hb : c.input y = b) (hd : c.input z = d)

/-- The product is that of a zero and an infinity. -/
def Fmt.badProduct (f : Fmt) (a b : ℕ) : Prop := (f.mag a = f.maxFin + 1 ∧ f.mag b = 0) ∨ (f.mag a = 0 ∧ f.mag b = f.maxFin + 1)

theorem Fmt.badProduct_iff {f : Fmt} (hf : f ∈ [Fmt.fp32, .fp16, .bf16]) (a b : ℕ) :
    ((f.isInf a && f.mag b == 0) || (f.isInf b && f.mag a == 0)) = true ↔ f.badProduct a b := by
  rw [Bool.or_eq_true, Bool.and_eq_true, Bool.and_eq_true, Fmt.isInf_iff hf, Fmt.isInf_iff hf, beq_iff_eq, beq_iff_eq, Fmt.badProduct,
    and_comm (a := f.mag b = _)]

include ha hb hd

theorem FCtx.fma_of_nan {q : FRes} (h : nanRule c.f [a, b, d] = some q) : c.fma np nd x y z =
    (q.1, q.2 ||| if (c.f.isInf a && c.f.mag b == 0) || (c.f.isInf b && c.f.mag a == 0) then flNV else 0) := by
  rw [FCtx.fma, ha, hb, hd, h]

theorem FCtx.fma_of_not_nan (hna : c.f.isNan a = false) (hnb : c.f.isNan b = false) (hnd : c.f.isNan d = false) :
    let p := (c.f.neg a != c.f.neg b) != np
    let q := c.f.neg d != nd
    c.fma np nd x y z =
      if (c.f.isInf a && c.f.mag b == 0) || (c.f.isInf b && c.f.mag a == 0) then invalid c.f
      else if c.f.isInf a || c.f.isInf b then if c.f.isInf d && p != q then invalid c.f else (c.f.put p (c.f.maxFin + 1), 0)
      else if c.f.isInf d then (c.f.put q (c.f.maxFin + 1), 0)
      else c.roundZ (zeroSign c.mode p q) ((if p then -(c.f.exact a * c.f.exact b : ℤ) else c.f.exact a * c.f.exact b)
        + (if q then -(c.f.exact d * 2 ^ 149 : ℤ) else c.f.exact d * 2 ^ 149)) 298 := by
  rw [FCtx.fma, ha, hb, hd, nanRule_three hna hnb hnd]
  rfl

include hf

theorem FCtx.fma_nan (hbad : ¬ c.f.badProduct a b) : QuietsFirst c.f [a, b, d] (c.fma np nd x y z) :=
  quietsFirst_of_nanRule hf fun q hq => by
    rw [FCtx.fma_of_nan np nd ha hb hd hq, if_neg (mt (Fmt.badProduct_iff hf a b).mp hbad)]
    exact Prod.ext rfl (BitVec.or_zero)

theorem FCtx.fma_bad_nan (hbad : c.f.badProduct a b) (hn : c.f.maxFin + 1 < c.f.mag d) : (c.fma np nd x y z).2 = flNV := by
  have hnan : c.f.isNan d = true := (Fmt.isNan_iff hf).mpr hn
  rcases nanRule_cases c.f [a, b, d] with ⟨-, hnone⟩ | ⟨q, hq, hflag⟩
  · rw [hnone d (by simp)] at hnan
    exact absurd hnan Bool.false_ne_true
  · rw [FCtx.fma_of_nan np nd ha hb hd hq, if_pos ((Fmt.badProduct_iff hf a b).mpr hbad)]
    rcases hflag with h | h <;> rw [h] <;> rfl

theorem FCtx.fma_bad (hbad : c.f.badProduct a b) (hn : ¬ c.f.maxFin + 1 < c.f.mag d) : c.fma np nd x y z = invalid c.f := by
  have hab : ¬ c.f.maxFin + 1 < c.f.mag a ∧ ¬ c.f.maxFin + 1 < c.f.mag b := by
    rcases hbad with ⟨h, h'⟩ | ⟨h, h'⟩ <;> omega
  rw [FCtx.fma_of_not_nan np nd ha hb hd (Fmt.isNan_eq_false hf hab.1) (Fmt.isNan_eq_false hf hab.2) (Fmt.isNan_eq_false hf hn),
    if_pos ((Fmt.badProduct_iff hf a b).mpr hbad)]

/-- An infinite product, whose sign the sum takes unless the addend is an infinity of the other sign. -/
theorem FCtx.fma_inf_product (hbad : ¬ c.f.badProduct a b) (hna : ¬ c.f.maxFin + 1 < c.f.mag a) (hnb : ¬ c.f.maxFin + 1 < c.f.mag b)
    (hinf : c.f.mag a = c.f.maxFin + 1 ∨ c.f.mag b = c.f.maxFin + 1) (hnd : ¬ c.f.maxFin + 1 < c.f.mag d) :
    let p := (c.f.neg a != c.f.neg b) != np
    let q := c.f.neg d != nd
    c.fma np nd x y z = if c.f.isInf d && p != q then invalid c.f else (c.f.put p (c.f.maxFin + 1), 0) := by
  have h : (c.f.isInf a || c.f.isInf b) = true := by rwa [Bool.or_eq_true, Fmt.isInf_iff hf, Fmt.isInf_iff hf]
  rw [FCtx.fma_of_not_nan np nd ha hb hd (Fmt.isNan_eq_false hf hna) (Fmt.isNan_eq_false hf hnb) (Fmt.isNan_eq_false hf hnd),
    if_neg (mt (Fmt.badProduct_iff hf a b).mp hbad), if_pos h]

theorem FCtx.fma_inf_inf (hbad : ¬ c.f.badProduct a b) (hna : ¬ c.f.maxFin + 1 < c.f.mag a) (hnb : ¬ c.f.maxFin + 1 < c.f.mag b)
    (hinf : c.f.mag a = c.f.maxFin + 1 ∨ c.f.mag b = c.f.maxFin + 1) (hid : c.f.mag d = c.f.maxFin + 1) :
    let p := (c.f.neg a != c.f.neg b) != np
    let q := c.f.neg d != nd
    c.fma np nd x y z = if p = q then (c.f.put p (c.f.maxFin + 1), 0) else invalid c.f := by
  intro p q
  rw [FCtx.fma_inf_product hf np nd ha hb hd hbad hna hnb hinf (by omega), (Fmt.class_of_inf hf hid).2, Bool.true_and]
  simp only [bne_iff_ne, ne_eq, ite_not]
  rfl

theorem FCtx.fma_inf_fin (hbad : ¬ c.f.badProduct a b) (hna : ¬ c.f.maxFin + 1 < c.f.mag a) (hnb : ¬ c.f.maxFin + 1 < c.f.mag b)
    (hinf : c.f.mag a = c.f.maxFin + 1 ∨ c.f.mag b = c.f.maxFin + 1) (hd' : c.f.mag d ≤ c.f.maxFin) :
    c.fma np nd x y z = (c.f.put ((c.f.neg a != c.f.neg b) != np) (c.f.maxFin + 1), 0) := by
  rw [FCtx.fma_inf_product hf np nd ha hb hd hbad hna hnb hinf (by omega), (Fmt.class_of_fin hf hd').2, Bool.false_and,
    if_neg Bool.false_ne_true]

/-- A finite product. -/
theorem FCtx.fma_fin_product (ha' : c.f.mag a ≤ c.f.maxFin) (hb' : c.f.mag b ≤ c.f.maxFin) (hnd : ¬ c.f.maxFin + 1 < c.f.mag d) :
    let p := (c.f.neg a != c.f.neg b) != np
    let q := c.f.neg d != nd
    c.fma np nd x y z = if c.f.isInf d then (c.f.put q (c.f.maxFin + 1), 0)
      else c.roundZ (zeroSign c.mode p q) ((if p then -(c.f.exact a * c.f.exact b : ℤ) else c.f.exact a * c.f.exact b)
        + (if q then -(c.f.exact d * 2 ^ 149 : ℤ) else c.f.exact d * 2 ^ 149)) 298 := by
  obtain ⟨hna, hia⟩ := Fmt.class_of_fin hf ha'
  obtain ⟨hnb, hib⟩ := Fmt.class_of_fin hf hb'
  have hbad : ¬ c.f.badProduct a b := by
    rintro (⟨h, -⟩ | ⟨-, h⟩) <;> omega
  rw [FCtx.fma_of_not_nan np nd ha hb hd hna hnb (Fmt.isNan_eq_false hf hnd), if_neg (mt (Fmt.badProduct_iff hf a b).mp hbad), hia, hib,
    Bool.or_false, if_neg Bool.false_ne_true]

theorem FCtx.fma_fin_inf (ha' : c.f.mag a ≤ c.f.maxFin) (hb' : c.f.mag b ≤ c.f.maxFin) (hid : c.f.mag d = c.f.maxFin + 1) :
    c.fma np nd x y z = (c.f.put (c.f.neg d != nd) (c.f.maxFin + 1), 0) := by
  rw [FCtx.fma_fin_product hf np nd ha hb hd ha' hb' (by omega), (Fmt.class_of_inf hf hid).2, if_pos rfl]

include hsat in
theorem FCtx.fma_fin_fin (ha' : c.f.mag a ≤ c.f.maxFin) (hb' : c.f.mag b ≤ c.f.maxFin) (hd' : c.f.mag d ≤ c.f.maxFin) :
    let p := (c.f.neg a != c.f.neg b) != np
    let q := c.f.neg d != nd
    SumRounds c ((if p then -(c.f.exact a * c.f.exact b : ℤ) else c.f.exact a * c.f.exact b)
      + (if q then -(c.f.exact d * 2 ^ 149 : ℤ) else c.f.exact d * 2 ^ 149)) 298 (zeroSign c.mode p q) (c.fma np nd x y z) := by
  intro p q
  rw [FCtx.fma_fin_product hf np nd ha hb hd ha' hb' (by omega), (Fmt.class_of_fin hf hd').2, if_neg Bool.false_ne_true]
  exact c.sumRounds_roundZ hf hsat _ _ _

end Three

/-- R145-R149, R151, R154, R157-R159, clause by clause. -/
theorem roundedArithmetic : Claims.RoundedArithmetic := by
  intro c x y z hf hsat _ hx hy hz
  dsimp only
  simp only [← c.input_eq]
  exact ⟨⟨c.add_nan hf, c.sub_nan hf, c.mul_nan hf, c.div_nan hf, c.scale_nan hf z, fun op _ => c.unary_nan hf op⟩,
    -- FADD and FSUB
    c.sub_eq_add hf, c.add_inf_inf hf rfl rfl (c.input_lt hx), c.add_inf_fin hf rfl rfl (c.input_lt hx),
    c.add_fin_inf hf rfl rfl (c.input_lt hy), c.add_fin_fin hf hsat rfl rfl,
    -- FMUL
    c.mul_inf_zero hf rfl rfl, c.mul_inf hf rfl rfl, c.mul_fin_zero hf rfl rfl, c.mul_fin_fin hf hsat rfl rfl,
    -- FDIV
    c.div_invalid hf rfl rfl, c.div_inf_fin hf rfl rfl, c.div_fin_inf hf rfl rfl, c.div_by_zero hf rfl rfl,
    c.div_zero_fin hf rfl rfl, c.div_fin_fin hf hsat rfl rfl,
    -- FSCALE
    fun i => ⟨c.scale_special hf rfl i, fun hx' hne => ⟨c.scale_up hf hsat rfl hx' hne, c.scale_down hf hsat rfl hx' hne⟩⟩,
    -- FRCP, FRSQ and FSQRT
    c.unary_zero hf rfl, c.unary_inf hf rfl, c.unary_rounds hf hsat rfl,
    -- FMA, FMS and FNMA
    fun np nd => ⟨c.fma_nan hf np nd rfl rfl rfl, c.fma_bad_nan hf np nd rfl rfl rfl, c.fma_bad hf np nd rfl rfl rfl,
      c.fma_inf_inf hf np nd rfl rfl rfl, c.fma_inf_fin hf np nd rfl rfl rfl, c.fma_fin_inf hf np nd rfl rfl rfl,
      c.fma_fin_fin hf hsat np nd rfl rfl rfl⟩⟩

/-- Settles O8: the forms act element by element, and the operations on elements round as described (`rounds_roundTo`). -/
theorem floatResults : Obligations.FloatResults := ⟨floatForms, roundedArithmetic⟩

end Sys2Proof.Machine
end

section
/-! PROOF of O20 and O21: loads and stores whose lanes, or whose one access, pass their checks. -/
namespace Sys2Proof.Machine

set_option Elab.async false

/-! ## Vector loads and stores (R172-R178) -/

/-- The end of a form whose failing lanes are none, while its counter has room: with a lane that passed it starts its access. -/
theorem goes_of_endLanes {out : Out} {t u : State} {e full : Bool} {acc : Nat} {x : MemOp} {c : Checked} {fs : List Fail} {A B : MemOp → Prop}
    (h : out = .next (t.endLanes u e full acc x c fs)) (hfs : fs = []) (hroom : full = false) (hA : A x) (hB : B x) :
    (c.pass = [] → out = .next (u.advance e)) ∧ (c.pass ≠ [] → ∃ x, A x ∧ B x ∧ out = .next ((u.startOp x).advance e)) := by
  subst hfs hroom
  refine ⟨fun hp => ?_, fun hp => ⟨x, hA, hB, ?_⟩⟩
  · simp [h, State.endLanes, hp, State.settleLanes]
  · simp [h, State.endLanes, hp, State.settleLanes]

theorem State.full_load_eq_false (s : State) (h : s.grp.ldc < 62) : s.full true = false := decide_eq_false (Nat.not_le.2 h)

theorem State.full_store_eq_false (s : State) (h : s.grp.stc < 62) : s.full false = false := decide_eq_false (Nat.not_le.2 h)

section
variable {s : State} {e : Bool} {v o : BitVec 6} {a : BitVec 5} {z g : BitVec 3} {r : BitVec 2} (hv : s.me.valid = true)

include hv in
theorem exec_ld : exec (.ld e v a o z g r) s = .next (s.loadVec e v.toNat a.toNat o.toNat z.toNat g.toNat r.toNat false) := by
  change execLd e v a o z g r s = _
  rw [execLd, issue_valid _ hv]

include hv in
theorem exec_ldn : exec (.ldn e v a o z g r) s = .next (s.loadVec e v.toNat a.toNat o.toNat z.toNat g.toNat r.toNat true) := by
  change execLdn e v a o z g r s = _
  rw [execLdn, issue_valid _ hv]

theorem exec_st : exec (.st e v a o z g r) s = execSt e v a o z g r s := rfl

end

theorem toNat_beq {n : Nat} (x y : BitVec n) : (x.toNat == y.toNat) = (x == y) := by
  rw [Bool.eq_iff_iff, beq_iff_eq, beq_iff_eq, BitVec.toNat_inj]

/-- Settles O20, from how a form whose lanes were checked ends (`State.endLanes`). -/
theorem vectorLoadsAndStores : Obligations.VectorLoadsAndStores := by
  intro s t c e v o a z g r ha size data at' va lanes mine goes loads stores hw hd hfail
  have hat : at' = addrRegs a.toNat o.toNat := (addrRegs_toNat a o.toNat).symm
  clear_value at'
  subst hat
  have hr : (r.toNat == 1) = (r == 1) := toNat_beq r 1
  refine ⟨fun hf hc hcur hroom haway => ?_, fun hf hc hcur hroom => ?_, fun hf hc hcur hroom haway => ?_⟩
  · have h := loadVec_checked (e := e) (scope := g.toNat) (order := r.toNat) (ldn := false) ha hf hc hw hd
    refine goes_of_endLanes ((exec_ld ha.1).trans (congrArg _ h)) (by simp [hfail, haway]) (s.full_load_eq_false hroom) ?_ ?_
    · exact ⟨by simp [State.loadOp, hcur], rfl, rfl, rfl⟩
    · exact ⟨rfl, rfl, rfl, rfl, rfl, rfl, rfl, hr, rfl⟩
  · have h := loadVec_checked (e := e) (scope := g.toNat) (order := r.toNat) (ldn := true) ha hf hc hw hd
    refine goes_of_endLanes ((exec_ldn ha.1).trans (congrArg _ h)) hfail (s.full_load_eq_false hroom) ?_ ?_
    · exact ⟨by simp [State.loadOp, hcur], rfl, rfl, rfl⟩
    · exact ⟨rfl, rfl, rfl, rfl, rfl, rfl, rfl, hr, rfl⟩
  · have h := execSt_checked (e := e) (v := v) (o := o) (a := a) (z := z) (g := g) (r := r) ha hf hc hw hd
    refine goes_of_endLanes (exec_st.trans h) (by simp [hfail, haway]) (s.full_store_eq_false hroom) ?_ ?_
    · exact ⟨by simp [State.storeOp, hcur], rfl, rfl, rfl⟩
    · exact ⟨rfl, rfl, rfl, rfl, rfl, rfl⟩

/-! ## Scalar loads and stores (R179) -/

section Scalar

variable {s t : State} {c : Checked} {e : Bool} {d a b size : Nat} {flag : Bool}

/-- The access of a scalar load that passed its checks. -/
def State.sloadOp (s t : State) (c : Checked) (d va size : Nat) (acq : Bool) : MemOp :=
  { id := 0, splits := [s.cur], gid := t.cg, ctx := t.grp.ctx, core := t.cc, kind := .sload,
    units := unitsOf 0 va ((c.pass.head?.map fun p => p.2).getD []) 0, sreg := if d = 0 then 0 else t.scalarKey s.cur d + 1,
    size := size, scope := 4, acq := acq, pc := t.me.pc }

/-- The access of a scalar store that passed its checks. -/
def State.sstoreOp (s t : State) (c : Checked) (d va size : Nat) (rel : Bool) : MemOp :=
  { id := 0, splits := [s.cur], gid := t.cg, ctx := t.grp.ctx, core := t.cc, kind := .store,
    units := unitsOf 0 va ((c.pass.head?.map fun p => p.2).getD []) ((t.sget s.cur d).toNat % 256 ^ size), size := size, scope := 4,
    rel := rel, pc := t.me.pc }

/-- What a scalar access comes to that was checked: the access in flight, or the trap of the failure. -/
def ScalarGoes (out : State) (t : State) (k acc count : Nat) (e : Bool) (x : MemOp) (fs : List Fail) : Prop :=
  (fs = [] → count < 62 → out = (t.startOp x).advance e) ∧ ∀ f rest, fs = f :: rest → out = t.trap k (t.scalTrap k acc f)

/-- A scalar load that was checked, outside a region. -/
theorem loadScal_checked (ha : s.acts) (hf : s.free { ss := [a, b], ds := [d] })
    (hc : s.checkScal s.cur (s.sget s.cur a + s.sget s.cur b).toNat size needLoad = (t, c)) (hw : c.wait = false) (hd : c.dead = false) :
    ScalarGoes (s.loadScal e d a b size flag) t s.cur 1 s.grp.ldc e
      (s.sloadOp t c d (s.sget s.cur a + s.sget s.cur b).toNat size flag) (c.fail ++ c.away) := by
  simp only [State.free] at hf
  refine ⟨fun hfs hroom => ?_, fun f rest hfs => ?_⟩
  · have hfull : s.full true = false := s.full_load_eq_false hroom
    simp [State.loadScal, -BitVec.toNat_add, hf, hc, hw, hd, hfs, State.not_inRegion ha, hfull, State.sloadOp]
  · simp [State.loadScal, -BitVec.toNat_add, hf, hc, hw, hd, hfs]

/-- A scalar store that was checked, outside a region. -/
theorem storeScal_checked (ha : s.acts) (hf : s.free { ss := [a, b, d] })
    (hc : s.checkScal s.cur (s.sget s.cur a + s.sget s.cur b).toNat size needStore = (t, c)) (hw : c.wait = false) (hd : c.dead = false) :
    ScalarGoes (s.storeScal e d a b size flag) t s.cur 2 s.grp.stc e
      (s.sstoreOp t c d (s.sget s.cur a + s.sget s.cur b).toNat size flag) (c.fail ++ c.away) := by
  simp only [State.free] at hf
  refine ⟨fun hfs hroom => ?_, fun f rest hfs => ?_⟩
  · have hfull : s.full false = false := s.full_store_eq_false hroom
    simp [State.storeScal, -BitVec.toNat_add, hf, hc, hw, hd, hfs, State.not_inRegion ha, hfull, State.sstoreOp]
  · simp [State.storeScal, -BitVec.toNat_add, hf, hc, hw, hd, hfs]

/-- A form that a region bars, outside one. -/
theorem issue_outside (ha : s.acts) (f : State → State) (code detail : Nat) :
    issue s (fun s => if s.inRegion then s.barred code detail else f s) = .next (f s) := by
  rw [issue_valid _ ha.1, State.not_inRegion ha, if_neg Bool.false_ne_true]

end Scalar

/-- Settles O21: each form is one of the two scalar accesses, those with an order where no region bars them. -/
theorem scalarLoadsAndStores : Obligations.ScalarLoadsAndStores := by
  intro s t c e d a b ha va ps x load store hw hd
  have hload : ∀ (i : Instr) (size : Nat) (acq : Bool), exec i s = .next (s.loadScal e d.toNat a.toNat b.toNat size acq) → load i size acq := by
    intro i size acq hi hf hc
    obtain ⟨hgo, htrap⟩ := loadScal_checked (e := e) (flag := acq) ha hf hc hw hd
    exact ⟨fun hfs hroom => hi.trans (congrArg _ (hgo hfs hroom)), fun f rest hfs => hi.trans (congrArg _ (htrap f rest hfs))⟩
  have hstore : ∀ (i : Instr) (size : Nat) (rel : Bool), exec i s = .next (s.storeScal e d.toNat a.toNat b.toNat size rel) → store i size rel := by
    intro i size rel hi hf hc
    obtain ⟨hgo, htrap⟩ := storeScal_checked (e := e) (flag := rel) ha hf hc hw hd
    exact ⟨fun hfs hroom => hi.trans (congrArg _ (hgo hfs hroom)), fun f rest hfs => hi.trans (congrArg _ (htrap f rest hfs))⟩
  refine ⟨hload _ _ _ ?_, hload _ _ _ ?_, hload _ _ _ ?_, hload _ _ _ ?_, hstore _ _ _ ?_, hstore _ _ _ ?_, hstore _ _ _ ?_, hstore _ _ _ ?_⟩
  · exact issue_valid (fun s => s.loadScal e d.toNat a.toNat b.toNat 4 false) ha.1
  · exact issue_valid (fun s => s.loadScal e d.toNat a.toNat b.toNat 8 false) ha.1
  · exact issue_outside ha (fun s => s.loadScal e d.toNat a.toNat b.toNat 4 true) _ _
  · exact issue_outside ha (fun s => s.loadScal e d.toNat a.toNat b.toNat 8 true) _ _
  · exact issue_valid (fun s => s.storeScal e d.toNat a.toNat b.toNat 4 false) ha.1
  · exact issue_valid (fun s => s.storeScal e d.toNat a.toNat b.toNat 8 false) ha.1
  · exact issue_outside ha (fun s => s.storeScal e d.toNat a.toNat b.toNat 4 true) _ _
  · exact issue_outside ha (fun s => s.storeScal e d.toNat a.toNat b.toNat 8 true) _ _

end Sys2Proof.Machine
end

section
/-! PROOF of O23: the issue of atomics and the values they leave. -/
namespace Sys2Proof.Machine

set_option Elab.async false

/-! ## Units of an atomic (R180, R182) -/

theorem Place.plus_zero (p : Place) : p.plus 0 = p := by
  cases p <;> rfl

/-- The value of n registers has 4 n bytes. -/
theorem rowsVal_lt (s : State) (k v n l : Nat) : s.rowsVal k v n l < 256 ^ (4 * n) := by
  induction n with
  | zero => simp [State.rowsVal]
  | succ n ih =>
    have hsucc : s.rowsVal k v (n + 1) l = s.rowsVal k v n l + (s.vget k (v + n) l).toNat * 2 ^ (32 * n) := by
      simp [State.rowsVal, List.range_succ]
    have hpow : ∀ m, 256 ^ (4 * m) = 2 ^ (32 * m) := fun m => by
      rw [show (256 : Nat) = 2 ^ 8 by rfl, ← Nat.pow_mul]
      congr 1
      omega
    rw [hpow] at ih ⊢
    have hv : (s.vget k (v + n) l).toNat + 1 ≤ 2 ^ 32 := (s.vget k (v + n) l).isLt
    calc s.rowsVal k v (n + 1) l
        < 2 ^ (32 * n) + (s.vget k (v + n) l).toNat * 2 ^ (32 * n) := by rw [hsucc]; omega
      _ = ((s.vget k (v + n) l).toNat + 1) * 2 ^ (32 * n) := by ring
      _ ≤ 2 ^ 32 * 2 ^ (32 * n) := Nat.mul_le_mul_right _ hv
      _ = 2 ^ (32 * (n + 1)) := by rw [← Nat.pow_add]; congr 1; ring

/-- The units of a lane whose word lies in one place: two halves for f2add, else one. -/
theorem atomUnits_single {t : State} {k v op wide l va : Nat} {place : Place} (hwide : wide = 4 ∨ wide = 8) (hop : op = 11 → wide = 4) :
    t.atomUnits k v op wide l va [(place, wide, 0)] =
      if op = 11 then
        (List.range 2).map fun i =>
          ({ lane := l, place := place.plus (2 * i), size := 2, off := 2 * i, va := va,
             value := BitVec.ofNat 64 (t.rowsVal k v (wide / 4) l / 65536 ^ i % 65536) } : MUnit)
      else
        [{ lane := l, place := place, size := wide, off := 0, va := va,
           value := BitVec.ofNat 64 (t.rowsVal k (if op = 9 then v + wide / 4 else v) (wide / 4) l),
           cmp := BitVec.ofNat 64 (t.rowsVal k v (wide / 4) l) }] := by
  have h4 : 4 * (wide / 4) = wide := by rcases hwide with rfl | rfl <;> rfl
  have hlt : ∀ r, t.rowsVal k r (wide / 4) l < 256 ^ wide := fun r => by
    have := rowsVal_lt t k r (wide / 4) l
    rwa [h4] at this
  by_cases h : op = 11
  · have hx : t.rowsVal k v (wide / 4) l / 65536 % 65536 = t.rowsVal k v (wide / 4) l / 65536 := by
      have := hlt v
      rw [hop h] at this ⊢
      omega
    simp [State.atomUnits, h, List.range_succ, Place.plus_zero, hx]
  · simp [State.atomUnits, h, Nat.mod_eq_of_lt (hlt _)]

/-! ## Types (R180) -/

/-- The types that an op takes. -/
def atomTypes (op : Nat) : List Nat :=
  match op with
  | 0 | 5 | 6 | 7 => [0, 1, 2, 15]
  | 1 | 2 => [0, 1, 15]
  | 3 | 4 => [0, 2, 15]
  | 8 | 9 => [0, 1, 2, 3, 15]
  | 10 => [3]
  | 11 => [6, 7]
  | _ => []

theorem atomType_eq (p : BitVec 4) {ty : Nat} (h : ty < 16) : atomType p.toNat ty = (atomTypes p.toNat).contains ty := by
  decide +revert

theorem State.ty_lt (s : State) : s.ty < 16 := Nat.mod_lt _ (by decide)

/-- An atomic of a type that its op does not take, or of registers beyond the last or of an odd pair, is undefined. -/
theorem atomic_undef {s : State} {e : Bool} {v a o op scope : Nat} {rel returns : Bool} {wide count : Nat}
    (hwide : wide = if s.ty = 15 then 8 else 4) (hcount : count = if op = 9 then 2 * (wide / 4) else wide / 4)
    (h : ¬ (atomType op s.ty = true ∧ v + count ≤ 64 ∧ (s.ty = 15 → v % 2 = 0))) :
    s.atomic e v a o op scope rel returns = s.undef := by
  have hpos : 0 < count := by
    rw [hcount, hwide]
    split <;> split <;> decide
  have hbad : (!atomType op s.ty || decide (63 < v + count - 1) || (s.ty == 15 && v % 2 == 1)) = true := by
    by_contra hno
    simp only [Bool.not_eq_true, Bool.or_eq_false_iff, Bool.not_eq_eq_eq_not, Bool.not_false, decide_eq_false_iff_not, Bool.and_eq_false_iff,
      beq_eq_false_iff_ne] at hno
    obtain ⟨⟨hty, hlen⟩, hpair⟩ := hno
    refine h ⟨hty, by omega, fun h15 => ?_⟩
    have := hpair.resolve_left (not_not.mpr h15)
    omega
  unfold State.atomic
  simp only [← hwide, ← hcount, hbad, if_true]

/-! ## Issue (R180-R182) -/

section
variable {s : State} {e : Bool} {v o : BitVec 6} {a : BitVec 5} {p : BitVec 4} {g : BitVec 3} {l : BitVec 1} (hv : s.me.valid = true)
include hv

theorem exec_atom : exec (.atom e v a o p g l) s = .next (s.atomic e v.toNat a.toNat o.toNat p.toNat g.toNat (l == 1) true) := by
  change execAtom e v a o p g l s = _
  rw [execAtom, issue_valid _ hv]

theorem exec_red : exec (.red e v a o p g l) s = .next (s.atomic e v.toNat a.toNat o.toNat p.toNat g.toNat (l == 1) false) := by
  change execRed e v a o p g l s = _
  rw [execRed, issue_valid _ hv]

end

/-- An atomic whose lanes all pass, while its counter has room. -/
theorem endLanes_pass {t u : State} {e full : Bool} {acc : Nat} {x : MemOp} {c : Checked} {fs : List Fail} (hfs : fs = []) (hroom : full = false) :
    t.endLanes u e full acc x c fs = (if c.pass.isEmpty then u else u.startOp x).advance e := by
  subst hfs hroom
  simp [State.endLanes, State.settleLanes]

theorem atomicsIssue : Claims.AtomicsIssue := by
  intro s t c e v o a p g l ha wide n count srcs dsts at' types ok host lanes x
  have hat : at' = addrRegs a.toNat o.toNat := (addrRegs_toNat a o.toNat).symm
  clear_value at'
  subst hat
  have hwide : wide = 4 ∨ wide = 8 := by
    simp only [wide]
    split
    · exact .inr rfl
    · exact .inl rfl
  have htypes : atomType p.toNat s.ty = types.contains s.ty := atomType_eq p s.ty_lt
  have hcount : count = if p.toNat = 9 then 2 * (wide / 4) else wide / 4 := rfl
  refine ⟨fun k m va place hk => ?_, fun hok => ?_, fun hok hc hw hd hfs hcur => ?_⟩
  · have h := atomUnits_single (t := t) (k := s.cur) (v := v.toNat) (l := m) (va := va) (place := place) hwide fun h => if_neg (hk h)
    by_cases h11 : k = 11
    · subst h11
      exact h
    · rw [if_neg h11] at h
      exact h.trans (if_neg h11).symm
  · have hbad : ¬ (atomType p.toNat s.ty = true ∧ v.toNat + count ≤ 64 ∧ (s.ty = 15 → v.toNat % 2 = 0)) := by
      rwa [htypes]
    exact ⟨(exec_atom ha.1).trans (congrArg _ (atomic_undef rfl hcount hbad)), (exec_red ha.1).trans (congrArg _ (atomic_undef rfl hcount hbad))⟩
  · obtain ⟨hty, hlen, hpair⟩ := hok
    rw [← atomHost_eq] at hc
    refine ⟨fun hf hroom => (exec_atom ha.1).trans (congrArg _ ?_), fun hf hroom => (exec_red ha.1).trans (congrArg _ ?_)⟩
    · rw [atomic_checked (returns := true) ha rfl hcount (htypes.trans hty) hlen hpair hf hc hw hd]
      exact endLanes_pass hfs (s.full_load_eq_false hroom)
    · rw [atomic_checked (returns := false) ha rfl hcount (htypes.trans hty) hlen hpair hf hc hw hd]
      exact endLanes_pass hfs (s.full_store_eq_false hroom)

/-! ## Values (R180, R182, R183) -/

/-- A two's complement number of w bits, by the half of the range it lies in. -/
theorem elInt_signed {w n : Nat} (hw : 0 < w) (h : n < 2 ^ w) : elInt true w n = if n < 2 ^ (w - 1) then (n : Int) else (n : Int) - 2 ^ w := by
  obtain ⟨w, rfl⟩ : ∃ w', w = w' + 1 := ⟨w - 1, by omega⟩
  have hbit : n.testBit w = decide (2 ^ w ≤ n) := by
    rw [Nat.testBit_eq_decide_div_mod_eq]
    congr 1
    refine propext ⟨fun hd => ?_, fun hle => ?_⟩
    · by_contra hlt
      rw [Nat.div_eq_of_lt (by omega)] at hd
      omega
    · have hq : n / 2 ^ w = 1 := Nat.div_eq_of_lt_le (by omega) (by rw [Nat.pow_succ] at h; omega)
      rw [hq]
  simp only [elInt, Bool.true_and, Nat.add_sub_cancel, hbit, decide_eq_true_eq]
  by_cases h' : 2 ^ w ≤ n
  · rw [if_pos h', if_neg (by omega)]
  · rw [if_neg h', if_pos (by omega)]

theorem atomicValues : Claims.AtomicValues := by
  intro ty m x c w int hm hx
  have hpos : 0 < w 0 := by
    simp only [w]
    split
    · omega
    · split <;> omega
  have hint : ∀ n, n < 2 ^ w 0 → elInt true (w 0) n = int n := fun n hn => elInt_signed hpos hn
  refine ⟨rfl, ?_, ?_, rfl, rfl, fun i => Nat.testBit_and m x i, fun i => Nat.testBit_or m x i, fun i => Nat.testBit_xor m x i, rfl, rfl, ?_⟩
  · have h : atomOp 1 ty m x c = if int x < int m then x else m := by
      rw [← hint x hx, ← hint m hm]
      rfl
    rw [h]
    split <;> omega
  · have h : atomOp 2 ty m x c = if int m < int x then x else m := by
      rw [← hint x hx, ← hint m hm]
      rfl
    rw [h]
    split <;> omega
  · refine ⟨?_, ?_, ?_⟩ <;> rintro rfl <;> rfl

/-- Settles O23, from the checks and units of an atomic and from `atomOp`. -/
theorem atomics : Obligations.Atomics := ⟨atomicsIssue, atomicValues⟩

end Sys2Proof.Machine
end

section
/-! PROOF of O24 and O25: memory control, and waits for a value. -/
namespace Sys2Proof.Machine

set_option Elab.async false

/-! ## FENCE (R186) -/

/-- A mark whose accesses before and after are of one split adds no order that an earlier mark passes on. -/
theorem State.addMark_single {s : State} {m : FenceMark} {k : Nat} (hsrc : m.src = [k]) (hdst : m.dst = [k]) :
    s.addMark m = { s with fences := s.fences ++ [m] } := by
  have hnone : (s.fences.filter fun f => decide (f.id < m.upto) && (f.dst.any fun k => m.src.contains k) && m.dst.any fun k => !f.dst.contains k) = [] := by
    rw [List.filter_eq_nil_iff]
    intro f _
    simp only [hsrc, hdst, Bool.and_eq_true, not_and, Bool.not_eq_true]
    rintro ⟨-, hany⟩
    simpa using hany
  simp only [State.addMark, hnone, List.map_nil]

/-- The mark of a FENCE of scope c and order r. -/
def State.fenceMark (s : State) (c : BitVec 3) (r : BitVec 2) : FenceMark :=
  { id := s.nextId, upto := s.nextId, src := [s.cur], dst := [s.cur], acq := bit r 0, rel := bit r 1, both := r == 3, cores := [s.cc],
    rays := false, wb := bit r 1 && decide (2 ≤ c.toNat), drop := if bit r 0 ∧ 2 ≤ c.toNat then 2 else 0 }

theorem exec_fence {s : State} (ha : s.acts) (e : Bool) (c : BitVec 3) (r : BitVec 2) : exec (.fence e c r) s =
    .next (({ s with fences := s.fences ++ [s.fenceMark c r], nextId := s.nextId + 1 } : State).advance e) := by
  change execFence e c r s = _
  rw [execFence, issue_valid _ ha.1, State.plain_acts ha, State.not_inRegion ha, if_neg Bool.false_ne_true, State.fenceWith,
    State.addMark_single rfl rfl]
  have hdrop : (if bit r 0 then acqDrop c.toNat else 0) = if bit r 0 ∧ 2 ≤ c.toNat then 2 else 0 := by
    rw [acqDrop, ite_and]
  rw [hdrop]
  rfl

/-! ## PREF and PAGEQ (R188, R189) -/

theorem exec_pref {s : State} (ha : s.acts) {e : Bool} {n : BitVec 2} {a b : BitVec 5} (hf : s.free { ss := [a.toNat], sv := [b.toNat] }) :
    exec (.pref e n a b) s = .next (((s.glanes s.cur).foldl (fun t l =>
      t.prefLane n.toNat l (t.sget t.cur a.toNat + sext64 (t.vget t.cur b.toNat l)).toNat) s).advance e) := by
  change execPref e n a b s = _
  rw [execPref, issue_valid _ ha.1, State.form_free e .own _ ha hf, State.not_inRegion ha]
  rfl

/-- A translation that a lost home does not end has found its page entry, or none. -/
theorem lookup_ne_contained {s t : State} {core ctx va : Nat} {need : Need} {y : Xl} (h : s.translate core ctx va need = (t, y)) (hy : y ≠ .contained) :
    (s.lookup core ctx va).2 ≠ .contained := by
  intro hc
  refine hy ?_
  have h2 : (s.translate core ctx va need).2 = .contained := by
    simp only [State.translate, hc]
  rw [h] at h2
  exact h2

/-- PAGEQ where the walk meets no home that is out of service. -/
theorem exec_pageq {s u : State} (ha : s.acts) {e : Bool} {d a : BitVec 5} {n : BitVec 2} {v : Nat} (hf : s.free { ss := [a.toNat], ds := [d.toNat] })
    (hc : (s.sget s.cur a.toNat).toNat < 2 ^ 56 → (s.lookup s.cc s.grp.ctx (s.sget s.cur a.toNat).toNat).2 ≠ .contained)
    (hq : s.pageq (s.sget s.cur a.toNat).toNat n.toNat = (u, v)) :
    exec (.pageq e d a n) s = .next ((u.sset u.cur d.toNat (BitVec.ofNat 64 v)).advance e) := by
  change execPageq e d a n s = _
  rw [execPageq, issue_valid _ ha.1, State.not_inRegion ha, if_neg Bool.false_ne_true, State.whenFree_free _ ha hf]
  dsimp only
  rw [if_neg (fun h => hc h.1 h.2), hq]

theorem pageq_outside {s : State} {va kind : Nat} (h : 2 ^ 56 ≤ va) : s.pageq va kind = (s, 3) := by
  rw [State.pageq, if_pos h]

theorem pageq_present {s t : State} {va kind : Nat} {p : Place} {b : Bool} (h : va < 2 ^ 56)
    (ht : s.translate s.cc s.grp.ctx va (pageNeed kind) = (t, .ok p b)) : s.pageq va kind = (t, 0) := by
  rw [State.pageq, if_neg (by omega), ht]

theorem pageq_asks {s t u : State} {va kind : Nat} {y : Xl} {r : Posted} (h : va < 2 ^ 56)
    (ht : s.translate s.cc s.grp.ctx va (pageNeed kind) = (t, y)) (hy : y = .wait ∨ (∃ w, y = .absent w) ∨ ∃ f w, y = .fault f w)
    (hp : t.post { ctx := t.grp.ctx, va := va, kind := kind, src := 0, die := dieOf t.cc, core := t.cc % 64, who := .pageq } = (u, r)) :
    s.pageq va kind = (u, if r = .posted then 1 else 2) := by
  rw [State.pageq, if_neg (by omega), ht]
  rcases hy with rfl | ⟨w, rfl⟩ | ⟨f, w, rfl⟩ <;> cases r <;> simp [hp]

/-! ## CARVE (R191) -/

/-- CARVE of a context that may use it. -/
theorem exec_carve {s : State} (ha : s.acts) {e : Bool} {d a : BitVec 5} (hf : s.free { ss := [a.toNat], ds := [d.toNat] })
    (hc : s.ctx.carve = true) : exec (.carve e d a) s = .next (
      if a = 0 then (s.sset s.cur d.toNat (BitVec.ofNat 64 ((s.co s.cc).carved
        + if (s.co s.cc).pending then 2 ^ 8 * (s.co s.cc).target + 2 ^ 16 else 0))).advance e
      else ((s.carve s.cc (s.sget s.cur a.toNat)).1.sset (s.carve s.cc (s.sget s.cur a.toNat)).1.cur d.toNat
        (BitVec.ofNat 64 (s.carve s.cc (s.sget s.cur a.toNat)).2)).advance e) := by
  change execCarve e d a s = _
  rw [execCarve, issue_valid _ ha.1, State.not_inRegion ha, if_neg Bool.false_ne_true, State.whenFree_free _ ha hf]
  dsimp only
  rw [hc]
  rfl

theorem exec_carve_priv {s : State} (ha : s.acts) {e : Bool} {d a : BitVec 5} (hf : s.free { ss := [a.toNat], ds := [d.toNat] })
    (hc : s.ctx.carve = false) : exec (.carve e d a) s = .next (s.trapU cPriv) := by
  change execCarve e d a s = _
  rw [execCarve, issue_valid _ ha.1, State.not_inRegion ha, if_neg Bool.false_ne_true, State.whenFree_free _ ha hf, hc]
  rfl

theorem carve_refused {s : State} {core : Nat} {v : Word64} (h : [0, 4, 8, 12, 16].contains v.toNat = false) : s.carve core v = (s, 2) := by
  simp only [State.carve, h, Bool.false_eq_true, not_false_eq_true, if_true]

/-- A request for more banks than there are: granted, or held back while a team has bytes above the new edge. -/
theorem carve_more {s : State} {core : Nat} {v : Word64} (h : [4, 8, 12, 16].contains v.toNat = true) (hn : (s.co core).carved < v.toNat) :
    s.carve core v = if s.abufHeldAbove core (s.abufSize core - 49152 * v.toNat) then
      (s.modCo core fun c => { c with target := v.toNat, pending := true }, 1) else (s.growCarve core v.toNat, 0) := by
  have hin : [0, 4, 8, 12, 16].contains v.toNat = true := by
    simp only [List.contains_cons, Bool.or_eq_true] at h ⊢
    exact .inr h
  simp only [State.carve, hin, not_true_eq_false, if_false]
  rw [if_neg (by omega), if_neg (by omega)]

/-- R186, R188, R189, R191. -/
theorem memoryControlResults : Claims.MemoryControlResults := by
  intro s e d a b c r n ha x now
  refine ⟨?_, fun hf => exec_pref ha hf, fun hf hx => ?_, fun t p h hf hx ht => ?_, fun t y u r hf hx ht hy hp => ?_, fun hf => ⟨?_, ?_, ?_, ?_⟩, ?_⟩
  · exact ⟨s.fenceMark c r, exec_fence ha e c r, rfl, rfl, rfl, rfl, rfl, rfl, rfl, rfl, rfl, rfl, rfl⟩
  · exact exec_pageq ha hf (fun h => absurd hx h.not_ge) (pageq_outside hx)
  · exact exec_pageq ha hf (fun _ => lookup_ne_contained ht (by simp)) (pageq_present hx ht)
  · have hne : y ≠ .contained := by
      rcases hy with rfl | ⟨w, rfl⟩ | ⟨f, w, rfl⟩ <;> simp
    rw [exec_pageq ha hf (fun _ => lookup_ne_contained ht hne) (pageq_asks hx ht hy hp)]
    cases r <;> rfl
  · exact exec_carve_priv ha hf
  · intro hc h0 hp
    rw [exec_carve ha hf hc, if_pos h0, hp]
    rfl
  · intro hc h0 hx
    rw [exec_carve ha hf hc, if_neg h0, carve_refused hx]
    rfl
  · intro hc h0 hx hn
    refine ⟨fun hh => ?_, fun hh => ?_⟩
    · rw [exec_carve ha hf hc, if_neg h0, carve_more hx hn, hh]
      rfl
    · rw [exec_carve ha hf hc, if_neg h0, carve_more hx hn, hh]
      rfl
  · intro core hp hh
    change execCarveComplete core s = _
    simp [execCarveComplete, hp, hh, State.growCarve, State.modCo]

/-! ## CCTL (R187) -/

/-- CCTL of the L2 goes on where no sector of the range is dirty. -/
theorem cctlStep_clean {s : State} {n : Nat} {r : Option (List (Nat × Nat))} (hn : 2 ≤ n)
    (h : (((s.l2Secs (dieOf s.cc)).filter (inLines r)).filter fun sec => (s.l2At (dieOf s.cc) sec).state == 3) = []) :
    s.cctlStep n r = (if n = 3 then ((s.l2Secs (dieOf s.cc)).filter (inLines r)).foldl (fun t sec => t.setL2 (dieOf s.cc) sec {}) s else s, true) := by
  unfold State.cctlStep
  dsimp only
  rw [if_neg (by omega), h]
  rfl

/-- CCTL of the L2 asks for the write-back of the dirty sectors of the range. -/
theorem cctlStep_dirty {s : State} {n : Nat} {r : Option (List (Nat × Nat))} (hn : 2 ≤ n)
    (h : (((s.l2Secs (dieOf s.cc)).filter (inLines r)).filter fun sec => (s.l2At (dieOf s.cc) sec).state == 3) ≠ []) :
    s.cctlStep n r = ((((s.l2Secs (dieOf s.cc)).filter (inLines r)).filter fun sec => (s.l2At (dieOf s.cc) sec).state == 3).foldl
      (fun t sec => t.askWriteBack (dieOf s.cc) sec (n == 3)) s, false) := by
  unfold State.cctlStep
  dsimp only
  rw [if_neg (by omega), if_neg (by simpa using h)]

theorem exec_cctl {s : State} (ha : s.acts) {e : Bool} {n : BitVec 2} {a b : BitVec 5} (hf : s.free { ss := [a.toNat, b.toNat] }) :
    let x := s.cctlStep n.toNat (s.linesOf (s.sget s.cur a.toNat).toNat (s.sget s.cur b.toNat).toNat)
    exec (.cctl e n a b) s = .next (if x.2 then x.1.advance e else x.1.stall) := by
  change execCctl e n a b s = _
  rw [execCctl, issue_valid _ ha.1, State.not_inRegion ha, if_neg Bool.false_ne_true, State.whenFree_free _ ha hf]

/-- R187. -/
theorem cacheControl : Claims.CacheControl := by
  intro s e n a b ha hf r l1 l2 clean dirty
  have hstep : exec (.cctl e n a b) s = .next (if (s.cctlStep n.toNat r).2 then (s.cctlStep n.toNat r).1.advance e
      else (s.cctlStep n.toNat r).1.stall) := exec_cctl ha hf
  refine ⟨?_, ?_, ?_, ?_, fun hn hd => ?_⟩
  · rintro rfl
    exact hstep
  · rintro rfl
    exact hstep
  · rintro rfl hd
    rw [hstep, cctlStep_clean (by decide) hd]
    rfl
  · rintro rfl hd
    rw [hstep, cctlStep_clean (by decide) hd]
    rfl
  · have h3 : (n.toNat == 3) = (n == 3) := toNat_beq n 3
    rw [hstep, cctlStep_dirty hn hd, h3]
    exact ⟨_, rfl, rfl⟩

/-- Settles O24, form by form. -/
theorem memoryControl : Obligations.MemoryControl := ⟨memoryControlResults, cacheControl⟩

/-! ## WAITV (R190) -/

/-- WAITV whose lanes were checked and none failed, outside a region. -/
theorem waitv_checked {s t : State} {c : Checked} {e : Bool} {d a b : BitVec 5} (ha : s.acts) (hf : s.free { ss := [d.toNat, a.toNat], sv := [b.toNat] })
    (hc : s.checkLanes s.cur 4 needLoad false true ((s.glanes s.cur).map fun l =>
      (l, (s.sget s.cur a.toNat + sext64 (s.vget s.cur b.toNat l)).toNat)) = (t, c))
    (hw : c.wait = false) (hd : c.dead = false) (hfail : c.fail ++ c.away = []) :
    let mine := c.pass.map fun p => (p.1, (s.sget s.cur a.toNat + sext64 (s.vget s.cur b.toNat p.1)).toNat)
    let look := t.waitvLook s.cur mine (lo32 (s.sget s.cur d.toNat))
    exec (.waitv e d a b) s = .next (if c.pass = [] then t.advance e else if look.2 then look.1.advance e
      else look.1.waitFor s.cur (.waitv mine (lo32 (s.sget s.cur d.toNat)))) := by
  simp only [State.free] at hf
  change execWaitv e d a b s = _
  rw [execWaitv, issue_valid _ ha.1, State.not_inRegion ha]
  simp [hf, hc, hw, hd, hfail, -BitVec.toNat_add]

/-- What a read of a waiting WAITV comes to. -/
theorem waitvRead_eq {s u : State} {k : Nat} {ws : List (Nat × Nat)} {v : BitVec 32} {differs : Bool} (hw : (s.sp k).wait = .waitv ws v)
    (hv : (s.sp k).valid = true) (h : s.waitvLook k ws v = (u, differs)) : s.waitvRead k = if differs then u.finishAt k else u := by
  simp [State.waitvRead, hw, hv, h]

/-- A split that ends its wait while its context is not being saved stands behind its instruction. -/
theorem State.sp_finishAt {s : State} {k : Nat} {w : Word32} (hr : (s.sp k).rep = none) (hw : s.fetch (gidOf k) (s.sp k).pc = some w)
    (hs : (s.cx (s.gr (gidOf k)).ctx).state ≠ .saving) :
    (s.finishAt k).sp k = { s.sp k with pc := pcAdd (s.sp k).pc (if bit w 25 then 2 else 1), replay := none, wait := .none,
                                        readySince := s.stepNo, aged := false } := by
  unfold State.finishAt
  dsimp only
  rw [hw, Split.pastBy_no_rep hr, State.stopHere_running (by exact hs), State.sp_setSp]
  rfl

/-- Settles O25, from the checks of WAITV, the reads of a waiting split and the end of its wait. -/
theorem valueWaits : Obligations.ValueWaits := by
  intro s t u c e d a b k ws v at' mine value
  refine ⟨fun ha hf hc hw hd hfail => ?_, fun hw hv => ⟨?_, fun h => ⟨?_, ?_⟩, fun h => ⟨?_, ?_⟩⟩, fun hr w hw hs => State.sp_finishAt hr hw hs⟩
  · have h := waitv_checked (e := e) ha hf hc hw hd hfail
    refine ⟨fun hp => ?_, fun hp hl => ?_, fun hp hl => ?_⟩
    · exact h.trans (by rw [if_pos hp])
    · exact h.trans (by rw [if_neg hp, hl]; rfl)
    · exact h.trans (by rw [if_neg hp, hl]; rfl)
  · change execWaitvTimeout k s = _
    simp [execWaitvTimeout, hw, hv]
  · exact congrArg Host.Outcome.next (waitvRead_eq hw hv h)
  · exact congrArg Host.Outcome.next (waitvRead_eq hw hv h)
  · exact congrArg Host.Outcome.next (waitvRead_eq hw hv h)
  · exact congrArg Host.Outcome.next (waitvRead_eq hw hv h)

end Sys2Proof.Machine
end

section
/-! PROOF of O26: SYNC and the barriers at their issue, and what a set of SYNC that is complete does. -/
namespace Sys2Proof.Machine

set_option Elab.async false

/-! ## The other splits of the issuing group -/

/-- The numbers of the valid splits of the issuing group beside the issuing one. -/
def State.otherSlots (s : State) : List Nat := (List.range 4).filter fun n => (s.sp (4 * s.cg + n)).valid && n != s.cur % 4

theorem State.map_otherSlots (s : State) : s.otherSlots.map (fun n => 4 * s.cg + n) = (s.valids s.cg).filter fun k => k != s.cur := by
  have he : entries s.cg = (List.range 4).map fun n => 4 * s.cg + n := by
    simp [entries, List.range_succ]
  have hcur : ∀ n, (4 * s.cg + n != s.cur) = (n != s.cur % 4) := fun n => by
    rw [Bool.eq_iff_iff, bne_iff_ne, bne_iff_ne, State.cg, gidOf]
    omega
  rw [State.valids, List.filter_filter, he, List.filter_map, State.otherSlots]
  congr 1
  refine List.filter_congr fun n _ => ?_
  rw [Function.comp_apply, hcur, Bool.and_comm]

/-- What holds of some other valid split of the group, said by number. -/
theorem State.exists_otherSlot {s : State} {P : Nat → Prop} :
    (∃ n ∈ s.otherSlots, P (4 * s.cg + n)) ↔ ∃ k ∈ s.valids s.cg, k ≠ s.cur ∧ P k := by
  have h : ∀ k, (∃ n ∈ s.otherSlots, 4 * s.cg + n = k) ↔ k ∈ s.valids s.cg ∧ k ≠ s.cur := fun k => by
    rw [← List.mem_map, State.map_otherSlots, List.mem_filter, bne_iff_ne]
  refine ⟨fun ⟨n, hn, hp⟩ => ?_, fun ⟨k, hk, hne, hp⟩ => ?_⟩
  · obtain ⟨hk, hne⟩ := (h _).1 ⟨n, hn, rfl⟩
    exact ⟨_, hk, hne, hp⟩
  · obtain ⟨n, hn, rfl⟩ := (h k).2 ⟨hk, hne⟩
    exact ⟨n, hn, hp⟩

theorem State.gidOf_of_mem_valids {s : State} {g k : Nat} (h : k ∈ s.valids g) : gidOf k = g := mem_entries.1 (State.mem_valids.1 h).1

theorem State.otherId_iff {s : State} {same : Wait → Bool} :
    s.otherId s.cur same = true ↔ ∃ k ∈ s.valids s.cg, k ≠ s.cur ∧ same (s.sp k).wait = true := by
  simp only [State.otherId, List.any_eq_true, Bool.and_eq_true, bne_iff_ne]
  rfl

/-! ## SYNC at its issue (R193) -/

/-- The set that a split of group g waits for in a SYNC. -/
theorem State.syncSet_of_sync {s : State} {k : Nat} {y : BitVec 32} (hv : (s.sp k).valid = true) (hw : (s.sp k).wait = .sync y) :
    s.syncSet k = some (y &&& ~~~ (s.gr (gidOf k)).exited) := by
  simp only [State.syncSet, hw, hv]
  rfl

theorem State.syncSet_none {s : State} {k : Nat} (hw : ∀ y, (s.sp k).wait ≠ .sync y) : s.syncSet k = none := by
  unfold State.syncSet
  split
  · next m h => exact absurd h (hw m)
  · rfl

theorem State.syncSet_eq_some {s : State} {k : Nat} {m : BitVec 32} : s.syncSet k = some m ↔
    (s.sp k).valid = true ∧ ∃ y, (s.sp k).wait = .sync y ∧ y &&& ~~~ (s.gr (gidOf k)).exited = m := by
  constructor
  · intro h
    unfold State.syncSet at h
    split at h
    · next y hw =>
      split at h
      · next hv => exact ⟨hv, y, hw, Option.some.inj h⟩
      · cases h
    · cases h
  · rintro ⟨hv, y, hw, rfl⟩
    exact State.syncSet_of_sync hv hw

/-- The set of a SYNC in which a split waits meets m, and is another. -/
def State.setClashes (s : State) (m : BitVec 32) (k : Nat) : Bool :=
  match s.syncSet k with | some x => x != m && x &&& m != 0 | none => false

/-- The other splits of the group whose sets meet m and differ from it. -/
def State.syncClashes (s : State) (m : BitVec 32) : List Nat := (s.valids s.cg).filter fun k => s.setClashes m k && k != s.cur

theorem State.syncClashes_eq (s : State) (m : BitVec 32) :
    s.syncClashes m = (s.otherSlots.filter fun n => s.setClashes m (4 * s.cg + n)).map fun n => 4 * s.cg + n := by
  rw [State.syncClashes, ← List.filter_filter, ← State.map_otherSlots, List.filter_map]
  rfl

/-- The set that another slot's split waits for. -/
theorem State.syncSet_otherSlot {s : State} {n : Nat} (h : n ∈ s.otherSlots) : s.syncSet (4 * s.cg + n) =
    match (s.sp (4 * s.cg + n)).wait with | .sync y => some (y &&& ~~~ s.grp.exited) | _ => none := by
  obtain ⟨hn, hv⟩ := List.mem_filter.1 h
  have hg : gidOf (4 * s.cg + n) = s.cg := by
    have := List.mem_range.1 hn
    simp only [gidOf]
    omega
  simp only [Bool.and_eq_true] at hv
  simp only [State.syncSet, hv.1, hg]
  rfl

theorem exec_sync {s : State} (ha : s.acts) (hm : s.me.mode ≠ .emu) {e : Bool} {a : BitVec 5} (hf : s.free { ss := [a.toNat] }) :
    let m : BitVec 32 := lo32 (s.sget s.cur a.toNat) &&& ~~~ s.grp.exited
    exec (.sync e a) s = .next (if s.me.mask &&& ~~~ m ≠ 0 then s.trapU cSyncmask
      else if (s.syncClashes m).isEmpty then s.waitFor s.cur (.sync m) else s.trapAll (s.cur :: s.syncClashes m) cSyncmask) := by
  intro m
  change execSync e a s = _
  rw [execSync, issue_valid _ ha.1, State.not_inRegion ha, if_neg Bool.false_ne_true, if_neg hm, State.whenFree_free _ ha hf]
  have h : s.syncClashes m = (s.valids s.cg).filter fun k => k != s.cur && s.setClashes m k :=
    List.filter_congr fun k _ => Bool.and_comm _ _
  rw [h]
  rfl

/-- No other split clashes where each set is the same or apart. -/
theorem State.syncClashes_nil {s : State} {m : BitVec 32} (h : ∀ k ∈ s.valids s.cg, k ≠ s.cur → ∀ y, s.syncSet k = some y → y = m ∨ y &&& m = 0) :
    s.syncClashes m = [] := by
  rw [State.syncClashes, List.filter_eq_nil_iff]
  intro k hk hc
  rw [Bool.and_eq_true, bne_iff_ne] at hc
  obtain ⟨hc, hne⟩ := hc
  unfold State.setClashes at hc
  cases hs : s.syncSet k with
  | none => rw [hs] at hc; cases hc
  | some y =>
    rw [hs, Bool.and_eq_true, bne_iff_ne, bne_iff_ne] at hc
    rcases h k hk hne y hs with h | h
    · exact hc.1 h
    · exact hc.2 h

/-- SYNC of a set that holds the split's lanes, where no other set clashes. -/
theorem exec_sync_waits {s : State} (ha : s.acts) (hm : s.me.mode ≠ .emu) {e : Bool} {a : BitVec 5} (hf : s.free { ss := [a.toNat] })
    (hin : s.me.mask &&& ~~~ (lo32 (s.sget s.cur a.toNat) &&& ~~~ s.grp.exited) = 0)
    (h : ∀ k ∈ s.valids s.cg, k ≠ s.cur → ∀ y, s.syncSet k = some y →
      y = lo32 (s.sget s.cur a.toNat) &&& ~~~ s.grp.exited ∨ y &&& (lo32 (s.sget s.cur a.toNat) &&& ~~~ s.grp.exited) = 0) :
    exec (.sync e a) s = .next (s.waitFor s.cur (.sync (lo32 (s.sget s.cur a.toNat) &&& ~~~ s.grp.exited))) := by
  rw [exec_sync ha hm hf, if_neg (not_not.2 hin), State.syncClashes_nil h]
  rfl

/-! ## BAR, BARA and CBAR at their issue (R194) -/

/-- BAR or BARA takes SYNCMASK: another split waits at another id, the count is beyond the groups of the team, or the phase under way
expects another count. -/
def State.barClash (s : State) (id named : Nat) : Prop :=
  (∃ k ∈ s.valids s.cg, k ≠ s.cur ∧ ∃ j c, (s.sp k).wait = .bar j c ∧ j ≠ id) ∨ (s.tm s.grp.team).groups.length < named
    ∨ ((s.barrier s.grp.team id).gone s.cg &&& s.me.mask = 0 ∧ (s.barrier s.grp.team id).arrived ≠ []
        ∧ (s.barrier s.grp.team id).expected ≠ named)

/-- A wait at another id of a team barrier, or of a cluster barrier. -/
def Wait.otherBar (id : Nat) (w : Wait) : Bool := match w with | .bar i _ => i != id | _ => false
def Wait.otherCbar (id : Nat) (w : Wait) : Bool := match w with | .cbar i => i != id | _ => false

theorem Wait.otherBar_iff {id : Nat} {w : Wait} : w.otherBar id = true ↔ ∃ j c, w = .bar j c ∧ j ≠ id := by
  cases w <;> simp [Wait.otherBar]

theorem Wait.otherCbar_iff {id : Nat} {w : Wait} : w.otherCbar id = true ↔ ∃ j, w = .cbar j ∧ j ≠ id := by
  cases w <;> simp [Wait.otherCbar]

section Arrive
variable {s : State} {e : Bool} {id named : Nat} {waits : Bool}

theorem State.otherBar_iff : s.otherId s.cur (Wait.otherBar id) = true ↔
    ∃ k ∈ s.valids s.cg, k ≠ s.cur ∧ ∃ j c, (s.sp k).wait = .bar j c ∧ j ≠ id := by
  simp only [State.otherId_iff, Wait.otherBar_iff]

theorem State.otherCbar_iff : s.otherId s.cur (Wait.otherCbar id) = true ↔
    ∃ k ∈ s.valids s.cg, k ≠ s.cur ∧ ∃ j, (s.sp k).wait = .cbar j ∧ j ≠ id := by
  simp only [State.otherId_iff, Wait.otherCbar_iff]

/-- The issuing split's lanes counted at a barrier. -/
def State.counted (s : State) (id named : Nat) (waits : Bool) : State :=
  let b := s.barrier s.grp.team id
  s.setBarrier s.grp.team id { b with expected := named, lanes := if waits then b.lanes else b.lanes ++ [(s.cg, s.me.mask)] }

theorem arriveAt_eq : s.arriveAt e id named waits =
    if s.otherId s.cur (Wait.otherBar id) = true ∨ (s.tm s.grp.team).groups.length < named then s.trapU cSyncmask
    else if (s.barrier s.grp.team id).gone s.cg &&& s.me.mask ≠ 0 then s.waitFor s.cur (.phase id)
    else if (s.barrier s.grp.team id).arrived ≠ [] ∧ (s.barrier s.grp.team id).expected ≠ named then s.trapU cSyncmask
    else if waits then (s.counted id named waits).waitFor s.cur (.bar id named) else (s.counted id named waits).advance e := rfl

theorem arriveAt_clash (h : s.barClash id named) : s.arriveAt e id named waits = s.trapU cSyncmask := by
  rw [arriveAt_eq]
  rcases h with h | h | ⟨hg, hc⟩
  · rw [if_pos (.inl (State.otherBar_iff.2 h))]
  · rw [if_pos (.inr h)]
  · rw [if_neg (not_not.2 hg), if_pos hc, ite_self]

theorem arriveAt_held (h : ¬ s.barClash id named) (hg : (s.barrier s.grp.team id).gone s.cg &&& s.me.mask ≠ 0) :
    s.arriveAt e id named waits = s.waitFor s.cur (.phase id) := by
  simp only [State.barClash, not_or] at h
  rw [arriveAt_eq, if_neg (not_or.2 ⟨mt State.otherBar_iff.1 h.1, h.2.1⟩), if_pos hg]

theorem arriveAt_counted (h : ¬ s.barClash id named) (hg : (s.barrier s.grp.team id).gone s.cg &&& s.me.mask = 0) :
    s.arriveAt e id named waits =
      if waits then (s.counted id named waits).waitFor s.cur (.bar id named) else (s.counted id named waits).advance e := by
  simp only [State.barClash, not_or] at h
  rw [arriveAt_eq, if_neg (not_or.2 ⟨mt State.otherBar_iff.1 h.1, h.2.1⟩), if_neg (not_not.2 hg), if_neg fun hc => h.2.2 ⟨hg, hc⟩]

end Arrive

section BarForms
variable {s : State} (ha : s.acts) (hm : s.me.mode ≠ .emu) {e : Bool} {i : BitVec 4} {a : BitVec 5} (hf : s.free { ss := [a.toNat] })
include ha hm

theorem exec_cbar {j : BitVec 2} : exec (.cbar e j) s =
    .next (if s.otherId s.cur (Wait.otherCbar j.toNat) then s.trapU cSyncmask
      else s.waitFor s.cur (.cbar j.toNat)) := by
  change execCbar e j s = _
  rw [execCbar, issue_valid _ ha.1, State.not_inRegion ha, if_neg Bool.false_ne_true, if_neg hm]
  rfl

include hf

theorem exec_bar : exec (.bar e i a) s = .next (s.arriveAt e i.toNat ((s.sget s.cur a.toNat).toNat % 64) true) := by
  change execBar e i a s = _
  rw [execBar, issue_valid _ ha.1, State.not_inRegion ha, if_neg Bool.false_ne_true, if_neg hm, State.whenFree_free _ ha hf]
  rfl

theorem exec_bara : exec (.bara e i a) s = .next (s.arriveAt e i.toNat ((s.sget s.cur a.toNat).toNat % 64) false) := by
  change execBara e i a s = _
  rw [execBara, issue_valid _ ha.1, State.not_inRegion ha, if_neg Bool.false_ne_true, if_neg hm, State.whenFree_free _ ha hf]
  rfl

end BarForms

/-- R193, R194: SYNC, BAR, BARA and CBAR at their issue. -/
theorem barrierIssue : Claims.BarrierIssue := by
  intro s e i j a ha x m others t named b clash
  have hclash : clash ↔ s.barClash i.toNat named := 
    or_congr_left (s.exists_otherSlot (P := fun k => ∃ j c, (s.sp k).wait = .bar j c ∧ j ≠ i.toNat))
  refine ⟨fun hm => ⟨?_, ?_, ?_, ?_⟩, fun hm => ⟨fun hf hout => ?_, fun hf hin hset => ?_, fun hf hc => ?_, fun hf hc hg => ?_,
    fun hf hc hg => ?_, fun hf hin => ?_, fun hc => ?_, fun hc => ?_⟩⟩
  · change execSync e a s = _
    rw [execSync, issue_valid _ ha.1, State.not_inRegion ha, if_neg Bool.false_ne_true, if_pos hm]
  · change execBar e i a s = _
    rw [execBar, issue_valid _ ha.1, State.not_inRegion ha, if_neg Bool.false_ne_true, if_pos hm]
  · change execBara e i a s = _
    rw [execBara, issue_valid _ ha.1, State.not_inRegion ha, if_neg Bool.false_ne_true, if_pos hm]
  · change execCbar e j s = _
    rw [execCbar, issue_valid _ ha.1, State.not_inRegion ha, if_neg Bool.false_ne_true, if_pos hm]
  · rw [exec_sync ha hm hf, if_pos hout]
  · refine exec_sync_waits ha hm hf hin fun k hk hne y hy => ?_
    have hg := State.gidOf_of_mem_valids hk
    by_contra hcon
    obtain ⟨hv, y', hw, rfl⟩ := State.syncSet_eq_some.1 hy
    obtain ⟨n, hn, hp⟩ := (s.exists_otherSlot (P := fun k => ∃ y, (s.sp k).wait = .sync y
      ∧ ¬ (y &&& ~~~ s.grp.exited = m ∨ y &&& ~~~ s.grp.exited &&& m = 0))).2 ⟨k, hk, hne, y', hw, by rwa [hg] at hcon⟩
    obtain ⟨y, hw, hno⟩ := hp
    exact hno (hset n hn y hw)
  · rw [exec_bar ha hm hf, exec_bara ha hm hf, arriveAt_clash (hclash.1 hc), arriveAt_clash (hclash.1 hc)]
    exact ⟨rfl, rfl⟩
  · rw [exec_bar ha hm hf, exec_bara ha hm hf, arriveAt_held (mt hclash.2 hc) hg, arriveAt_held (mt hclash.2 hc) hg]
    exact ⟨rfl, rfl⟩
  · rw [exec_bar ha hm hf, exec_bara ha hm hf, arriveAt_counted (mt hclash.2 hc) hg, arriveAt_counted (mt hclash.2 hc) hg]
    exact ⟨rfl, rfl⟩
  · intro meets clashing hne
    have hmeets : ∀ n ∈ others, s.setClashes m (4 * s.cg + n) = meets n := fun n hn => by
      rw [State.setClashes, State.syncSet_otherSlot hn]
      simp only [meets]
      cases (s.sp (4 * s.cg + n)).wait <;> rfl
    have heq : s.syncClashes m = clashing := by
      rw [State.syncClashes_eq]
      exact congrArg _ (List.filter_congr hmeets)
    rw [exec_sync ha hm hf, if_neg (not_not.2 hin), heq, if_neg (by simpa using hne)]
  · have h := State.otherCbar_iff.2 ((s.exists_otherSlot (P := fun k => ∃ id, (s.sp k).wait = .cbar id ∧ id ≠ j.toNat)).1 hc)
    rw [exec_cbar ha hm, if_pos h]
  · have h : ¬ s.otherId s.cur (Wait.otherCbar j.toNat) = true := fun ho => by
      obtain ⟨n, hn, id, hw, hne⟩ := (s.exists_otherSlot (P := fun k => ∃ id, (s.sp k).wait = .cbar id ∧ id ≠ j.toNat)).2
        (State.otherCbar_iff.1 ho)
      exact hne (hc n hn id hw)
    rw [exec_cbar ha hm, if_neg h]

/-- R193: when the splits of a SYNC go on. -/
theorem syncReleases : Claims.SyncReleases := by
  intro s k m hv hw live waits ks here
  have hks : (s.valids (gidOf k)).filter (fun j => s.syncSet j == some live) = ks := by
    rw [State.valids, List.filter_filter]
    refine List.filter_congr fun j hj => ?_
    have hg : gidOf j = gidOf k := mem_entries.1 hj
    simp only [waits, State.syncSet, hg]
    cases (s.sp j).valid <;> cases (s.sp j).wait <;> simp [State.liveLanes]
  have hset : s.syncSet k = some live := State.syncSet_of_sync hv hw
  have hready : s.syncReady k = if live &&& ~~~ here = 0 then some ks else none := by
    simp only [State.syncReady, hset, hks]
    rfl
  exact ⟨fun h => by rw [hready, if_pos h], fun h => by rw [hready, if_neg h]⟩

end Sys2Proof.Machine
end

section
/-! PROOF of O26, concluded: the splits that a SYNC or a barrier releases go on behind their instructions. -/
namespace Sys2Proof.Machine

set_option Elab.async false

/-! ## The end of a wait -/

/-- Nothing differs but the split table, the marks of order and the next number. -/
def SplitsMoved (s t : State) : Prop := t = { s with splits := t.splits, fences := t.fences, nextId := t.nextId }

section Moved
variable {s t u : State}

theorem SplitsMoved.rfl' : SplitsMoved s s := rfl

theorem SplitsMoved.trans (h : SplitsMoved s t) (h' : SplitsMoved t u) : SplitsMoved s u := by
  unfold SplitsMoved at *
  rw [h', h]

theorem SplitsMoved.setSp (h : SplitsMoved s t) (k : Nat) (p : Split) : SplitsMoved s (t.setSp k p) :=
  h.trans rfl

theorem SplitsMoved.addMark (h : SplitsMoved s t) (m : FenceMark) : SplitsMoved s (t.addMark m) := h.trans rfl

theorem SplitsMoved.stopHere (h : SplitsMoved s t) (k : Nat) (pc : BitVec 32) : SplitsMoved s (t.stopHere k pc) := by
  unfold State.stopHere
  dsimp only
  split
  · exact h
  · split
    · split
      · exact h.setSp _ _
      · exact h
    · exact h

theorem SplitsMoved.finishAt (h : SplitsMoved s t) (k : Nat) : SplitsMoved s (t.finishAt k) := (h.setSp _ _).stopHere _ _

theorem SplitsMoved.gr (h : SplitsMoved s t) (g : Nat) : t.gr g = s.gr g := by
  rw [h]
  rfl

theorem SplitsMoved.cx (h : SplitsMoved s t) (c : Nat) : t.cx c = s.cx c := by
  rw [h]
  rfl

theorem SplitsMoved.tm (h : SplitsMoved s t) (n : Nat) : t.tm n = s.tm n := by
  rw [h]
  rfl

theorem SplitsMoved.stepNo (h : SplitsMoved s t) : t.stepNo = s.stepNo := by
  rw [h]

theorem SplitsMoved.fetch (h : SplitsMoved s t) (g : Nat) (pc : BitVec 32) : t.fetch g pc = s.fetch g pc := by
  rw [h]
  rfl

end Moved

theorem State.sp_stopHere_other (s : State) {j k : Nat} (pc : BitVec 32) (h : j ≠ k) : (s.stopHere k pc).sp j = s.sp j := by
  unfold State.stopHere
  dsimp only
  split
  · rfl
  · split
    · split
      · exact s.sp_setSp_other _ h
      · rfl
    · rfl

/-- A split that stops keeps all but its wait and the word it stops at. -/
theorem State.sp_stopHere (s : State) (k : Nat) (pc : BitVec 32) : (s.stopHere k pc).sp k = s.sp k
    ∨ ∃ w, (s.stopHere k pc).sp k = { s.sp k with wait := .stopped, stopLive := w } := by
  unfold State.stopHere
  dsimp only
  split
  · exact .inl rfl
  · split
    · split
      · exact .inr ⟨_, State.sp_setSp _ _ _⟩
      · exact .inl rfl
    · exact .inl rfl

theorem State.sp_finishAt_other (s : State) {j k : Nat} (h : j ≠ k) : (s.finishAt k).sp j = s.sp j :=
  (State.sp_stopHere_other _ _ h).trans (s.sp_setSp_other _ h)

theorem Split.valid_pastBy (p : Split) (n : Nat) : (p.pastBy n).valid = p.valid := by
  rw [Split.pastBy_kept]

/-- Split k of u is behind the instruction that it stood at in b, outside a REP and a save (R93). -/
def GoesOn (b u : State) (k : Nat) : Prop :=
  (b.sp k).rep = none → (b.cx (b.gr (gidOf k)).ctx).state ≠ .saving → ∀ w, b.fetch (gidOf k) (b.sp k).pc = some w →
    u.sp k = { b.sp k with pc := pcAdd (b.sp k).pc (if bit w 25 then 2 else 1), replay := none, wait := .none,
                           readySince := b.stepNo, aged := false }

/-- Split k goes on, and is as valid as before; it may stop at once, where its context is being saved. -/
structure Released (b u : State) (k : Nat) : Prop where
  goesOn : GoesOn b u k
  wait : (u.sp k).wait = .none ∨ (u.sp k).wait = .stopped
  valid : (u.sp k).valid = (b.sp k).valid

theorem Released.congr {b u v : State} {k : Nat} (h : Released b u k) (hv : v.sp k = u.sp k) : Released b v k where
  goesOn hr hs w hw := hv.trans (h.goesOn hr hs w hw)
  wait := by rw [hv]; exact h.wait
  valid := by rw [hv]; exact h.valid

/-- A split that has gone on waits in no SYNC and at no barrier. -/
theorem Released.syncSet_none {b u : State} {k : Nat} (h : Released b u k) : u.syncSet k = none :=
  State.syncSet_none fun y hy => by
    rcases h.wait with hw | hw <;> rw [hw] at hy <;> cases hy

/-- Split k past its instruction, and ready. -/
def State.behind (s : State) (k : Nat) : Split :=
  let e := match s.fetch (gidOf k) (s.sp k).pc with | some w => bit w 25 | none => false
  { (s.sp k).pastBy (fallBy e) with wait := .none, readySince := s.stepNo, aged := false }

theorem State.finishAt_eq (s : State) (k : Nat) : s.finishAt k = (s.setSp k (s.behind k)).stopHere k (s.sp k).pc := rfl

theorem released_finishAt {b t : State} {k : Nat} (h : SplitsMoved b t) (hk : t.sp k = b.sp k) : Released b (t.finishAt k) k := by
  have hq := State.sp_stopHere (t.setSp k (t.behind k)) k (t.sp k).pc
  rw [State.sp_setSp, ← State.finishAt_eq] at hq
  refine ⟨fun hr hs w hw => ?_, ?_, ?_⟩
  · rw [← hk] at hr hw ⊢
    rw [← h.fetch] at hw
    rw [← h.cx, ← h.gr] at hs
    rw [State.sp_finishAt hr hw hs, h.stepNo]
  · rcases hq with hq | ⟨w, hq⟩ <;> rw [hq]
    · exact .inl rfl
    · exact .inr rfl
  · have hv : (t.behind k).valid = (b.sp k).valid := (Split.valid_pastBy _ _).trans (congrArg Split.valid hk)
    rcases hq with hq | ⟨w, hq⟩ <;> rw [hq] <;> exact hv

/-- Splits that end their waits one after the other. -/
theorem released_foldl_finishAt {b : State} : ∀ (ks : List Nat) {t : State}, SplitsMoved b t → ks.Nodup → (∀ k ∈ ks, t.sp k = b.sp k) →
    SplitsMoved b (ks.foldl (fun u k => u.finishAt k) t) ∧ (∀ k ∈ ks, Released b (ks.foldl (fun u k => u.finishAt k) t) k)
      ∧ ∀ j, j ∉ ks → (ks.foldl (fun u k => u.finishAt k) t).sp j = t.sp j
  | [], t, hm, _, _ => ⟨hm, by simp, fun _ _ => rfl⟩
  | k :: ks, t, hm, hn, hsame => by
    obtain ⟨hk, hn⟩ := List.nodup_cons.1 hn
    have hsame' : ∀ j ∈ ks, (t.finishAt k).sp j = b.sp j := fun j hj => by
      have hne : j ≠ k := fun he => hk (he ▸ hj)
      rw [t.sp_finishAt_other hne]
      exact hsame j (List.mem_cons_of_mem _ hj)
    obtain ⟨hm', hrel, hother⟩ := released_foldl_finishAt ks (hm.finishAt k) hn hsame'
    refine ⟨hm', fun j hj => ?_, fun j hj => ?_⟩
    · rcases List.mem_cons.1 hj with rfl | hj
      · exact (released_finishAt hm (hsame j List.mem_cons_self)).congr (hother j hk)
      · exact hrel j hj
    · rw [List.mem_cons, not_or] at hj
      exact (hother j hj.2).trans (t.sp_finishAt_other hj.1)

/-! ## SYNC (R193) -/

/-- What a set of SYNC that is complete holds. -/
theorem State.syncReady_some {s : State} {k : Nat} {ks : List Nat} (h : s.syncReady k = some ks) :
    ∃ m, s.syncSet k = some m ∧ ks = (s.valids (gidOf k)).filter (fun j => s.syncSet j == some m)
      ∧ m &&& ~~~ (ks.foldl (fun x j => x ||| (s.sp j).mask) 0) = 0 := by
  unfold State.syncReady at h
  split at h
  · cases h
  · next m hm =>
    dsimp only at h
    split at h
    · next hz =>
      obtain rfl := Option.some.inj h
      exact ⟨m, hm, rfl, hz⟩
    · cases h

theorem State.mem_of_syncReady {s : State} {k j : Nat} {ks : List Nat} {m : BitVec 32} (hm : s.syncSet k = some m) (h : s.syncReady k = some ks) :
    j ∈ ks ↔ gidOf j = gidOf k ∧ s.syncSet j = some m := by
  obtain ⟨m', hm', rfl, -⟩ := State.syncReady_some h
  obtain rfl : m = m' := Option.some.inj (hm.symm.trans hm')
  rw [List.mem_filter, State.mem_valids, mem_entries, beq_iff_eq, and_assoc]
  refine and_congr_right fun _ => ⟨And.right, fun h => ⟨(State.syncSet_eq_some.1 h).1, h⟩⟩

theorem State.nodup_of_syncReady {s : State} {k : Nat} {ks : List Nat} (h : s.syncReady k = some ks) : ks.Nodup := by
  obtain ⟨m, -, rfl, -⟩ := State.syncReady_some h
  exact ((nodup_entries _).filter _).filter _

theorem State.syncSet_congr {s t : State} {j : Nat} (hm : SplitsMoved s t) (h : t.sp j = s.sp j) : t.syncSet j = s.syncSet j := by
  simp only [State.syncSet, State.liveLanes, h, hm.gr]

/-- The release of the set of entry k, if it is complete. -/
def State.releaseSync (t : State) (k : Nat) : State :=
  match t.syncReady k with
  | none => t
  | some ks => ks.foldl (fun t j => t.finishAt j) (t.fenceWith ks ks [] true true true 0)

theorem State.settleSync_eq (s : State) (g : Nat) : s.settleSync g = (entries g).foldl State.releaseSync s := rfl

/-- While the sets of a group are released, each split is as in b or has gone on. -/
structure SyncMoved (b t : State) : Prop where
  moved : SplitsMoved b t
  each : ∀ j, t.sp j = b.sp j ∨ Released b t j

/-- The splits of a set that is complete go on together. -/
theorem SyncMoved.releaseSync_some {b t : State} {x : Nat} {ks : List Nat} (h : SyncMoved b t) (hr : t.syncReady x = some ks) :
    SyncMoved b (t.releaseSync x) ∧ (∀ j ∈ ks, Released b (t.releaseSync x) j) ∧ ∀ j, j ∉ ks → (t.releaseSync x).sp j = t.sp j := by
  obtain ⟨m, hm, -⟩ := State.syncReady_some hr
  have hsame : ∀ j ∈ ks, (t.fenceWith ks ks [] true true true 0).sp j = b.sp j := fun j hj => by
    rcases h.each j with he | he
    · exact he
    · have hj := ((State.mem_of_syncReady hm hr).1 hj).2
      rw [he.syncSet_none] at hj
      cases hj
  have heq : t.releaseSync x = ks.foldl (fun t j => t.finishAt j) (t.fenceWith ks ks [] true true true 0) := by
    rw [State.releaseSync, hr]
  obtain ⟨hmoved, hrel, hother⟩ := released_foldl_finishAt ks (t := t.fenceWith ks ks [] true true true 0) (h.moved.trans rfl)
    (State.nodup_of_syncReady hr) hsame
  rw [← heq] at hmoved hrel hother
  refine ⟨⟨hmoved, fun j => ?_⟩, hrel, fun j hj => hother j hj⟩
  by_cases hj : j ∈ ks
  · exact .inr (hrel j hj)
  · exact (h.each j).imp (fun he => (hother j hj).trans he) fun he => he.congr (hother j hj)

theorem SyncMoved.releaseSync {b t : State} (h : SyncMoved b t) (x : Nat) : SyncMoved b (t.releaseSync x) := by
  cases hr : t.syncReady x with
  | none =>
    rw [State.releaseSync, hr]
    exact h
  | some ks => exact (h.releaseSync_some hr).1

/-- Splits of the set that have gone on stay so. -/
theorem releaseSync_done {b t : State} {ks : List Nat} (h : SyncMoved b t) (hd : ∀ j ∈ ks, Released b t j) (x : Nat) : ∀ j ∈ ks, Released b (t.releaseSync x) j := by
  intro j hj
  cases hr : t.syncReady x with
  | none =>
    rw [State.releaseSync, hr]
    exact hd j hj
  | some ks' =>
    by_cases hj' : j ∈ ks'
    · exact (h.releaseSync_some hr).2.1 j hj'
    · exact (hd j hj).congr ((h.releaseSync_some hr).2.2 j hj')

section Set
variable {b t : State} {k : Nat} {ks : List Nat} (hb : b.syncReady k = some ks) (h : SyncMoved b t)
include hb h

/-- While its splits wait, the set of b is the set of each of them. -/
theorem syncReady_fresh (hf : ∀ j ∈ ks, t.sp j = b.sp j) {x : Nat} (hx : x ∈ ks) : t.syncReady x = some ks := by
  obtain ⟨m, hm, hks, hz⟩ := State.syncReady_some hb
  obtain ⟨hg, hxm⟩ := (State.mem_of_syncReady hm hb).1 hx
  have hset : t.syncSet x = some m := (State.syncSet_congr h.moved (hf x hx)).trans hxm
  have hlist : (t.valids (gidOf x)).filter (fun j => t.syncSet j == some m) = ks := by
    rw [hks, hg, State.valids, State.valids, List.filter_filter, List.filter_filter]
    refine List.filter_congr fun j hj => ?_
    rcases h.each j with he | he
    · rw [State.syncSet_congr h.moved he, he]
    · have hno : b.syncSet j ≠ some m := fun hbj => by
        have hjk : j ∈ ks := (State.mem_of_syncReady hm hb).2 ⟨mem_entries.1 hj, hbj⟩
        have := (State.syncSet_congr h.moved (hf j hjk)).trans hbj
        rw [he.syncSet_none] at this
        cases this
      rw [he.syncSet_none, beq_eq_false_iff_ne.2 hno]
      rfl
  have hmask : ks.foldl (fun x j => x ||| (t.sp j).mask) (0 : BitVec 32) = ks.foldl (fun x j => x ||| (b.sp j).mask) 0 :=
    List.foldl_ext _ _ _ fun x j hj => by rw [hf j hj]
  simp only [State.syncReady, hset, hlist, hmask, hz, if_true]

/-- While its splits wait, a release of a set takes all of them along or none. -/
theorem releaseSync_fresh (hf : ∀ j ∈ ks, t.sp j = b.sp j) (x : Nat) :
    (x ∉ ks ∧ ∀ j ∈ ks, (t.releaseSync x).sp j = b.sp j) ∨ ∀ j ∈ ks, Released b (t.releaseSync x) j := by
  obtain ⟨m, hm, -⟩ := State.syncReady_some hb
  by_cases hx : x ∈ ks
  · exact .inr (h.releaseSync_some (syncReady_fresh hb h hf hx)).2.1
  · refine .inl ⟨hx, fun j hj => ?_⟩
    cases hr : t.syncReady x with
    | none =>
      rw [State.releaseSync, hr]
      exact hf j hj
    | some ks' =>
      have hj' : j ∉ ks' := fun hj' => hx ?_
      · exact ((h.releaseSync_some hr).2.2 j hj').trans (hf j hj)
      · obtain ⟨m', hm', -⟩ := State.syncReady_some hr
        obtain ⟨hgj, htj⟩ := (State.mem_of_syncReady hm' hr).1 hj'
        obtain ⟨hgk, hbj⟩ := (State.mem_of_syncReady hm hb).1 hj
        have hmm : m' = m := Option.some.inj (htj.symm.trans ((State.syncSet_congr h.moved (hf j hj)).trans hbj))
        rcases h.each x with he | he
        · exact (State.mem_of_syncReady hm hb).2 ⟨hgj.symm.trans hgk, by rw [← State.syncSet_congr h.moved he, hm', hmm]⟩
        · rw [he.syncSet_none] at hm'
          cases hm'

end Set

/-- The splits of a set that is complete have gone on once the entry of one of them was looked at. -/
theorem released_foldl_releaseSync {b : State} {k : Nat} {ks : List Nat} (hb : b.syncReady k = some ks) : ∀ (xs : List Nat) {t : State},
    SyncMoved b t → ((∀ j ∈ ks, t.sp j = b.sp j) ∧ ∃ x ∈ xs, x ∈ ks) ∨ (∀ j ∈ ks, Released b t j) →
    ∀ j ∈ ks, Released b (xs.foldl State.releaseSync t) j
  | [], t, _, hor => by
    rcases hor with ⟨-, x, hx, -⟩ | hd
    · cases hx
    · exact hd
  | x :: xs, t, h, hor => by
    refine released_foldl_releaseSync hb xs (h.releaseSync x) ?_
    rcases hor with ⟨hf, y, hy, hyk⟩ | hd
    · rcases releaseSync_fresh hb h hf x with ⟨hx, hf'⟩ | hd
      · refine .inl ⟨hf', y, ?_, hyk⟩
        exact (List.mem_cons.1 hy).resolve_left fun he => hx (he ▸ hyk)
      · exact .inr hd
    · exact .inr (releaseSync_done h hd x)

/-- A set that is complete is released when its group is settled. -/
theorem released_settleSync {b : State} {k : Nat} {ks : List Nat} (hb : b.syncReady k = some ks) :
    k ∈ ks ∧ ∀ j ∈ ks, Released b (b.settleSync (gidOf k)) j := by
  obtain ⟨m, hm, -⟩ := State.syncReady_some hb
  have hk : k ∈ ks := (State.mem_of_syncReady hm hb).2 ⟨rfl, hm⟩
  refine ⟨hk, ?_⟩
  rw [State.settleSync_eq]
  exact released_foldl_releaseSync hb _ ⟨.rfl', fun _ => .inl rfl⟩ (.inl ⟨fun _ _ => rfl, k, mem_entries.2 rfl, hk⟩)

/-! ## Team barriers (R194) -/

theorem State.barrier_setBarrier (s : State) (t id : Nat) (b : Barrier) : (s.setBarrier t id b).barrier t id = b := by
  simp only [State.barrier, State.setBarrier, State.modTm, State.tm_setTm]
  exact mget_mset_self _ _ _ _

theorem State.barrier_wake (s : State) (t id : Nat) : s.wake.barrier t id = s.barrier t id := rfl

theorem State.sp_setBarrier (s : State) (t id k : Nat) (b : Barrier) : (s.setBarrier t id b).sp k = s.sp k := rfl

/-- Noting arrivals changes what a barrier has counted, and nothing else. -/
theorem State.noteArrivals_eq (s : State) (t id : Nat) : s.noteArrivals t id = s
    ∨ ∃ ps, s.noteArrivals t id = s.setBarrier t id { s.barrier t id with arrived := ps } := by
  unfold State.noteArrivals
  dsimp only
  split
  · exact .inl rfl
  · exact .inr ⟨_, rfl⟩

theorem State.expected_noteArrivals (s : State) (t id : Nat) : ((s.noteArrivals t id).barrier t id).expected = (s.barrier t id).expected := by
  rcases s.noteArrivals_eq t id with h | ⟨ps, h⟩
  · rw [h]
  · rw [h, State.barrier_setBarrier]

theorem goesOn_of_noteArrivals {b v : State} {t id k : Nat} (h : GoesOn (b.noteArrivals t id) v k) : GoesOn b v k := by
  rcases b.noteArrivals_eq t id with he | ⟨ps, he⟩
  · rwa [he] at h
  · rw [he] at h
    exact h

/-- The marks of a phase that is over. -/
theorem moved_foldl_addMark {α : Type} {s : State} (f : State → α → FenceMark) (xs : List α) {t : State} (h : SplitsMoved s t)
    (hs : ∀ k, t.sp k = s.sp k) :
    SplitsMoved s (xs.foldl (fun u p => u.addMark (f u p)) t) ∧ ∀ k, (xs.foldl (fun u p => u.addMark (f u p)) t).sp k = s.sp k := by
  induction xs generalizing t with
  | nil => exact ⟨h, hs⟩
  | cons x xs ih => exact ih (h.addMark _) fun k => (State.sp_addMark _ _ _).trans (hs k)

/-- Splits held for the next phase issue again. -/
def State.readyPhase (s : State) (id : Nat) (ks : List Nat) : State :=
  ks.foldl (fun u k => if (u.sp k).wait = .phase id then u.ready k else u) s

theorem State.teams_readyPhase (id : Nat) : ∀ (ks : List Nat) (s : State), (s.readyPhase id ks).teams = s.teams
  | [], _ => rfl
  | k :: ks, s => by
    rw [State.readyPhase, List.foldl_cons]
    refine (State.teams_readyPhase id ks _).trans ?_
    split <;> rfl

theorem State.sp_readyPhase (id : Nat) {k : Nat} : ∀ (ks : List Nat) {s : State}, (s.sp k).wait ≠ .phase id → (s.readyPhase id ks).sp k = s.sp k
  | [], _, _ => rfl
  | j :: ks, s, h => by
    have hstep : (if (s.sp j).wait = .phase id then s.ready j else s).sp k = s.sp k := by
      split
      · next hj => exact s.sp_modSp_other _ fun he => h (he ▸ hj)
      · rfl
    rw [State.readyPhase, List.foldl_cons]
    refine (State.sp_readyPhase id ks ?_).trans hstep
    rwa [hstep]

/-- A split that waits at a team barrier. -/
def Wait.atBar (id : Nat) (w : Wait) : Bool := match w with | .bar i _ => i == id | _ => false

theorem State.mem_barWaiters {s : State} {t id k : Nat} :
    k ∈ s.barWaiters t id ↔ gidOf k ∈ (s.tm t).groups ∧ (s.sp k).valid = true ∧ (s.sp k).wait.atBar id = true := by
  have h : s.barWaiters t id = ((s.tm t).groups.flatMap s.valids).filter fun k => (s.sp k).wait.atBar id := rfl
  rw [h, List.mem_filter, List.mem_flatMap]
  constructor
  · rintro ⟨⟨g, hg, hk⟩, hw⟩
    obtain ⟨he, hv⟩ := State.mem_valids.1 hk
    exact ⟨(mem_entries.1 he).symm ▸ hg, hv, hw⟩
  · rintro ⟨hg, hv, hw⟩
    exact ⟨⟨_, hg, State.mem_valids.2 ⟨mem_entries.2 rfl, hv⟩⟩, hw⟩

/-- A group has arrived in a phase. -/
def Barrier.has (p : Barrier) (g : Nat) : Bool := p.arrived.any fun q => q.1 == g

/-- What waits at a barrier after the splits of the groups that had arrived have gone on. -/
theorem barWaiters_after {u w : State} {t id : Nat} {p : Barrier} (hm : SplitsMoved u w)
    (hrel : ∀ k ∈ (u.barWaiters t id).filter fun k => p.has (gidOf k), Released u w k)
    (hother : ∀ j, j ∉ (u.barWaiters t id).filter (fun k => p.has (gidOf k)) → w.sp j = u.sp j) :
    w.barWaiters t id = [] ↔ (u.barWaiters t id).all (fun k => p.has (gidOf k)) = true := by
  rw [List.eq_nil_iff_forall_not_mem, List.all_eq_true]
  refine ⟨fun h k hk => ?_, fun h k hk => ?_⟩
  · by_contra hno
    have hsame := hother k fun hmem => hno (List.mem_filter.1 hmem).2
    refine h k ?_
    rw [State.mem_barWaiters, hm.tm, hsame]
    exact State.mem_barWaiters.1 hk
  · obtain ⟨hg, hv, hw⟩ := State.mem_barWaiters.1 hk
    by_cases hmem : k ∈ (u.barWaiters t id).filter fun k => p.has (gidOf k)
    · rcases (hrel k hmem).wait with hn | hn <;> rw [hn] at hw <;> cases hw
    · have hsame := hother k hmem
      rw [hsame] at hv hw
      rw [hm.tm] at hg
      have hku : k ∈ u.barWaiters t id := State.mem_barWaiters.2 ⟨hg, hv, hw⟩
      exact hmem (List.mem_filter.2 ⟨hku, h k hku⟩)

/-- The splits that a phase lets go on. -/
def State.phaseSplits (u : State) (t id : Nat) (p : Barrier) : List Nat := (u.barWaiters t id).filter fun k => p.has (gidOf k)

/-- The order that a phase puts between what a group that arrived has issued and what those splits do next. -/
def State.phaseMark (u : State) (t id : Nat) (p : Barrier) (v : State) (q : Nat × Nat) : FenceMark :=
  { id := v.nextId, upto := q.2, src := v.groupKeys q.1, dst := u.phaseSplits t id p, acq := true, rel := true, both := true,
    cores := [(u.tm t).core], drop := 1 }

def State.phaseMarks (u : State) (t id : Nat) (p : Barrier) : State :=
  (p.arrived.foldl (fun v q => v.addMark (u.phaseMark t id p v q)) u).fresh

/-- The splits of a phase gone on. -/
def State.phaseGone (u : State) (t id : Nat) (p : Barrier) : State :=
  (u.phaseSplits t id p).foldl (fun v k => v.finishAt k) (u.phaseMarks t id p)

/-- What groups that have not arrived have issued for the next phase. -/
def Barrier.rest (p : Barrier) : List (Nat × BitVec 32) := p.lanes.filter fun q => !p.has q.1

/-- The barrier at the start of the next phase. -/
def State.phaseLeft (w : State) (t id : Nat) (p : Barrier) : Barrier :=
  if p.rest.isEmpty ∧ (w.barWaiters t id).isEmpty then {} else { expected := p.expected, lanes := p.rest }

theorem State.nextPhase_eq (w : State) (t id : Nat) (p : Barrier) : w.nextPhase t id p =
    (w.setBarrier t id (w.phaseLeft t id p)).readyPhase id
      (((w.setBarrier t id (w.phaseLeft t id p)).tm t).groups.flatMap (w.setBarrier t id (w.phaseLeft t id p)).valids) := rfl

theorem State.settleBarrier_eq {b u : State} {t id : Nat} {p : Barrier} (hu : b.noteArrivals t id = u) (hp : u.barrier t id = p) :
    b.settleBarrier t id = if p.arrived = [] ∨ u.arrivals t p < u.expectedOf t p.expected then u
      else ((u.phaseGone t id p).nextPhase t id p).wake := by
  unfold State.settleBarrier
  dsimp only
  rw [hu, hp]
  rfl

theorem State.barrier_readyPhase (s : State) (t id : Nat) (ks : List Nat) : (s.readyPhase id ks).barrier t id = s.barrier t id := by
  simp only [State.barrier, State.tm, State.teams_readyPhase]

section Phase
variable {u : State} {t id : Nat} {p : Barrier} (hn : (u.barWaiters t id).Nodup)
include hn

/-- The splits of a phase go on, and the others stay. -/
theorem State.phaseGone_facts : SplitsMoved u (u.phaseGone t id p) ∧ (∀ k ∈ u.phaseSplits t id p, Released u (u.phaseGone t id p) k)
    ∧ ∀ j, j ∉ u.phaseSplits t id p → (u.phaseGone t id p).sp j = u.sp j := by
  obtain ⟨hmv, hsv⟩ := moved_foldl_addMark (u.phaseMark t id p) p.arrived (t := u) .rfl' fun _ => rfl
  obtain ⟨hmw, hrel, hother⟩ := released_foldl_finishAt (u.phaseSplits t id p) (b := u) (t := u.phaseMarks t id p) (hmv.trans rfl)
    (hn.filter _) fun k _ => hsv k
  exact ⟨hmw, hrel, fun j hj => (hother j hj).trans (hsv j)⟩

/-- After the phase, its splits have gone on. -/
theorem released_endPhase {k : Nat} (hk : k ∈ u.phaseSplits t id p) : Released u ((u.phaseGone t id p).nextPhase t id p).wake k := by
  have hr := (State.phaseGone_facts hn).2.1 k hk
  have hsame : ((u.phaseGone t id p).nextPhase t id p).sp k = (u.phaseGone t id p).sp k := by
    rw [State.nextPhase_eq]
    refine State.sp_readyPhase id _ ?_
    rw [State.sp_setBarrier]
    rcases hr.wait with hw | hw <;> rw [hw] <;> exact nofun
  refine hr.congr ?_
  rw [State.sp_wake, hsame, wakeSplit, if_neg]
  rcases hr.wait with hw | hw <;> simp [hw]

/-- After the phase, the barrier counts what other groups have issued. -/
theorem barrier_endPhase : ((u.phaseGone t id p).nextPhase t id p).wake.barrier t id =
    if p.rest = [] ∧ (u.barWaiters t id).all (fun k => p.has (gidOf k)) = true then {} else { expected := p.expected, lanes := p.rest } := by
  obtain ⟨hm, hrel, hother⟩ := State.phaseGone_facts (p := p) hn
  have hleft : ((u.phaseGone t id p).nextPhase t id p).wake.barrier t id = (u.phaseGone t id p).phaseLeft t id p := by
    rw [State.barrier_wake, State.nextPhase_eq, State.barrier_readyPhase, State.barrier_setBarrier]
  rw [hleft]
  simp only [State.phaseLeft, List.isEmpty_iff, barWaiters_after hm hrel hother]

end Phase

/-- A phase whose expected groups have arrived is over: their splits go on, and the barrier counts what the others have issued. -/
theorem settleBarrier_complete {b : State} {t id : Nat} (harr : ((b.noteArrivals t id).barrier t id).arrived ≠ [])
    (hexp : (b.noteArrivals t id).expectedOf t (b.barrier t id).expected ≤ (b.noteArrivals t id).arrivals t ((b.noteArrivals t id).barrier t id))
    (hn : ((b.noteArrivals t id).barWaiters t id).Nodup) :
    let u := b.noteArrivals t id
    let p := u.barrier t id
    (∀ k ∈ u.barWaiters t id, p.has (gidOf k) = true → GoesOn b (b.settleBarrier t id) k)
    ∧ (b.settleBarrier t id).barrier t id =
        if p.rest = [] ∧ (u.barWaiters t id).all (fun k => p.has (gidOf k)) = true then {} else { expected := p.expected, lanes := p.rest } := by
  intro u p
  have hgo : ¬ (p.arrived = [] ∨ u.arrivals t p < u.expectedOf t p.expected) := by
    rw [State.expected_noteArrivals]
    exact not_or.2 ⟨harr, hexp.not_gt⟩
  have hsettle : b.settleBarrier t id = ((u.phaseGone t id p).nextPhase t id p).wake := by
    rw [State.settleBarrier_eq rfl rfl, if_neg hgo]
  rw [hsettle]
  exact ⟨fun k hk hhas => goesOn_of_noteArrivals (released_endPhase hn (List.mem_filter.2 ⟨hk, hhas⟩)).goesOn, barrier_endPhase hn⟩

/-! ## Cluster barriers (R194) -/

/-- A cluster barrier that every group of its teams has issued is over. -/
theorem settleCbar_complete {b : State} {t id : Nat} :
    let gs := (b.clusterTeams t).flatMap b.teamLive
    let ks := (gs.flatMap b.valids).filter fun k => (b.sp k).wait == .cbar id
    gs.all (fun g => b.groupAtCbar g id) = true → ks.Nodup → ks ≠ [] → ∀ k ∈ ks, GoesOn b (b.settleCbar t id) k := by
  intro gs ks hall hn hne
  have hks : ks = (gs.flatMap b.valids).filter fun k => match (b.sp k).wait with | .cbar i => i == id | _ => false :=
    List.filter_congr fun k _ => by cases (b.sp k).wait <;> simp
  have hgo : ¬ (ks = [] ∨ ¬ gs.all (fun g => b.groupAtCbar g id) = true) := not_or.2 ⟨hne, not_not.2 hall⟩
  have hsettle : b.settleCbar t id = ks.foldl (fun u k => u.finishAt k)
      (b.fenceWith (gs.flatMap b.groupKeys) ks (((b.clusterTeams t).map fun t => (b.tm t).core).dedup) true true true 2) := by
    rw [hks] at hgo ⊢
    unfold State.settleCbar
    exact if_neg hgo
  obtain ⟨-, hrel, -⟩ := released_foldl_finishAt ks (b := b) (t := b.fenceWith (gs.flatMap b.groupKeys) ks
    (((b.clusterTeams t).map fun t => (b.tm t).core).dedup) true true true 2) rfl hn fun _ _ => rfl
  rw [hsettle]
  exact fun k hk => (hrel k hk).goesOn

/-- R193, R194: what completes a SYNC or a barrier. -/
theorem barrierReleases : Claims.BarrierReleases := by
  intro s e i j a ha hm x m t named goesOn
  refine ⟨fun hf hin hset => ?_, fun hf hid hlen hg hcount => ?_, fun hid => ?_⟩
  · intro b
    refine ⟨exec_sync_waits ha hm hf hin hset, fun ks hks => ?_⟩
    obtain ⟨hcur, hrel⟩ := released_settleSync hks
    exact ⟨hcur, fun k hk => (hrel k hk).goesOn⟩
  · intro b u p
    have hno : ¬ s.barClash i.toNat named := by
      rintro (⟨k, hk, hne, id, c, hw, hid'⟩ | h | ⟨-, h1, h2⟩)
      · exact hid' (hid k hk hne id c hw)
      · exact hlen.not_gt h
      · exact hcount.elim h1 h2
    have hb : (b.barrier t i.toNat).expected = named := congrArg Barrier.expected (s.barrier_setBarrier t i.toNat _)
    refine ⟨?_, fun harr hexp hn => ?_⟩
    · rw [exec_bar ha hm hf, arriveAt_counted hno hg]
      rfl
    · have hexp' : u.expectedOf t (b.barrier t i.toNat).expected ≤ u.arrivals t p := by
        rw [hb]
        exact hexp
      exact settleBarrier_complete harr hexp' hn
  · intro b gs ks
    have h : ¬ s.otherId s.cur (Wait.otherCbar j.toNat) = true := fun ho => by
      obtain ⟨k, hk, hne, id, hw, hid'⟩ := State.otherCbar_iff.1 ho
      exact hid' (hid k hk hne id hw)
    refine ⟨by rw [exec_cbar ha hm, if_neg h], fun hcg hall hn => ?_⟩
    have hme : b.sp s.cur = { s.me with wait := .cbar j.toNat } := State.sp_modSp _ _ _
    have hvalid : s.cur ∈ b.valids s.cg := State.mem_valids.2 ⟨mem_entries.2 rfl, by rw [hme]; exact ha.1⟩
    have hcur : s.cur ∈ ks := List.mem_filter.2 ⟨List.mem_flatMap.2 ⟨s.cg, hcg, hvalid⟩, by rw [hme]; exact beq_self_eq_true _⟩
    exact ⟨hcur, settleCbar_complete hall hn (List.ne_nil_of_mem hcur)⟩

/-- Settles O26, from the checks at issue, the sets that are complete, and what a release does. -/
theorem barriersAndSync : Obligations.BarriersAndSync := ⟨barrierIssue, syncReleases, barrierReleases⟩

end Sys2Proof.Machine
end

section
/-! PROOF of O27: the accumulator forms. -/
namespace Sys2Proof.Machine

set_option Elab.async false

/-! ## The prelude of the forms (R197, R200) -/

section Prelude
variable {s : State} {e : Bool} {u : Uses} {first n : State → Nat} {check : State → Option Nat} {eff : State → State}
  (ha : s.acts) (hf : s.free { u with sq := [gGuard s.me.gmode] })
include ha hf

/-- What a form of the accumulators comes to outside a region, its registers free. -/
theorem accForm_free : s.accForm e u first n check eff =
    if s.guard s.cur = 0 then s.advance e
    else match check s with
    | some c => s.trap s.cur (s.guardTrap c (s.guard s.cur))
    | none =>
      if s.tileBusy s.grp.team ((List.range (n s)).map fun i => first s + i) || s.underTest s.cc 2 (256 * first s) (256 * n s) then s.stall
      else (eff s).advance e := by
  simp only [State.free] at hf
  rw [State.accForm, State.not_inRegion ha, hf]
  rfl

theorem accForm_no_lane (hg : s.guard s.cur = 0) : s.accForm e u first n check eff = s.advance e := by
  rw [accForm_free ha hf, if_pos hg]

theorem accForm_traps (hg : s.guard s.cur ≠ 0) {c : Nat} (hc : check s = some c) :
    s.accForm e u first n check eff = s.trap s.cur (s.guardTrap c (s.guard s.cur)) := by
  rw [accForm_free ha hf, if_neg hg, hc]

theorem accForm_acts (hg : s.guard s.cur ≠ 0) (hc : check s = none)
    (hb : s.tileBusy s.grp.team ((List.range (n s)).map fun i => first s + i) = false)
    (ht : s.underTest s.cc 2 (256 * first s) (256 * n s) = false) : s.accForm e u first n check eff = (eff s).advance e := by
  rw [accForm_free ha hf, if_neg hg, hc, hb, ht]
  rfl

theorem accForm_acts_tile (hg : s.guard s.cur ≠ 0) (hc : check s = none) (hb : s.tileBusy s.grp.team [first s] = false)
    (ht : s.underTest s.cc 2 (256 * first s) 256 = false) : s.accForm e u first (fun _ => 1) check eff = (eff s).advance e :=
  accForm_acts (n := fun _ => 1) ha hf hg hc hb ht

end Prelude

theorem Team.ownsTiles_iff {t : Team} {first n : Nat} :
    t.ownsTiles first n = true ↔ n = 0 ∨ (t.accFirst ≤ first ∧ first + n ≤ t.accFirst + t.accCount) := decide_eq_true_iff

theorem State.tileCheck_owned {s : State} {tile : Nat} (h : s.team.ownsTiles tile 1 = true) : s.tileCheck tile = none := if_pos h

theorem State.tileCheck_foreign {s : State} {tile : Nat} (h : ¬ s.team.ownsTiles tile 1 = true) : s.tileCheck tile = some cAccrange := if_neg h

/-! ## Errors in a tile (R322) -/

theorem State.correctTile_clean {s : State} {core tile : Nat}
    (h : ∀ x ∈ s.soft, x < poisonKey core 2 (256 * tile) ∨ poisonKey core 2 (256 * tile + 256) ≤ x) : s.correctTile core tile = s := by
  refine if_neg ?_
  simp only [List.any_eq_true, decide_eq_true_eq, not_exists, not_and]
  intro x hx hlo
  have := h x hx
  omega

/-- A correction changes the list of correctable errors, and what notes them. -/
theorem State.correctTile_eq (s : State) (core tile : Nat) :
    ∃ so di fn, s.correctTile core tile = { s with soft := so, dies := di, funcs := fn } := by
  unfold State.correctTile State.detect State.startTest
  dsimp only
  split
  · split
    · exact ⟨_, _, _, rfl⟩
    · exact ⟨_, _, _, rfl⟩
  · exact ⟨_, _, _, rfl⟩

/-! ## The block of a tile's elements (R198) -/

/-- The registers of the block with the lanes of a list. -/
def accBlock (ls : List Nat) : List (Nat × Nat) := List.range 8 ×ˢ ls

theorem mem_accBlock {ls : List Nat} {q : Nat × Nat} : q ∈ accBlock ls ↔ q.1 < 8 ∧ q.2 ∈ ls := by
  rw [accBlock, List.mem_product, List.mem_range]

theorem nodup_accBlock {ls : List Nat} (h : ls.Nodup) : (accBlock ls).Nodup := List.nodup_range.product h

/-- A fold over the registers and within it over the lanes is one over the block. -/
theorem foldl_accBlock {α : Type} (f : α → Nat → Nat → α) (ls : List Nat) (x : α) :
    (List.range 8).foldl (fun x i => ls.foldl (fun x l => f x i l) x) x = (accBlock ls).foldl (fun x q => f x q.1 q.2) x := by
  have h : ∀ (is : List Nat) (x : α), is.foldl (fun x i => ls.foldl (fun x l => f x i l) x) x = (is ×ˢ ls).foldl (fun x q => f x q.1 q.2) x := by
    intro is
    induction is with
    | nil => exact fun _ => rfl
    | cons i is ih =>
      intro x
      rw [List.foldl_cons, ih, List.product_cons, List.foldl_append, List.foldl_map]
  exact h _ x

/-- The rows of the block are different. -/
theorem rowOf_block_inj {d c k i j : Nat} (hi : i < 8) (hj : j < 8) (h : rowOf d c (8 * k + i) = rowOf d c (8 * k + j)) : i = j := by
  by_cases hk : k = 0
  · subst hk
    simp only [rowOf] at h
    rw [if_pos (by omega), if_pos (by omega)] at h
    omega
  · simp only [rowOf] at h
    rw [if_neg (by omega), if_neg (by omega)] at h
    have hm : 40 * c + (8 * k + i) - 8 ≡ 40 * c + (8 * k + j) - 8 [MOD 40 * d + 16] := by
      unfold Nat.ModEq
      omega
    rw [show 40 * c + (8 * k + i) - 8 = 40 * c + (8 * k - 8) + i by omega,
      show 40 * c + (8 * k + j) - 8 = 40 * c + (8 * k - 8) + j by omega] at hm
    exact (hm.add_left_cancel').eq_of_lt_of_lt (by omega) (by omega)

theorem accWord_inj {i j l m : Nat} (hl : l < 32) (hm : m < 32) (h : accWord i l = accWord j m) : i = j ∧ l = m := by
  simp only [accWord] at h
  omega

theorem accWord_lt {i l : Nat} (hi : i < 8) (hl : l < 32) : accWord i l < 256 := by
  simp only [accWord]
  omega

/-! ## ACC.LD -/

/-- Writes of one register in several lanes are writes of the vector file. -/
theorem State.vsets_eq (k n : Nat) (f : Nat → Word32) : ∀ (ls : List Nat) (s : State), s.vsets k n ls f =
    { s with vreg := ls.foldl (fun m l => mset 0 m (vKey (gidOf k) (s.row k n) l) (f l)) s.vreg }
  | [], _ => rfl
  | l :: ls, s => State.vsets_eq k n f ls (s.vset k n l (f l))

/-- The rows of the block take their elements. -/
theorem State.loadBlock_eq (s : State) (k : Nat) (f : Nat → Nat → Word32) :
    (List.range 8).foldl (fun t i => t.vsets t.cur (8 * k + i) (t.glanes t.cur) (f i)) s =
      { s with vreg := (accBlock (s.glanes s.cur)).foldl (fun m q => mset 0 m (vKey s.cg (s.row s.cur (8 * k + q.1)) q.2) (f q.1 q.2)) s.vreg } := by
  have h : ∀ (is : List Nat) (m : Map Word32),
      is.foldl (fun t i => t.vsets t.cur (8 * k + i) (t.glanes t.cur) (f i)) ({ s with vreg := m } : State) =
        { s with vreg := is.foldl (fun m i => (s.glanes s.cur).foldl (fun m l => mset 0 m (vKey s.cg (s.row s.cur (8 * k + i)) l) (f i l)) m) m } := by
    intro is
    induction is with
    | nil => exact fun _ => rfl
    | cons i is ih =>
      intro m
      rw [List.foldl_cons, State.vsets_eq]
      exact ih _
  rw [← foldl_accBlock (fun m i l => mset 0 m (vKey s.cg (s.row s.cur (8 * k + i)) l) (f i l))]
  exact h _ s.vreg

/-- The block in registers after ACC.LD, and the registers that it leaves. -/
theorem State.loadBlock_reads (s : State) (k : Nat) (f : Nat → Nat → Word32) :
    ∃ t, (List.range 8).foldl (fun t i => t.vsets t.cur (8 * k + i) (t.glanes t.cur) (f i)) s = t ∧ t = { s with vreg := t.vreg }
    ∧ (∀ i < 8, ∀ l < 32, bit (s.guard s.cur) l = true → t.vget s.cur (8 * k + i) l = f i l)
    ∧ ∀ j, (∀ l < 32, bit (s.guard s.cur) l = true → ∀ i < 8, j ≠ vKey s.cg (s.row s.cur (8 * k + i)) l) → mget 0 t.vreg j = mget 0 s.vreg j := by
  have hlane : ∀ {q : Nat × Nat}, q ∈ accBlock (s.glanes s.cur) → q.1 < 8 ∧ q.2 < 32 ∧ bit (s.guard s.cur) q.2 = true :=
    fun hq => ⟨(mem_accBlock.1 hq).1, mem_lanesOf.1 (mem_accBlock.1 hq).2⟩
  refine ⟨_, s.loadBlock_eq k f, rfl, fun i hi l hl hb => ?_, fun j hj => ?_⟩
  · refine mget_foldl_mset_mem 0 (fun q : Nat × Nat => vKey s.cg (s.row s.cur (8 * k + q.1)) q.2) (fun q => f q.1 q.2) _ _ ?_ (i, l)
      (mem_accBlock.2 ⟨hi, mem_lanesOf.2 ⟨hl, hb⟩⟩)
    refine List.Nodup.map_on (fun q hq r hr he => ?_) (nodup_accBlock (nodup_lanesOf _))
    obtain ⟨hq8, hq32, -⟩ := hlane hq
    obtain ⟨hr8, hr32, -⟩ := hlane hr
    simp only [vKey] at he
    have hrow : s.row s.cur (8 * k + q.1) = s.row s.cur (8 * k + r.1) := by omega
    exact Prod.ext (rowOf_block_inj hq8 hr8 hrow) (by omega)
  · refine mget_foldl_mset_other 0 _ _ _ _ fun q hq => ?_
    obtain ⟨hq8, hq32, hb⟩ := hlane hq
    exact (hj q.2 hq32 hb q.1 hq8).symm

/-- The same of a state in which a tile's errors have been corrected. -/
theorem State.loadBlock_corrected (s : State) (core tile k : Nat) (f : Nat → Nat → Word32) :
    ∃ t, (List.range 8).foldl (fun t i => t.vsets t.cur (8 * k + i) (t.glanes t.cur) (f i)) (s.correctTile core tile) = t
    ∧ t = { s.correctTile core tile with vreg := t.vreg }
    ∧ (∀ i < 8, ∀ l < 32, bit (s.guard s.cur) l = true → t.vget s.cur (8 * k + i) l = f i l)
    ∧ ∀ j, (∀ l < 32, bit (s.guard s.cur) l = true → ∀ i < 8, j ≠ vKey s.cg (s.row s.cur (8 * k + i)) l) → mget 0 t.vreg j = mget 0 s.vreg j := by
  obtain ⟨so, di, fn, hv⟩ := s.correctTile_eq core tile
  rw [hv]
  exact State.loadBlock_reads ({ s with soft := so, dies := di, funcs := fn }) k f

/-! ## ACC.ST -/

/-- The elements of a tile are written. -/
theorem State.storeBlock_eq (s : State) (core tile : Nat) (f : Nat → Nat → Word32) (ls : List Nat) : ∃ p,
    (List.range 8).foldl (fun t i => ls.foldl (fun t l => t.tileSet core tile (accWord i l) (f i l)) t) s =
      { s with tiles := (accBlock ls).foldl (fun m q => mset 0 m (tileKey core tile (accWord q.1 q.2)) (f q.1 q.2)) s.tiles, poison := p } := by
  have h : (List.range 8).foldl (fun t i => ls.foldl (fun t l => t.tileSet core tile (accWord i l) (f i l)) t) s =
      (accBlock ls).foldl (fun t q => t.tileSet core tile (accWord q.1 q.2) (f q.1 q.2)) s :=
    foldl_accBlock (fun (t : State) i l => t.tileSet core tile (accWord i l) (f i l)) ls s
  rw [h]
  clear h
  generalize accBlock ls = qs
  induction qs generalizing s with
  | nil => exact ⟨s.poison, rfl⟩
  | cons q qs ih =>
    obtain ⟨p, hp⟩ := ih (s.tileSet core tile (accWord q.1 q.2) (f q.1 q.2))
    exact ⟨p, by rw [List.foldl_cons, hp]; rfl⟩

/-- The tile after ACC.ST, and the tiles that it leaves. -/
theorem State.storeBlock_reads (s : State) (core tile : Nat) (f : Nat → Nat → Word32) (m : BitVec 32) :
    ∃ t, (List.range 8).foldl (fun t i => (lanesOf m).foldl (fun t l => t.tileSet core tile (accWord i l) (f i l)) t) s = t
    ∧ t = { s with tiles := t.tiles, poison := t.poison }
    ∧ (∀ i < 8, ∀ l < 32, t.tileGet core tile (accWord i l) = if bit m l then f i l else s.tileGet core tile (accWord i l))
    ∧ ∀ c u w, w < 256 → (c ≠ core ∨ u ≠ tile) → u < 2048 → tile < 2048 → t.tileGet c u w = s.tileGet c u w := by
  have hlane : ∀ {q : Nat × Nat}, q ∈ accBlock (lanesOf m) → q.1 < 8 ∧ q.2 < 32 ∧ bit m q.2 = true :=
    fun hq => ⟨(mem_accBlock.1 hq).1, mem_lanesOf.1 (mem_accBlock.1 hq).2⟩
  have hinj : ∀ {q r : Nat × Nat}, q.2 < 32 → r.2 < 32 → tileKey core tile (accWord q.1 q.2) = tileKey core tile (accWord r.1 r.2) → q = r :=
    fun hq hr he => Prod.ext_iff.2 (accWord_inj hq hr (Nat.add_left_cancel he))
  obtain ⟨p, ht⟩ := s.storeBlock_eq core tile f (lanesOf m)
  refine ⟨_, ht, rfl, fun i hi l hl => ?_, fun c u w hw hne hu htile => ?_⟩
  · split
    · next hb =>
      refine mget_foldl_mset_mem 0 (fun q : Nat × Nat => tileKey core tile (accWord q.1 q.2)) (fun q => f q.1 q.2) _ _ ?_ (i, l)
        (mem_accBlock.2 ⟨hi, mem_lanesOf.2 ⟨hl, hb⟩⟩)
      exact List.Nodup.map_on (fun q hq r hr he => hinj (hlane hq).2.1 (hlane hr).2.1 he) (nodup_accBlock (nodup_lanesOf _))
    · next hb =>
      refine mget_foldl_mset_other 0 _ _ _ _ fun q hq he => hb ?_
      obtain ⟨-, hq32, hqb⟩ := hlane hq
      have := hinj (r := (i, l)) hq32 hl he
      rwa [this] at hqb
  · refine mget_foldl_mset_other 0 _ _ _ _ fun q hq he => ?_
    obtain ⟨hq8, hq32, -⟩ := hlane hq
    have := accWord_lt hq8 hq32
    simp only [tileKey] at he
    omega

/-! ## ACC.ZERO -/

theorem State.mget_zeroTile (s : State) (core tile key : Nat) :
    mget 0 (s.zeroTile core tile).tiles key = if key / 256 = core * 2048 + tile then 0 else mget 0 s.tiles key := by
  refine (mget_filter_keys 0 (fun k => !decide (k / 256 = core * 2048 + tile)) key s.tiles).trans ?_
  by_cases h : key / 256 = core * 2048 + tile <;> simp [h]

/-- Tiles are zeroed one by one. -/
theorem State.zeroTiles_keys (s : State) (first : Nat) : ∀ n,
    ∃ t, (List.range n).foldl (fun t i => t.zeroTile t.cc (first + i)) s = t ∧ t = { s with tiles := t.tiles, poison := t.poison }
    ∧ ∀ key, mget 0 t.tiles key = if s.cc * 2048 + first ≤ key / 256 ∧ key / 256 < s.cc * 2048 + first + n then 0 else mget 0 s.tiles key
  | 0 => ⟨s, rfl, rfl, fun key => (if_neg (by omega)).symm⟩
  | n + 1 => by
    obtain ⟨t, hfold, ht, hk⟩ := State.zeroTiles_keys s first n
    have hcc : t.cc = s.cc := by
      rw [ht]
      rfl
    refine ⟨t.zeroTile s.cc (first + n), ?_, ?_, fun key => ?_⟩
    · rw [List.range_succ, List.foldl_append, hfold, List.foldl_cons, List.foldl_nil, hcc]
    · rw [ht]
      rfl
    · rw [State.mget_zeroTile, hk]
      split
      · next h => rw [if_pos (by omega)]
      · next h =>
        by_cases h' : s.cc * 2048 + first ≤ key / 256 ∧ key / 256 < s.cc * 2048 + first + n
        · rw [if_pos h', if_pos (by omega)]
        · rw [if_neg h', if_neg (by omega)]

/-- The tiles after ACC.ZERO. -/
theorem State.zeroTiles_reads (s : State) (tile n : Nat) :
    ∃ t, (List.range n).foldl (fun t i => t.zeroTile t.cc (tile + i)) s = t ∧ t = { s with tiles := t.tiles, poison := t.poison }
    ∧ (∀ i < n, ∀ w < 256, t.tileGet s.cc (tile + i) w = 0) ∧ (n = 0 → t = s)
    ∧ ∀ u w, w < 256 → (u < tile ∨ tile + n ≤ u) → u < 2048 → tile + n ≤ 2048 → t.tileGet s.cc u w = s.tileGet s.cc u w := by
  obtain ⟨t, hfold, ht, hk⟩ := s.zeroTiles_keys tile n
  refine ⟨t, hfold, ht, fun i hi w hw => ?_, fun hn => ?_, fun u w hw hu _ _ => ?_⟩
  · refine (hk _).trans (if_pos ?_)
    simp only [tileKey]
    omega
  · subst hn
    exact hfold.symm
  · refine (hk _).trans (if_neg ?_)
    simp only [tileKey]
    omega

/-! ## ACC.CVT (R199) -/

/-- Where row i of a conversion goes, as an address and as an offset in ABUF. -/
def cvtAddr (base pitch i : Nat) : Nat := (base + i * pitch) % 2 ^ 64
def cvtOffs (base pitch : Nat) : List Nat := (List.range 16).map fun i => cvtAddr base pitch i - abufBase

/-- A conversion that its checks let through writes every row. -/
theorem cvtRows_of_check {s : State} {base pitch tile : Nat} (h : s.cvtCheck base pitch tile = none) :
    (List.range 16).filterMap (s.cvtRow base pitch) = cvtOffs base pitch := by
  have hall : ∀ i ∈ List.range 16, s.cvtRow base pitch i = some (cvtAddr base pitch i - abufBase) := by
    intro i hi
    have hsome : (s.cvtRow base pitch i).isNone = false := by
      by_contra hn
      have hany : ((List.range 16).map (s.cvtRow base pitch)).any (fun r => r.isNone) = true :=
        List.any_eq_true.2 ⟨_, List.mem_map_of_mem hi, by simpa using hn⟩
      unfold State.cvtCheck at h
      dsimp only at h
      rw [hany] at h
      split at h
      · cases h
      · cases h
    unfold State.cvtRow at hsome ⊢
    dsimp only at hsome ⊢
    split
    · rfl
    · next hno =>
      rw [if_neg hno] at hsome
      cases hsome
  rw [List.filterMap_congr hall, List.filterMap_eq_map', cvtOffs]

theorem foldl_flatWrite_cc (n : Nat) (core : Nat) : ∀ (l : List (Nat × Nat × Flags)) {s : State}, s.cc = core →
    l.foldl (fun t p => t.flatWrite (.abuf t.cc p.1) n p.2.1) s = l.foldl (fun t p => t.flatWrite (.abuf core p.1) n p.2.1) s
  | [], _, _ => by rw [List.foldl_nil, List.foldl_nil]
  | p :: l, s, h => by
    have hcc : (s.flatWrite (.abuf core p.1) n p.2.1).cc = core := h
    rw [List.foldl_cons, List.foldl_cons, h]
    exact foldl_flatWrite_cc n core l hcc

section Cvt
variable {s : State} {e : Bool} {d a b : BitVec 5} (ha : s.acts)
include ha

theorem exec_accCvt_undef (hty : [1, 3, 6, 7, 8, 10, 11, 14].contains s.ty = false) : exec (.accCvt e d a b) s = .next s.undef := by
  change execAccCvt e d a b s = _
  rw [execAccCvt, issue_valid _ ha.1, hty]
  rfl

variable (hty : [1, 3, 6, 7, 8, 10, 11, 14].contains s.ty = true)
  (hf : s.free { ss := [d.toNat, a.toNat, b.toNat], sq := [gGuard s.me.gmode] }) (hg : s.guard s.cur ≠ 0)
include hty hf hg

theorem exec_accCvt_traps {c : Nat} (hc : s.cvtCheck (s.sget s.cur d.toNat).toNat (s.sget s.cur b.toNat).toNat (s.tileIn a) = some c) :
    exec (.accCvt e d a b) s = .next (s.trap s.cur (s.guardTrap c (s.guard s.cur))) := by
  change execAccCvt e d a b s = _
  rw [execAccCvt, issue_valid _ ha.1, hty]
  dsimp only
  rw [if_neg (by simp), if_neg (by simp [hc]), accForm_traps ha hf hg hc]

/-- The packed rows of a tile with their flags. -/
def State.cvtRows (s : State) (tile : Nat) : List (Nat × Flags) := (List.range 16).map (s.cvtWords tile)

/-- The rows of a tile written at offsets in ABUF, with the flags that they raise. -/
def State.convertTile (s : State) (tile : Nat) (offs : List Nat) : State :=
  ((offs.zip (s.cvtRows tile)).foldl (fun t p => t.flatWrite (.abuf t.cc p.1) (rowBytes s.ty) p.2.1) (s.correctTile s.cc tile)).orLanes
    (s.glanes s.cur) fun _ => (s.cvtRows tile).foldl (fun x r => x ||| r.2) (0 : Flags)

theorem exec_accCvt_acts (hc : s.cvtCheck (s.sget s.cur d.toNat).toNat (s.sget s.cur b.toNat).toNat (s.tileIn a) = none)
    (hh : ∀ o ∈ cvtOffs (s.sget s.cur d.toNat).toNat (s.sget s.cur b.toNat).toNat, s.abufHeld o (2 * elW s.ty) = false)
    (hb : s.tileBusy s.grp.team [s.tileIn a] = false) (ht : s.underTest s.cc 2 (256 * s.tileIn a) 256 = false) :
    exec (.accCvt e d a b) s =
      .next ((s.convertTile (s.tileIn a) (cvtOffs (s.sget s.cur d.toNat).toNat (s.sget s.cur b.toNat).toNat)).advance e) := by
  have hheld : ¬ (¬ s.inRegion = true ∧ s.guard s.cur ≠ 0 ∧ ¬ s.stalled s.cur { ss := [d.toNat, a.toNat, b.toNat] } = true
      ∧ (s.cvtCheck (s.sget s.cur d.toNat).toNat (s.sget s.cur b.toNat).toNat (s.tileIn a)).isNone = true
      ∧ (((List.range 16).filterMap (s.cvtRow (s.sget s.cur d.toNat).toNat (s.sget s.cur b.toNat).toNat)).any
          fun o => s.abufHeld o (rowBytes s.ty)) = true) := by
    rw [cvtRows_of_check hc, List.any_eq_true]
    rintro ⟨-, -, -, -, o, ho, hho⟩
    rw [rowBytes, hh o ho] at hho
    cases hho
  have hform := accForm_acts_tile (e := e) (u := { ss := [d.toNat, a.toNat, b.toNat] }) (first := fun s => s.tileIn a)
    (check := fun s => s.cvtCheck (s.sget s.cur d.toNat).toNat (s.sget s.cur b.toNat).toNat (s.tileIn a))
    (eff := fun s => s.convertTile (s.tileIn a) ((List.range 16).filterMap (s.cvtRow (s.sget s.cur d.toNat).toNat (s.sget s.cur b.toNat).toNat)))
    ha hf hg hc hb ht
  rw [cvtRows_of_check hc] at hform
  rw [← hform]
  change execAccCvt e d a b s = _
  rw [execAccCvt, issue_valid _ ha.1, hty]
  dsimp only
  rw [if_neg (by simp), if_neg hheld]
  rfl

end Cvt

/-! ## The forms (R198-R200) -/

section Forms
variable {s : State} {e : Bool} {k : BitVec 3} {a : BitVec 5} (hv : s.me.valid = true)
include hv

theorem exec_accLd : exec (.accLd e k a) s = .next (s.accForm e { ss := [a.toNat], dv := accRows k } (fun s => s.tileIn a) (fun _ => 1)
    (fun s => s.tileCheck (s.tileIn a)) fun s => (List.range 8).foldl (fun t i =>
      t.vsets t.cur (8 * k.toNat + i) (t.glanes t.cur) fun l => s.tileGet s.cc (s.tileIn a) (accWord i l)) (s.correctTile s.cc (s.tileIn a))) := by
  change execAccLd e k a s = _
  rw [execAccLd, issue_valid _ hv]

theorem exec_accSt : exec (.accSt e k a) s = .next (s.accForm e { ss := [a.toNat], sv := accRows k } (fun s => s.tileIn a) (fun _ => 1)
    (fun s => s.tileCheck (s.tileIn a)) fun s => (List.range 8).foldl (fun t i => (s.glanes s.cur).foldl (fun t l =>
      t.tileSet s.cc (s.tileIn a) (accWord i l) (s.vget s.cur (8 * k.toNat + i) l)) t) s) := by
  change execAccSt e k a s = _
  rw [execAccSt, issue_valid _ hv]

theorem exec_accZero : exec (.accZero e a) s = .next (s.accForm e { ss := [a.toNat] } (fun s => s.tileIn a)
    (fun s => field (s.sget s.cur a.toNat) 31 16)
    (fun s => if s.team.ownsTiles (s.tileIn a) (field (s.sget s.cur a.toNat) 31 16) then none else some cAccrange) fun s =>
      (List.range (field (s.sget s.cur a.toNat) 31 16)).foldl (fun t i => t.zeroTile t.cc (s.tileIn a + i)) s) := by
  change execAccZero e a s = _
  rw [execAccZero, issue_valid _ hv]

end Forms

section Acts
variable {s : State} {e : Bool} {k : BitVec 3} {a : BitVec 5} (ha : s.acts) (hg : s.guard s.cur ≠ 0)
include ha hg

section Block
variable (ho : s.team.ownsTiles (s.tileIn a) 1 = true) (hb : s.tileBusy s.grp.team [s.tileIn a] = false)
  (ht : s.underTest s.cc 2 (256 * s.tileIn a) 256 = false)
include ho hb ht

theorem exec_accLd_acts (hf : s.free { ss := [a.toNat], dv := accRows k, sq := [gGuard s.me.gmode] }) :
    exec (.accLd e k a) s = .next (((List.range 8).foldl (fun t i =>
      t.vsets t.cur (8 * k.toNat + i) (t.glanes t.cur) fun l => s.tileGet s.cc (s.tileIn a) (accWord i l))
        (s.correctTile s.cc (s.tileIn a))).advance e) :=
  (exec_accLd ha.1).trans (congrArg Host.Outcome.next (accForm_acts_tile ha hf hg (State.tileCheck_owned ho) hb ht))

theorem exec_accSt_acts (hf : s.free { ss := [a.toNat], sv := accRows k, sq := [gGuard s.me.gmode] }) :
    exec (.accSt e k a) s = .next (((List.range 8).foldl (fun t i => (s.glanes s.cur).foldl (fun t l =>
      t.tileSet s.cc (s.tileIn a) (accWord i l) (s.vget s.cur (8 * k.toNat + i) l)) t) s).advance e) :=
  (exec_accSt ha.1).trans (congrArg Host.Outcome.next (accForm_acts_tile ha hf hg (State.tileCheck_owned ho) hb ht))

end Block

theorem exec_accZero_acts (ho : s.team.ownsTiles (s.tileIn a) (field (s.sget s.cur a.toNat) 31 16) = true)
    (hb : s.tileBusy s.grp.team ((List.range (field (s.sget s.cur a.toNat) 31 16)).map fun i => s.tileIn a + i) = false)
    (ht : s.underTest s.cc 2 (256 * s.tileIn a) (256 * field (s.sget s.cur a.toNat) 31 16) = false)
    (hf : s.free { ss := [a.toNat], sq := [gGuard s.me.gmode] }) :
    exec (.accZero e a) s = .next (((List.range (field (s.sget s.cur a.toNat) 31 16)).foldl
      (fun t i => t.zeroTile t.cc (s.tileIn a + i)) s).advance e) :=
  (exec_accZero ha.1).trans (congrArg Host.Outcome.next (accForm_acts ha hf hg (if_pos ho) hb ht))

/-- Outside the allocation: ACCRANGE, of the guard lanes. -/
theorem accForm_foreign {u : Uses} {first n : State → Nat} {check : State → Option Nat} {eff : State → State}
    (hf : s.free { u with sq := [gGuard s.me.gmode] }) (hc : check s = some cAccrange) :
    s.accForm e u first n check eff =
      s.trap s.cur { s.uniTrap s.cur cAccrange with lmask := s.guard s.cur, pmask := s.guard s.cur } :=
  accForm_traps ha hf hg hc

end Acts

/-- The number of tiles that ACC.ZERO names. -/
theorem tiles_of_scalar (x : BitVec 64) : field x 31 16 = x.toNat / 65536 % 65536 := by
  simp only [field, Nat.shiftRight_eq_div_pow]
  rfl

/-- The rows of a conversion are written at the core where the tile is. -/
theorem State.convertTile_core (s : State) (core n : Nat) (offs : List Nat) (rows : List (Nat × Flags)) (hcc : s.cc = core) :
    (offs.zip rows).foldl (fun t p => t.flatWrite (.abuf t.cc p.1) n p.2.1) s =
      (offs.zip (rows.map Prod.fst)).foldl (fun t q => t.flatWrite (.abuf core q.1) n q.2) s := by
  rw [foldl_flatWrite_cc n core _ hcc, List.zip_map_right, List.foldl_map]
  rfl

theorem State.correctTile_cc (s : State) (core tile : Nat) : (s.correctTile core tile).cc = s.cc := by
  obtain ⟨so, di, fn, h⟩ := s.correctTile_eq core tile
  rw [h]
  rfl

section Converts
variable {s : State} {e : Bool} {d a b : BitVec 5} (ha : s.acts)
  (hty : [1, 3, 6, 7, 8, 10, 11, 14].contains s.ty = true)
  (hf : s.free { ss := [d.toNat, a.toNat, b.toNat], sq := [gGuard s.me.gmode] }) (hg : s.guard s.cur ≠ 0)
  (hc : s.cvtCheck (s.sget s.cur d.toNat).toNat (s.sget s.cur b.toNat).toNat (s.tileIn a) = none)
  (hh : ∀ o ∈ cvtOffs (s.sget s.cur d.toNat).toNat (s.sget s.cur b.toNat).toNat, s.abufHeld o (2 * elW s.ty) = false)
  (hb : s.tileBusy s.grp.team [s.tileIn a] = false) (ht : s.underTest s.cc 2 (256 * s.tileIn a) 256 = false)
include ha hty hf hg hc hh hb ht

/-- A conversion: its rows written in order, and the flags that they raise. -/
theorem exec_accCvt_converts :
    ∃ t : State, exec (.accCvt e d a b) s = .next ((t.orLanes (s.glanes s.cur) fun _ =>
        (List.range 16).foldl (fun x i => x ||| (s.cvtWords (s.tileIn a) i).2) 0).advance e)
      ∧ t = ((cvtOffs (s.sget s.cur d.toNat).toNat (s.sget s.cur b.toNat).toNat).zip
          ((List.range 16).map fun i => (s.cvtWords (s.tileIn a) i).1)).foldl
            (fun t q => t.flatWrite (.abuf s.cc q.1) (2 * elW s.ty) q.2) (s.correctTile s.cc (s.tileIn a)) := by
  refine ⟨_, (exec_accCvt_acts ha hty hf hg hc hh hb ht).trans ?_, rfl⟩
  rw [State.convertTile, State.convertTile_core _ s.cc _ _ _ (s.correctTile_cc s.cc (s.tileIn a)), State.cvtRows, List.map_map, List.foldl_map]
  rfl

end Converts

/-- Settles O27, form by form. -/
theorem accumulatorForms : Obligations.AccumulatorForms := by
  intro s e k d a b ha x tile n tm guard v owns rows word trap
  have hn : field (s.sget s.cur a.toNat) 31 16 = n := tiles_of_scalar _
  have howns : ∀ c, s.team.ownsTiles (s.tileIn a) c = true ↔ owns c := fun c => Team.ownsTiles_iff
  refine ⟨fun hg => ⟨fun hf => ?_, fun hf => ?_, fun hf => ?_⟩, fun hg ho => ⟨fun hf => ?_, fun hf => ?_⟩, fun hg ho hf => ?_,
    State.correctTile_clean, fun hg ho hb ht => ⟨fun hf => ?_, fun hf => ?_⟩, fun hg ho hb ht hf => ?_, exec_accCvt_undef ha,
    fun hty hf hg => ⟨fun c hc => exec_accCvt_traps ha hty hf hg hc,
      fun hc hh hb ht => exec_accCvt_converts ha hty hf hg hc hh hb ht⟩⟩
  · exact (exec_accLd ha.1).trans (congrArg Host.Outcome.next (accForm_no_lane ha hf hg))
  · exact (exec_accSt ha.1).trans (congrArg Host.Outcome.next (accForm_no_lane ha hf hg))
  · exact (exec_accZero ha.1).trans (congrArg Host.Outcome.next (accForm_no_lane ha hf hg))
  · exact (exec_accLd ha.1).trans (congrArg Host.Outcome.next (accForm_foreign ha hg hf (State.tileCheck_foreign (mt (howns 1).1 ho))))
  · exact (exec_accSt ha.1).trans (congrArg Host.Outcome.next (accForm_foreign ha hg hf (State.tileCheck_foreign (mt (howns 1).1 ho))))
  · exact (exec_accZero ha.1).trans (congrArg Host.Outcome.next
      (accForm_foreign ha hg hf (if_neg (hn ▸ mt (howns n).1 ho))))
  · obtain ⟨t, hfold, hload⟩ := s.loadBlock_corrected s.cc (s.tileIn a) k.toNat fun i l => s.tileGet s.cc (s.tileIn a) (accWord i l)
    exact ⟨t, (exec_accLd_acts ha hg ((howns 1).2 ho) hb ht hf).trans (congrArg (fun u : State => Host.Outcome.next (u.advance e)) hfold), hload⟩
  · obtain ⟨t, hfold, hstore⟩ := s.storeBlock_reads s.cc (s.tileIn a) (fun i l => s.vget s.cur (8 * k.toNat + i) l) (s.guard s.cur)
    exact ⟨t, (exec_accSt_acts ha hg ((howns 1).2 ho) hb ht hf).trans (congrArg (fun u : State => Host.Outcome.next (u.advance e)) hfold), hstore⟩
  · obtain ⟨t, hfold, hzero⟩ := s.zeroTiles_reads (s.tileIn a) n
    refine ⟨t, ?_, hzero⟩
    rw [exec_accZero_acts ha hg (by rw [hn]; exact (howns n).2 ho) (by rw [hn]; exact hb) (by rw [hn]; exact ht) hf, hn, hfold]

end Sys2Proof.Machine
end

section
/-! PROOF of O28, refuted: what forms do in an open region fails for a record past a limit that the statement does not name. A record
with more than 24 vector registers ends the region at its next form (R208: CAP, detail 4). No run leaves such a record, and no hypothesis
of the statement keeps it out. -/
namespace Sys2Proof.Machine

set_option Elab.async false

/-- The record of a region that has written 25 vector registers. -/
def overfullRecord : Region :=
  { target := 0, s := 0, gmode := 0, cwp := 0, resident := 1, depth := 1, ser := false, wroteV := List.range 25 }

/-- A split in such a region. -/
def overfull : State := (State.reset.setSp State.reset.cur { valid := true, mode := .region }).setRegion State.reset.cur (some overfullRecord)

theorem overfull_inside : overfull.me.valid = true ∧ overfull.me.mode = .region ∧ overfull.region overfull.cur = some overfullRecord := by
  decide +kernel

/-- FENCE, which does nothing in a region, takes the split out of this one. -/
theorem exec_fence_overfull : ∃ t, exec (.fence false 0 0) overfull = .next t ∧ t.me.mode = .normal := ⟨_, rfl, by decide +kernel⟩

theorem State.mode_advance (s : State) (e : Bool) : (s.advance e).me.mode = s.me.mode := by
  rw [s.me_advance, Split.pastBy_kept]

/-- Refutes O28: in a region whose record names 25 vector registers, FENCE does not move on but aborts, and its split is in no region. -/
theorem not_regionForms : ¬ Obligations.RegionForms := by
  rintro ⟨-, hinside⟩
  obtain ⟨hvalid, hmode, hregion⟩ := overfull_inside
  obtain ⟨-, ⟨t, ht, hfence, -⟩, -⟩ := hinside overfull overfull false 0 0 0 _ {} 0 0 0 hvalid hmode hregion (by decide)
  obtain ⟨u, hrun, hnormal⟩ := exec_fence_overfull
  have hstays : t.me.mode = .region := by
    rw [ht]
    exact hmode
  rw [hrun] at hfence
  injection hfence with hu
  rw [hu, State.mode_advance, hstays] at hnormal
  cases hnormal

end Sys2Proof.Machine
end
